-- ==== Sys2Proof/Word.lean ====
section
/-! DEFINITION. The word types of the NBS-4800 and their plainest arithmetic (spec 00 R2, R4, R5). -/

namespace Sys2Proof

abbrev Byte := BitVec 8
abbrev Word32 := BitVec 32
abbrev Word64 := BitVec 64
/-- The payload of a token: 512 bits (R10). A scalar stands in bits 63:0. -/
abbrev Payload := BitVec 512

/-- Bits `lo + n - 1 : lo` of a number (R5, bit slices). -/
def bitsOf (x lo n : Nat) : Nat := x / 2 ^ lo % 2 ^ n

/-- The two's-complement reading of the low `n` bits of a number. -/
def signedOf (n x : Nat) : Int :=
  if x % 2 ^ n < 2 ^ (n - 1) then (x % 2 ^ n : Nat) else (x % 2 ^ n : Nat) - (2 ^ n : Nat)

/-- The least number at or above `x / d`. -/
def ceilDiv (x d : Nat) : Nat := (x + d - 1) / d

end Sys2Proof
end

