-- ==== Sys2Proof/Syntax.lean ====
section
/-! DEFINITION. The instruction set: operand types of the four formats (spec 02 R37 to R46) and the one inductive `Instr`. -/

namespace Sys2Proof

/-- Integer width (R93). -/
inductive Width where
  | w64 | w32 | w16 | w8
  deriving DecidableEq, Repr

/-- Gate mode GT (R38): no gate, fire on true, fire on false, ordering arc. -/
inductive Gate where
  | none | onTrue | onFalse | arc
  deriving DecidableEq, Repr

/-- Operand slots (R10). -/
inductive Slot where
  | a | b | g
  deriving DecidableEq, Repr

/-- A target field (R39): nothing, or a slot of an instruction of the block. -/
inductive Target where
  | none
  | slot (s : Slot) (i : BitVec 7)
  deriving DecidableEq, Repr

/-- Address spaces SP (R40, R104). -/
inductive Space where
  | core | clus | die | main | host | peer | param
  deriving DecidableEq, Repr

/-- Access widths WD (R40). -/
inductive MWidth where
  | w8 | w16 | w32 | w64 | v512 | v256
  deriving DecidableEq, Repr

/-- Atomic operations AOP (R45, R119). -/
inductive AtomOp where
  | add | esum | and | or | xor | min | max | minn | maxn | fmin | fmax | swap
  deriving DecidableEq, Repr

/-- Element formats of majors 0x28 to 0x2A and 0x2C (R45). -/
inductive Fmt where
  | f32 | bf16 | f16
  deriving DecidableEq, Repr

/-- Rounding modes (R144): nearest even, toward zero, up, down. -/
inductive Rm where
  | rne | rz | ru | rd
  deriving DecidableEq, Repr

/-- Conditions of `vcmp` (R162). -/
inductive VCond where
  | eq | lt | le | un
  deriving DecidableEq, Repr

/-- The system registers that `rdsr` and `wrsr` name (R27, R46). -/
inductive SysReg where
  | ctxid | status | flags | mode | accmap | tagnest | handler | faultptr | rspill | rsdepth
  | dropcnt | tilefull | tilepart | tileempty | steptmo | redtmo | cycle | perfsel
  | rndkey (n : BitVec 2) | rndclo (n : BitVec 2) | rndchi (n : BitVec 2)
  deriving DecidableEq, Repr

/-- The fields of a weight block's header other than TYPE, WOP and HCHK (R265 to R268). -/
structure WBlock where
  fmt   : BitVec 4
  flags : BitVec 4
  plen  : BitVec 16
  route : Word32
  link  : Word64
  aux   : BitVec 256
  deriving DecidableEq, Repr

/-- What a peer device asks of this one (R402, R403): a read, a write, an atomic, or a `cas`, whose data holds the expected and then the new value (R119, R123). -/
inductive PeerKind where
  | read (n : Nat)
  | write (bytes : List Byte)
  | atom (op : AtomOp) (wd : MWidth) (data : Payload)
  | cas (wd : MWidth) (data : Payload)
  deriving DecidableEq, Repr

/-- One peer access as it arrives: its source pair, its device virtual address here, and what it asks. -/
structure PeerReq where
  srcDev  : Nat
  srcPart : Nat
  va      : Word64
  kind    : PeerKind
  deriving DecidableEq, Repr


/-- Every row of spec/opcode_table.json: 220 instructions with a word, 7 weight blocks, and 67 events of the device and of
its surroundings (95: the table lists the part's steps, each whole and indivisible). -/
inductive Instr where
  -- Control transfer, R72, R261
  | br (g : Gate) (off : BitVec 24)
  | call (g : Gate) (off : BitVec 24)
  | wdrive (g : Gate) (off : BitVec 24)
  | brn (g : Gate)
  | brnDec (g : Gate)
  | bri (g : Gate)
  | calli (g : Gate)
  | ret (g : Gate)
  | iter (g : Gate) (t0 t1 : Target)
  | halt (g : Gate)
  -- Tokens and constants, R76 to R79
  | mov (g : Gate) (t0 t1 : Target)
  | null (g : Gate) (t0 t1 : Target)
  | steer (t0 t1 : Target)
  | select (t0 t1 : Target)
  | merge (t0 t1 : Target)
  | join (g : Gate) (n : BitVec 7) (t0 : Target)
  | joinOr (g : Gate) (n : BitVec 7) (t0 : Target)
  | ctl (g : Gate) (t0 t1 : Target)
  | ctlNz (g : Gate) (t0 t1 : Target)
  | movi (g : Gate) (v : BitVec 10) (t0 : Target)
  | lit (g : Gate) (j : BitVec 7) (t0 : Target)
  -- Global registers and tags, R80, R81
  | read (g : Gate) (r : BitVec 6) (t0 : Target)
  | readT (g : Gate) (r : BitVec 6) (t0 : Target)
  | write (g : Gate) (r : BitVec 6)
  | itag (g : Gate) (l : BitVec 3) (t0 : Target)
  | nest (g : Gate) (c : BitVec 3)
  | unnest (g : Gate)
  -- Resident configurations, R82, R83
  | cfgld (g : Gate) (t0 : Target)
  | decide (g : Gate) (t0 t1 : Target)
  | decideRgn (g : Gate) (t0 t1 : Target)
  -- Two-operand integer, R95 to R97
  | add (w : Width) (g : Gate) (t0 t1 : Target)
  | sub (w : Width) (g : Gate) (t0 t1 : Target)
  | mul (w : Width) (g : Gate) (t0 t1 : Target)
  | mulh (w : Width) (g : Gate) (t0 t1 : Target)
  | mulhn (w : Width) (g : Gate) (t0 t1 : Target)
  | div (w : Width) (g : Gate) (t0 t1 : Target)
  | divn (w : Width) (g : Gate) (t0 t1 : Target)
  | rem (w : Width) (g : Gate) (t0 t1 : Target)
  | remn (w : Width) (g : Gate) (t0 t1 : Target)
  | and (w : Width) (g : Gate) (t0 t1 : Target)
  | or (w : Width) (g : Gate) (t0 t1 : Target)
  | xor (w : Width) (g : Gate) (t0 t1 : Target)
  | andn (w : Width) (g : Gate) (t0 t1 : Target)
  | shl (w : Width) (g : Gate) (t0 t1 : Target)
  | shr (w : Width) (g : Gate) (t0 t1 : Target)
  | sra (w : Width) (g : Gate) (t0 t1 : Target)
  | rotl (w : Width) (g : Gate) (t0 t1 : Target)
  | min (w : Width) (g : Gate) (t0 t1 : Target)
  | max (w : Width) (g : Gate) (t0 t1 : Target)
  | minn (w : Width) (g : Gate) (t0 t1 : Target)
  | maxn (w : Width) (g : Gate) (t0 t1 : Target)
  -- One-operand integer, bit fields, lea, comparisons, R98 to R101
  | clz (w : Width) (g : Gate) (t0 t1 : Target)
  | ctz (w : Width) (g : Gate) (t0 t1 : Target)
  | popc (w : Width) (g : Gate) (t0 t1 : Target)
  | sext (w : Width) (g : Gate) (t0 t1 : Target)
  | zext (w : Width) (g : Gate) (t0 t1 : Target)
  | bfx (w : Width) (g : Gate) (p : BitVec 6) (t0 : Target)
  | bfi (w : Width) (g : Gate) (p : BitVec 6) (t0 : Target)
  | lea (g : Gate) (sh : BitVec 3) (t0 : Target)
  | cmpEq (w : Width) (g : Gate) (t0 t1 : Target)
  | cmpNe (w : Width) (g : Gate) (t0 t1 : Target)
  | cmpLt (w : Width) (g : Gate) (t0 t1 : Target)
  | cmpLe (w : Width) (g : Gate) (t0 t1 : Target)
  | cmpLtn (w : Width) (g : Gate) (t0 t1 : Target)
  | cmpLen (w : Width) (g : Gate) (t0 t1 : Target)
  -- Immediate integer, R102
  | addi (w : Width) (g : Gate) (v : BitVec 10) (t0 : Target)
  | andi (w : Width) (g : Gate) (v : BitVec 10) (t0 : Target)
  | ori (w : Width) (g : Gate) (v : BitVec 10) (t0 : Target)
  | xori (w : Width) (g : Gate) (v : BitVec 10) (t0 : Target)
  | shli (w : Width) (g : Gate) (v : BitVec 10) (t0 : Target)
  | shri (w : Width) (g : Gate) (v : BitVec 10) (t0 : Target)
  | srai (w : Width) (g : Gate) (v : BitVec 10) (t0 : Target)
  | muli (w : Width) (g : Gate) (v : BitVec 10) (t0 : Target)
  | cmpiEq (w : Width) (g : Gate) (v : BitVec 10) (t0 : Target)
  | cmpiNe (w : Width) (g : Gate) (v : BitVec 10) (t0 : Target)
  | cmpiLt (w : Width) (g : Gate) (v : BitVec 10) (t0 : Target)
  | cmpiLe (w : Width) (g : Gate) (v : BitVec 10) (t0 : Target)
  | cmpiLtn (w : Width) (g : Gate) (v : BitVec 10) (t0 : Target)
  | cmpiLen (w : Width) (g : Gate) (v : BitVec 10) (t0 : Target)
  -- Loads, stores, granules, R112 to R115
  | ld (sp : Space) (wd : MWidth) (g : Gate) (off : BitVec 7) (t0 : Target)
  | ldWait (sp : Space) (wd : MWidth) (g : Gate) (off : BitVec 7) (t0 : Target)
  | ldTake (sp : Space) (wd : MWidth) (g : Gate) (off : BitVec 7) (t0 : Target)
  | lds (sp : Space) (wd : MWidth) (fe : BitVec 2) (g : Gate) (off : BitVec 7) (t0 : Target)
  | ldRaw (sp : Space) (wd : MWidth) (fe : BitVec 2) (g : Gate) (off : BitVec 7) (t0 : Target)
  | st (sp : Space) (wd : MWidth) (g : Gate) (off : BitVec 7) (t0 : Target)
  | fill (sp : Space) (wd : MWidth) (g : Gate) (off : BitVec 7) (t0 : Target)
  | empty (sp : Space) (wd : MWidth) (g : Gate) (off : BitVec 7) (t0 : Target)
  | wcvLoad (sp : Space) (wd : MWidth) (g : Gate) (off : BitVec 7) (t0 : Target)
  | wcvStore (sp : Space) (wd : MWidth) (g : Gate) (off : BitVec 7)
  -- Atomics, R119 to R123
  | atomAdd (sp : Space) (wd : MWidth) (g : Gate) (t0 : Target)
  | atomEsum (sp : Space) (wd : MWidth) (g : Gate) (t0 : Target)
  | atomAnd (sp : Space) (wd : MWidth) (g : Gate) (t0 : Target)
  | atomOr (sp : Space) (wd : MWidth) (g : Gate) (t0 : Target)
  | atomXor (sp : Space) (wd : MWidth) (g : Gate) (t0 : Target)
  | atomMin (sp : Space) (wd : MWidth) (g : Gate) (t0 : Target)
  | atomMax (sp : Space) (wd : MWidth) (g : Gate) (t0 : Target)
  | atomMinn (sp : Space) (wd : MWidth) (g : Gate) (t0 : Target)
  | atomMaxn (sp : Space) (wd : MWidth) (g : Gate) (t0 : Target)
  | atomFmin (sp : Space) (wd : MWidth) (g : Gate) (t0 : Target)
  | atomFmax (sp : Space) (wd : MWidth) (g : Gate) (t0 : Target)
  | atomSwap (sp : Space) (wd : MWidth) (g : Gate) (t0 : Target)
  | cas (sp : Space) (wd : MWidth) (g : Gate) (t0 : Target)
  -- Synchronisation, R126, R129, R132, R133
  | step (g : Gate) (n : BitVec 6)
  | barr (g : Gate) (n : BitVec 5)
  | bwait (g : Gate) (n : BitVec 5) (t0 : Target)
  | fenceCore (g : Gate) (t0 : Target)
  | fenceClus (g : Gate) (t0 : Target)
  | fenceDie (g : Gate) (t0 : Target)
  | fencePkg (g : Gate) (t0 : Target)
  | fenceSys (g : Gate) (t0 : Target)
  -- Combining and reduction, R125, R135
  | combAdd (g : Gate) (v : Bool) (n : BitVec 7) (t0 : Target)
  | combMin (g : Gate) (v : Bool) (n : BitVec 7) (t0 : Target)
  | combMax (g : Gate) (v : Bool) (n : BitVec 7) (t0 : Target)
  | combMinn (g : Gate) (v : Bool) (n : BitVec 7) (t0 : Target)
  | combMaxn (g : Gate) (v : Bool) (n : BitVec 7) (t0 : Target)
  | combAnd (g : Gate) (v : Bool) (n : BitVec 7) (t0 : Target)
  | combOr (g : Gate) (v : Bool) (n : BitVec 7) (t0 : Target)
  | combXor (g : Gate) (v : Bool) (n : BitVec 7) (t0 : Target)
  | combFadd (g : Gate) (v : Bool) (n : BitVec 7) (t0 : Target)
  | combFmin (g : Gate) (v : Bool) (n : BitVec 7) (t0 : Target)
  | combFmax (g : Gate) (v : Bool) (n : BitVec 7) (t0 : Target)
  | redF32 (g : Gate) (t : BitVec 6)
  | redXs (g : Gate) (t : BitVec 6)
  -- Vector arithmetic, R158 to R162
  | vadd (f : Fmt) (rm : Rm) (g : Gate) (t0 t1 : Target)
  | vsub (f : Fmt) (rm : Rm) (g : Gate) (t0 t1 : Target)
  | vmul (f : Fmt) (rm : Rm) (g : Gate) (t0 t1 : Target)
  | vfma (f : Fmt) (rm : Rm) (t0 t1 : Target)
  | vfms (f : Fmt) (rm : Rm) (t0 t1 : Target)
  | vmax (f : Fmt) (g : Gate) (t0 t1 : Target)
  | vmin (f : Fmt) (g : Gate) (t0 t1 : Target)
  | vabs (f : Fmt) (g : Gate) (t0 t1 : Target)
  | vneg (f : Fmt) (g : Gate) (t0 t1 : Target)
  | vrcp (f : Fmt) (rm : Rm) (g : Gate) (t0 t1 : Target)
  | vrsq (f : Fmt) (rm : Rm) (g : Gate) (t0 t1 : Target)
  | vsqrt (f : Fmt) (rm : Rm) (g : Gate) (t0 t1 : Target)
  | vexp2 (f : Fmt) (rm : Rm) (g : Gate) (t0 t1 : Target)
  | vlog2 (f : Fmt) (rm : Rm) (g : Gate) (t0 t1 : Target)
  | vtanh (f : Fmt) (rm : Rm) (g : Gate) (t0 t1 : Target)
  | vcmp (f : Fmt) (c : VCond) (g : Gate) (t0 t1 : Target)
  -- Lane movement, R163
  | vsel (t0 t1 : Target)
  | vbcastW32 (g : Gate) (t0 t1 : Target)
  | vbcastW16 (g : Gate) (t0 t1 : Target)
  | vbcastW8 (g : Gate) (t0 t1 : Target)
  | vpermW32 (g : Gate) (t0 t1 : Target)
  | vpermW16 (g : Gate) (t0 t1 : Target)
  | vpermW8 (g : Gate) (t0 t1 : Target)
  | vextrW32 (g : Gate) (l : BitVec 6) (t0 : Target)
  | vextrW16 (g : Gate) (l : BitVec 6) (t0 : Target)
  | vextrW8 (g : Gate) (l : BitVec 6) (t0 : Target)
  | vinsW32 (g : Gate) (l : BitVec 6) (t0 : Target)
  | vinsW16 (g : Gate) (l : BitVec 6) (t0 : Target)
  | vinsW8 (g : Gate) (l : BitVec 6) (t0 : Target)
  -- Reductions, exponents, scales, R164 to R167
  | vrsum (f : Fmt) (g : Gate) (t0 t1 : Target)
  | vrmax (f : Fmt) (g : Gate) (t0 t1 : Target)
  | vrmin (f : Fmt) (g : Gate) (t0 t1 : Target)
  | vamax (f : Fmt) (g : Gate) (t0 t1 : Target)
  | vexpo (f : Fmt) (g : Gate) (t0 t1 : Target)
  | vexpoSc (f : Fmt) (g : Gate) (t0 t1 : Target)
  | vldexp (f : Fmt) (g : Gate) (t0 t1 : Target)
  -- Conversion, R168
  | vcvt (g : Gate) (dst src : BitVec 3) (ovf : BitVec 2) (rm : Rm) (t0 : Target)
  -- Scales, packing, R171 to R173
  | vscale (g : Gate) (e : Bool) (t0 t1 : Target)
  | sacc (e : Bool) (t0 t1 : Target)
  | vpack (g : Gate) (k : BitVec 3) (t0 : Target)
  | vunpackLo (g : Gate) (src : BitVec 4) (t0 : Target)
  | vunpackHi (g : Gate) (src : BitVec 4) (t0 : Target)
  -- Exact sums, R174 to R177
  | eaddF32 (g : Gate) (n : BitVec 3) (t0 : Target)
  | eaddBf16 (g : Gate) (n : BitVec 3) (t0 : Target)
  | eroundF32 (g : Gate) (n : BitVec 3) (t0 : Target)
  | eroundBf16 (g : Gate) (n : BitVec 3) (t0 : Target)
  | eclr (g : Gate) (n : BitVec 3)
  -- Matrix, R187, R194, R195
  | mma (acc : BitVec 2) (f : BitVec 2) (g : Gate) (t0 t1 : Target)
  | mmaG (acc : BitVec 2) (f : BitVec 2) (t0 t1 : Target)
  | mmaCb (acc : BitVec 2) (g : Gate) (t0 t1 : Target)
  | accclr (acc : BitVec 2) (g : Gate) (t0 : Target)
  | accrd (acc : BitVec 2) (g : Gate) (t0 t1 : Target)
  | accrdSt (acc : BitVec 2) (g : Gate) (t0 : Target)
  | accwr (acc : BitVec 2) (g : Gate) (t0 : Target)
  | tdset (g : Gate) (fld : BitVec 6) (m : BitVec 4)
  -- Streamer, R196 to R202, R212, R213
  | copy (g : Gate) (t0 t1 : Target)
  | copyMc (g : Gate) (t0 t1 : Target)
  | stage (g : Gate)
  | xform (g : Gate) (t0 : Target)
  | fprint (g : Gate) (core : Bool) (t0 t1 : Target)
  | dedup (g : Gate) (t0 : Target)
  -- Gather, scatter, attention, R204, R206, R208
  | gatherRows (g : Gate) (t0 t1 : Target)
  | gatherSum (g : Gate) (t0 t1 : Target)
  | gatherMean (g : Gate) (t0 t1 : Target)
  | gatherWsum (g : Gate) (t0 t1 : Target)
  | scatterAdd (g : Gate) (t0 t1 : Target)
  | scatterMax (g : Gate) (t0 t1 : Target)
  | scatterMin (g : Gate) (t0 t1 : Target)
  | scatterOvw (g : Gate) (t0 t1 : Target)
  | attn (g : Gate) (t0 t1 : Target)
  -- Random, R210, R211
  | randN64 (n : BitVec 2) (g : Gate) (v : Bool) (t0 t1 : Target)
  | randF32 (n : BitVec 2) (g : Gate) (v : Bool) (t0 t1 : Target)
  | rskip (n : BitVec 2) (g : Gate) (t0 : Target)
  -- Tasks and frames, R214 to R216
  | spawn (g : Gate)
  | alloc (g : Gate) (t0 : Target)
  | free (g : Gate)
  -- Soft tokens, R224
  | stopk (g : Gate) (n : BitVec 4) (t0 : Target)
  | smix (g : Gate) (n : BitVec 4) (t0 : Target)
  | shid (g : Gate) (n : BitVec 4) (t0 : Target)
  | semb (g : Gate) (n : BitVec 4) (t0 : Target)
  | sembProj (g : Gate) (n : BitVec 4) (t0 : Target)
  | scollArgmax (g : Gate) (n : BitVec 4) (t0 : Target)
  | scollSample (g : Gate) (m : BitVec 2) (n : BitVec 4) (t0 : Target)
  | scollConf (g : Gate) (n : BitVec 4) (t0 : Target)
  | slog (g : Gate) (r : BitVec 6) (n : BitVec 4) (t0 : Target)
  | scmp (g : Gate) (t0 : Target)
  | srpl (g : Gate) (n : BitVec 4) (t0 : Target)
  | sget (g : Gate) (fld : BitVec 3) (n : BitVec 4) (t0 : Target)
  -- System, R378
  | nop (g : Gate) (t0 : Target)
  | trap (g : Gate) (c : BitVec 8) (t0 : Target)
  | brk (g : Gate) (c : BitVec 8) (t0 : Target)
  | rdsr (g : Gate) (r : SysReg) (t0 : Target)
  | wrsr (g : Gate) (r : SysReg)
  | flags (g : Gate) (m : BitVec 7) (t0 : Target)
  | perf (g : Gate) (t0 : Target)
  | safe (g : Gate) (t0 : Target)
  | fixreq (g : Gate) (t0 : Target)
  -- Weight blocks, R266 (they stand in main memory as 64-byte headers)
  | wMac (h : WBlock)
  | wCb (h : WBlock)
  | wO4 (h : WBlock)
  | wBook (h : WBlock)
  | wSwitch (h : WBlock)
  | wEmit (h : WBlock)
  | wExit (h : WBlock)
  -- Events of a context (c is the context number, core * 4 + context), R63 to R134, R372, R373
  | instanceBegin (c : Nat)
  | instanceCommit (c : Nat)
  | decisionArrive (c : Nat)
  | stepSwap (part sg : Nat)
  | stepTimeout (part sg : Nat)
  | barrierTimeout (clus b : Nat)
  | bufferedAccessPerform (c k : Nat)
  | granuleWaitTimeout (k : Nat)
  | syncFaultDelivery (c : Nat)
  | asyncDeliveryTimeout (c : Nat)
  -- Events of engines, R183 to R264
  | matrixTileStep (core acc : Nat)
  | engineCompletion (k : Nat)
  | attnAccept (k : Nat)
  | attnUnit (k : Nat)
  | attnResultWrite (k : Nat)
  | driveExit (c : Nat)
  -- Events of reduction trees and the fabric, R334, R345, R347
  | redNodeCombine (k node : Nat)
  | redNodeTimeout (k node : Nat)
  | overflowTokenReturn (core : Nat)
  -- Events of translation, R315 to R331
  | parkresReplay (die e : Nat)
  | parkresFail (die e : Nat)
  | parkTimeout (die e : Nat)
  | tinvPage (die asid sz : Nat)
  | tinvAsid (die asid : Nat)
  | tinvAll (die : Nat)
  | slabMoveStart (die n : Nat) (v : Word64)
  | slabMoveUnit (die n : Nat)
  | fwdDisable (die n : Nat)
  | homeUnitBatch (frame : Nat)
  -- Events of the memories, R291, R307 to R310
  | rowMigration (part table row : Nat) (src dst : Word64) (len : Nat)
  | codeTableInstall (die : Nat)
  | cmpRelearn (die : Nat)
  | cmpGenFree (die : Nat)
  | patrolScrub (frame : Nat) (uncorrectable : Bool)
  -- Counters, the fix, power, R390, R391, R411
  | evcntThreshold (k : Nat)
  | fixGo (v : Word64)
  | fixCont
  | fixKill
  | fixReadoutDone
  | thermalThrottle
  | thermalFix
  | powerThrottle
  -- Pre-emption, R381 to R389
  | prectlDrain (part : Nat) (v : Word64)
  | drainComplete (part : Nat)
  | drainTimeout (part : Nat)
  | prectlFreeze (part : Nat) (v : Word64)
  | prectlRestore (part : Nat) (v : Word64)
  -- Partitions and queues, R288, R349 to R351, R399, R400
  | partclWrite (die k : Nat) (v : Word64)
  | qgpartWrite (q : Nat) (v : Word64)
  | dswinWrite (die part : Nat) (v : Word64)
  | fdispWrite (die part : Nat) (v : Word64)
  | qtailWrite (q : Nat) (v : Word64)
  | qctlWrite (q : Nat) (v : Word64)
  | launchRecordRead (q : Nat)
  -- The graph engine, R361 to R364
  | nodePlace (part : Nat)
  | readyPriorityPromote (l node : Nat)
  | nodeDispatch (l node : Nat)
  | nodeEnd (l node : Nat)
  -- The host, peers, firmware, R377, R394 to R410
  /-- The host writes: its own memory (`own`), or package memory at a physical address through the MEM window (R394). -/
  | hostMemWrite (own : Bool) (pa : Nat) (bytes : List Byte)
  /-- The host reads: below 2^40 the MEM window, from 2^40 the die control blocks, 2^21 bytes to a die, from 2^40 + 2^23 the MSG window (R394, R395, R409). -/
  | hostMemRead (pa : Nat)
  | peerAccess (a : PeerReq)
  | rcvgo
  | attgo
  | powerGood
  | packageReset
  /-- A write of a register that has no row of its own: of a die's control block, or with `die` 4 of the MSG window (R395, R409). -/
  | regWrite (die off : Nat) (v : Word64)
  | firmwarePolicyResume (c : Nat) (resume : Bool)
  deriving DecidableEq, Repr

end Sys2Proof
end

