-- ==== Sys2Proof/WellFormed.lean ====
section
/-! DEFINITION. Which instructions an encoding may carry: the checks of R47, R103, R136, R163, R169, R178, R195, R217, R238 and R379 on an
instruction word by itself, each with its verify code, and those of R266 to R268 on a weight block's header. -/

namespace Sys2Proof

/-- Bytes of an access width (R40). -/
def MWidth.bytes : MWidth → Nat
  | .w8 => 1
  | .w16 => 2
  | .w32 => 4
  | .w64 => 8
  | .v512 => 64
  | .v256 => 32

/-- Bits of an integer width (R93). -/
def Width.bits : Width → Nat
  | .w64 => 64
  | .w32 => 32
  | .w16 => 16
  | .w8 => 8

/-- The spaces whose granules carry full/empty bits (R41, R104). -/
def Space.granular : Space → Bool
  | .core | .clus | .die => true
  | .main | .host | .peer | .param => false

/-- A vector access. -/
def MWidth.isVector : MWidth → Bool
  | .v512 | .v256 => true
  | .w8 | .w16 | .w32 | .w64 => false

/-- `bad` gives verify code `code`; code 0 is none. -/
def failIf (bad : Bool) (code : Nat) : Nat := if bad then code else 0

/-- The first code that is not 0. -/
def firstCode (a b : Nat) : Nat := if a = 0 then b else a

/-- R41: a waiting form only where granules are, and no FE 3. -/
def feCode (sp : Space) (fe : BitVec 2) : Nat := failIf (fe == 3 || (fe != 0 && !sp.granular)) 0x03

/-- R119: the rows of integer operations. -/
def atomIntCode (sp : Space) (wd : MWidth) : Nat :=
  failIf (!(wd == .w32 || wd == .w64) || sp == .param || (sp == .host && wd != .w64)) 0x12

/-- R119: the rows of esum, fmin and fmax. -/
def atomDevCode (sp : Space) (ok : Bool) : Nat := failIf (!ok || sp == .param || sp == .host) 0x12

/-- R163: the element index is below the element count. -/
def laneCode (w : Nat) (l : BitVec 6) : Nat := failIf (512 / w ≤ l.toNat) 0x01

/-- R169: the conversion pairs; `none` for an unlisted pair, `some true` for an exact one. -/
def vcvtKind (dst src : BitVec 3) : Option Bool :=
  match dst.toNat, src.toNat with
  | 0, 1 | 0, 2 | 0, 3 | 0, 4 | 0, 5 => some true
  | 0, 6 => some false
  | 1, 0 | 1, 2 => some false
  | 1, 3 | 1, 4 | 1, 5 => some true
  | 2, 0 | 2, 1 => some false
  | 2, 3 | 2, 4 => some true
  | 3, 0 | 3, 1 | 3, 2 | 3, 4 => some false
  | 4, 0 | 4, 1 | 4, 2 | 4, 3 => some false
  | 6, 0 => some false
  | _, _ => none

/-- R46, R169. -/
def vcvtCode (dst src : BitVec 3) (ovf : BitVec 2) (rm : Rm) : Nat :=
  match vcvtKind dst src with
  | none => 0x02
  | some exact => failIf (ovf == 3 || (exact && (ovf != 0 || rm != .rne)) || (dst == 6 && ovf != 0)) 0x02

/-- The check of R266 on FMT, WFLAGS and PLEN, and of R267 and R268 on ROUTE and LINK, for one weight operation. -/
def WBlock.wellFormed (fmts : List (BitVec 4)) (flagMask : BitVec 4) (plen : Nat → Bool) (route : Word32 → Bool)
    (kinds : List (BitVec 2)) (h : WBlock) : Bool :=
  fmts.contains h.fmt && (h.flags &&& ~~~flagMask == 0) && !(h.flags &&& 3 == 3) && plen h.plen.toNat && route h.route
    && kinds.contains (h.link.extractLsb' 62 2)
    && (match (h.link.extractLsb' 62 2).toNat with
        | 1 => h.link.extractLsb' 56 6 == 0 && h.link.extractLsb' 0 6 == 0
        | 2 => h.link.extractLsb' 4 58 == 0
        | _ => h.link.extractLsb' 0 62 == 0)

/-- R267 for WOP 0, 1, 2 and 5. -/
def routeTile (r : Word32) : Bool := r.extractLsb' 2 3 == 0

/-- R267 for WOP 4. -/
def routeSwitch (r : Word32) : Bool := r.extractLsb' 7 25 == 0 && (r.extractLsb' 6 1 == 0 || r.extractLsb' 0 6 == 0)

/-- R266: 192 × T with T from 1 to 128. -/
def plenTiles (n : Nat) : Bool := n % 192 == 0 && 1 ≤ n / 192 && n / 192 ≤ 128

/-- The verify code of an instruction that its word can carry but the spec does not assign, or 0. Weight blocks answer with code 0x17
(R284). The events of the device are no encodings and answer 0. -/
def wfCode : Instr → Nat
  | .nest _ c => failIf (c == 0 || c == 7) 0x02
  | .decide _ t0 _ | .decideRgn _ t0 _ => failIf (t0 == .none) 0x04
  | .bfx w _ p _ | .bfi w _ p _ => failIf (64 < p.toNat + w.bits) 0x01
  | .lea _ sh _ => failIf (sh == 7) 0x01
  | .shli w _ v _ | .shri w _ v _ | .srai w _ v _ => failIf (w.bits ≤ v.toNat) 0x02
  | .ldWait sp _ _ _ _ | .ldTake sp _ _ _ _ => failIf (!sp.granular) 0x03
  | .lds sp wd fe _ _ _ => firstCode (feCode sp fe) (failIf wd.isVector 0x12)
  | .ldRaw sp _ fe _ _ _ => feCode sp fe
  | .fill sp _ _ _ _ | .empty sp _ _ _ _ => failIf (!sp.granular) 0x03
  | .wcvLoad _ _ _ _ t0 => failIf (t0 == .none) 0x04
  | .atomAdd sp wd _ _ | .atomAnd sp wd _ _ | .atomOr sp wd _ _ | .atomXor sp wd _ _ | .atomMin sp wd _ _ | .atomMax sp wd _ _
  | .atomMinn sp wd _ _ | .atomMaxn sp wd _ _ | .atomSwap sp wd _ _ | .cas sp wd _ _ => atomIntCode sp wd
  | .atomEsum sp wd _ _ => atomDevCode sp (wd == .v512)
  | .atomFmin sp wd _ _ | .atomFmax sp wd _ _ => atomDevCode sp (wd == .w16 || wd == .w32)
  | .vextrW32 _ l _ | .vinsW32 _ l _ => laneCode 32 l
  | .vextrW16 _ l _ | .vinsW16 _ l _ => laneCode 16 l
  | .vextrW8 _ l _ | .vinsW8 _ l _ => laneCode 8 l
  | .vcvt _ dst src ovf rm _ => vcvtCode dst src ovf rm
  | .vpack _ k _ => failIf (3 < k.toNat) 0x13
  | .vunpackLo _ f _ | .vunpackHi _ f _ => failIf (!(f == 2 || f == 3 || f == 4 || f == 5 || f == 7)) 0x01
  | .eroundF32 _ _ t0 | .eroundBf16 _ _ t0 => failIf (t0 == .none) 0x13
  | .accrd _ _ t0 _ => failIf (t0 == .none) 0x14
  | .fprint _ _ t0 _ => failIf (t0 == .none) 0x14
  | .tdset _ fld _ => failIf (10 ≤ fld.toNat) 0x02
  | .semb _ _ t0 | .sembProj _ _ t0 => failIf (t0 == .none) 0x15
  | .sget _ fld _ _ => failIf (6 ≤ fld.toNat) 0x15
  | .rdsr _ _ t0 | .flags _ _ t0 | .perf _ t0 => failIf (t0 == .none) 0x19
  | .wMac h => failIf (!h.wellFormed [2, 4, 5] 4 plenTiles routeTile [0, 1, 3]) 0x17
  | .wCb h => failIf (!h.wellFormed [8] 6 (fun _ => true) routeTile [0, 1, 3]) 0x17
  | .wO4 h => failIf (!h.wellFormed [7] 4 plenTiles routeTile [0, 1, 3]) 0x17
  | .wBook h => failIf (!h.wellFormed [0] 1 (fun n => n == 0) (fun r => r == 0) [0, 1, 3]) 0x17
  | .wSwitch h => failIf (!h.wellFormed [0] 0 (fun n => n == 2) routeSwitch [2]) 0x17
  | .wEmit h => failIf (!h.wellFormed [0] 4 (fun n => n == 0) routeTile [0, 1, 3]) 0x17
  | .wExit h => failIf (!h.wellFormed [0] 0 (fun n => n == 0) (fun r => r == 0) [3]) 0x17
  | .br _ _ | .call _ _ | .wdrive _ _ | .brn _ | .brnDec _ | .bri _ | .calli _ | .ret _ | .iter _ _ _ | .halt _ | .mov _ _ _ | .null _ _ _
  | .steer _ _ | .select _ _ | .merge _ _ | .join _ _ _ | .joinOr _ _ _ | .ctl _ _ _ | .ctlNz _ _ _ | .movi _ _ _ | .lit _ _ _ | .read _ _ _
  | .readT _ _ _ | .write _ _ | .itag _ _ _ | .unnest _ | .cfgld _ _ | .add _ _ _ _ | .sub _ _ _ _ | .mul _ _ _ _ | .mulh _ _ _ _ | .mulhn _ _ _ _
  | .div _ _ _ _ | .divn _ _ _ _ | .rem _ _ _ _ | .remn _ _ _ _ | .and _ _ _ _ | .or _ _ _ _ | .xor _ _ _ _ | .andn _ _ _ _ | .shl _ _ _ _
  | .shr _ _ _ _ | .sra _ _ _ _ | .rotl _ _ _ _ | .min _ _ _ _ | .max _ _ _ _ | .minn _ _ _ _ | .maxn _ _ _ _ | .clz _ _ _ _ | .ctz _ _ _ _
  | .popc _ _ _ _ | .sext _ _ _ _ | .zext _ _ _ _ | .cmpEq _ _ _ _ | .cmpNe _ _ _ _ | .cmpLt _ _ _ _ | .cmpLe _ _ _ _ | .cmpLtn _ _ _ _
  | .cmpLen _ _ _ _ | .addi _ _ _ _ | .andi _ _ _ _ | .ori _ _ _ _ | .xori _ _ _ _ | .muli _ _ _ _ | .cmpiEq _ _ _ _ | .cmpiNe _ _ _ _
  | .cmpiLt _ _ _ _ | .cmpiLe _ _ _ _ | .cmpiLtn _ _ _ _ | .cmpiLen _ _ _ _ | .ld _ _ _ _ _ | .st _ _ _ _ _ | .wcvStore _ _ _ _ | .step _ _
  | .barr _ _ | .bwait _ _ _ | .fenceCore _ _ | .fenceClus _ _ | .fenceDie _ _ | .fencePkg _ _ | .fenceSys _ _ | .combAdd _ _ _ _ | .combMin _ _ _ _
  | .combMax _ _ _ _ | .combMinn _ _ _ _ | .combMaxn _ _ _ _ | .combAnd _ _ _ _ | .combOr _ _ _ _ | .combXor _ _ _ _ | .combFadd _ _ _ _
  | .combFmin _ _ _ _ | .combFmax _ _ _ _ | .redF32 _ _ | .redXs _ _ | .vadd _ _ _ _ _ | .vsub _ _ _ _ _ | .vmul _ _ _ _ _ | .vfma _ _ _ _
  | .vfms _ _ _ _ | .vmax _ _ _ _ | .vmin _ _ _ _ | .vabs _ _ _ _ | .vneg _ _ _ _ | .vrcp _ _ _ _ _ | .vrsq _ _ _ _ _ | .vsqrt _ _ _ _ _
  | .vexp2 _ _ _ _ _ | .vlog2 _ _ _ _ _ | .vtanh _ _ _ _ _ | .vcmp _ _ _ _ _ | .vsel _ _ | .vbcastW32 _ _ _ | .vbcastW16 _ _ _ | .vbcastW8 _ _ _
  | .vpermW32 _ _ _ | .vpermW16 _ _ _ | .vpermW8 _ _ _ | .vrsum _ _ _ _ | .vrmax _ _ _ _ | .vrmin _ _ _ _ | .vamax _ _ _ _ | .vexpo _ _ _ _
  | .vexpoSc _ _ _ _ | .vldexp _ _ _ _ | .vscale _ _ _ _ | .sacc _ _ _ | .eaddF32 _ _ _ | .eaddBf16 _ _ _ | .eclr _ _ | .mma _ _ _ _ _
  | .mmaG _ _ _ _ | .mmaCb _ _ _ _ | .accclr _ _ _ | .accrdSt _ _ _ | .accwr _ _ _ | .copy _ _ _ | .copyMc _ _ _ | .stage _ | .xform _ _ | .dedup _ _
  | .gatherRows _ _ _ | .gatherSum _ _ _ | .gatherMean _ _ _ | .gatherWsum _ _ _ | .scatterAdd _ _ _ | .scatterMax _ _ _ | .scatterMin _ _ _
  | .scatterOvw _ _ _ | .attn _ _ _ | .randN64 _ _ _ _ _ | .randF32 _ _ _ _ _ | .rskip _ _ _ | .spawn _ | .alloc _ _ | .free _ | .stopk _ _ _
  | .smix _ _ _ | .shid _ _ _ | .scollArgmax _ _ _ | .scollSample _ _ _ _ | .scollConf _ _ _ | .slog _ _ _ _ | .scmp _ _ | .srpl _ _ _ | .nop _ _
  | .trap _ _ _ | .brk _ _ _ | .wrsr _ _ | .safe _ _ | .fixreq _ _ | .instanceBegin _ | .instanceCommit _ | .decisionArrive _ | .stepSwap _ _
  | .stepTimeout _ _ | .barrierTimeout _ _ | .bufferedAccessPerform _ _ | .granuleWaitTimeout _ | .syncFaultDelivery _ | .asyncDeliveryTimeout _
  | .matrixTileStep _ _ | .engineCompletion _ | .attnAccept _ | .attnUnit _ | .attnResultWrite _ | .driveExit _ | .redNodeCombine _ _
  | .redNodeTimeout _ _ | .overflowTokenReturn _ | .parkresReplay _ _ | .parkresFail _ _ | .parkTimeout _ _ | .tinvPage _ _ _ | .tinvAsid _ _
  | .tinvAll _ | .slabMoveStart _ _ _ | .slabMoveUnit _ _ | .fwdDisable _ _ | .homeUnitBatch _ | .rowMigration _ _ _ _ _ _ | .codeTableInstall _
  | .cmpRelearn _ | .cmpGenFree _ | .patrolScrub _ _ | .evcntThreshold _ | .fixGo _ | .fixCont | .fixKill | .fixReadoutDone | .thermalThrottle
  | .thermalFix | .powerThrottle | .prectlDrain _ _ | .drainComplete _ | .drainTimeout _ | .prectlFreeze _ _ | .prectlRestore _ _
  | .partclWrite _ _ _ | .qgpartWrite _ _ | .dswinWrite _ _ _ | .fdispWrite _ _ _ | .qtailWrite _ _ | .qctlWrite _ _ | .launchRecordRead _
  | .nodePlace _ | .readyPriorityPromote _ _ | .nodeDispatch _ _ | .nodeEnd _ _ | .hostMemWrite _ _ _ | .hostMemRead _ | .peerAccess _ | .rcvgo
  | .attgo | .powerGood | .packageReset | .regWrite _ _ _ | .firmwarePolicyResume _ _ => 0

/-- The instruction is one the spec assigns. -/
def wf (i : Instr) : Bool := wfCode i == 0

end Sys2Proof
end

