-- ==== Sys2Proof/Decode.lean ====
section
/-! DEFINITION. Decoding and encoding: the four instruction formats (R37), the opcode map (R45, R46), the fate of every other word (R47), and the
64-byte header of a weight block (R265 to R268). -/

namespace Sys2Proof

/-! ### Fields -/

/-- The `n`-bit field of an instruction word whose lowest bit is `lo`. -/
def fld (w : Word32) (lo n : Nat) : BitVec n := BitVec.ofNat n (w.toNat / 2 ^ lo)

/-- Format G (R37). -/
def packG (op : Nat) (fn : BitVec 5) (gt : BitVec 2) (q : BitVec 1) (t1 t0 : BitVec 9) : Word32 :=
  BitVec.ofNat 32 (op * 2 ^ 26 + fn.toNat * 2 ^ 21 + gt.toNat * 2 ^ 19 + q.toNat * 2 ^ 18 + t1.toNat * 2 ^ 9 + t0.toNat)

/-- Format I (R37). -/
def packI (op : Nat) (fn : BitVec 5) (gt : BitVec 2) (imm : BitVec 10) (t0 : BitVec 9) : Word32 :=
  BitVec.ofNat 32 (op * 2 ^ 26 + fn.toNat * 2 ^ 21 + gt.toNat * 2 ^ 19 + imm.toNat * 2 ^ 9 + t0.toNat)

/-- Format M (R37). -/
def packM (op : Nat) (sp wd : BitVec 3) (fe gt : BitVec 2) (off : BitVec 7) (t0 : BitVec 9) : Word32 :=
  BitVec.ofNat 32 (op * 2 ^ 26 + sp.toNat * 2 ^ 23 + wd.toNat * 2 ^ 20 + fe.toNat * 2 ^ 18 + gt.toNat * 2 ^ 16 + off.toNat * 2 ^ 9 + t0.toNat)

/-- Format B (R37). -/
def packB (op : Nat) (gt : BitVec 2) (off : BitVec 24) : Word32 :=
  BitVec.ofNat 32 (op * 2 ^ 26 + gt.toNat * 2 ^ 24 + off.toNat)

/-- R38. -/
def gateOf (x : BitVec 2) : Gate :=
  match x.toNat with
  | 0 => .none
  | 1 => .onTrue
  | 2 => .onFalse
  | _ => .arc

def Gate.code : Gate → BitVec 2
  | .none => 0
  | .onTrue => 1
  | .onFalse => 2
  | .arc => 3

/-- R39. A reserved KIND 00 value reads as no target here; `decode` turns it away. -/
def targetOf (x : BitVec 9) : Target :=
  match x.toNat / 128 with
  | 0 => .none
  | 1 => .slot .a (BitVec.ofNat 7 x.toNat)
  | 2 => .slot .b (BitVec.ofNat 7 x.toNat)
  | _ => .slot .g (BitVec.ofNat 7 x.toNat)

def Target.code : Target → BitVec 9
  | .none => 0
  | .slot .a i => BitVec.ofNat 9 (128 + i.toNat)
  | .slot .b i => BitVec.ofNat 9 (256 + i.toNat)
  | .slot .g i => BitVec.ofNat 9 (384 + i.toNat)

/-- R40. -/
def spaceOf (x : BitVec 3) : Option Space :=
  match x.toNat with
  | 0 => some .core
  | 1 => some .clus
  | 2 => some .die
  | 3 => some .main
  | 4 => some .host
  | 5 => some .peer
  | 6 => some .param
  | _ => none

def Space.code : Space → BitVec 3
  | .core => 0
  | .clus => 1
  | .die => 2
  | .main => 3
  | .host => 4
  | .peer => 5
  | .param => 6

/-- R40. -/
def mwidthOf (x : BitVec 3) : Option MWidth :=
  match x.toNat with
  | 0 => some .w8
  | 1 => some .w16
  | 2 => some .w32
  | 3 => some .w64
  | 4 => some .v512
  | 5 => some .v256
  | _ => none

def MWidth.code : MWidth → BitVec 3
  | .w8 => 0
  | .w16 => 1
  | .w32 => 2
  | .w64 => 3
  | .v512 => 4
  | .v256 => 5

/-- R93: the two-bit width. -/
def widthOf (x : Nat) : Width :=
  match x with
  | 0 => .w64
  | 1 => .w32
  | 2 => .w16
  | _ => .w8

def Width.code : Width → Nat
  | .w64 => 0
  | .w32 => 1
  | .w16 => 2
  | .w8 => 3

/-- Rounding mode as two bits (R45, R46). -/
def rmOf (x : Nat) : Rm :=
  match x with
  | 0 => .rne
  | 1 => .rz
  | 2 => .ru
  | _ => .rd

def Rm.code : Rm → Nat
  | .rne => 0
  | .rz => 1
  | .ru => 2
  | .rd => 3

/-- Condition of `vcmp` as two bits (R45). -/
def condOf (x : Nat) : VCond :=
  match x with
  | 0 => .eq
  | 1 => .lt
  | 2 => .le
  | _ => .un

def VCond.code : VCond → Nat
  | .eq => 0
  | .lt => 1
  | .le => 2
  | .un => 3

def Fmt.code : Fmt → Nat
  | .f32 => 0
  | .bf16 => 1
  | .f16 => 2

def fmtOf (x : Nat) : Option Fmt :=
  match x with
  | 0 => some .f32
  | 1 => some .bf16
  | 2 => some .f16
  | _ => none

/-- R46: the system registers by number. -/
def sysRegOf (x : BitVec 10) : Option SysReg :=
  match x.toNat with
  | 0x000 => some .ctxid
  | 0x001 => some .status
  | 0x002 => some .flags
  | 0x003 => some .mode
  | 0x004 => some .accmap
  | 0x005 => some .tagnest
  | 0x006 => some .handler
  | 0x007 => some .faultptr
  | 0x008 => some .rspill
  | 0x009 => some .rsdepth
  | 0x00A => some .dropcnt
  | 0x00B => some .tilefull
  | 0x00C => some .tilepart
  | 0x00D => some .tileempty
  | 0x00E => some .steptmo
  | 0x00F => some .redtmo
  | 0x010 => some .cycle
  | 0x011 => some .perfsel
  | n =>
    if n / 4 = 8 then some (.rndkey (BitVec.ofNat 2 n))
    else if n / 4 = 9 then some (.rndclo (BitVec.ofNat 2 n))
    else if n / 4 = 10 then some (.rndchi (BitVec.ofNat 2 n))
    else none

def SysReg.code : SysReg → BitVec 10
  | .ctxid => 0x000
  | .status => 0x001
  | .flags => 0x002
  | .mode => 0x003
  | .accmap => 0x004
  | .tagnest => 0x005
  | .handler => 0x006
  | .faultptr => 0x007
  | .rspill => 0x008
  | .rsdepth => 0x009
  | .dropcnt => 0x00A
  | .tilefull => 0x00B
  | .tilepart => 0x00C
  | .tileempty => 0x00D
  | .steptmo => 0x00E
  | .redtmo => 0x00F
  | .cycle => 0x010
  | .perfsel => 0x011
  | .rndkey n => BitVec.ofNat 10 (0x020 + n.toNat)
  | .rndclo n => BitVec.ofNat 10 (0x024 + n.toNat)
  | .rndchi n => BitVec.ofNat 10 (0x028 + n.toNat)

/-! ### The opcode map (R45)

Each table lists the constructors of one major by FN. -/

def int2Table : List (Width → Gate → Target → Target → Instr) :=
  [.add, .sub, .mul, .mulh, .mulhn, .div, .divn, .rem, .remn, .and, .or, .xor, .andn, .shl, .shr, .sra, .rotl, .min, .max, .minn, .maxn]

def int1Table : List (Width → Gate → Target → Target → Instr) := [.clz, .ctz, .popc, .sext, .zext]

def cmpTable : List (Width → Gate → Target → Target → Instr) := [.cmpEq, .cmpNe, .cmpLt, .cmpLe, .cmpLtn, .cmpLen]

def immTable : List (Width → Gate → BitVec 10 → Target → Instr) :=
  [.addi, .andi, .ori, .xori, .shli, .shri, .srai, .muli, .cmpiEq, .cmpiNe, .cmpiLt, .cmpiLe, .cmpiLtn, .cmpiLen]

def atomTable : List (Space → MWidth → Gate → Target → Instr) :=
  [.atomAdd, .atomEsum, .atomAnd, .atomOr, .atomXor, .atomMin, .atomMax, .atomMinn, .atomMaxn, .atomFmin, .atomFmax, .atomSwap]

def combTable : List (Gate → Bool → BitVec 7 → Target → Instr) :=
  [.combAdd, .combMin, .combMax, .combMinn, .combMaxn, .combAnd, .combOr, .combXor, .combFadd, .combFmin, .combFmax]

def fenceTable : List (Gate → Target → Instr) := [.fenceCore, .fenceClus, .fenceDie, .fencePkg, .fenceSys]

def laneTable : List (Gate → Target → Target → Instr) := [.vbcastW32, .vbcastW16, .vbcastW8, .vpermW32, .vpermW16, .vpermW8]

def elementTable : List (Gate → BitVec 6 → Target → Instr) := [.vextrW32, .vextrW16, .vextrW8, .vinsW32, .vinsW16, .vinsW8]

def reduceTable : List (Fmt → Gate → Target → Target → Instr) := [.vrsum, .vrmax, .vrmin, .vamax, .vexpo, .vldexp]

def gatherTable : List (Gate → Target → Target → Instr) := [.gatherRows, .gatherSum, .gatherMean, .gatherWsum]

def scatterTable : List (Gate → Target → Target → Instr) := [.scatterAdd, .scatterMax, .scatterMin, .scatterOvw]

/-- `i`, unless a reserved field makes the word one of verify code `code`. -/
def guardCode (ok : Bool) (code : Nat) (i : Instr) : Except Nat Instr := if ok then .ok i else .error code

/-- The entry of a table, or code 0x01 for an unassigned FN. -/
def entry {α : Type} (t : List α) (n : Nat) (k : α → Except Nat Instr) : Except Nat Instr :=
  match t[n]? with
  | some c => k c
  | none => .error 0x01

/-- The bit is set. -/
def isOne (q : BitVec 1) : Bool := q == 1

def bit (b : Bool) : BitVec 1 := if b then 1 else 0

/-- Major 0x04 (R72). -/
def parseExit (fn : Nat) (g : Gate) (q : BitVec 1) (t1 t0 : BitVec 9) : Except Nat Instr :=
  let bare := fun i => if q == 0 then guardCode (t1 == 0 && t0 == 0) 0x04 i else .error 0x01
  match fn with
  | 0 => guardCode (t1 == 0 && t0 == 0) 0x04 (if q == 0 then .brn g else .brnDec g)
  | 1 => bare (.bri g)
  | 2 => bare (.calli g)
  | 3 => bare (.ret g)
  | 4 => guardCode (q == 0) 0x01 (.iter g (targetOf t0) (targetOf t1))
  | 5 => bare (.halt g)
  | _ => .error 0x01

/-- Major 0x08 (R76, R78). -/
def parseToken (fn : Nat) (g : Gate) (q : BitVec 1) (t1 t0 : BitVec 9) : Except Nat Instr :=
  let n := BitVec.ofNat 7 t1.toNat
  match fn with
  | 0 => guardCode (q == 0) 0x01 (.mov g (targetOf t0) (targetOf t1))
  | 1 => guardCode (q == 0) 0x01 (.null g (targetOf t0) (targetOf t1))
  | 2 => guardCode (q == 0 && g == .arc) 0x01 (.steer (targetOf t0) (targetOf t1))
  | 3 => guardCode (q == 0 && g == .arc) 0x01 (.select (targetOf t0) (targetOf t1))
  | 4 => guardCode (q == 0 && g == .none) 0x01 (.merge (targetOf t0) (targetOf t1))
  | 5 => guardCode (t1.toNat < 128) 0x01 (if q == 0 then .join g n (targetOf t0) else .joinOr g n (targetOf t0))
  | 6 => .ok (if q == 0 then .ctl g (targetOf t0) (targetOf t1) else .ctlNz g (targetOf t0) (targetOf t1))
  | _ => .error 0x01

/-- Major 0x09 (R76, R80, R81). -/
def parseRegister (fn : Nat) (g : Gate) (imm : BitVec 10) (t0 : BitVec 9) : Except Nat Instr :=
  let r := BitVec.ofNat 6 imm.toNat
  match fn with
  | 0 => .ok (.movi g imm (targetOf t0))
  | 1 => guardCode (imm.toNat < 128) 0x02 (.lit g (BitVec.ofNat 7 imm.toNat) (targetOf t0))
  | 2 => guardCode (imm.toNat < 64) 0x02 (.read g r (targetOf t0))
  | 3 => guardCode (imm.toNat < 64) 0x02 (.readT g r (targetOf t0))
  | 4 => if imm.toNat < 64 then guardCode (t0 == 0) 0x04 (.write g r) else .error 0x02
  | 5 => guardCode (imm.toNat < 8) 0x02 (.itag g (BitVec.ofNat 3 imm.toNat) (targetOf t0))
  | 6 => if imm.toNat < 8 then guardCode (t0 == 0) 0x04 (.nest g (BitVec.ofNat 3 imm.toNat)) else .error 0x02
  | 7 => if imm == 0 then guardCode (t0 == 0) 0x04 (.unnest g) else .error 0x02
  | _ => .error 0x01

/-- Major 0x0A (R82, R83). -/
def parseConfig (fn : Nat) (g : Gate) (q : BitVec 1) (t1 t0 : BitVec 9) : Except Nat Instr :=
  match fn with
  | 0 => if q == 0 then guardCode (t1 == 0) 0x04 (.cfgld g (targetOf t0)) else .error 0x01
  | 1 => .ok (if q == 0 then .decide g (targetOf t0) (targetOf t1) else .decideRgn g (targetOf t0) (targetOf t1))
  | _ => .error 0x01

/-- Majors 0x12 and 0x13 (R98 to R101, R103). -/
def parseInt1 (w : Width) (lea : Bool) (fn : Nat) (g : Gate) (t1 t0 : BitVec 9) : Except Nat Instr :=
  if fn < 5 then entry int1Table fn (fun k => .ok (k w g (targetOf t0) (targetOf t1)))
  else if fn = 5 then guardCode (t1.toNat < 64) 0x01 (.bfx w g (BitVec.ofNat 6 t1.toNat) (targetOf t0))
  else if fn = 6 then guardCode (t1.toNat < 64) 0x01 (.bfi w g (BitVec.ofNat 6 t1.toNat) (targetOf t0))
  else if fn = 7 then guardCode (lea && t1.toNat < 8) 0x01 (.lea g (BitVec.ofNat 3 t1.toNat) (targetOf t0))
  else entry cmpTable (fn - 8) (fun k => .ok (k w g (targetOf t0) (targetOf t1)))

/-- Majors 0x18 to 0x1D (R112 to R115). -/
def parseMemory (op : Nat) (sp : Space) (wd : MWidth) (fe : BitVec 2) (g : Gate) (off : BitVec 7) (t0 : BitVec 9) : Except Nat Instr :=
  let t := targetOf t0
  match op, fe.toNat with
  | 0x18, 0 => .ok (.ld sp wd g off t)
  | 0x18, 1 => .ok (.ldWait sp wd g off t)
  | 0x18, 2 => .ok (.ldTake sp wd g off t)
  | 0x19, _ => .ok (.lds sp wd fe g off t)
  | 0x1D, _ => .ok (.ldRaw sp wd fe g off t)
  | 0x1A, 0 => .ok (.st sp wd g off t)
  | 0x1A, 1 => .ok (.fill sp wd g off t)
  | 0x1B, 0 => .ok (.empty sp wd g off t)
  | 0x1C, 0 => .ok (if t0 == 0 then .wcvStore sp wd g off else .wcvLoad sp wd g off t)
  | _, _ => .error 0x03

/-- Majors 0x20 and 0x21 (R119, R123). -/
def parseAtomic (op : Nat) (sp : Space) (wd : MWidth) (fe : BitVec 2) (g : Gate) (off : BitVec 7) (t0 : BitVec 9) : Except Nat Instr :=
  if fe != 0 then .error 0x03
  else if op = 0x21 then guardCode (off == 0) 0x12 (.cas sp wd g (targetOf t0))
  else if off.toNat % 8 != 0 then .error 0x01
  else entry atomTable (off.toNat / 8) (fun k => .ok (k sp wd g (targetOf t0)))

/-- Major 0x22 (R126, R129, R132, R133, R136). -/
def parseSync (fn : Nat) (g : Gate) (imm : BitVec 10) (t0 : BitVec 9) : Except Nat Instr :=
  match fn with
  | 0 => guardCode (imm.toNat < 64 && t0 == 0) 0x12 (.step g (BitVec.ofNat 6 imm.toNat))
  | 1 => guardCode (imm.toNat < 32 && t0 == 0) 0x12 (.barr g (BitVec.ofNat 5 imm.toNat))
  | 2 => guardCode (imm.toNat < 32) 0x12 (.bwait g (BitVec.ofNat 5 imm.toNat) (targetOf t0))
  | _ => entry fenceTable (fn - 3) (fun k => guardCode (imm == 0) 0x12 (k g (targetOf t0)))

/-- Major 0x24 (R135, R136). -/
def parseRed (fn : Nat) (g : Gate) (imm : BitVec 10) (t0 : BitVec 9) : Except Nat Instr :=
  match fn with
  | 0 => guardCode (imm.toNat < 64 && t0 == 0) 0x12 (.redF32 g (BitVec.ofNat 6 imm.toNat))
  | 1 => guardCode (imm.toNat < 64 && t0 == 0) 0x12 (.redXs g (BitVec.ofNat 6 imm.toNat))
  | _ => .error 0x01

/-- Majors 0x28 to 0x2A (R158 to R162). `m` is {FN[4], Q}. -/
def parseVector (f : Fmt) (fn m : Nat) (g : Gate) (t1 t0 : BitVec 9) : Except Nat Instr :=
  let x := targetOf t0
  let y := targetOf t1
  match fn with
  | 0 => .ok (.vadd f (rmOf m) g x y)
  | 1 => .ok (.vsub f (rmOf m) g x y)
  | 2 => .ok (.vmul f (rmOf m) g x y)
  | 3 => guardCode (g == .none) 0x01 (.vfma f (rmOf m) x y)
  | 4 => guardCode (g == .none) 0x01 (.vfms f (rmOf m) x y)
  | 5 => guardCode (m == 0) 0x01 (.vmax f g x y)
  | 6 => guardCode (m == 0) 0x01 (.vmin f g x y)
  | 7 => guardCode (m == 0) 0x01 (.vabs f g x y)
  | 8 => guardCode (m == 0) 0x01 (.vneg f g x y)
  | 9 => .ok (.vrcp f (rmOf m) g x y)
  | 10 => .ok (.vrsq f (rmOf m) g x y)
  | 11 => .ok (.vsqrt f (rmOf m) g x y)
  | 12 => .ok (.vexp2 f (rmOf m) g x y)
  | 13 => .ok (.vlog2 f (rmOf m) g x y)
  | 14 => .ok (.vtanh f (rmOf m) g x y)
  | _ => .ok (.vcmp f (condOf m) g x y)

/-- Major 0x2B (R163). -/
def parseLane (fn : Nat) (g : Gate) (q : BitVec 1) (t1 t0 : BitVec 9) : Except Nat Instr :=
  if q != 0 then .error 0x01
  else if fn = 0 then guardCode (g == .none) 0x01 (.vsel (targetOf t0) (targetOf t1))
  else if fn < 7 then entry laneTable (fn - 1) (fun k => .ok (k g (targetOf t0) (targetOf t1)))
  else entry elementTable (fn - 7) (fun k => guardCode (t1.toNat < 64) 0x01 (k g (BitVec.ofNat 6 t1.toNat) (targetOf t0)))

/-- Major 0x2C (R164 to R167). -/
def parseReduce (fn : Nat) (g : Gate) (q : BitVec 1) (t1 t0 : BitVec 9) : Except Nat Instr :=
  match fmtOf (fn / 8) with
  | none => .error 0x01
  | some f =>
    if q == 1 then guardCode (fn % 8 == 4) 0x01 (.vexpoSc f g (targetOf t0) (targetOf t1))
    else entry reduceTable (fn % 8) (fun k => .ok (k f g (targetOf t0) (targetOf t1)))

/-- Major 0x2E (R171 to R173, R178). -/
def parseScale (fn : Nat) (g : Gate) (q : BitVec 1) (t1 t0 : BitVec 9) : Except Nat Instr :=
  match fn with
  | 0 => .ok (.vscale g (isOne q) (targetOf t0) (targetOf t1))
  | 1 => guardCode (g == .none) 0x01 (.sacc (isOne q) (targetOf t0) (targetOf t1))
  | 2 => if q == 0 then guardCode (t1.toNat < 8) 0x13 (.vpack g (BitVec.ofNat 3 t1.toNat) (targetOf t0)) else .error 0x01
  | 3 => guardCode (q == 0 && t1.toNat < 16) 0x01 (.vunpackLo g (BitVec.ofNat 4 t1.toNat) (targetOf t0))
  | 4 => guardCode (q == 0 && t1.toNat < 16) 0x01 (.vunpackHi g (BitVec.ofNat 4 t1.toNat) (targetOf t0))
  | _ => .error 0x01

/-- Major 0x2F (R174 to R178). -/
def parseExact (fn : Nat) (g : Gate) (imm : BitVec 10) (t0 : BitVec 9) : Except Nat Instr :=
  let n := BitVec.ofNat 3 imm.toNat
  match fn with
  | 0 => guardCode (imm.toNat < 8) 0x13 (.eaddF32 g n (targetOf t0))
  | 1 => guardCode (imm.toNat < 8) 0x13 (.eaddBf16 g n (targetOf t0))
  | 2 => guardCode (imm.toNat < 8) 0x13 (.eroundF32 g n (targetOf t0))
  | 3 => guardCode (imm.toNat < 8) 0x13 (.eroundBf16 g n (targetOf t0))
  | 4 => guardCode (imm.toNat < 8 && t0 == 0) 0x13 (.eclr g n)
  | _ => .error 0x01

/-- Majors 0x34 and 0x35 (R187, R194, R217). -/
def parseMatrix (op fn : Nat) (g : Gate) (q : BitVec 1) (t1 t0 : BitVec 9) : Except Nat Instr :=
  let acc := BitVec.ofNat 2 (fn / 8)
  let x := targetOf t0
  let y := targetOf t1
  if op = 0x34 then
    if q == 1 then guardCode (fn % 8 == 0) 0x01 (.mmaCb acc g x y)
    else if fn % 8 < 4 then .ok (.mma acc (BitVec.ofNat 2 fn) g x y)
    else guardCode (g == .none) 0x14 (.mmaG acc (BitVec.ofNat 2 fn) x y)
  else if q == 1 then .error (if fn % 8 < 4 then 0x14 else 0x01)
  else
    match fn % 8 with
    | 0 => guardCode (t1 == 0) 0x14 (.accclr acc g x)
    | 1 => .ok (.accrd acc g x y)
    | 2 => guardCode (t1 == 0) 0x14 (.accrdSt acc g x)
    | 3 => guardCode (t1 == 0) 0x14 (.accwr acc g x)
    | _ => .error 0x01

/-- Major 0x36 (R195, R217). -/
def parseTdset (fn : Nat) (g : Gate) (imm : BitVec 10) (t0 : BitVec 9) : Except Nat Instr :=
  if fn = 0 then guardCode (t0 == 0) 0x14 (.tdset g (BitVec.ofNat 6 (imm.toNat / 16)) (BitVec.ofNat 4 imm.toNat)) else .error 0x01

/-- Major 0x37 (R197 to R202, R212, R213, R217). -/
def parseStreamer (fn : Nat) (g : Gate) (q : BitVec 1) (t1 t0 : BitVec 9) : Except Nat Instr :=
  let x := targetOf t0
  let y := targetOf t1
  match fn with
  | 0 => guardCode (q == 0) 0x14 (.copy g x y)
  | 1 => guardCode (q == 0) 0x14 (.copyMc g x y)
  | 2 => guardCode (q == 0 && t1 == 0 && t0 == 0) 0x14 (.stage g)
  | 3 => guardCode (q == 0 && t1 == 0) 0x14 (.xform g x)
  | 4 => .ok (.fprint g (isOne q) x y)
  | 5 => guardCode (q == 0 && t1 == 0) 0x14 (.dedup g x)
  | _ => .error 0x01

/-- Major 0x38 (R204, R206, R208, R217). -/
def parseGather (fn : Nat) (g : Gate) (q : BitVec 1) (t1 t0 : BitVec 9) : Except Nat Instr :=
  let x := targetOf t0
  let y := targetOf t1
  if fn < 4 then entry gatherTable fn (fun k => guardCode (q == 0) 0x14 (k g x y))
  else if fn < 8 then .error 0x01
  else if fn < 12 then entry scatterTable (fn - 8) (fun k => guardCode (q == 0) 0x14 (k g x y))
  else if fn = 16 then guardCode (q == 0) 0x14 (.attn g x y)
  else .error 0x01

/-- Major 0x39 (R210, R211). -/
def parseRandom (fn : Nat) (g : Gate) (q : BitVec 1) (t1 t0 : BitVec 9) : Except Nat Instr :=
  let n := BitVec.ofNat 2 fn
  match fn / 4 with
  | 0 => .ok (.randN64 n g (isOne q) (targetOf t0) (targetOf t1))
  | 2 => .ok (.randF32 n g (isOne q) (targetOf t0) (targetOf t1))
  | 4 => if q == 0 then guardCode (t1 == 0) 0x01 (.rskip n g (targetOf t0)) else .error 0x01
  | _ => .error 0x01

/-- Major 0x3A (R214 to R217). -/
def parseTask (fn : Nat) (g : Gate) (q : BitVec 1) (t1 t0 : BitVec 9) : Except Nat Instr :=
  match fn with
  | 0 => guardCode (q == 0 && t1 == 0 && t0 == 0) 0x14 (.spawn g)
  | 1 => guardCode (q == 0 && t1 == 0) 0x14 (.alloc g (targetOf t0))
  | 2 => guardCode (q == 0 && t1 == 0 && t0 == 0) 0x14 (.free g)
  | _ => .error 0x01

/-- Major 0x3C (R224, R238). -/
def parseSoft (fn : Nat) (g : Gate) (imm : BitVec 10) (t0 : BitVec 9) : Except Nat Instr :=
  let n := BitVec.ofNat 4 imm.toNat
  let hi := imm.toNat / 16
  let t := targetOf t0
  match fn with
  | 0 => guardCode (hi == 0) 0x15 (.stopk g n t)
  | 1 => guardCode (hi == 0) 0x15 (.smix g n t)
  | 2 => guardCode (hi == 0) 0x15 (.shid g n t)
  | 3 => guardCode (hi < 2) 0x15 (if hi = 0 then .semb g n t else .sembProj g n t)
  | 4 => guardCode (hi == 0) 0x15 (.scollArgmax g n t)
  | 5 => guardCode (hi < 4) 0x15 (.scollSample g (BitVec.ofNat 2 hi) n t)
  | 6 => guardCode (hi == 0) 0x15 (.scollConf g n t)
  | 7 => .ok (.slog g (BitVec.ofNat 6 hi) n t)
  | 8 => guardCode (imm == 0) 0x15 (.scmp g t)
  | 9 => guardCode (hi == 0) 0x15 (.srpl g n t)
  | 10 => guardCode (hi < 8) 0x15 (.sget g (BitVec.ofNat 3 hi) n t)
  | _ => .error 0x01

/-- Major 0x3E (R378, R379). -/
def parseSystem (fn : Nat) (g : Gate) (imm : BitVec 10) (t0 : BitVec 9) : Except Nat Instr :=
  let t := targetOf t0
  let c := BitVec.ofNat 8 imm.toNat
  match fn with
  | 0 => guardCode (imm == 0) 0x19 (.nop g t)
  | 1 => guardCode (imm.toNat < 256) 0x19 (.trap g c t)
  | 2 => guardCode (imm.toNat < 256) 0x19 (.brk g c t)
  | 3 =>
    match sysRegOf imm with
    | some r => .ok (.rdsr g r t)
    | none => .error 0x02
  | 4 =>
    match sysRegOf imm with
    | some r => guardCode (t0 == 0) 0x19 (.wrsr g r)
    | none => .error 0x02
  | 5 => guardCode (imm.toNat < 128) 0x19 (.flags g (BitVec.ofNat 7 imm.toNat) t)
  | 6 => guardCode (imm == 0) 0x19 (.perf g t)
  | 7 => guardCode (imm == 0) 0x19 (.safe g t)
  | 8 => guardCode (imm == 0) 0x19 (.fixreq g t)
  | _ => .error 0x01

/-- The instruction whose fields stand in a word, by the opcode map, or the verify code of R47. -/
def parse (w : Word32) : Except Nat Instr :=
  let op := w.toNat / 2 ^ 26
  let fn := (fld w 21 5).toNat
  let g := gateOf (fld w 19 2)
  let q := fld w 18 1
  let t1 := fld w 9 9
  let t0 := fld w 0 9
  let imm := fld w 9 10
  match op with
  | 0x01 => .ok (.br (gateOf (fld w 24 2)) (fld w 0 24))
  | 0x02 => .ok (.call (gateOf (fld w 24 2)) (fld w 0 24))
  | 0x03 => .ok (.wdrive (gateOf (fld w 24 2)) (fld w 0 24))
  | 0x04 => parseExit fn g q t1 t0
  | 0x08 => parseToken fn g q t1 t0
  | 0x09 => parseRegister fn g imm t0
  | 0x0A => parseConfig fn g q t1 t0
  | 0x10 | 0x11 => entry int2Table fn (fun k => .ok (k (widthOf (op % 2 * 2 + q.toNat)) g (targetOf t0) (targetOf t1)))
  | 0x12 | 0x13 => parseInt1 (widthOf (op % 2 * 2 + q.toNat)) (op == 0x12 && q == 0) fn g t1 t0
  | 0x14 | 0x15 | 0x16 | 0x17 => entry immTable fn (fun k => .ok (k (widthOf (op % 4)) g imm (targetOf t0)))
  | 0x18 | 0x19 | 0x1A | 0x1B | 0x1C | 0x1D =>
    match spaceOf (fld w 23 3), mwidthOf (fld w 20 3) with
    | some sp, some wd => parseMemory op sp wd (fld w 18 2) (gateOf (fld w 16 2)) (fld w 9 7) t0
    | _, _ => .error 0x03
  | 0x20 | 0x21 =>
    match spaceOf (fld w 23 3), mwidthOf (fld w 20 3) with
    | some sp, some wd => parseAtomic op sp wd (fld w 18 2) (gateOf (fld w 16 2)) (fld w 9 7) t0
    | _, _ => .error 0x03
  | 0x22 => parseSync fn g imm t0
  | 0x23 => entry combTable fn (fun k => guardCode (t1.toNat < 128) 0x12 (k g (isOne q) (BitVec.ofNat 7 t1.toNat) (targetOf t0)))
  | 0x24 => parseRed fn g imm t0
  | 0x28 => parseVector .f32 (fn % 16) (fn / 16 * 2 + q.toNat) g t1 t0
  | 0x29 => parseVector .bf16 (fn % 16) (fn / 16 * 2 + q.toNat) g t1 t0
  | 0x2A => parseVector .f16 (fn % 16) (fn / 16 * 2 + q.toNat) g t1 t0
  | 0x2B => parseLane fn g q t1 t0
  | 0x2C => parseReduce fn g q t1 t0
  | 0x2D =>
    if fn = 0 then
      .ok (.vcvt g (BitVec.ofNat 3 (imm.toNat / 128)) (BitVec.ofNat 3 (imm.toNat / 16)) (BitVec.ofNat 2 (imm.toNat / 4)) (rmOf (imm.toNat % 4))
        (targetOf t0))
    else .error 0x01
  | 0x2E => parseScale fn g q t1 t0
  | 0x2F => parseExact fn g imm t0
  | 0x34 | 0x35 => parseMatrix op fn g q t1 t0
  | 0x36 => parseTdset fn g imm t0
  | 0x37 => parseStreamer fn g q t1 t0
  | 0x38 => parseGather fn g q t1 t0
  | 0x39 => parseRandom fn g q t1 t0
  | 0x3A => parseTask fn g q t1 t0
  | 0x3C => parseSoft fn g imm t0
  | 0x3E => parseSystem fn g imm t0
  | _ => .error 0x01

/-! ### Weight-block headers -/

/-- R212: the exclusive or of the words, word i rotated left by i mod 64. -/
def rx64From (i : Nat) : List Word64 → Word64
  | [] => 0
  | x :: xs => x.rotateLeft (i % 64) ^^^ rx64From (i + 1) xs

def rx64 (ws : List Word64) : Word64 := rx64From 0 ws

/-- WHDR (R266). -/
def WBlock.whdr (h : WBlock) (wop : Nat) : Word32 :=
  BitVec.ofNat 32 (4 * 2 ^ 28 + wop * 2 ^ 24 + h.fmt.toNat * 2 ^ 20 + h.flags.toNat * 2 ^ 16 + h.plen.toNat)

/-- Bytes 0 to 55 of a header as seven 64-bit words (R265). -/
def WBlock.body (h : WBlock) (wop : Nat) : List Word64 :=
  [BitVec.ofNat 64 ((h.whdr wop).toNat + h.route.toNat * 2 ^ 32), h.link, h.aux.extractLsb' 0 64, h.aux.extractLsb' 64 64,
    h.aux.extractLsb' 128 64, h.aux.extractLsb' 192 64, 0]

/-- The whole header: the body and HCHK. -/
def WBlock.header (h : WBlock) (wop : Nat) : List Word64 := h.body wop ++ [rx64 (h.body wop)]

/-- The fields of a header. -/
def wblockOf (w0 link a0 a1 a2 a3 : Word64) : WBlock where
  fmt := BitVec.ofNat 4 (w0.toNat / 2 ^ 20)
  flags := BitVec.ofNat 4 (w0.toNat / 2 ^ 16)
  plen := BitVec.ofNat 16 w0.toNat
  route := BitVec.ofNat 32 (w0.toNat / 2 ^ 32)
  link := link
  aux := a3 ++ (a2 ++ (a1 ++ a0))

def wopTable : List (WBlock → Instr) := [.wMac, .wCb, .wO4, .wBook, .wSwitch, .wEmit, .wExit]

/-- The weight block of a header, whatever its fields hold: checks 2 to 4 of R269 in that order. -/
def parseHeader (ws : List Word64) : Except Nat Instr :=
  match ws with
  | [w0, link, a0, a1, a2, a3, z, chk] =>
    if w0.toNat / 2 ^ 28 % 16 ≠ 4 then .error 0x09
    else if rx64 [w0, link, a0, a1, a2, a3, z] ≠ chk then .error 0x06
    else
      match wopTable[w0.toNat / 2 ^ 24 % 16]? with
      | some k => .ok (k (wblockOf w0 link a0 a1 a2 a3))
      | none => .error 0x01
  | _ => .error 0x09

/-! ### Encoding -/

/-- The word of an instruction: its fields in the places R37 gives them, under the major and function of R45. The weight blocks and the events of
the device have none. -/
def toWord : Instr → Option Word32
  | .br g off => some (packB 0x1 g.code off)
  | .call g off => some (packB 0x2 g.code off)
  | .wdrive g off => some (packB 0x3 g.code off)
  | .brn g => some (packG 0x4 0 g.code 0 0 0)
  | .brnDec g => some (packG 0x4 0 g.code 1 0 0)
  | .bri g => some (packG 0x4 1 g.code 0 0 0)
  | .calli g => some (packG 0x4 2 g.code 0 0 0)
  | .ret g => some (packG 0x4 3 g.code 0 0 0)
  | .iter g t0 t1 => some (packG 0x4 4 g.code 0 t1.code t0.code)
  | .halt g => some (packG 0x4 5 g.code 0 0 0)
  | .mov g t0 t1 => some (packG 0x8 0 g.code 0 t1.code t0.code)
  | .null g t0 t1 => some (packG 0x8 1 g.code 0 t1.code t0.code)
  | .steer t0 t1 => some (packG 0x8 2 3 0 t1.code t0.code)
  | .select t0 t1 => some (packG 0x8 3 3 0 t1.code t0.code)
  | .merge t0 t1 => some (packG 0x8 4 0 0 t1.code t0.code)
  | .join g n t0 => some (packG 0x08 5 g.code 0 (BitVec.ofNat 9 n.toNat) t0.code)
  | .joinOr g n t0 => some (packG 0x08 5 g.code 1 (BitVec.ofNat 9 n.toNat) t0.code)
  | .ctl g t0 t1 => some (packG 0x8 6 g.code 0 t1.code t0.code)
  | .ctlNz g t0 t1 => some (packG 0x8 6 g.code 1 t1.code t0.code)
  | .movi g v t0 => some (packI 0x9 0 g.code v t0.code)
  | .lit g j t0 => some (packI 0x9 1 g.code (BitVec.ofNat 10 j.toNat) t0.code)
  | .read g r t0 => some (packI 0x9 2 g.code (BitVec.ofNat 10 r.toNat) t0.code)
  | .readT g r t0 => some (packI 0x9 3 g.code (BitVec.ofNat 10 r.toNat) t0.code)
  | .write g r => some (packI 0x9 4 g.code (BitVec.ofNat 10 r.toNat) 0)
  | .itag g l t0 => some (packI 0x9 5 g.code (BitVec.ofNat 10 l.toNat) t0.code)
  | .nest g c => some (packI 0x9 6 g.code (BitVec.ofNat 10 c.toNat) 0)
  | .unnest g => some (packI 0x9 7 g.code 0 0)
  | .cfgld g t0 => some (packG 0xa 0 g.code 0 0 t0.code)
  | .decide g t0 t1 => some (packG 0xa 1 g.code 0 t1.code t0.code)
  | .decideRgn g t0 t1 => some (packG 0xa 1 g.code 1 t1.code t0.code)
  | .add w g t0 t1 => some (packG (0x10 + w.code / 2) 0 g.code (BitVec.ofNat 1 w.code) t1.code t0.code)
  | .sub w g t0 t1 => some (packG (0x10 + w.code / 2) 1 g.code (BitVec.ofNat 1 w.code) t1.code t0.code)
  | .mul w g t0 t1 => some (packG (0x10 + w.code / 2) 2 g.code (BitVec.ofNat 1 w.code) t1.code t0.code)
  | .mulh w g t0 t1 => some (packG (0x10 + w.code / 2) 3 g.code (BitVec.ofNat 1 w.code) t1.code t0.code)
  | .mulhn w g t0 t1 => some (packG (0x10 + w.code / 2) 4 g.code (BitVec.ofNat 1 w.code) t1.code t0.code)
  | .div w g t0 t1 => some (packG (0x10 + w.code / 2) 5 g.code (BitVec.ofNat 1 w.code) t1.code t0.code)
  | .divn w g t0 t1 => some (packG (0x10 + w.code / 2) 6 g.code (BitVec.ofNat 1 w.code) t1.code t0.code)
  | .rem w g t0 t1 => some (packG (0x10 + w.code / 2) 7 g.code (BitVec.ofNat 1 w.code) t1.code t0.code)
  | .remn w g t0 t1 => some (packG (0x10 + w.code / 2) 8 g.code (BitVec.ofNat 1 w.code) t1.code t0.code)
  | .and w g t0 t1 => some (packG (0x10 + w.code / 2) 9 g.code (BitVec.ofNat 1 w.code) t1.code t0.code)
  | .or w g t0 t1 => some (packG (0x10 + w.code / 2) 10 g.code (BitVec.ofNat 1 w.code) t1.code t0.code)
  | .xor w g t0 t1 => some (packG (0x10 + w.code / 2) 11 g.code (BitVec.ofNat 1 w.code) t1.code t0.code)
  | .andn w g t0 t1 => some (packG (0x10 + w.code / 2) 12 g.code (BitVec.ofNat 1 w.code) t1.code t0.code)
  | .shl w g t0 t1 => some (packG (0x10 + w.code / 2) 13 g.code (BitVec.ofNat 1 w.code) t1.code t0.code)
  | .shr w g t0 t1 => some (packG (0x10 + w.code / 2) 14 g.code (BitVec.ofNat 1 w.code) t1.code t0.code)
  | .sra w g t0 t1 => some (packG (0x10 + w.code / 2) 15 g.code (BitVec.ofNat 1 w.code) t1.code t0.code)
  | .rotl w g t0 t1 => some (packG (0x10 + w.code / 2) 16 g.code (BitVec.ofNat 1 w.code) t1.code t0.code)
  | .min w g t0 t1 => some (packG (0x10 + w.code / 2) 17 g.code (BitVec.ofNat 1 w.code) t1.code t0.code)
  | .max w g t0 t1 => some (packG (0x10 + w.code / 2) 18 g.code (BitVec.ofNat 1 w.code) t1.code t0.code)
  | .minn w g t0 t1 => some (packG (0x10 + w.code / 2) 19 g.code (BitVec.ofNat 1 w.code) t1.code t0.code)
  | .maxn w g t0 t1 => some (packG (0x10 + w.code / 2) 20 g.code (BitVec.ofNat 1 w.code) t1.code t0.code)
  | .clz w g t0 t1 => some (packG (0x12 + w.code / 2) 0 g.code (BitVec.ofNat 1 w.code) t1.code t0.code)
  | .ctz w g t0 t1 => some (packG (0x12 + w.code / 2) 1 g.code (BitVec.ofNat 1 w.code) t1.code t0.code)
  | .popc w g t0 t1 => some (packG (0x12 + w.code / 2) 2 g.code (BitVec.ofNat 1 w.code) t1.code t0.code)
  | .sext w g t0 t1 => some (packG (0x12 + w.code / 2) 3 g.code (BitVec.ofNat 1 w.code) t1.code t0.code)
  | .zext w g t0 t1 => some (packG (0x12 + w.code / 2) 4 g.code (BitVec.ofNat 1 w.code) t1.code t0.code)
  | .bfx w g p t0 => some (packG (0x12 + w.code / 2) 5 g.code (BitVec.ofNat 1 w.code) (BitVec.ofNat 9 p.toNat) t0.code)
  | .bfi w g p t0 => some (packG (0x12 + w.code / 2) 6 g.code (BitVec.ofNat 1 w.code) (BitVec.ofNat 9 p.toNat) t0.code)
  | .lea g sh t0 => some (packG 0x12 7 g.code 0 (BitVec.ofNat 9 sh.toNat) t0.code)
  | .cmpEq w g t0 t1 => some (packG (0x12 + w.code / 2) 8 g.code (BitVec.ofNat 1 w.code) t1.code t0.code)
  | .cmpNe w g t0 t1 => some (packG (0x12 + w.code / 2) 9 g.code (BitVec.ofNat 1 w.code) t1.code t0.code)
  | .cmpLt w g t0 t1 => some (packG (0x12 + w.code / 2) 10 g.code (BitVec.ofNat 1 w.code) t1.code t0.code)
  | .cmpLe w g t0 t1 => some (packG (0x12 + w.code / 2) 11 g.code (BitVec.ofNat 1 w.code) t1.code t0.code)
  | .cmpLtn w g t0 t1 => some (packG (0x12 + w.code / 2) 12 g.code (BitVec.ofNat 1 w.code) t1.code t0.code)
  | .cmpLen w g t0 t1 => some (packG (0x12 + w.code / 2) 13 g.code (BitVec.ofNat 1 w.code) t1.code t0.code)
  | .addi w g v t0 => some (packI (0x14 + w.code) 0 g.code v t0.code)
  | .andi w g v t0 => some (packI (0x14 + w.code) 1 g.code v t0.code)
  | .ori w g v t0 => some (packI (0x14 + w.code) 2 g.code v t0.code)
  | .xori w g v t0 => some (packI (0x14 + w.code) 3 g.code v t0.code)
  | .shli w g v t0 => some (packI (0x14 + w.code) 4 g.code v t0.code)
  | .shri w g v t0 => some (packI (0x14 + w.code) 5 g.code v t0.code)
  | .srai w g v t0 => some (packI (0x14 + w.code) 6 g.code v t0.code)
  | .muli w g v t0 => some (packI (0x14 + w.code) 7 g.code v t0.code)
  | .cmpiEq w g v t0 => some (packI (0x14 + w.code) 8 g.code v t0.code)
  | .cmpiNe w g v t0 => some (packI (0x14 + w.code) 9 g.code v t0.code)
  | .cmpiLt w g v t0 => some (packI (0x14 + w.code) 10 g.code v t0.code)
  | .cmpiLe w g v t0 => some (packI (0x14 + w.code) 11 g.code v t0.code)
  | .cmpiLtn w g v t0 => some (packI (0x14 + w.code) 12 g.code v t0.code)
  | .cmpiLen w g v t0 => some (packI (0x14 + w.code) 13 g.code v t0.code)
  | .ld sp wd g off t0 => some (packM 0x18 sp.code wd.code 0 g.code off t0.code)
  | .ldWait sp wd g off t0 => some (packM 0x18 sp.code wd.code 1 g.code off t0.code)
  | .ldTake sp wd g off t0 => some (packM 0x18 sp.code wd.code 2 g.code off t0.code)
  | .lds sp wd fe g off t0 => some (packM 0x19 sp.code wd.code fe g.code off t0.code)
  | .ldRaw sp wd fe g off t0 => some (packM 0x1d sp.code wd.code fe g.code off t0.code)
  | .st sp wd g off t0 => some (packM 0x1a sp.code wd.code 0 g.code off t0.code)
  | .fill sp wd g off t0 => some (packM 0x1a sp.code wd.code 1 g.code off t0.code)
  | .empty sp wd g off t0 => some (packM 0x1b sp.code wd.code 0 g.code off t0.code)
  | .wcvLoad sp wd g off t0 => some (packM 0x1c sp.code wd.code 0 g.code off t0.code)
  | .wcvStore sp wd g off => some (packM 0x1c sp.code wd.code 0 g.code off 0)
  | .atomAdd sp wd g t0 => some (packM 0x20 sp.code wd.code 0 g.code 0 t0.code)
  | .atomEsum sp wd g t0 => some (packM 0x20 sp.code wd.code 0 g.code 8 t0.code)
  | .atomAnd sp wd g t0 => some (packM 0x20 sp.code wd.code 0 g.code 16 t0.code)
  | .atomOr sp wd g t0 => some (packM 0x20 sp.code wd.code 0 g.code 24 t0.code)
  | .atomXor sp wd g t0 => some (packM 0x20 sp.code wd.code 0 g.code 32 t0.code)
  | .atomMin sp wd g t0 => some (packM 0x20 sp.code wd.code 0 g.code 40 t0.code)
  | .atomMax sp wd g t0 => some (packM 0x20 sp.code wd.code 0 g.code 48 t0.code)
  | .atomMinn sp wd g t0 => some (packM 0x20 sp.code wd.code 0 g.code 56 t0.code)
  | .atomMaxn sp wd g t0 => some (packM 0x20 sp.code wd.code 0 g.code 64 t0.code)
  | .atomFmin sp wd g t0 => some (packM 0x20 sp.code wd.code 0 g.code 72 t0.code)
  | .atomFmax sp wd g t0 => some (packM 0x20 sp.code wd.code 0 g.code 80 t0.code)
  | .atomSwap sp wd g t0 => some (packM 0x20 sp.code wd.code 0 g.code 88 t0.code)
  | .cas sp wd g t0 => some (packM 0x21 sp.code wd.code 0 g.code 0 t0.code)
  | .step g n => some (packI 0x22 0 g.code (BitVec.ofNat 10 n.toNat) 0)
  | .barr g n => some (packI 0x22 1 g.code (BitVec.ofNat 10 n.toNat) 0)
  | .bwait g n t0 => some (packI 0x22 2 g.code (BitVec.ofNat 10 n.toNat) t0.code)
  | .fenceCore g t0 => some (packI 0x22 3 g.code 0 t0.code)
  | .fenceClus g t0 => some (packI 0x22 4 g.code 0 t0.code)
  | .fenceDie g t0 => some (packI 0x22 5 g.code 0 t0.code)
  | .fencePkg g t0 => some (packI 0x22 6 g.code 0 t0.code)
  | .fenceSys g t0 => some (packI 0x22 7 g.code 0 t0.code)
  | .combAdd g v n t0 => some (packG 0x23 0 g.code (bit v) (BitVec.ofNat 9 n.toNat) t0.code)
  | .combMin g v n t0 => some (packG 0x23 1 g.code (bit v) (BitVec.ofNat 9 n.toNat) t0.code)
  | .combMax g v n t0 => some (packG 0x23 2 g.code (bit v) (BitVec.ofNat 9 n.toNat) t0.code)
  | .combMinn g v n t0 => some (packG 0x23 3 g.code (bit v) (BitVec.ofNat 9 n.toNat) t0.code)
  | .combMaxn g v n t0 => some (packG 0x23 4 g.code (bit v) (BitVec.ofNat 9 n.toNat) t0.code)
  | .combAnd g v n t0 => some (packG 0x23 5 g.code (bit v) (BitVec.ofNat 9 n.toNat) t0.code)
  | .combOr g v n t0 => some (packG 0x23 6 g.code (bit v) (BitVec.ofNat 9 n.toNat) t0.code)
  | .combXor g v n t0 => some (packG 0x23 7 g.code (bit v) (BitVec.ofNat 9 n.toNat) t0.code)
  | .combFadd g v n t0 => some (packG 0x23 8 g.code (bit v) (BitVec.ofNat 9 n.toNat) t0.code)
  | .combFmin g v n t0 => some (packG 0x23 9 g.code (bit v) (BitVec.ofNat 9 n.toNat) t0.code)
  | .combFmax g v n t0 => some (packG 0x23 10 g.code (bit v) (BitVec.ofNat 9 n.toNat) t0.code)
  | .redF32 g t => some (packI 0x24 0 g.code (BitVec.ofNat 10 t.toNat) 0)
  | .redXs g t => some (packI 0x24 1 g.code (BitVec.ofNat 10 t.toNat) 0)
  | .vadd f rm g t0 t1 => some (packG (0x28 + f.code) (BitVec.ofNat 5 (0 + rm.code / 2 * 16)) g.code (BitVec.ofNat 1 rm.code) t1.code t0.code)
  | .vsub f rm g t0 t1 => some (packG (0x28 + f.code) (BitVec.ofNat 5 (1 + rm.code / 2 * 16)) g.code (BitVec.ofNat 1 rm.code) t1.code t0.code)
  | .vmul f rm g t0 t1 => some (packG (0x28 + f.code) (BitVec.ofNat 5 (2 + rm.code / 2 * 16)) g.code (BitVec.ofNat 1 rm.code) t1.code t0.code)
  | .vfma f rm t0 t1 => some (packG (0x28 + f.code) (BitVec.ofNat 5 (3 + rm.code / 2 * 16)) 0 (BitVec.ofNat 1 rm.code) t1.code t0.code)
  | .vfms f rm t0 t1 => some (packG (0x28 + f.code) (BitVec.ofNat 5 (4 + rm.code / 2 * 16)) 0 (BitVec.ofNat 1 rm.code) t1.code t0.code)
  | .vmax f g t0 t1 => some (packG (0x28 + f.code) 5 g.code 0 t1.code t0.code)
  | .vmin f g t0 t1 => some (packG (0x28 + f.code) 6 g.code 0 t1.code t0.code)
  | .vabs f g t0 t1 => some (packG (0x28 + f.code) 7 g.code 0 t1.code t0.code)
  | .vneg f g t0 t1 => some (packG (0x28 + f.code) 8 g.code 0 t1.code t0.code)
  | .vrcp f rm g t0 t1 => some (packG (0x28 + f.code) (BitVec.ofNat 5 (9 + rm.code / 2 * 16)) g.code (BitVec.ofNat 1 rm.code) t1.code t0.code)
  | .vrsq f rm g t0 t1 => some (packG (0x28 + f.code) (BitVec.ofNat 5 (10 + rm.code / 2 * 16)) g.code (BitVec.ofNat 1 rm.code) t1.code t0.code)
  | .vsqrt f rm g t0 t1 => some (packG (0x28 + f.code) (BitVec.ofNat 5 (11 + rm.code / 2 * 16)) g.code (BitVec.ofNat 1 rm.code) t1.code t0.code)
  | .vexp2 f rm g t0 t1 => some (packG (0x28 + f.code) (BitVec.ofNat 5 (12 + rm.code / 2 * 16)) g.code (BitVec.ofNat 1 rm.code) t1.code t0.code)
  | .vlog2 f rm g t0 t1 => some (packG (0x28 + f.code) (BitVec.ofNat 5 (13 + rm.code / 2 * 16)) g.code (BitVec.ofNat 1 rm.code) t1.code t0.code)
  | .vtanh f rm g t0 t1 => some (packG (0x28 + f.code) (BitVec.ofNat 5 (14 + rm.code / 2 * 16)) g.code (BitVec.ofNat 1 rm.code) t1.code t0.code)
  | .vcmp f c g t0 t1 => some (packG (0x28 + f.code) (BitVec.ofNat 5 (15 + c.code / 2 * 16)) g.code (BitVec.ofNat 1 c.code) t1.code t0.code)
  | .vsel t0 t1 => some (packG 0x2b 0 0 0 t1.code t0.code)
  | .vbcastW32 g t0 t1 => some (packG 0x2b 1 g.code 0 t1.code t0.code)
  | .vbcastW16 g t0 t1 => some (packG 0x2b 2 g.code 0 t1.code t0.code)
  | .vbcastW8 g t0 t1 => some (packG 0x2b 3 g.code 0 t1.code t0.code)
  | .vpermW32 g t0 t1 => some (packG 0x2b 4 g.code 0 t1.code t0.code)
  | .vpermW16 g t0 t1 => some (packG 0x2b 5 g.code 0 t1.code t0.code)
  | .vpermW8 g t0 t1 => some (packG 0x2b 6 g.code 0 t1.code t0.code)
  | .vextrW32 g l t0 => some (packG 0x2B 7 g.code 0 (BitVec.ofNat 9 l.toNat) t0.code)
  | .vextrW16 g l t0 => some (packG 0x2B 8 g.code 0 (BitVec.ofNat 9 l.toNat) t0.code)
  | .vextrW8 g l t0 => some (packG 0x2B 9 g.code 0 (BitVec.ofNat 9 l.toNat) t0.code)
  | .vinsW32 g l t0 => some (packG 0x2B 10 g.code 0 (BitVec.ofNat 9 l.toNat) t0.code)
  | .vinsW16 g l t0 => some (packG 0x2B 11 g.code 0 (BitVec.ofNat 9 l.toNat) t0.code)
  | .vinsW8 g l t0 => some (packG 0x2B 12 g.code 0 (BitVec.ofNat 9 l.toNat) t0.code)
  | .vrsum f g t0 t1 => some (packG 0x2C (BitVec.ofNat 5 (0 + f.code * 8)) g.code 0 t1.code t0.code)
  | .vrmax f g t0 t1 => some (packG 0x2C (BitVec.ofNat 5 (1 + f.code * 8)) g.code 0 t1.code t0.code)
  | .vrmin f g t0 t1 => some (packG 0x2C (BitVec.ofNat 5 (2 + f.code * 8)) g.code 0 t1.code t0.code)
  | .vamax f g t0 t1 => some (packG 0x2C (BitVec.ofNat 5 (3 + f.code * 8)) g.code 0 t1.code t0.code)
  | .vexpo f g t0 t1 => some (packG 0x2C (BitVec.ofNat 5 (4 + f.code * 8)) g.code 0 t1.code t0.code)
  | .vexpoSc f g t0 t1 => some (packG 0x2C (BitVec.ofNat 5 (4 + f.code * 8)) g.code 1 t1.code t0.code)
  | .vldexp f g t0 t1 => some (packG 0x2C (BitVec.ofNat 5 (5 + f.code * 8)) g.code 0 t1.code t0.code)
  | .vcvt g dst src ovf rm t0 => some (packI 0x2D 0 g.code (BitVec.ofNat 10 (dst.toNat * 128 + src.toNat * 16 + ovf.toNat * 4 + rm.code)) t0.code)
  | .vscale g e t0 t1 => some (packG 0x2E 0 g.code (bit e) t1.code t0.code)
  | .sacc e t0 t1 => some (packG 0x2E 1 0 (bit e) t1.code t0.code)
  | .vpack g k t0 => some (packG 0x2E 2 g.code 0 (BitVec.ofNat 9 k.toNat) t0.code)
  | .vunpackLo g src t0 => some (packG 0x2E 3 g.code 0 (BitVec.ofNat 9 src.toNat) t0.code)
  | .vunpackHi g src t0 => some (packG 0x2E 4 g.code 0 (BitVec.ofNat 9 src.toNat) t0.code)
  | .eaddF32 g n t0 => some (packI 0x2f 0 g.code (BitVec.ofNat 10 n.toNat) t0.code)
  | .eaddBf16 g n t0 => some (packI 0x2f 1 g.code (BitVec.ofNat 10 n.toNat) t0.code)
  | .eroundF32 g n t0 => some (packI 0x2f 2 g.code (BitVec.ofNat 10 n.toNat) t0.code)
  | .eroundBf16 g n t0 => some (packI 0x2f 3 g.code (BitVec.ofNat 10 n.toNat) t0.code)
  | .eclr g n => some (packI 0x2f 4 g.code (BitVec.ofNat 10 n.toNat) 0)
  | .mma acc f g t0 t1 => some (packG 0x34 (BitVec.ofNat 5 (acc.toNat * 8 + 0 + f.toNat)) g.code 0 t1.code t0.code)
  | .mmaG acc f t0 t1 => some (packG 0x34 (BitVec.ofNat 5 (acc.toNat * 8 + 4 + f.toNat)) 0 0 t1.code t0.code)
  | .mmaCb acc g t0 t1 => some (packG 0x34 (BitVec.ofNat 5 (acc.toNat * 8 + 0)) g.code 1 t1.code t0.code)
  | .accclr acc g t0 => some (packG 0x35 (BitVec.ofNat 5 (acc.toNat * 8 + 0)) g.code 0 0 t0.code)
  | .accrd acc g t0 t1 => some (packG 0x35 (BitVec.ofNat 5 (acc.toNat * 8 + 1)) g.code 0 t1.code t0.code)
  | .accrdSt acc g t0 => some (packG 0x35 (BitVec.ofNat 5 (acc.toNat * 8 + 2)) g.code 0 0 t0.code)
  | .accwr acc g t0 => some (packG 0x35 (BitVec.ofNat 5 (acc.toNat * 8 + 3)) g.code 0 0 t0.code)
  | .tdset g fld m => some (packI 0x36 0 g.code (BitVec.ofNat 10 (fld.toNat * 16 + m.toNat)) 0)
  | .copy g t0 t1 => some (packG 0x37 0 g.code 0 t1.code t0.code)
  | .copyMc g t0 t1 => some (packG 0x37 1 g.code 0 t1.code t0.code)
  | .stage g => some (packG 0x37 2 g.code 0 0 0)
  | .xform g t0 => some (packG 0x37 3 g.code 0 0 t0.code)
  | .fprint g core t0 t1 => some (packG 0x37 4 g.code (bit core) t1.code t0.code)
  | .dedup g t0 => some (packG 0x37 5 g.code 0 0 t0.code)
  | .gatherRows g t0 t1 => some (packG 0x38 0 g.code 0 t1.code t0.code)
  | .gatherSum g t0 t1 => some (packG 0x38 1 g.code 0 t1.code t0.code)
  | .gatherMean g t0 t1 => some (packG 0x38 2 g.code 0 t1.code t0.code)
  | .gatherWsum g t0 t1 => some (packG 0x38 3 g.code 0 t1.code t0.code)
  | .scatterAdd g t0 t1 => some (packG 0x38 8 g.code 0 t1.code t0.code)
  | .scatterMax g t0 t1 => some (packG 0x38 9 g.code 0 t1.code t0.code)
  | .scatterMin g t0 t1 => some (packG 0x38 10 g.code 0 t1.code t0.code)
  | .scatterOvw g t0 t1 => some (packG 0x38 11 g.code 0 t1.code t0.code)
  | .attn g t0 t1 => some (packG 0x38 16 g.code 0 t1.code t0.code)
  | .randN64 n g v t0 t1 => some (packG 0x39 (BitVec.ofNat 5 (0 + n.toNat)) g.code (bit v) t1.code t0.code)
  | .randF32 n g v t0 t1 => some (packG 0x39 (BitVec.ofNat 5 (8 + n.toNat)) g.code (bit v) t1.code t0.code)
  | .rskip n g t0 => some (packG 0x39 (BitVec.ofNat 5 (16 + n.toNat)) g.code 0 0 t0.code)
  | .spawn g => some (packG 0x3a 0 g.code 0 0 0)
  | .alloc g t0 => some (packG 0x3a 1 g.code 0 0 t0.code)
  | .free g => some (packG 0x3a 2 g.code 0 0 0)
  | .stopk g n t0 => some (packI 0x3c 0 g.code (BitVec.ofNat 10 n.toNat) t0.code)
  | .smix g n t0 => some (packI 0x3c 1 g.code (BitVec.ofNat 10 n.toNat) t0.code)
  | .shid g n t0 => some (packI 0x3c 2 g.code (BitVec.ofNat 10 n.toNat) t0.code)
  | .semb g n t0 => some (packI 0x3c 3 g.code (BitVec.ofNat 10 n.toNat) t0.code)
  | .sembProj g n t0 => some (packI 0x3c 3 g.code (BitVec.ofNat 10 (16 + n.toNat)) t0.code)
  | .scollArgmax g n t0 => some (packI 0x3c 4 g.code (BitVec.ofNat 10 n.toNat) t0.code)
  | .scollSample g m n t0 => some (packI 0x3c 5 g.code (BitVec.ofNat 10 (m.toNat * 16 + n.toNat)) t0.code)
  | .scollConf g n t0 => some (packI 0x3c 6 g.code (BitVec.ofNat 10 n.toNat) t0.code)
  | .slog g r n t0 => some (packI 0x3c 7 g.code (BitVec.ofNat 10 (r.toNat * 16 + n.toNat)) t0.code)
  | .scmp g t0 => some (packI 0x3c 8 g.code 0 t0.code)
  | .srpl g n t0 => some (packI 0x3c 9 g.code (BitVec.ofNat 10 n.toNat) t0.code)
  | .sget g fld n t0 => some (packI 0x3c 10 g.code (BitVec.ofNat 10 (fld.toNat * 16 + n.toNat)) t0.code)
  | .nop g t0 => some (packI 0x3e 0 g.code 0 t0.code)
  | .trap g c t0 => some (packI 0x3e 1 g.code (BitVec.ofNat 10 c.toNat) t0.code)
  | .brk g c t0 => some (packI 0x3e 2 g.code (BitVec.ofNat 10 c.toNat) t0.code)
  | .rdsr g r t0 => some (packI 0x3e 3 g.code r.code t0.code)
  | .wrsr g r => some (packI 0x3e 4 g.code r.code 0)
  | .flags g m t0 => some (packI 0x3e 5 g.code (BitVec.ofNat 10 m.toNat) t0.code)
  | .perf g t0 => some (packI 0x3e 6 g.code 0 t0.code)
  | .safe g t0 => some (packI 0x3e 7 g.code 0 t0.code)
  | .fixreq g t0 => some (packI 0x3e 8 g.code 0 t0.code)
  | .wMac _ | .wCb _ | .wO4 _ | .wBook _ | .wSwitch _ | .wEmit _ | .wExit _ | .instanceBegin _ | .instanceCommit _ | .decisionArrive _
  | .stepSwap _ _ | .stepTimeout _ _ | .barrierTimeout _ _ | .bufferedAccessPerform _ _ | .granuleWaitTimeout _ | .syncFaultDelivery _
  | .asyncDeliveryTimeout _ | .matrixTileStep _ _ | .engineCompletion _ | .attnAccept _ | .attnUnit _ | .attnResultWrite _ | .driveExit _
  | .redNodeCombine _ _ | .redNodeTimeout _ _ | .overflowTokenReturn _ | .parkresReplay _ _ | .parkresFail _ _ | .parkTimeout _ _ | .tinvPage _ _ _
  | .tinvAsid _ _ | .tinvAll _ | .slabMoveStart _ _ _ | .slabMoveUnit _ _ | .fwdDisable _ _ | .homeUnitBatch _ | .rowMigration _ _ _ _ _ _
  | .codeTableInstall _ | .cmpRelearn _ | .cmpGenFree _ | .patrolScrub _ _ | .evcntThreshold _ | .fixGo _ | .fixCont | .fixKill | .fixReadoutDone
  | .thermalThrottle | .thermalFix | .powerThrottle | .prectlDrain _ _ | .drainComplete _ | .drainTimeout _ | .prectlFreeze _ _
  | .prectlRestore _ _ | .partclWrite _ _ _ | .qgpartWrite _ _ | .dswinWrite _ _ _ | .fdispWrite _ _ _ | .qtailWrite _ _ | .qctlWrite _ _
  | .launchRecordRead _ | .nodePlace _ | .readyPriorityPromote _ _ | .nodeDispatch _ _ | .nodeEnd _ _ | .hostMemWrite _ _ _ | .hostMemRead _
  | .peerAccess _ | .rcvgo | .attgo | .powerGood | .packageReset | .regWrite _ _ _ | .firmwarePolicyResume _ _ => none

/-- The 64-byte header of a weight block as eight 64-bit words. -/
def toHeader : Instr → Option (List Word64)
  | .wMac h => some (h.header 0)
  | .wCb h => some (h.header 1)
  | .wO4 h => some (h.header 2)
  | .wBook h => some (h.header 3)
  | .wSwitch h => some (h.header 4)
  | .wEmit h => some (h.header 5)
  | .wExit h => some (h.header 6)
  | _ => none

/-! ### Decoding -/

/-- The instruction of a word, or the verify code of R47 under which it is none: an unassigned encoding first, then a reserved target field (code
0x04), which is the one thing in which the word of the instruction may differ from the word read. Log 20, DEDUCED: which verify code some malformed words get. Log 114, DEDUCED: the opcode table's match of the 21 two-operand integer rows is wrong; the rules are followed. Log 119, DEDUCED: the assembler kzas is software outside the device; the model starts from the words. -/
def decode (w : Word32) : Except Nat Instr :=
  match parse w with
  | .error code => .error code
  | .ok i => if wfCode i ≠ 0 then .error (wfCode i) else if toWord i = some w then .ok i else .error 0x04

/-- The weight block of a header, or the code of R269. Bits that R267 and R268 leave zero are checked by `wfCode`. -/
def decodeHeader (ws : List Word64) : Except Nat Instr :=
  match parseHeader ws with
  | .error code => .error code
  | .ok i => if wfCode i ≠ 0 then .error (wfCode i) else if toHeader i = some ws then .ok i else .error 0x09

/-- The words of a well-formed instruction: one for an instruction of a block, sixteen for a weight block, none for an event of the device. -/
def encode (i : Instr) : List Word32 :=
  match toWord i, toHeader i with
  | some w, _ => [w]
  | none, some ws => ws.flatMap (fun x => [BitVec.ofNat 32 x.toNat, BitVec.ofNat 32 (x.toNat / 2 ^ 32)])
  | none, none => []

/-- The instruction whose bits, numbered as the opcode table numbers them, are `w`. -/
def decodeTableWord (nbits w : Nat) : Option Instr :=
  if nbits ≤ 32 then
    match decode (BitVec.ofNat 32 w) with
    | .ok i => some i
    | .error _ => none
  else
    match decodeHeader ((List.range 8).map (fun k => BitVec.ofNat 64 (w / 2 ^ (64 * k)))) with
    | .ok i => some i
    | .error _ => none

end Sys2Proof
end

