-- ==== Sys2Proof/Config.lean ====
section
/-! DEFINITION. What an implementation fixes and what the spec leaves open. Every constant here has no body: no proof can see its
value, so a claim about it holds whatever it is. `n` is the value of the counter `State.choice` when the value is taken. -/

namespace Sys2Proof.Config

/-- Which of several acts that may happen next does happen (R18, R111, R414, R415): its remainder picks from the list of them. -/
opaque schedule (n : Nat) : Nat

/-- After how many steps an operation that is ready fires at the latest (R20), and time goes on. -/
opaque patience : Nat

/-- How many arithmetic clocks pass before an act (R332 and every other latency). -/
opaque clocks (n : Nat) : Nat

/-- Whether a translation buffer still holds an entry it once filled (R315). -/
opaque tlbKeeps (n : Nat) : Bool

/-- Whether the streamer reads its next row before it writes the one it holds (R197). -/
opaque readsAhead (n : Nat) : Bool

/-- Where on a die `n` frames of next-plane storage begin (R294). -/
opaque planeStart (n : Nat) : Nat

/-- The global rank of the first member of a step group on this device (R299: the team sizes of the devices of lower numbers). -/
opaque rankBase (dev gkey : Nat) : Nat

/-- The mantissa bits of an elementary function where the interval computed here does not decide them (R159). -/
opaque undecided (x : Nat) : Nat

/-- A byte the spec leaves unstated: the read-out of a fix (R390), the body of a freeze image (R384), a lost checkpoint header (R258). -/
opaque freeByte (n i : Nat) : Byte

/-- A 64-bit value the spec leaves unstated. -/
opaque freeWord (n : Nat) : Word64

/-- The code length that learning gives each byte value (R309: the choice of lengths affects only bandwidth). -/
opaque codeLength (n value : Nat) : Nat

/-- Whether a signature over an image body verifies against the Novbex key (R406, R409). Log 109, DESIGN CHOICE: signatures, digests and the device's identity are opaque. -/
opaque imageSigned (body signature : List Byte) : Bool

/-- The signature over bytes 0 to 159 of an attestation report (R408). -/
opaque signature (report : List Byte) : List Byte

/-- SHA-384 as R408 uses it. -/
opaque sha384 (bytes : List Byte) : List Byte

/-- The device's serial number, load verifier version and certificate, and the digest of the firmware it came with (R406 to R409). -/
opaque serial : Word64
opaque verifierVersion : Word32
opaque certificate : List Byte
opaque firmwareDigest : List Byte

/-- Whether the peer device `dev` turns an access away, and with which class and code (R402, R403: its tables are its own). -/
opaque peerRefuses (dev va : Nat) (write : Bool) (n : Nat) : Option (Nat × Nat)

/-- Whether the host rejects a device access at this address (R397). -/
opaque hostRejects (addr : Nat) (write : Bool) (n : Nat) : Bool

end Sys2Proof.Config
end

