-- ==== Sys2Proof/Machine/State.lean ====
section
/-! DEFINITION. The state of the NBS-4800 as plain data (spec 01, and the rule each docstring names), the reasons a step may stop,
and the state after reset. -/

namespace Sys2Proof.Machine

open Sys2Proof

/-- A sparse map: keys strictly rising, no entry equal to what an unlisted key reads as (`SMap.wf`, Ops.lean). -/
abbrev SMap (α : Type) := List (Nat × α)

/-! ### Tokens and tags -/

/-- Token kinds (R10). -/
inductive Kind where
  | scalar | vector | handle | control
  deriving DecidableEq, Repr

/-- A token (R10). A control token's polarity is bit 0. With `e` the descriptor of R11 stands in bits 63:0. -/
structure Token where
  kind : Kind
  data : Payload
  s    : Bool
  e    : Bool
  n    : Bool
  deriving DecidableEq, Repr

/-- The nest record (R15, R28): width codes, level 0 first. -/
abbrev NestRec := List (BitVec 3)

/-- A token that stands at a slot of a node. -/
structure Arrived where
  idx  : Nat
  slot : Slot
  tok  : Token
  deriving DecidableEq, Repr

/-- What a counting node (`merge`, `join`, `comb`) holds in its matching-store entry (R77, R78, R125, R333). -/
structure Counting where
  idx   : Nat
  seen  : Nat
  nulls : Nat
  held  : Option Token
  err   : Option Token
  deriving DecidableEq, Repr

/-! ### Effects that wait for commit -/

/-- What a buffered access does (R108). -/
inductive MemOp where
  | store | fill | empty | wcv | atom (op : AtomOp) | cas
  deriving DecidableEq, Repr

/-- One buffered access with its effective address and data. -/
structure Access where
  op   : MemOp
  sp   : Space
  wd   : MWidth
  ea   : Word64
  data : Payload
  deriving DecidableEq, Repr

/-- Kinds of engine command (R180 to R217, R229, R261). -/
inductive CmdKind where
  | mma (acc : BitVec 2) (f : BitVec 2) | mmaG (acc : BitVec 2) (f : BitVec 2) | mmaCb (acc : BitVec 2)
  | accclr (acc : BitVec 2) | accrd (acc : BitVec 2) | accrdSt (acc : BitVec 2) | accwr (acc : BitVec 2)
  | copy | copyMc | xform | fprint (core : Bool) | dedup
  | gather (mode : BitVec 2) | scatter (mode : BitVec 2) | attn
  | spawn | alloc | free | tdset (fld : BitVec 6) (m : BitVec 4) | stage
  | semb (n : BitVec 4) (proj : Bool)
  deriving DecidableEq, Repr

/-- An engine command with its operands as they arrived. -/
structure Cmd where
  kind : CmdKind
  a    : Payload
  aK   : Kind
  b    : Payload
  bK   : Kind
  g    : Payload
  deriving DecidableEq, Repr

/-- An effect that takes place at the commit of its block run, or is issued then and performed later (R67, R108). `append` is one of the writes that a `slog` makes once it
has reserved its record (R233). -/
inductive Eff where
  | gwrite (r : BitVec 6) (v : Word64)
  | wrsr (r : SysReg) (v : Word64)
  | flagsClear (m : BitVec 7)
  | nest (c : BitVec 3)
  | unnest
  | access (a : Access)
  | slog (desc : Word64) (spill : Word64) (image : BitVec 1024) (replayable : Bool)
  | append (a : Access)
  | step (sg : BitVec 6)
  | barr (b : BitVec 5)
  | red (xs : Bool) (tree : BitVec 6) (data : Payload) (kind : Kind) (s : Bool)
  | cmd (c : Cmd)
  | decide (set slot first count : Nat)
  | soft (n : BitVec 4) (image : BitVec 1024)
  | eclr (n : BitVec 3)
  | eadd (n : BitVec 3) (bf16 : Bool) (v : Payload)
  | draw (n : BitVec 2) (count : Nat)
  | trap (cls code : Nat)
  | safe
  | fixreq
  deriving DecidableEq, Repr

/-- A buffered effect with the node that made it. -/
structure Buffered where
  idx : Nat
  eff : Eff
  deriving DecidableEq, Repr

/-- A fault found at a node of a block run (R13): the record's fields that the node knows. -/
structure NodeFault where
  idx    : Nat
  cls    : Nat
  code   : Nat
  icls   : Nat
  icode  : Nat
  ticket : Nat
  vaddr  : Nat
  blk    : Option Word64
  deriving DecidableEq, Repr

/-- How a successor comes about (R65). -/
inductive BegunBy where
  | dispatch | iter | ret | other | handlerReturn
  deriving DecidableEq, Repr

/-- A successor that an exit has named and the helm has not begun (R63, R65). `src` and `idx` are the run and the exit that named it; `copy` is the placed copy it
runs on when the exit fixes it (`iter`, `brn.dec`). -/
structure Succ where
  addr   : Word64
  by'    : BegunBy
  nest   : BitVec 56
  widths : NestRec
  frame  : Nat
  toks   : List Arrived
  src    : Nat
  idx    : Nat
  copy   : Option (Nat × Nat)
  deriving DecidableEq, Repr

/-- An exit that took effect (R66). -/
inductive ExitKind where
  | br | call | wdrive (head desc : Word64) | brn | brnDec | bri | calli | ret | iter | halt | handlerReturn
  deriving DecidableEq, Repr

/-- An entry of the return stack (R73). -/
structure StackEntry where
  addr   : Word64
  nest   : BitVec 56
  widths : NestRec
  deriving DecidableEq, Repr

/-- What R68 restores when a block run is discarded: the stack as the run found it, and the decision its `brn.dec` took. -/
structure Undo where
  stack  : List StackEntry
  spill  : Nat
  rspill : Word64
  latch  : Option (Nat × Nat)
  deriving DecidableEq, Repr

/-- A block run: one execution of a block, from its beginning to its commit or discard (R63 to R69). `partly` holds, for an unaligned load, the bytes of the pieces it
has read (R114). -/
structure BlockRun where
  iid     : Nat
  addr    : Word64
  cfg     : Nat
  slot    : Nat
  frame   : BitVec 8
  nest    : BitVec 56
  widths  : NestRec
  det     : Bool
  toks    : List Arrived
  counts  : List Counting
  fired   : List Nat
  ancest  : SMap (BitVec 128)
  entered : List (Nat × Nat × Bool)
  outs    : Nat
  faults  : List NodeFault
  exit    : Option (Nat × ExitKind)
  effs    : List Buffered
  flags   : BitVec 7
  carried : List Arrived
  undo    : Undo
  begun   : Bool
  parked  : List Nat
  denied  : List (Nat × Nat × Nat)
  spilled : List Arrived
  partly  : SMap (List Byte) := []
  deriving DecidableEq, Repr

/-! ### Faults, records and latches -/

/-- A fault record (R370) with its operand record (R371) and the full list of missing ranks that the firmware holds beside it. -/
structure FaultRec where
  cls    : Nat
  code   : Nat
  icls   : Nat
  icode  : Nat
  idx    : Nat
  auxid  : Nat
  rflags : Nat
  blk    : Word64
  tag    : Word64
  ticket : Nat
  auxn   : Nat
  vaddr  : Nat
  map    : Nat
  oprec  : List Byte
  miss   : List Nat := []
  deriving DecidableEq, Repr

/-- Weight bytes that a drive has read ahead of their use: `n` bytes at `va`, a header or part of a payload, or the failure of that read (R275). -/
structure Ahead where
  va    : Nat
  n     : Nat
  head  : Bool
  bytes : List Byte
  bad   : Option (Nat × Nat × Nat)
  deriving DecidableEq, Repr

/-- A weight-driven drive: the chain state of R263 and R280. `recs` maps a slot (aj at j, oj at 8 + j) to its copied record. `blk` and `tile` name the current block
and its next tile; `hdr` is its header once read, `offs` the places of its tiles once its checks have passed. `head` says that the descriptor is still to be checked,
`value` is the decision that a switch has taken, and `fault` the chain fault that waits to be delivered. `ahead` holds what the streamer has read ahead, or how a read failed (R275), and `book` the chain
codebook while the drive stands in the latch (R281). The tag, block and index are those of the `wdrive`. -/
structure Drive where
  id      : Nat
  desc    : List Byte
  recs    : SMap (BitVec 256)
  blk     : Word64
  tile    : Nat
  head    : Bool
  hdr     : List Byte
  offs    : Option (List Nat)
  value   : Option Word64
  resume  : Word64
  frame   : BitVec 8
  nest    : BitVec 56
  widths  : NestRec
  after   : BitVec 56 × NestRec
  seq     : Nat
  wblk    : Word64
  idx     : Nat
  ticket  : Nat
  cdone   : Word64
  dropDone : Bool
  count   : Nat
  leaving : Bool
  parked  : Bool
  denied  : Option (Nat × Nat)
  at'     : Nat
  fault   : Option FaultRec
  ahead   : List Ahead := []
  book    : BitVec 256 := 0
  deriving DecidableEq, Repr

/-- The resume latch (R375). -/
inductive Latch where
  | none
  | block (addr : Word64) (nest : BitVec 56) (widths : NestRec) (toks : List Arrived)
  | endOfTask
  | drive (d : Drive)
  deriving DecidableEq, Repr

/-! ### Contexts -/

/-- A completion token that waits for a run of its block under its tag, and the fault to raise when it is lost (R183). -/
structure Stray where
  tag  : Word64
  cfg  : Nat
  slot : Nat
  tok  : Arrived
  lost : FaultRec
  op   : Nat
  deriving DecidableEq, Repr

/-- A lane of an exact-sum register (R152): the 320-bit value and the flags +Inf, -Inf, NaN. -/
structure XsLane where
  v    : BitVec 320
  pinf : Bool
  ninf : Bool
  nan  : Bool
  deriving DecidableEq, Repr

/-- A buffered effect of a committed block run, not yet performed (R108). `at'` is the address at which it last waited for a page. -/
structure Pending where
  id     : Nat
  seq    : Nat
  idx    : Nat
  iid    : Nat
  blk    : Word64
  tag    : Word64
  node   : Nat
  ancest : BitVec 128
  after  : List Nat
  eff    : Eff
  parked : Bool
  denied : Option (Nat × Nat)
  atHome : Bool
  at'    : Nat
  deriving DecidableEq, Repr

/-- Where a context stands (R363, R377): free, running a task, stopped by an escalation, or ended and waiting for its team. -/
inductive CtxMode where
  | free | running | stopped | ended
  deriving DecidableEq, Repr

/-- One hardware context: the registers of R21 and R27 that are held per context, and the helm's state for it. `resume` is the resume latch; while a handler is stopped by an
escalation (R377) it names the handler's own block, and `under` keeps what the handler itself returns to. `fetchAt` is the address at which
the fetch of the successor last waited for a page. -/
structure Ctx where
  mode     : CtxMode
  launch   : Nat
  node     : Nat
  pass     : Nat
  rank     : Nat
  tsize    : Nat
  part     : Nat
  grp      : Nat
  detLaunch : Bool
  g        : SMap Word64
  gEmpty   : SMap Nat
  gFrom    : SMap Nat
  consumed : List Nat
  flags    : Word64
  modeReg  : Word64
  accmap   : Word64
  nest     : BitVec 56
  widths   : NestRec
  handler  : Word64
  faultptr : Word64
  rspill   : Word64
  rndkey   : SMap Word64
  rndctr   : SMap (BitVec 128)
  dropcnt  : Word64
  tilefull : Word64
  tilepart : Word64
  tileempty : Word64
  perfsel  : Word64
  lastclass : BitVec 8
  pendBit  : Bool
  hndl     : Bool
  wdrv     : Bool
  soft     : SMap (BitVec 1024)
  xs       : SMap XsLane
  stack    : List StackEntry
  spill    : Nat
  latch    : Option (Nat × Nat)
  held     : List (Nat × Nat)
  ticket   : BitVec 32
  codebook : BitVec 256
  runs     : List BlockRun
  seq      : Nat
  next     : Option Succ
  pend     : List Pending
  arrivals : List (Nat × Nat)
  drive    : Option Drive
  resume   : Latch
  under    : Latch
  asyncs   : List FaultRec
  pendAt   : Nat
  hDepth   : Nat
  fetchParked : Bool
  fetchDenied : Option (Nat × Nat)
  fetchAt  : Nat
  helmParked : Bool
  helmDenied : Option (Nat × Nat)
  safePoint : Bool
  strays   : List Stray
  deriving DecidableEq, Repr

/-! ### Cores, clusters, dies -/

/-- A block placed in a configuration set (R44, R63, R82). `pin` is the context that has pinned it and `pinBy` the block run whose `cfgld` did.
`next'` is the block that `brn` names (R33), once the header of the literal pool before it could be read, `nout` its outputs. -/
structure Placed where
  cfg   : Nat
  slot  : Nat
  addr  : Word64
  grp   : Nat
  words : List Word32
  pool  : Option (List Word64)
  next' : Option Word64
  det   : Bool
  loop  : Bool
  safe  : Bool
  nout  : Nat
  pin   : Option Nat
  pinBy : Nat
  deriving DecidableEq, Repr

/-- An operation in an accumulator queue (R193). A weight chain issues a tile step or an emit when the queue is empty, so none of its own stand in one. -/
inductive AccOp where
  | engine (op : Nat)
  | attention (op : Nat)
  deriving DecidableEq, Repr

/-- One core (R9): shape records, accumulators, queues, placed blocks. -/
structure Core where
  td      : SMap (BitVec 256)
  acc     : SMap Word32
  poisoned : SMap Bool
  queues  : SMap (List AccOp)
  placed  : List Placed
  stalls  : SMap Nat
  deriving DecidableEq, Repr

/-- A numbered barrier (R26): the contexts that have arrived and the clock of the first arrival stand beside its fields. -/
structure Barrier where
  armed   : Bool
  expect  : Nat
  arrived : List Nat
  gen     : BitVec 8
  first   : Nat
  deriving DecidableEq, Repr

/-- One contribution to a planed element, settled by R128 at the swap. `op` is 1 + the number of the engine operation that made it, or 0; `rows` says that it is a
position of a `scatter`, `after` lists the operations of which a completion was consumed before it, and `seed` is the present value of the element at the first contribution
of the phase. The rank is the global one (R299). -/
structure Contribution where
  key    : Nat
  va     : Nat
  width  : Nat
  rule   : Nat
  rank   : Nat
  c      : Nat
  seq    : Nat
  order  : Nat
  idx    : Nat
  ancest : BitVec 128
  tagKey : Nat
  node   : Nat
  op     : Nat
  rows   : Bool
  after  : List Nat
  seed   : Nat
  value  : Nat
  deriving DecidableEq, Repr

/-- A step group (R26, R295): `next` is its next plane as contributions. For a group that spans devices (R299) `gkey` is its key, `base` the global rank of this device's
rank 0, `seen` says that a member on another device has arrived, and `remote` that every one of them has. -/
structure StepGroup where
  conf    : Bool
  launch  : Nat
  node    : Nat
  members : List Nat
  arrived : List Nat
  phase   : BitVec 32
  first   : Nat
  failed  : Bool
  next    : List Contribution
  copies  : List (Nat × Nat × Nat)
  gkey    : Nat
  base    : Nat
  seen    : Bool
  remote  : Bool
  deriving DecidableEq, Repr

/-- What the device answers to a peer access (R402): the source pair, the address, the bytes it asked for, and the class and code of a fault, or 0 and 0. -/
structure PeerReply where
  dev   : Nat
  part  : Nat
  va    : Nat
  bytes : List Byte
  cls   : Nat
  code  : Nat
  deriving DecidableEq, Repr

/-- A peer access whose translation has parked, or that may now be tried again (R316, R402). -/
structure PeerWait where
  id     : Nat
  req    : PeerReq
  parked : Bool
  deriving DecidableEq, Repr

/-- What waits on a parked translation (R316, R319). `area` is the save area of a drain of a partition, `mover` the slab move of a forwarding pair. -/
inductive Waiter where
  | node (c iid idx : Nat)
  | pend (c id : Nat)
  | op (id : Nat)
  | fetch (c : Nat)
  | helm (c : Nat)
  | drive (c : Nat)
  | ring (q : Nat)
  | accept (launch : Nat)
  | completion (launch : Nat)
  | peer (id : Nat)
  | area (part : Nat)
  | mover (die n : Nat)
  deriving DecidableEq, Repr

/-- An entry of a die's pending-translation table (R316). -/
structure Park where
  va    : Nat
  asid  : Nat
  kinds : BitVec 5
  since : Nat
  part  : Nat
  ws    : List Waiter
  deriving DecidableEq, Repr

/-- A translation-buffer entry (R315): the leaf that a walk of the address space found for a 4 KiB page. -/
structure TlbEntry where
  asid : Nat
  page : Nat
  leaf : Word64
  deriving DecidableEq, Repr

/-- A frame table entry (R320). -/
structure Frame where
  st   : BitVec 2
  part : BitVec 6
  vd   : Bool
  vx   : Bool
  ref  : BitVec 16
  deriving DecidableEq, Repr

/-- A write that waits at the home unit of a shared frame; `batch` says that it belongs to the batch being served (R330, R331). -/
structure HomeReq where
  frame : Nat
  c     : Nat
  rank  : Nat
  key   : Nat
  idx   : Nat
  by'   : Waiter
  batch : Bool := false
  deriving DecidableEq, Repr

/-- A deferred reader (R116): it waits on `granule` for the `n` bytes at `key`. `answer` holds what a fill gave it until the load delivers it, `failed` that it
was withdrawn by its timeout, and `bad` the class and code of the poison that the fill left there (R286, R347), or 0 and 0. -/
structure Reader where
  granule : Nat
  key     : Nat
  n       : Nat
  c       : Nat
  iid     : Nat
  idx     : Nat
  take    : Bool
  since   : Nat
  drive   : Bool
  answer  : Option (List Byte)
  failed  : Bool
  bad     : Nat × Nat
  deriving DecidableEq, Repr

/-! ### Engine operations -/

/-- The state of an attention request in flight (R243 to R260). -/
structure AttnState where
  qrows  : List (List Nat)
  slabs  : List (Nat × Nat × Nat × Nat × Nat)
  groups : List (Nat × Nat × Nat)
  words  : List Word32
  docs   : List Nat
  unit   : Nat
  total  : Nat
  m      : List Word32
  l      : List Word32
  acc    : List (List Word32)
  adm    : BitVec 128
  nfull  : Nat
  npart  : Nat
  nempty : Nat
  accSet : BitVec 4
  accPhys : List Nat
  resumed : Bool
  deriving DecidableEq, Repr

/-- An engine operation issued and not complete (R182). `c` is the issuing context, or 640 for a node the graph engine dispatched.
`row` counts the units read, `wrote` those written, `data` the bytes read and not yet written, `sent` the completions delivered (bit w for WHICH w);
`failed` is the class, code and address of the first destination of a `copy.mc` that failed, or of the unit of an attention request that did; `at'` is the address of
the last access that parked, `grant` the accumulator mapping it was issued under, in the layout of ACCMAP (R23, R363); `got` holds the pieces read of a row or unit in
progress, `put` counts the bytes written of one (R197, R255). -/
structure EngOp where
  id      : Nat
  ticket  : Nat
  c       : Nat
  core    : Nat
  launch  : Nat
  node    : Nat
  part    : Nat
  grp     : Nat
  rank    : Nat
  iid     : Nat
  seq     : Nat
  blk     : Word64
  tag     : Word64
  widths  : NestRec
  idx     : Nat
  nodeNo  : Nat
  ancest  : BitVec 128
  after   : List Nat
  cmd     : Cmd
  waited  : Bool
  t0      : Target
  t1      : Target
  shapes  : List (BitVec 256)
  desc    : List Byte
  phase   : Nat
  row     : Nat
  drops   : Nat
  failmap : Nat
  parked  : Bool
  denied  : Option (Nat × Nat)
  attn    : Option AttnState
  data    : List Byte
  wrote   : Nat
  sent    : Nat
  failed  : Option (Nat × Nat × Nat)
  at'     : Nat
  grant   : Word64
  got     : List Byte := []
  put     : Nat := 0
  deriving DecidableEq, Repr

/-- A packet of a reduction tree (R344, R345): one exact value and flags, or FP32 bits, per element. `c` is the context that sent it, or 640 for a node of the tree;
`at'` is the clock of its arrival. -/
structure Packet where
  round : Nat
  els   : List XsLane
  f32   : List Word32
  s     : Bool
  inc   : Bool
  miss  : List Nat
  count : Nat
  err   : Bool
  c     : Nat
  at'   : Nat
  deriving DecidableEq, Repr

/-- A node of a bound tree: its router (a cluster's, or 40 + a die's link router, R343), its parent, its children (`true` for a leaf's rank), the queue of each child slot and the round it combines next (R341, R344). -/
structure TreeNode where
  round    : Nat
  router   : Nat
  parent   : Option Nat
  children : List (Bool × Nat)
  slots    : List (List Packet)
  deriving DecidableEq, Repr

/-- A bound reduction tree (R341 to R347). `sent` counts the packets of each rank. `marks` holds, for a round, the operation that stands for CDONE's delivery in DRANK's
context, and `dropped` the rounds whose CDONE names a register that another producer held (R22). -/
structure Tree where
  launch : Nat
  node   : Nat
  ident  : Nat
  xs     : Bool
  len    : Nat
  rslots : Nat
  drank  : Nat
  raddr  : Nat
  rstride : Nat
  cdone  : Word64
  nodes  : List TreeNode
  sent   : SMap Nat
  marks  : List (Nat × EngOp)
  dropped : List Nat
  failed : Bool
  deriving DecidableEq, Repr

/-! ### Launches -/

/-- Node states (R360). -/
inductive NState where
  | wait | held | ready | stage | run | done | failed
  deriving DecidableEq, Repr

/-- A node of an accepted launch (R357, R360). `st` is WAIT, HELD, DONE or FAILED, or READY while a pass of it is in the pool or runs. -/
structure GNode where
  kind    : Nat
  spawn   : Bool
  team    : Nat
  entry   : Nat
  succs   : List Nat
  dep     : Nat
  barmask : Nat
  accn    : Nat
  unit    : Nat
  gmode   : Nat
  opnd    : List Word64
  desc    : Word64
  st      : NState
  cls     : Nat
  code    : Nat
  deriving DecidableEq, Repr

/-- One pass of a node from READY to its end (R360, R366). STAGE stands from placement to dispatch. `live` holds its contexts and `accs` its physical accumulators
(core * 4 + number), `bars` its barriers (cluster * 32 + number): reserved while it is READY (R361) and its own after it is placed. -/
structure Pass where
  uid     : Nat
  node    : Nat
  st      : NState
  readyAt : Nat
  boost   : Nat
  live    : List Nat
  accs    : List Nat
  bars    : List Nat
  deriving DecidableEq, Repr

/-- A planed-region entry of a launch (R293). -/
structure Region where
  base  : Nat
  size  : Nat
  die   : Bool
  width : Nat
  rule  : Nat
  sg    : Nat
  gkey  : Nat
  deriving DecidableEq, Repr

/-- An accepted launch, or one whose acceptance waits on a parked read (R352 to R368). `frames` is its pool (R322), `planes` the frames of its next-plane storage (R294). -/
structure Launch where
  id       : Nat
  q        : Nat
  rec'     : List Byte
  accepted : Bool
  parked   : Bool
  denied   : Option (Nat × Nat)
  pool     : List Byte
  nodes    : List GNode
  regions  : List Region
  trees    : List (List Byte)
  frames   : List Nat
  planes   : List Nat
  windows  : SMap (List Nat)
  started  : Bool
  work     : List Pass
  spawns   : Nat
  ndisp    : Nat
  ndrop    : Nat
  at'      : Nat
  fnode    : Option Nat
  cls      : Nat
  code     : Nat
  ending   : Bool
  released : List Nat
  deriving DecidableEq, Repr

/-- An image that has passed a load (R353): its address space, address, length in bytes and D flag. -/
structure Loaded where
  asid  : Nat
  image : Nat
  len   : Nat
  d     : Bool
  deriving DecidableEq, Repr

/-- A message on the Pelolmea link (R356, R377, R391). -/
structure Message where
  vector : Nat
  launch : Nat
  cid    : Nat
  body   : List Byte
  deriving DecidableEq, Repr

/-- A row-directory entry (R304). -/
structure DirEntry where
  table : Nat
  row   : Nat
  st    : Nat
  dst   : Nat
  deriving DecidableEq, Repr

/-- How far a drain of a partition has come (R382). `parked` says that its save area waits for a page, `denied` how such a wait has failed; `frozenAt` is the clock at which a
drain that timed out froze the partition. -/
structure DrainState where
  part    : Nat
  save    : Nat
  since   : Nat
  stopped : List Nat
  frozen  : Bool
  parked  : Bool := false
  denied  : Option (Nat × Nat) := none
  frozenAt : Nat := 0
  deriving DecidableEq, Repr

/-- A core as a save area holds it (R384, R386): its number, shape records, accumulators and poison mask, the bytes of its store that are not zero, its full granules
and its poisoned units, each by its place within the store. -/
structure SavedCore where
  orig     : Nat
  td       : SMap (BitVec 256)
  acc      : SMap Word32
  poisoned : SMap Bool
  bytes    : List (Nat × Byte)
  full     : List Nat
  poison   : List (Nat × (Nat × Nat))
  deriving DecidableEq, Repr

/-- A cluster, or a die-store window, as a save area holds it: its number, its barriers, the window's first byte and size, and its store as `SavedCore` has it. -/
structure SavedStore where
  orig     : Nat
  barriers : List (Nat × Barrier)
  base     : Nat
  size     : Nat
  bytes    : List (Nat × Byte)
  full     : List Nat
  poison   : List (Nat × (Nat × Nat))
  deriving DecidableEq, Repr

/-- What a save area stands for (R384 to R387, R389): KIND, the partition, when its timers stopped, LENGTH and DIGEST, and for a drain the contexts by their numbers, the
cores, clusters and die-store windows, the step groups, the trees, and the attention requests to be reissued. -/
structure Saved where
  kind    : Nat
  part    : Nat
  since   : Nat
  len     : Nat
  digest  : Word64
  ctxs    : List (Nat × Ctx)
  cores   : List SavedCore
  clus    : List SavedStore
  windows : List SavedStore
  groups  : List (Nat × StepGroup)
  trees   : List Tree
  ops     : List EngOp
  deriving DecidableEq, Repr

/-- What a PE fired last: the context of its last operation outside deterministic mode, by its number on the core, whether its last firing was in deterministic mode
(R18), and for how many steps an operation has waited for it (R20). -/
structure PeTurn where
  ctx    : Nat
  det    : Bool
  waited : Nat
  deriving DecidableEq, Repr

/-- Before its first firing a PE is about to take a deterministic operation, or one of context 0. -/
def PeTurn.reset : PeTurn := ⟨3, false, 0⟩

/-- What reaches the package from outside that no row of the opcode table stands for: an error in 8 bytes of an on-chip store or 32 bytes of main (R286, R291), an
uncorrectable one in the matching store, the overflow area or the configuration that a context uses (R369, R401), the arrival of the first member (`all` false) or of every member (`all` true) of a step group on the other devices, the failure of the group on one of them (R299), and the firmware's
reading and clearing of a channel's counters (R305). -/
inductive Outside where
  | ecc (unit : Nat) (corrected : Bool)
  | coreFails (c : Nat)
  | stepArrives (gkey : Nat) (all : Bool)
  | stepFails (gkey : Nat)
  | clearCounters (channel : Nat)
  deriving DecidableEq, Repr

/-- Where the node that is firing stands: the context, its block run and the instruction index. A field of the model's own. -/
structure Site where
  c   : Nat
  iid : Nat
  idx : Nat
  deriving DecidableEq, Repr

/-- The NBS-4800. `claims` holds the granules that a `copy.mc` has claimed and not yet written, each with the operation (R200); `told` a granule whose fill was a completion,
with 1 + the operation (R128); `replays` the waiters of each replayed park that have not yet walked again, in their order (R317); `shelf` the step groups whose planes are kept
for the next core task of their launch (R295); `movers` the slab moves (16 × die + pair) that wait on a parked page, or whose wait has failed (R316, R326); `streamed` the bytes that each core's streamer has moved since its counters last advanced (R392). A line of `lines` holds
0 when it is raw, else 1 + generation + 4 × (sectors − 1) (R308). `fixFault` is the class and code of the fault
whose handler entry took the fix, `rollback` the rollback counter in fuses and `firmware` the image that an update has stored, if one has (R406), `stoppedFor` the clocks that fixes have stopped each partition (R390). `covered` holds, at 2^32 × queue + index, the bytes of a record when the write of QTAIL that covers it came,
and `ringGot` what has been read of the record at the head of a queue (R350). Log 3, DESIGN CHOICE: `uid`, `site`,
`inputs`, `outside`, `turns` and the like are fields of the model's own. -/
structure State where
  clk       : Nat
  choice    : Nat
  uid       : Nat
  site      : Site
  inputs    : List Instr
  outside   : List Outside
  turns     : SMap PeTurn
  mem       : SMap Byte
  full      : SMap Bool
  poison    : SMap (Nat × Nat)
  readers   : List Reader
  ctxs      : SMap Ctx
  cores     : SMap Core
  barriers  : SMap Barrier
  groups    : SMap StepGroup
  shelf     : List (Nat × StepGroup)
  told      : SMap Nat
  tlb       : List TlbEntry
  ptt       : SMap Park
  replays   : List (List Waiter)
  movers    : List (Nat × Option (Nat × Nat))
  frames    : SMap Frame
  home      : List HomeReq
  claims    : List (Nat × Nat)
  ops       : List EngOp
  trees     : List Tree
  launches  : List Launch
  loads     : List Loaded
  drr       : SMap Nat
  lastQ     : SMap Nat
  ringParked : List Nat
  ringDenied : List Nat
  covered   : SMap (List Byte)
  ringGot   : SMap (List Byte)
  messages  : List Message
  escalated : SMap FaultRec
  withHost  : List Nat
  dcb       : SMap Word64
  msgWin    : SMap Word64
  drains    : List DrainState
  saved     : List Saved
  fixed     : List Nat
  fixedAt   : SMap Nat
  fixFault  : Option (Nat × Nat)
  stoppedFor : SMap Nat
  throttle  : Nat
  rollback  : Nat
  firmware  : Option (List Byte)
  directory : List (Nat × DirEntry)
  chCount   : SMap Nat
  hotRing   : SMap (List (Nat × Nat))
  learned   : SMap Nat
  lines     : SMap Nat
  codeLens  : SMap (List Nat)
  corrected : SMap (List Nat)
  badFrames : List Nat
  streamed  : SMap Nat
  hostReads : List (Nat × Word64)
  peers     : List PeerWait
  replies   : List PeerReply
  inFirmware : Bool
  deriving DecidableEq, Repr

/-! ### Why a step may stop -/

/-- The machine stops. -/
inductive Fault where
  /-- Raised by `step` when a placed block holds a word that does not decode. Fetch (R48) and the load verifier (R47) keep such a
  word from being placed, so no run reaches it. Safe: the model stops where the spec says nothing. -/
  | undecodable
  deriving DecidableEq, Repr

/-- No meaning for the instruction. -/
inductive Refusal where
  /-- Raised by `exec` for a row of the table that has no meaning yet. Safe: nothing can be proved of it. -/
  | notModelled (mnemonic : String)
  deriving DecidableEq, Repr

/-! ### Reset (R21, R27, R28, R287, R310, R395) -/

/-- A context after package reset and after a scrub (R21, R400). -/
def Ctx.reset : Ctx where
  mode := .free
  launch := 0
  node := 0
  pass := 0
  rank := 0
  tsize := 0
  part := 0
  grp := 0
  detLaunch := false
  g := []
  gEmpty := []
  gFrom := []
  consumed := []
  flags := 0
  modeReg := 0
  accmap := 0
  nest := 0
  widths := []
  handler := 0
  faultptr := 0
  rspill := 0
  rndkey := []
  rndctr := []
  dropcnt := 0
  tilefull := 0
  tilepart := 0
  tileempty := 0
  perfsel := 0
  lastclass := 0
  pendBit := false
  hndl := false
  wdrv := false
  soft := []
  xs := []
  stack := []
  spill := 0
  latch := none
  held := []
  ticket := 0
  codebook := 0
  runs := []
  seq := 0
  next := none
  pend := []
  arrivals := []
  drive := none
  resume := .none
  under := .none
  asyncs := []
  pendAt := 0
  hDepth := 0
  fetchParked := false
  fetchDenied := none
  fetchAt := 0
  helmParked := false
  helmDenied := none
  safePoint := false
  strays := []

/-- A core after package reset (R21): shape records zero, accumulators +0.0, queues and configuration sets empty. -/
def Core.reset : Core where
  td := []
  acc := []
  poisoned := []
  queues := []
  placed := []
  stalls := []

/-- A barrier after package reset (R26). -/
def Barrier.reset : Barrier where
  armed := false
  expect := 0
  arrived := []
  gen := 0
  first := 0

/-- A step group after package reset (R26): unconfigured. -/
def StepGroup.reset : StepGroup where
  conf := false
  launch := 0
  node := 0
  members := []
  arrived := []
  phase := 0
  first := 0
  failed := false
  next := []
  copies := []
  gkey := 0
  base := 0
  seen := false
  remote := false

/-- A free entry of a pending-translation table (R316). -/
def Park.free : Park where
  va := 0
  asid := 0
  kinds := 0
  since := 0
  part := 0
  ws := []

/-- A frame table entry at reset (R320): free, not verified, no leaf. -/
def Frame.reset : Frame where
  st := 0
  part := 0
  vd := false
  vx := false
  ref := 0

/-- The machine right after package reset. Every list is empty and every unlisted register, granule, frame and byte reads as its
reset value; `Machine.dcbReset` and `Machine.SMap.get` say which. -/
def State.reset : State where
  clk := 0
  choice := 0
  uid := 0
  site := ⟨0, 0, 0⟩
  inputs := []
  outside := []
  turns := []
  mem := []
  full := []
  poison := []
  readers := []
  ctxs := []
  cores := []
  barriers := []
  groups := []
  shelf := []
  told := []
  tlb := []
  ptt := []
  replays := []
  movers := []
  frames := []
  home := []
  claims := []
  ops := []
  trees := []
  launches := []
  loads := []
  drr := []
  lastQ := []
  ringParked := []
  ringDenied := []
  covered := []
  ringGot := []
  messages := []
  escalated := []
  withHost := []
  dcb := []
  msgWin := []
  drains := []
  saved := []
  fixed := []
  fixedAt := []
  fixFault := none
  stoppedFor := []
  throttle := 0
  rollback := 0
  firmware := none
  directory := []
  chCount := []
  hotRing := []
  learned := []
  lines := []
  codeLens := []
  corrected := []
  badFrames := []
  streamed := []
  hostReads := []
  peers := []
  replies := []
  inFirmware := false

end Sys2Proof.Machine
end

