-- ==== Sys2Proof/Machine/Store.lean ====
section
/-! DEFINITION. Sparse maps in canonical form, where each byte of the package stands, and the one way the state changes: a step is a chain of `Upd`s, so
what every `Upd` keeps every step keeps. -/

namespace Sys2Proof.Machine

open Sys2Proof

/-! ### Sparse maps -/

/-- What key `k` reads as; an unlisted key reads as `d`. -/
def SMap.get {α : Type} (m : SMap α) (d : α) (k : Nat) : α :=
  match m with
  | [] => d
  | (a, v) :: r => if a = k then v else SMap.get r d k

/-- The map in which `k` reads as `v`. -/
def SMap.set {α : Type} [DecidableEq α] (m : SMap α) (d : α) (k : Nat) (v : α) : SMap α :=
  match m with
  | [] => if v = d then [] else [(k, v)]
  | (a, x) :: r =>
    if k < a then (if v = d then (a, x) :: r else (k, v) :: (a, x) :: r)
    else if k = a then (if v = d then r else (k, v) :: r)
    else (a, x) :: SMap.set r d k v

/-- Every key of the map is above `lo` and the keys rise. -/
def SMap.above {α : Type} (lo : Nat) : SMap α → Bool
  | [] => true
  | (a, _) :: r => decide (lo ≤ a) && SMap.above (a + 1) r

/-- The canonical form: keys strictly rising, no entry equal to what an unlisted key reads as. -/
def SMap.wf {α : Type} [DecidableEq α] (d : α) (m : SMap α) : Bool := SMap.above 0 m && m.all (fun e => decide (e.2 ≠ d))

/-- The keys that are listed. -/
def SMap.keys {α : Type} (m : SMap α) : List Nat := m.map Prod.fst

/-! ### Where each byte stands

One number space for every byte of the package and of what it reaches (R1, R104, R289, R394): the on-chip stores, main memory by physical address, host
memory, and the main memory of other devices by device virtual address. -/

def coreKey (core a : Nat) : Nat := core * 2 ^ 22 + a
def clusKey (clus a : Nat) : Nat := 2 ^ 30 + clus * 2 ^ 23 + a
def dieKey (die a : Nat) : Nat := 2 ^ 31 + die * 2 ^ 26 + a
def mainKey (pa : Nat) : Nat := 2 ^ 40 + pa
def hostKey (ha : Nat) : Nat := 2 ^ 58 + ha
def peerKey (dev va : Nat) : Nat := 2 ^ 70 + dev * 2 ^ 51 + va

/-- The key belongs to main, host or peer memory. -/
def offChip (k : Nat) : Bool := decide (2 ^ 40 ≤ k)

/-- The key belongs to this package: its stores and its main memory. -/
def ofPackage (k : Nat) : Bool := decide (k < 2 ^ 58)

/-- What a byte that nothing has written reads as: R287 and R410 step 4 zero every byte of the package; for host and peer memory log entry 5 says 0. Log 5, DESIGN CHOICE: host and peer memory that nothing has written reads 0. -/
def unwritten : Byte := 0

/-- The canonical form of memory. -/
def Memory.wf (m : SMap Byte) : Bool := SMap.wf unwritten m

/-! ### What the registers of a context hold

The bits the spec gives no meaning read as zero (R3, R28, R393), and the bounded structures keep their bounds (R73, R374). -/

/-- The writable and readable bits of each register of a context. -/
def Ctx.norm (x : Ctx) : Ctx :=
  { x with
    flags := x.flags &&& 0x7F
    modeReg := x.modeReg &&& 0xFF03
    rspill := x.rspill &&& 0xFFFF_FFFF_FFFF_FFC0
    perfsel := x.perfsel &&& 0x3F
    stack := x.stack.drop (x.stack.length - 32)
    asyncs := x.asyncs.take 8 }

/-! ### Updates -/

/-- Every way in which the state changes. -/
inductive Upd where
  | tick (n : Nat)
  | chose
  | named
  | site (x : Site)
  | inputs (l : List Instr)
  | outside (l : List Outside)
  | turn (k : Nat) (x : PeTurn)
  | byte (k : Nat) (b : Byte)
  | full (k : Nat) (b : Bool)
  | poison (k : Nat) (v : Nat × Nat)
  | readers (l : List Reader)
  | ctx (c : Nat) (x : Ctx)
  | core (k : Nat) (x : Core)
  | barrier (k : Nat) (x : Barrier)
  | group (k : Nat) (x : StepGroup)
  | shelf (l : List (Nat × StepGroup))
  | told (k n : Nat)
  | tlb (l : List TlbEntry)
  | ptt (k : Nat) (x : Park)
  | replays (l : List (List Waiter))
  | movers (l : List (Nat × Option (Nat × Nat)))
  | frame (k : Nat) (x : Frame)
  | home (l : List HomeReq)
  | claims (l : List (Nat × Nat))
  | ops (l : List EngOp)
  | trees (l : List Tree)
  | launches (l : List Launch)
  | loads (l : List Loaded)
  | drr (k n : Nat)
  | lastQ (k n : Nat)
  | ringParked (l : List Nat)
  | ringDenied (l : List Nat)
  | covered (k : Nat) (l : List Byte)
  | ringGot (k : Nat) (l : List Byte)
  | messages (l : List Message)
  | escalated (m : SMap FaultRec)
  | withHost (l : List Nat)
  | dcb (k : Nat) (v : Word64)
  | msgWin (k : Nat) (v : Word64)
  | drains (l : List DrainState)
  | saved (l : List Saved)
  | fixed (l : List Nat)
  | fixedAt (k n : Nat)
  | fixFault (x : Option (Nat × Nat))
  | stoppedFor (k n : Nat)
  | throttle (n : Nat)
  | rollback (n : Nat)
  | firmware (l : List Byte)
  | directory (l : List (Nat × DirEntry))
  | chCount (k n : Nat)
  | hotRing (k : Nat) (l : List (Nat × Nat))
  | learned (k n : Nat)
  | line (k n : Nat)
  | codeLens (k : Nat) (l : List Nat)
  | corrected (k : Nat) (l : List Nat)
  | badFrames (l : List Nat)
  | streamed (k n : Nat)
  | hostReads (l : List (Nat × Word64))
  | peers (l : List PeerWait)
  | replies (l : List PeerReply)
  | clear (lo hi : Nat)
  | inFirmware (b : Bool)
  | wipe
  deriving DecidableEq, Repr

/-- The package after a reset (R21, R287, R410): everything of its own as `State.reset` has it; host and peer memory stand outside it, the fuses and the
stored firmware stay, and the model's own counters and the inputs that wait go on. -/
def State.wiped (s : State) : State :=
  { State.reset with
    mem := s.mem.filter (fun e => !ofPackage e.1)
    choice := s.choice
    uid := s.uid
    inputs := s.inputs
    outside := s.outside
    frames := (s.frames.filter (fun e => s.badFrames.contains e.1)).map (fun e => (e.1, { Frame.reset with st := 2 }))
    badFrames := s.badFrames
    corrected := s.corrected
    msgWin := s.msgWin
    messages := s.messages
    hostReads := s.hostReads
    replies := s.replies
    rollback := s.rollback
    firmware := s.firmware
    inFirmware := s.inFirmware }

/-- The bytes from key `lo` up to `hi` zero, their granules empty, their poison gone (R287, R321, R400), and lines of main among them raw again (R308). -/
def State.cleared (s : State) (lo hi : Nat) : State :=
  { s with
    mem := s.mem.filter (fun e => decide (e.1 < lo) || decide (hi ≤ e.1))
    full := s.full.filter (fun e => decide (16 * e.1 < lo) || decide (hi ≤ 16 * e.1))
    poison := s.poison.filter (fun e => decide (8 * e.1 < lo) || decide (hi ≤ 8 * e.1))
    told := s.told.filter (fun e => decide (16 * e.1 < lo) || decide (hi ≤ 16 * e.1))
    lines := s.lines.filter (fun e => decide (mainKey 0 + 1024 * e.1 < lo) || decide (hi ≤ mainKey 0 + 1024 * e.1)) }

/-- One update. -/
def Upd.apply (u : Upd) (s : State) : State :=
  match u with
  | .tick n => { s with clk := s.clk + n }
  | .chose => { s with choice := s.choice + 1 }
  | .named => { s with uid := s.uid + 1 }
  | .site x => { s with site := x }
  | .inputs l => { s with inputs := l }
  | .outside l => { s with outside := l }
  | .turn k x => { s with turns := SMap.set s.turns PeTurn.reset k x }
  | .byte k b => { s with mem := SMap.set s.mem unwritten k b }
  | .full k b => { s with full := SMap.set s.full false k b }
  | .poison k v => { s with poison := SMap.set s.poison (0, 0) k v }
  | .readers l => { s with readers := l }
  | .ctx c x => { s with ctxs := SMap.set s.ctxs Ctx.reset c x.norm }
  | .core k x => { s with cores := SMap.set s.cores Core.reset k x }
  | .barrier k x => { s with barriers := SMap.set s.barriers Barrier.reset k x }
  | .group k x => { s with groups := SMap.set s.groups StepGroup.reset k x }
  | .shelf l => { s with shelf := l }
  | .told k n => { s with told := SMap.set s.told 0 k n }
  | .tlb l => { s with tlb := l }
  | .ptt k x => { s with ptt := SMap.set s.ptt Park.free k x }
  | .frame k x => { s with frames := SMap.set s.frames Frame.reset k x }
  | .replays l => { s with replays := l }
  | .movers l => { s with movers := l }
  | .home l => { s with home := l }
  | .claims l => { s with claims := l }
  | .ops l => { s with ops := l }
  | .trees l => { s with trees := l }
  | .launches l => { s with launches := l }
  | .loads l => { s with loads := l }
  | .drr k n => { s with drr := SMap.set s.drr 0 k n }
  | .lastQ k n => { s with lastQ := SMap.set s.lastQ 0 k n }
  | .ringParked l => { s with ringParked := l }
  | .ringDenied l => { s with ringDenied := l }
  | .covered k l => { s with covered := SMap.set s.covered [] k l }
  | .ringGot k l => { s with ringGot := SMap.set s.ringGot [] k l }
  | .messages l => { s with messages := l }
  | .escalated m => { s with escalated := m }
  | .withHost l => { s with withHost := l }
  | .dcb k v => { s with dcb := SMap.set s.dcb 0 k v }
  | .msgWin k v => { s with msgWin := SMap.set s.msgWin 0 k v }
  | .drains l => { s with drains := l }
  | .saved l => { s with saved := l }
  | .fixed l => { s with fixed := l }
  | .fixedAt k n => { s with fixedAt := SMap.set s.fixedAt 0 k n }
  | .fixFault x => { s with fixFault := x }
  | .stoppedFor k n => { s with stoppedFor := SMap.set s.stoppedFor 0 k n }
  | .throttle n => { s with throttle := n }
  | .rollback n => { s with rollback := n }
  | .firmware l => { s with firmware := some l }
  | .directory l => { s with directory := l }
  | .chCount k n => { s with chCount := SMap.set s.chCount 0 k n }
  | .hotRing k l => { s with hotRing := SMap.set s.hotRing [] k l }
  | .learned k n => { s with learned := SMap.set s.learned 0 k n }
  | .line k n => { s with lines := SMap.set s.lines 0 k n }
  | .codeLens k l => { s with codeLens := SMap.set s.codeLens [] k l }
  | .corrected k l => { s with corrected := SMap.set s.corrected [] k l }
  | .badFrames l => { s with badFrames := l }
  | .streamed k n => { s with streamed := SMap.set s.streamed 0 k n }
  | .hostReads l => { s with hostReads := l }
  | .peers l => { s with peers := l }
  | .replies l => { s with replies := l }
  | .clear lo hi => s.cleared lo hi
  | .inFirmware b => { s with inFirmware := b }
  | .wipe => s.wiped

/-- The states that updates lead to. -/
inductive Reach (s0 : State) : State → Prop where
  | refl : Reach s0 s0
  | step {s : State} (u : Upd) : Reach s0 s → Reach s0 (u.apply s)

/-- A state on its way from `s0`. -/
structure Run (s0 : State) where
  st    : State
  reach : Reach s0 st

/-- Nothing has changed yet. -/
def Run.start (s : State) : Run s := ⟨s, .refl⟩

variable {s0 : State}

/-- One update. -/
def Run.put (r : Run s0) (u : Upd) : Run s0 := ⟨u.apply r.st, .step u r.reach⟩

/-- The updates of a list, in order. -/
def Run.puts (r : Run s0) (l : List Upd) : Run s0 := l.foldl Run.put r

/-! ### Reading the state -/

def State.ctx (s : State) (c : Nat) : Ctx := SMap.get s.ctxs Ctx.reset c
def State.core (s : State) (k : Nat) : Core := SMap.get s.cores Core.reset k
def State.byte (s : State) (k : Nat) : Byte := SMap.get s.mem unwritten k
def State.isFull (s : State) (granule : Nat) : Bool := SMap.get s.full false granule
/-- A fill may not take the granule: it is full, or a `copy.mc` has claimed it (R200). -/
def State.taken (s : State) (granule : Nat) : Bool := s.isFull granule || s.claims.any (fun e => e.1 == granule)

def State.frameOf (s : State) (f : Nat) : Frame := SMap.get s.frames Frame.reset f

/-- The `n` bytes at a key, lowest first. -/
def State.bytes (s : State) (k n : Nat) : List Byte := (List.range n).map (fun i => s.byte (k + i))

/-- Bytes as a little-endian number (R2). -/
def leNat : List Byte → Nat
  | [] => 0
  | b :: r => b.toNat + 256 * leNat r

/-- The `n` low bytes of a number, lowest first (R2). -/
def leBytes (n x : Nat) : List Byte :=
  match n with
  | 0 => []
  | m + 1 => BitVec.ofNat 8 x :: leBytes m (x / 256)

/-- The little-endian number of `n` bytes at a key. -/
def State.num (s : State) (k n : Nat) : Nat := leNat (s.bytes k n)

/-- A number within a record of bytes. -/
def fieldAt (rec' : List Byte) (off n : Nat) : Nat := leNat ((rec'.drop off).take n)

def Run.setCtx (r : Run s0) (c : Nat) (x : Ctx) : Run s0 := r.put (.ctx c x)
def Run.modCtx (r : Run s0) (c : Nat) (f : Ctx → Ctx) : Run s0 := r.put (.ctx c (f (r.st.ctx c)))
def Run.modCore (r : Run s0) (k : Nat) (f : Core → Core) : Run s0 := r.put (.core k (f (r.st.core k)))

/-- Bytes written at a key. Every 8 bytes that the write covers whole lose their poison (R286). -/
def Run.write (r : Run s0) (k : Nat) (bs : List Byte) : Run s0 :=
  let r := (List.range bs.length).foldl (fun r i => r.put (.byte (k + i) (bs.getD i 0))) r
  let lo := ceilDiv k 8
  (List.range ((k + bs.length) / 8 - lo)).foldl (fun r i => r.put (.poison (lo + i) (0, 0))) r

/-- The granules that `n` bytes at a key touch (R115). -/
def granules (k n : Nat) : List Nat := (List.range ((k + n - 1) / 16 + 1 - k / 16)).map (fun i => k / 16 + i)

def Run.mark (r : Run s0) (gs : List Nat) (b : Bool) : Run s0 := gs.foldl (fun r g => r.put (.full g b)) r

/-- The first poison among the 8-byte units that `n` bytes at a key touch (R286), as class and code. -/
def State.poisonAt (s : State) (k n : Nat) : Option (Nat × Nat) :=
  ((List.range ((k + n - 1) / 8 + 1 - k / 8)).map (fun i => SMap.get s.poison (0, 0) (k / 8 + i))).find? (fun p => p.1 != 0)

/-- A value of the counter of free values, and the run with the counter advanced. Log 2, DESIGN CHOICE: the counter of free values, reset 0. -/
def Run.choice (r : Run s0) : Nat := r.st.choice
def Run.chose (r : Run s0) : Run s0 := r.put .chose

end Sys2Proof.Machine
end

