-- ==== Sys2Proof/Machine/Flags.lean ====
section
/-! DEFINITION. The sticky flags (R28), the floating formats (R139 to R142), the one rounding function and the flags it raises (R144 to R146), and the
exact sum (R152 to R154). -/

namespace Sys2Proof.Machine

open Sys2Proof

/-! ### Flags -/

/-- A set of sticky flags, as bits 6:0 of FLAGS (R28). -/
abbrev FlagSet := BitVec 7

def flagNV : FlagSet := 1
def flagDZ : FlagSet := 2
def flagOF : FlagSet := 4
def flagUF : FlagSet := 8
def flagNX : FlagSet := 16
def flagSAT : FlagSet := 32
def flagSCL : FlagSet := 64

/-- The flag, when the condition holds. -/
def raiseIf (b : Bool) (f : FlagSet) : FlagSet := if b then f else 0

/-- FLAGS at a commit (R378): a `wrsr` of FLAGS, then the clears of `flags`, then what the run raises. -/
def flagsAtCommit (old : Word64) (written : Option Word64) (cleared raised : FlagSet) : Word64 :=
  (((written.getD old) &&& 0x7F) &&& ~~~(cleared.setWidth 64)) ||| raised.setWidth 64

/-! ### Formats -/

/-- The floating formats (R139, R141). -/
inductive FloatFmt where
  | f32 | bf16 | f16 | e4m3 | e5m2
  deriving DecidableEq, Repr

/-- Bits of an element. -/
def FloatFmt.bits : FloatFmt → Nat
  | .f32 => 32
  | .bf16 | .f16 => 16
  | .e4m3 | .e5m2 => 8

/-- Precision p. -/
def FloatFmt.prec : FloatFmt → Nat
  | .f32 => 24
  | .bf16 => 8
  | .f16 => 11
  | .e4m3 => 4
  | .e5m2 => 3

def FloatFmt.bias : FloatFmt → Nat
  | .f32 | .bf16 => 127
  | .f16 | .e5m2 => 15
  | .e4m3 => 7

/-- emin: the exponent of the smallest normal number. -/
def FloatFmt.emin (f : FloatFmt) : Int := 1 - f.bias

/-- The exponent of the largest finite number. -/
def FloatFmt.emax : FloatFmt → Int
  | .f32 | .bf16 => 127
  | .f16 | .e5m2 => 15
  | .e4m3 => 8

/-- The significand of the largest finite number, as an integer of p bits. -/
def FloatFmt.maxSig : FloatFmt → Nat
  | .e4m3 => 14
  | f => 2 ^ f.prec - 1

/-- The format has infinities. -/
def FloatFmt.hasInf : FloatFmt → Bool
  | .e4m3 => false
  | .f32 | .bf16 | .f16 | .e5m2 => true

/-- The canonical NaN (R140). -/
def FloatFmt.nan : FloatFmt → Nat
  | .f32 => 0x7FC00000
  | .bf16 => 0x7FC0
  | .f16 => 0x7E00
  | .e4m3 => 0x7F
  | .e5m2 => 0x7E

/-- The sign bit. -/
def FloatFmt.sign (f : FloatFmt) (neg : Bool) : Nat := if neg then 2 ^ (f.bits - 1) else 0

/-- The all-ones exponent field with a zero fraction. -/
def FloatFmt.infBits (f : FloatFmt) : Nat := (2 ^ (f.bits - f.prec) - 1) * 2 ^ (f.prec - 1)

/-- The bits of the largest finite number. -/
def FloatFmt.maxBits (f : FloatFmt) : Nat := (f.emax + f.bias).toNat * 2 ^ (f.prec - 1) + (f.maxSig - 2 ^ (f.prec - 1))

/-- The format of an element-format operand (R45). -/
def floatFmt : Fmt → FloatFmt
  | .f32 => .f32
  | .bf16 => .bf16
  | .f16 => .f16

/-- A mathematical value. `fin neg m e sticky` is `(-1)^neg × m × 2^e`, and a little more in magnitude, less than `2^e`, when `sticky` is set. -/
inductive Ext where
  | nan (signalling : Bool)
  | inf (neg : Bool)
  | zero (neg : Bool)
  | fin (neg : Bool) (m : Nat) (e : Int) (sticky : Bool)
  deriving DecidableEq, Repr

def Ext.isNan : Ext → Bool
  | .nan _ => true
  | _ => false

def Ext.isSignalling : Ext → Bool
  | .nan s => s
  | _ => false

def Ext.isInf : Ext → Bool
  | .inf _ => true
  | _ => false

def Ext.isZero : Ext → Bool
  | .zero _ => true
  | _ => false

def Ext.isNeg : Ext → Bool
  | .nan _ => false
  | .inf n => n
  | .zero n => n
  | .fin n _ _ _ => n

/-- The value with another sign. -/
def Ext.withSign (x : Ext) (neg : Bool) : Ext :=
  match x with
  | .nan s => .nan s
  | .inf _ => .inf neg
  | .zero _ => .zero neg
  | .fin _ m e s => .fin neg m e s

/-- The value that the bits of a format stand for (R139, R141). -/
def FloatFmt.read (f : FloatFmt) (x : Nat) : Ext :=
  let fb := f.prec - 1
  let neg := decide (2 ^ (f.bits - 1) ≤ x % 2 ^ f.bits)
  let frac := x % 2 ^ fb
  let ex := x / 2 ^ fb % 2 ^ (f.bits - f.prec)
  let top := 2 ^ (f.bits - f.prec) - 1
  if f = .e4m3 then
    if ex = top ∧ frac = 7 then .nan false
    else if ex = 0 then (if frac = 0 then .zero neg else .fin neg frac (-9) false)
    else .fin neg (8 + frac) ((ex : Int) - 10) false
  else if ex = top then
    if frac = 0 then .inf neg else .nan (decide (f ≠ .e5m2 ∧ frac < 2 ^ (fb - 1)))
  else if ex = 0 then (if frac = 0 then .zero neg else .fin neg frac (1 - (f.bias : Int) - fb) false)
  else .fin neg (2 ^ fb + frac) ((ex : Int) - f.bias - fb) false

/-! ### Rounding (R144 to R146) -/

/-- The overflow qualifier (R145). -/
inductive Ovf where
  | default | sat | nan
  deriving DecidableEq, Repr

/-- A result with the flags it raises. -/
structure Rounded where
  bits  : Nat
  flags : FlagSet
  deriving DecidableEq, Repr

/-- A finite overflow (R145). -/
def overflowed (f : FloatFmt) (neg : Bool) (rm : Rm) (ovf : Ovf) : Rounded :=
  let big : Bool := match rm with
    | .rne => true
    | .rz => false
    | .ru => !neg
    | .rd => neg
  match ovf with
  | .sat => ⟨f.sign neg + f.maxBits, flagOF ||| flagNX ||| flagSAT⟩
  | .nan =>
    if f.hasInf || big then ⟨f.nan, flagOF ||| flagNX⟩ else ⟨f.sign neg + f.maxBits, flagOF ||| flagNX⟩
  | .default =>
    if big then ⟨if f.hasInf then f.sign neg + f.infBits else f.nan, flagOF ||| flagNX⟩
    else ⟨f.sign neg + f.maxBits, flagOF ||| flagNX⟩

/-- An infinite operand (R145). -/
def infinite (f : FloatFmt) (neg : Bool) (ovf : Ovf) : Rounded :=
  if ovf = .sat then ⟨f.sign neg + f.maxBits, flagSAT⟩
  else if f.hasInf then ⟨f.sign neg + f.infBits, 0⟩
  else ⟨f.nan, 0⟩

/-- `int_round` of `(m + δ) / 2^sh` for a magnitude, where δ is in (0, 1) when `sticky` is set and 0 otherwise; and whether it is exact. -/
def intRound (rm : Rm) (neg : Bool) (m : Nat) (sh : Int) (sticky : Bool) : Nat × Bool :=
  let s := sh.toNat
  let n := if 0 ≤ sh then m / 2 ^ s else m * 2 ^ (-sh).toNat
  let r := if 0 ≤ sh then m % 2 ^ s else 0
  let exact := r == 0 && !sticky
  let up : Bool := match rm with
    | .rne => decide (2 ^ s < 2 * r) || (decide (2 * r = 2 ^ s) && (sticky || n % 2 == 1))
    | .rz => false
    | .ru => !neg && !exact
    | .rd => neg && !exact
  (if up then n + 1 else n, exact)

/-- The bits of `n × 2^q`, with `n ≤ 2^p`, in a format. -/
def encodeFloat (f : FloatFmt) (neg : Bool) (n : Nat) (q : Int) : Nat :=
  let (n, q) := if n = 2 ^ f.prec then (n / 2, q + 1) else (n, q)
  let hid := 2 ^ (f.prec - 1)
  if n < hid then f.sign neg + n
  else f.sign neg + (q + (f.prec - 1 : Nat) + f.bias).toNat * hid + (n - hid)

/-- `rnd` (R144) of a value, with the flags of R146. -/
def rnd (f : FloatFmt) (rm : Rm) (ovf : Ovf) (x : Ext) : Rounded :=
  match x with
  | .nan _ => ⟨f.nan, 0⟩
  | .inf neg => infinite f neg ovf
  | .zero neg => ⟨f.sign neg, 0⟩
  | .fin neg m e sticky =>
    let lg := e + (Nat.log2 m : Nat)
    let q := max lg f.emin - (f.prec : Int) + 1
    let (n, exact) := intRound rm neg m (q - e) sticky
    let qmax := f.emax - (f.prec : Int) + 1
    if qmax < q ∨ f.maxSig * 2 ^ (qmax - q).toNat < n then overflowed f neg rm ovf
    else ⟨encodeFloat f neg n q, raiseIf (!exact) flagNX ||| raiseIf (!exact && decide (lg < f.emin)) flagUF⟩

/-- `rne_f32` (R144). -/
def rneF32 (x : Ext) : Rounded := rnd .f32 .rne .default x

/-! ### Exact operations on values -/

/-- The signed integer of a finite value at exponent `e0 ≤ e`. -/
def Ext.scaled (x : Ext) (e0 : Int) : Int :=
  match x with
  | .fin neg m e _ => (if neg then -1 else 1) * (m * 2 ^ (e - e0).toNat : Nat)
  | _ => 0

def Ext.exponent (x : Ext) : Option Int :=
  match x with
  | .fin _ _ e _ => some e
  | _ => none

/-- A signed integer times a power of two; `zeroNeg` is the sign of an exact zero. -/
def extOfInt (v : Int) (e : Int) (zeroNeg : Bool) : Ext :=
  if v = 0 then .zero zeroNeg else .fin (decide (v < 0)) v.natAbs e false

/-- The exact sum of two values (R157): opposite infinities are invalid, and an exact zero of opposite signs is +0, or −0 under `.rd`. -/
def addExt (rm : Rm) (x y : Ext) : Ext × FlagSet :=
  match x, y with
  | .nan s, .nan t => (.nan false, raiseIf (s || t) flagNV)
  | .nan s, _ => (.nan false, raiseIf s flagNV)
  | _, .nan t => (.nan false, raiseIf t flagNV)
  | .inf a, .inf b => if a = b then (.inf a, 0) else (.nan false, flagNV)
  | .inf a, _ => (.inf a, 0)
  | _, .inf b => (.inf b, 0)
  | .zero a, .zero b => (.zero (if a = b then a else decide (rm = .rd)), 0)
  | .zero _, y => (y, 0)
  | x, .zero _ => (x, 0)
  | .fin a m e s, .fin b n k t =>
    let e0 := min e k
    (extOfInt ((Ext.fin a m e s).scaled e0 + (Ext.fin b n k t).scaled e0) e0 (decide (rm = .rd)), 0)

/-- The exact product (R157). -/
def mulExt (x y : Ext) : Ext × FlagSet :=
  match x, y with
  | .nan s, .nan t => (.nan false, raiseIf (s || t) flagNV)
  | .nan s, _ => (.nan false, raiseIf s flagNV)
  | _, .nan t => (.nan false, raiseIf t flagNV)
  | .inf _, .zero _ => (.nan false, flagNV)
  | .zero _, .inf _ => (.nan false, flagNV)
  | x, y =>
    let neg := x.isNeg != y.isNeg
    match x, y with
    | .inf _, _ => (.inf neg, 0)
    | _, .inf _ => (.inf neg, 0)
    | .fin _ m e _, .fin _ n k _ => (.fin neg (m * n) (e + k) false, 0)
    | _, _ => (.zero neg, 0)

/-- The exact quotient of two finite nonzero values, to far more bits than any format keeps. -/
def quotient (neg : Bool) (m : Nat) (e : Int) (n : Nat) (k : Int) : Ext :=
  let sh := 64 + Nat.log2 n
  .fin neg (m * 2 ^ sh / n) (e - k - sh) (m * 2 ^ sh % n != 0)

/-- The quotient (R146: a finite nonzero value divided by zero sets DZ). -/
def divExt (x y : Ext) : Ext × FlagSet :=
  match x, y with
  | .nan s, .nan t => (.nan false, raiseIf (s || t) flagNV)
  | .nan s, _ => (.nan false, raiseIf s flagNV)
  | _, .nan t => (.nan false, raiseIf t flagNV)
  | .inf _, .inf _ => (.nan false, flagNV)
  | .zero _, .zero _ => (.nan false, flagNV)
  | x, y =>
    let neg := x.isNeg != y.isNeg
    match x, y with
    | .inf _, _ => (.inf neg, 0)
    | _, .inf _ => (.zero neg, 0)
    | .zero _, _ => (.zero neg, 0)
    | .fin _ _ _ _, .zero _ => (.inf neg, flagDZ)
    | .fin _ m e _, .fin _ n k _ => (quotient neg m e n k, 0)
    | _, _ => (.zero neg, 0)

/-- The integer square root, bit by bit from bit `b - 1` down. -/
def isqrtFrom (x : Nat) : Nat → Nat → Nat
  | 0, r => r
  | b + 1, r => isqrtFrom x b (if (r + 2 ^ b) * (r + 2 ^ b) ≤ x then r + 2 ^ b else r)

def isqrt (x : Nat) : Nat := isqrtFrom x (Nat.log2 x / 2 + 1) 0

/-- The square root of a positive finite value, to far more bits than any format keeps. -/
def sqrtExt (m : Nat) (e : Int) : Ext :=
  let (m, e) := if e % 2 = 0 then (m, e) else (2 * m, e - 1)
  let x := m * 2 ^ 128
  let r := isqrt x
  .fin false r (e / 2 - 64) (r * r != x)

/-- A value below another, for numbers that are not NaN. -/
def Ext.lt (x y : Ext) : Bool :=
  match x, y with
  | .nan _, _ => false
  | _, .nan _ => false
  | .inf a, .inf b => a && !b
  | .inf a, _ => a
  | _, .inf b => !b
  | x, y =>
    let e0 := min (x.exponent.getD 0) (y.exponent.getD 0)
    let e0 := match x.exponent, y.exponent with
      | some a, some b => min a b
      | some a, none => a
      | none, some b => b
      | none, none => e0
    decide (x.scaled e0 < y.scaled e0)

/-- Equal numbers; zeros of either sign are equal. -/
def Ext.eq (x y : Ext) : Bool := !x.isNan && !y.isNan && !x.lt y && !y.lt x

/-! ### The exact sum (R152 to R154) -/

/-- A lane that holds zero, flags clear. -/
def XsLane.zero : XsLane := ⟨0, false, false, false⟩

/-- A signed multiple of `2^-160` added to a lane. -/
def XsLane.plus (x : XsLane) (v : Int) : XsLane := { x with v := BitVec.ofInt 320 (x.v.toInt + v) }

/-- `xs_add` (R153) of a value. -/
def xsAdd (x : XsLane) (f : Ext) : XsLane × FlagSet :=
  match f with
  | .nan s => ({ x with nan := true }, raiseIf s flagNV)
  | .inf false => ({ x with pinf := true }, 0)
  | .inf true => ({ x with ninf := true }, 0)
  | .zero _ => (x, 0)
  | .fin n m e s => (x.plus ((Ext.fin n m e s).scaled (-160)), 0)

/-- The sum of two lanes: values add and flags are ORed (R345). -/
def xsMerge (x y : XsLane) : XsLane := ⟨x.v + y.v, x.pinf || y.pinf, x.ninf || y.ninf, x.nan || y.nan⟩

/-- The value that a lane rounds from (R154), and whether both infinities make it invalid. -/
def XsLane.value (x : XsLane) : Ext × FlagSet :=
  if x.nan || (x.pinf && x.ninf) then (.nan false, raiseIf (x.pinf && x.ninf) flagNV)
  else if x.pinf then (.inf false, 0)
  else if x.ninf then (.inf true, 0)
  else (extOfInt x.v.toInt (-160) false, 0)

/-- A lane rounded once (R154). -/
def xsRound (f : FloatFmt) (x : XsLane) : Rounded :=
  let (v, fl) := x.value
  let r := rnd f .rne .default v
  ⟨r.bits, r.flags ||| fl⟩

/-- The 64-byte cell of a lane (R122). -/
def xsCell (x : XsLane) : List Byte :=
  leBytes 40 x.v.toNat ++ [(if x.pinf then 1 else 0) + (if x.ninf then 2 else 0) + (if x.nan then 4 else 0)] ++ List.replicate 23 0

/-- The lane of a 64-byte cell (R122). -/
def xsOfCell (bs : List Byte) : XsLane :=
  let f := (bs.getD 40 0).toNat
  ⟨BitVec.ofNat 320 (leNat (bs.take 40)), f % 2 == 1, f / 2 % 2 == 1, f / 4 % 2 == 1⟩

end Sys2Proof.Machine
end

