-- ==== Sys2Proof/Machine/Regs.lean ====
section
/-! DEFINITION. Tokens (R10, R11), tags (R14, R15), the registers of a context and of a die (R21 to R28, R395), and what the buffered register effects of a block
run make of a context at its commit (R64, R67). -/

namespace Sys2Proof.Machine

open Sys2Proof

variable {s0 : State}

/-! ### Tokens -/

/-- A scalar token. -/
def scalar (v : Word64) (s : Bool := false) : Token := ⟨.scalar, v.setWidth 512, s, false, false⟩

/-- A vector token. -/
def vector (v : Payload) (s : Bool) : Token := ⟨.vector, v, s, false, false⟩

/-- A control token. -/
def control (polarity : Bool) : Token := ⟨.control, if polarity then 1 else 0, false, false, false⟩

/-- A null token (R12 rule 1, R76): zero payload. -/
def nullToken (k : Kind) : Token := ⟨k, 0, false, false, true⟩

/-- An error token (R11). -/
def errorToken (k : Kind) (descriptor : Word64) : Token := ⟨k, descriptor.setWidth 512, false, true, false⟩

/-- The descriptor of R11. -/
def descriptor (cls code ticket : Nat) : Word64 := BitVec.ofNat 64 (cls * 2 ^ 56 + code * 2 ^ 48 + ticket % 2 ^ 32)

/-- The low 64 bits of a payload. -/
def Token.word (t : Token) : Word64 := t.data.setWidth 64

/-- Polarity of a control token (R10). -/
def Token.polarity (t : Token) : Bool := t.data.getLsbD 0

def descClass (d : Word64) : Nat := d.toNat / 2 ^ 56
def descCode (d : Word64) : Nat := d.toNat / 2 ^ 48 % 256
def descTicket (d : Word64) : Nat := d.toNat % 2 ^ 32

/-! ### Tags -/

/-- Bits of a nest width code (R28). -/
def widthBits (c : BitVec 3) : Nat :=
  match c.toNat with
  | 1 => 4
  | 2 => 8
  | 3 => 12
  | 4 => 16
  | 5 => 24
  | 6 => 32
  | _ => 0

/-- Bits of NEST in use. -/
def NestRec.used (r : NestRec) : Nat := (r.map widthBits).sum

/-- TAGNEST (R28). -/
def NestRec.word (r : NestRec) : Word64 :=
  BitVec.ofNat 64 (NestRec.used r * 2 ^ 28 + r.length * 2 ^ 24 + r.foldr (fun c n => c.toNat + 8 * n) 0)

/-- The nest record that TAGNEST shows. -/
def nestOfWord (w : Word64) : NestRec := (List.range (w.toNat / 2 ^ 24 % 16)).map (fun i => BitVec.ofNat 3 (w.toNat / 8 ^ i))

/-- The value of level `l` (R81); a level not pushed reads 0. -/
def levelValue (nest : BitVec 56) (r : NestRec) (l : Nat) : Nat :=
  if r.length ≤ l then 0
  else nest.toNat / 2 ^ (56 - NestRec.used (r.take (l + 1))) % 2 ^ widthBits (r.getD l 0)

/-- A push of a zero field (R15), or the code of the tag-overflow fault. -/
def pushLevel (r : NestRec) (c : BitVec 3) : Except Nat NestRec :=
  if NestRec.used r + widthBits c ≤ 56 ∧ r.length < 8 then .ok (r ++ [c]) else .error 0x01

/-- A pop of the innermost field, which clears its bits (R15, R81). -/
def popLevel (nest : BitVec 56) (r : NestRec) : Except Nat (BitVec 56 × NestRec) :=
  match r with
  | [] => .error 0x03
  | _ :: _ =>
    let keep := 2 ^ (56 - NestRec.used r.dropLast)
    .ok (BitVec.ofNat 56 (nest.toNat / keep * keep), r.dropLast)

/-- The innermost field incremented (R15, R74). -/
def incLevel (nest : BitVec 56) (r : NestRec) : Except Nat (BitVec 56) :=
  match r.getLast? with
  | none => .error 0x02
  | some c =>
    let unit := 2 ^ (56 - NestRec.used r)
    if nest.toNat / unit % 2 ^ widthBits c = 2 ^ widthBits c - 1 then .error 0x02 else .ok (BitVec.ofNat 56 (nest.toNat + unit))

/-- The innermost field replaced (R183). -/
def setInnermost (nest : BitVec 56) (r : NestRec) (v : Nat) : BitVec 56 :=
  match r.getLast? with
  | none => nest
  | some c =>
    let unit := 2 ^ (56 - NestRec.used r)
    let old := nest.toNat / unit % 2 ^ widthBits c
    BitVec.ofNat 56 (nest.toNat - old * unit + v % 2 ^ widthBits c * unit)

/-- The tag (R14). -/
def tagOf (frame : BitVec 8) (nest : BitVec 56) : Word64 := frame ++ nest

def BlockRun.tag (b : BlockRun) : Word64 := tagOf b.frame b.nest

/-- The key of R18. -/
def keyOf (nest : BitVec 56) (frame : BitVec 8) : Nat := nest.toNat * 256 + frame.toNat

/-- The node number of R18. -/
def nodeNumber (cfg slot idx : Nat) : Nat := cfg * 2048 + slot * 128 + idx

/-! ### Registers of the die control blocks (R395) -/

/-- The value after package reset of the register at a DCB offset, where it is not 0 (R310, R399). Log 8, DESIGN CHOICE: registers without a stated reset value are 0 or empty at reset. -/
def dcbReset (off : Nat) : Word64 :=
  if off = 0x082400 then BitVec.ofNat 64 (4096 * 256 + 6 * 16 + 1)
  else if 0x082600 ≤ off ∧ off < 0x082650 then 0x10000
  else 0

def dcbKey (die off : Nat) : Nat := die * 2 ^ 21 + off

/-- A register of a die control block. `State.dcb` holds it as its difference from the value after reset. -/
def State.dcbAt (s : State) (die off : Nat) : Word64 := SMap.get s.dcb 0 (dcbKey die off) ^^^ dcbReset off

def Run.setDcb (r : Run s0) (die off : Nat) (v : Word64) : Run s0 := r.put (.dcb (dcbKey die off) (v ^^^ dcbReset off))

/-- PARTCL of a cluster (R399). -/
def State.partcl (s : State) (cluster : Nat) : Word64 := s.dcbAt (cluster / 10) (0x082600 + 8 * (cluster % 10))

/-- The partition of a cluster, when it has one. -/
def State.partOf (s : State) (cluster : Nat) : Option Nat :=
  let w := (s.partcl cluster).toNat
  if w / 256 % 2 = 1 then some (w % 64) else none

/-- The cluster takes dispatches (R401). -/
def State.inService (s : State) (cluster : Nat) : Bool := (s.partcl cluster).toNat / 512 % 2 == 0

/-- The clusters of a partition, ascending. -/
def State.clustersOf (s : State) (p : Nat) : List Nat := (List.range 40).filter (fun k => s.partOf k == some p)

/-- The die that holds a partition's lowest-numbered cluster (R395). -/
def State.homeDie (s : State) (p : Nat) : Nat := ((s.clustersOf p).head?.getD 0) / 10

/-- The cores of a partition, ascending. -/
def State.coresOf (s : State) (p : Nat) : List Nat := (s.clustersOf p).flatMap (fun k => (List.range 4).map (fun i => 4 * k + i))

/-- The dies of a partition. -/
def State.diesOf (s : State) (p : Nat) : List Nat := (List.range 4).filter (fun d => (s.clustersOf p).any (fun k => k / 10 == d))

/-- QGPART of a queue group: its partition, when it is assigned (R399). -/
def State.groupPart (s : State) (g : Nat) : Option Nat :=
  let w := (s.dcbAt (g / 256) (0x082700 + 8 * (g % 256))).toNat
  if w / 256 % 2 = 1 then some (w % 64) else none

/-- The translation root of a queue group (R312). -/
def State.rootOf (s : State) (g : Nat) : Word64 := s.dcbAt (g / 256) (0x080000 + 8 * (g % 256))

/-- The address-space identifier of a queue group (R312). -/
def State.asidOf (s : State) (g : Nat) : Nat := (s.rootOf g).toNat / 2 ^ 48

/-- STEPTMO of a partition, in µs (R20, R395). -/
def State.steptmo (s : State) (p : Nat) : Nat :=
  let w := (s.dcbAt (s.homeDie p) (0x081600 + 8 * p)).toNat
  if w = 0 then 10000 else w

/-- REDTMO of a partition, in µs. -/
def State.redtmo (s : State) (p : Nat) : Nat :=
  let w := (s.dcbAt (s.homeDie p) (0x081A00 + 8 * p)).toNat
  if w = 0 then 100 else w

/-- PARKTMO of a partition at a die, in µs (R318). -/
def State.parktmo (s : State) (die p : Nat) : Nat :=
  let w := (s.dcbAt die (0x081100 + 8 * p)).toNat
  if w = 0 then 2000 else w

/-- Arithmetic clocks of a number of µs (R4). -/
def clocksOf (us : Nat) : Nat := us * 2000

/-- The die-store window of a partition at a die (R288): first byte, and the first byte past it. -/
def State.window (s : State) (die p : Nat) : Nat × Nat :=
  let w := (s.dcbAt die (0x081400 + 8 * p)).toNat
  (w % 64 * 2 ^ 20, (w % 64 + w / 256 % 64) * 2 ^ 20)

/-- HTAB of a partition (R375). -/
def State.htab (s : State) (p : Nat) : Word64 := s.dcbAt (s.homeDie p) (0x081E00 + 8 * p)

/-- The contexts that are not as reset left them. -/
def State.liveCtxs (s : State) : List Nat := SMap.keys s.ctxs

/-- A drain of the partition is under way (R382). -/
def State.draining (s : State) (p : Nat) : Bool := s.drains.any (fun d => d.part == p && !d.frozen)

/-- The context stands at its stop point (R382). -/
def State.atStop (s : State) (c : Nat) : Bool := s.drains.any (fun d => d.stopped.contains c)

/-- A fix or a freeze has stopped the clocks of a partition (R389, R390). -/
def State.stoppedPart (s : State) (p : Nat) : Bool := s.fixed.contains 40 || s.fixed.contains p || s.drains.any (fun d => d.part == p && d.frozen)

/-- DEVNUM (R403). -/
def State.devnum (s : State) : Nat := (s.dcbAt 0 0x082510).toNat % 8192

/-! ### Registers of a context -/

def Ctx.reg (x : Ctx) (n : Nat) : Word64 := SMap.get x.g 0 n

/-- The register holds a value; otherwise a producer is pending (R22). -/
def Ctx.isFull (x : Ctx) (n : Nat) : Bool := SMap.get x.gEmpty 0 n == 0

def Ctx.setReg (x : Ctx) (n : Nat) (v : Word64) : Ctx := { x with g := SMap.set x.g 0 n v, gFrom := SMap.set x.gFrom 0 n 0 }

/-- The delivery of a pending producer (R22). -/
def Ctx.fillReg (x : Ctx) (n : Nat) (v : Word64) (op : Nat) : Ctx :=
  { x with g := SMap.set x.g 0 n v, gEmpty := SMap.set x.gEmpty 0 n 0, gFrom := SMap.set x.gFrom 0 n (op + 1) }

/-- The mark a pending producer leaves (R22). -/
def Ctx.emptyReg (x : Ctx) (n : Nat) (producer : Nat) : Ctx := { x with gEmpty := SMap.set x.gEmpty 0 n (producer + 1) }

/-- The image of soft register N (R219). -/
def Ctx.softReg (x : Ctx) (n : Nat) : BitVec 1024 := SMap.get x.soft 0 n

/-- Lane j of eN (R152). -/
def Ctx.lane (x : Ctx) (n j : Nat) : XsLane := SMap.get x.xs XsLane.zero (16 * n + j)

def Ctx.setLane (x : Ctx) (n j : Nat) (v : XsLane) : Ctx := { x with xs := SMap.set x.xs XsLane.zero (16 * n + j) v }

/-- The key and the 128-bit counter of stream N (R209). -/
def Ctx.key (x : Ctx) (n : Nat) : Word64 := SMap.get x.rndkey 0 n
def Ctx.counter (x : Ctx) (n : Nat) : BitVec 128 := SMap.get x.rndctr 0 n

/-- Logical accumulator n is granted (R23). -/
def Ctx.granted (x : Ctx) (n : Nat) : Bool := x.accmap.getLsbD n

/-- The physical accumulator of logical accumulator n (R23). -/
def Ctx.physical (x : Ctx) (n : Nat) : Nat := x.accmap.toNat / 2 ^ (8 + 2 * n) % 4

/-- CTXID (R28). -/
def ctxidWord (s : State) (c : Nat) (x : Ctx) : Word64 :=
  BitVec.ofNat 64 (x.part % 256 * 2 ^ 48 + (x.tsize - 1) % 256 * 2 ^ 40 + x.rank % 256 * 2 ^ 32 + s.devnum * 2 ^ 16 + c / 4 % 256 * 2 ^ 8 + c % 4)

/-- STATUS (R28); DET is the mode of the run that reads. -/
def statusWord (x : Ctx) (det : Bool) : Word64 :=
  BitVec.ofNat 64 (x.lastclass.toNat * 2 ^ 16 + x.pendBit.toNat * 8 + x.hndl.toNat * 4 + x.wdrv.toNat * 2 + det.toNat)

/-- A system register (R27) as a run in mode `det` reads it, with `x` what R64 makes visible. TAGNEST is the nest record of the run's frame. -/
def readSys (s : State) (c : Nat) (x : Ctx) (det : Bool) (r : SysReg) : Word64 :=
  match r with
  | .ctxid => ctxidWord s c x
  | .status => statusWord x det
  | .flags => x.flags
  | .mode => x.modeReg
  | .accmap => x.accmap
  | .tagnest => NestRec.word x.widths
  | .handler => x.handler
  | .faultptr => x.faultptr
  | .rspill => x.rspill
  | .rsdepth => BitVec.ofNat 64 x.stack.length
  | .dropcnt => x.dropcnt
  | .tilefull => x.tilefull
  | .tilepart => x.tilepart
  | .tileempty => x.tileempty
  | .steptmo => BitVec.ofNat 64 (s.steptmo x.part)
  | .redtmo => BitVec.ofNat 64 (s.redtmo x.part)
  | .cycle => BitVec.ofNat 64 (s.clk - SMap.get s.stoppedFor 0 x.part)
  | .perfsel => x.perfsel
  | .rndkey n => x.key n.toNat
  | .rndclo n => (x.counter n.toNat).setWidth 64
  | .rndchi n => (x.counter n.toNat).extractLsb' 64 64

/-- The register may be written (R27). -/
def SysReg.writable : SysReg → Bool
  | .flags | .mode | .rspill | .dropcnt | .tilefull | .tilepart | .tileempty | .perfsel | .rndkey _ | .rndclo _ | .rndchi _ => true
  | .ctxid | .status | .accmap | .tagnest | .handler | .faultptr | .rsdepth | .steptmo | .redtmo | .cycle => false

/-- A `wrsr` (R27, R28): read-only fields keep their value. FLAGS is formed by `flagsAtCommit`. -/
def Ctx.writeSys (x : Ctx) (r : SysReg) (v : Word64) : Ctx :=
  match r with
  | .mode => { x with modeReg := (x.modeReg &&& 1) ||| (v &&& 0xFF02) }
  | .rspill => { x with rspill := v &&& 0xFFFF_FFFF_FFFF_FFC0 }
  | .dropcnt => { x with dropcnt := v }
  | .tilefull => { x with tilefull := v }
  | .tilepart => { x with tilepart := v }
  | .tileempty => { x with tileempty := v }
  | .perfsel => { x with perfsel := v &&& 0x3F }
  | .rndkey n => { x with rndkey := SMap.set x.rndkey 0 n.toNat v }
  | .rndclo n => { x with rndctr := SMap.set x.rndctr 0 n.toNat ((x.counter n.toNat).extractLsb' 64 64 ++ v) }
  | .rndchi n => { x with rndctr := SMap.set x.rndctr 0 n.toNat (v ++ (x.counter n.toNat).setWidth 64) }
  | _ => x

/-! ### What a run makes of its context (R64, R67) -/

/-- A stable insertion by instruction index. -/
def insertEff (e : Buffered) : List Buffered → List Buffered
  | [] => [e]
  | x :: r => if x.idx ≤ e.idx then x :: insertEff e r else e :: x :: r

/-- The effects of a run in ascending instruction index. -/
def BlockRun.ordered (b : BlockRun) : List Buffered := b.effs.foldl (fun l e => insertEff e l) []

/-- The element values that an `eadd` gives lane j (R174). -/
def eaddTerms (bf16 : Bool) (v : Payload) (j : Nat) : List Ext :=
  if bf16 then [FloatFmt.bf16.read (bitsOf v.toNat (32 * j) 16), FloatFmt.bf16.read (bitsOf v.toNat (32 * j + 16) 16)]
  else [FloatFmt.f32.read (bitsOf v.toNat (32 * j) 32)]

/-- Lane j of eN with the additions of `eadd` (R174), and the flags they raise (R153). -/
def addTerms (l : XsLane) (ts : List Ext) : XsLane × FlagSet :=
  ts.foldl (fun (acc : XsLane × FlagSet) t =>
    let (x, f) := xsAdd acc.1 t
    (x, acc.2 ||| f)) (l, 0)

/-- A register effect other than FLAGS, the exact sums and the soft registers. Writes of a g register
take effect in index order (R22), and so do `nest` and `unnest` (R67). Log 14, DESIGN CHOICE: two `wrsr` of one register in one run take effect in index order. -/
def Ctx.applyEff (x : Ctx) (e : Eff) : Ctx :=
  match e with
  | .gwrite r v => x.setReg r.toNat v
  | .wrsr r v => x.writeSys r v
  | .draw n k => { x with rndctr := SMap.set x.rndctr 0 n.toNat (x.counter n.toNat + BitVec.ofNat 128 k) }
  | .nest c =>
    match pushLevel x.widths c with
    | .ok w => { x with widths := w }
    | .error _ => x
  | .unnest =>
    match popLevel x.nest x.widths with
    | .ok (n, w) => { x with nest := n, widths := w }
    | .error _ => x
  | _ => x

/-- The exact sums: every `eclr` first, then every `eadd` (R177). -/
def Ctx.applySums (x : Ctx) (effs : List Eff) : Ctx :=
  let x := effs.foldl (fun x e =>
    match e with
    | .eclr n => (List.range 16).foldl (fun x j => x.setLane n.toNat j XsLane.zero) x
    | _ => x) x
  effs.foldl (fun x e =>
    match e with
    | .eadd n bf16 v => (List.range 16).foldl (fun x j => x.setLane n.toNat j (addTerms (x.lane n.toNat j) (eaddTerms bf16 v j)).1) x
    | _ => x) x

/-- The soft registers after the writes among effects, in the order in which their nodes fired: of two writes of one register the later depends on the earlier
(R222). -/
def Ctx.applySoft (x : Ctx) (effs : List Buffered) : Ctx :=
  effs.foldl (fun x e =>
    match e.eff with
    | .soft n image => { x with soft := SMap.set x.soft 0 n.toNat image }
    | _ => x) x

/-- The last FLAGS value that the effects write. -/
def flagsWritten (effs : List Eff) : Option Word64 :=
  effs.foldl (fun w e =>
    match e with
    | .wrsr .flags v => some v
    | _ => w) none

/-- The FLAGS bits that `flags` nodes clear. -/
def flagsCleared (effs : List Eff) : FlagSet :=
  effs.foldl (fun m e =>
    match e with
    | .flagsClear k => m ||| k
    | _ => m) 0

/-- The registers of a context after the commit of a run of it. TAGNEST and the tag it starts from are the run's own (R65, R81). -/
def Ctx.applyRun (x : Ctx) (b : BlockRun) : Ctx :=
  let effs := b.ordered.map (·.eff)
  let x := effs.foldl Ctx.applyEff { x with nest := b.nest, widths := b.widths }
  let x := (x.applySums effs).applySoft b.effs
  { x with flags := flagsAtCommit x.flags (flagsWritten effs) (flagsCleared effs) b.flags }

/-- The runs of a context that are older than run `iid`. -/
def Ctx.older (x : Ctx) (iid : Nat) : List BlockRun := x.runs.takeWhile (fun b => b.iid != iid)

/-- What run `iid` sees of its context's registers: older runs count as committed (R64). The nest record it sees is its own (R28), and
its return stack is as the run found it. -/
def Ctx.view (x : Ctx) (b : BlockRun) : Ctx :=
  { (x.older b.iid).foldl Ctx.applyRun { x with rspill := b.undo.rspill } with nest := b.nest, widths := b.widths, stack := b.undo.stack }

def Ctx.run? (x : Ctx) (iid : Nat) : Option BlockRun := x.runs.find? (fun b => b.iid == iid)

/-- The context with one of its runs replaced. -/
def Ctx.setRun (x : Ctx) (b : BlockRun) : Ctx := { x with runs := x.runs.map (fun y => if y.iid == b.iid then b else y) }

/-- The run is its context's oldest uncommitted one. -/
def Ctx.isOldest (x : Ctx) (iid : Nat) : Bool :=
  match x.runs with
  | b :: _ => b.iid == iid
  | [] => false

def Run.modRun (r : Run s0) (c iid : Nat) (f : BlockRun → BlockRun) : Run s0 :=
  r.modCtx c (fun x => { x with runs := x.runs.map (fun b => if b.iid == iid then f b else b) })

/-! ### Event counters (R391, R392) -/

/-- A counter's mark, kept beside its registers: 0 the threshold is ahead, 1 it has been taken, 2 the counter stood past it when it was written (R391). -/
def markOff (off : Nat) : Nat := off / 0x20 * 0x20 + 0x18

/-- A counter of a die control block advances by `n`. One that wraps has its threshold ahead of it again (R391). -/
def Run.advance (r : Run s0) (die off n : Nat) : Run s0 :=
  let v := (r.st.dcbAt die off).toNat
  let x := v % 2 ^ 48 + n
  let r := r.setDcb die off (BitVec.ofNat 64 ((if 2 ^ 48 ≤ x then 2 ^ 63 else v / 2 ^ 63 * 2 ^ 63) + x % 2 ^ 48))
  if 2 ^ 48 ≤ x ∧ r.st.dcbAt die (markOff off) = 2 then r.setDcb die (markOff off) 0 else r

/-- DCB offset of counter `n` of a die-local core. -/
def coreCounter (k n : Nat) : Nat := 0x090000 + 0x200 * k + 0x20 * n
def dieCounter (n : Nat) : Nat := 0x098000 + 0x20 * n

/-- A core's counters of a source advance; `pe` is the PE of the event where it has one. -/
def Run.count (r : Run s0) (c : Nat) (pe : Option Nat) (src n : Nat) : Run s0 :=
  let die := c / 160
  (List.range 16).foldl (fun r i =>
    let off := coreCounter (c / 4 % 40) i
    let cfg := (r.st.dcbAt die (off + 8)).toNat
    let peOk : Bool := match pe with
      | none => true
      | some p => cfg / 2 ^ 22 % 2 == 1 || cfg / 2 ^ 16 % 64 == p
    if cfg % 256 = src ∧ cfg / 2 ^ (12 + c % 4) % 2 = 1 ∧ peOk = true then r.advance die off n else r) r

/-- A core's counters of a source advance at an event that belongs to no context. -/
def Run.countCore (r : Run s0) (core src n : Nat) : Run s0 :=
  (List.range 16).foldl (fun r i =>
    let off := coreCounter (core % 40) i
    if (r.st.dcbAt (core / 40) (off + 8)).toNat % 256 = src then r.advance (core / 40) off n else r) r

/-- A die's counters of a source advance. -/
def Run.countDie (r : Run s0) (die src n : Nat) : Run s0 :=
  (List.range 32).foldl (fun r i =>
    if (r.st.dcbAt die (dieCounter i + 8)).toNat % 256 = src then r.advance die (dieCounter i) n else r) r

/-- The source counts happenings that the spec leaves to timing, to the device's own working or to its surroundings (R392): idle clocks of the array, misses and walks of
translation caches whose replacement R315 does not give, waits at combiners, bytes over the die bridges. Log 32, DESIGN CHOICE: such counters read as free values. -/
def timedSource (src : Nat) : Bool := [0x29, 0x44, 0x45, 0x46, 0x47].contains src

end Sys2Proof.Machine
end

