-- ==== Sys2Proof/Machine/Translate.lean ====
section
/-! DEFINITION. Translation of device virtual addresses (R312 to R315), parking (R316), slab forwarding (R325), the frame table and its allocator (R320 to R322),
and copy-on-write (R330). -/

namespace Sys2Proof.Machine

open Sys2Proof

variable {s0 : State}

/-! ### Table entries (R313) -/

def leafV (w : Word64) : Bool := w.getLsbD 0
def leafR (w : Word64) : Bool := w.getLsbD 2
def leafW (w : Word64) : Bool := w.getLsbD 3
def leafX (w : Word64) : Bool := w.getLsbD 4
def leafWX (w : Word64) : Bool := w.getLsbD 5
def leafC (w : Word64) : Bool := w.getLsbD 6
def leafS (w : Word64) : Bool := w.getLsbD 7
def leafIs (w : Word64) : Bool := w.getLsbD 9
def leafSize (w : Word64) : Nat := bitsOf w.toNat 10 2
def leafAsid (w : Word64) : Nat := bitsOf w.toNat 48 16
/-- Physical address bits 39:12 as a byte address. -/
def leafFrame (w : Word64) : Nat := bitsOf w.toNat 12 28 * 4096

/-- log2 of a page size (R313). -/
def pageBits (sz : Nat) : Nat :=
  match sz with
  | 0 => 12
  | 1 => 16
  | 2 => 21
  | _ => 30

/-- What a walk of the tables finds (R314). -/
inductive Walk where
  | leaf (w : Word64) (at' : Nat)
  | missing
  | malformed
  | noRoot
  deriving DecidableEq, Repr

/-- The entry is malformed at its level (R314). -/
def malformedEntry (level : Nat) (w : Word64) : Bool :=
  bitsOf w.toNat 40 8 != 0 || w.getLsbD 8 || w.getLsbD 1 ||
  (if leafIs w then
    decide (level = 3) || (leafW w && (leafX w || leafWX w)) || leafFrame w % 2 ^ pageBits (leafSize w) != 0
      || !(match level with
          | 2 => leafSize w == 3
          | 1 => leafSize w == 2
          | _ => leafSize w == 0 || leafSize w == 1)
  else decide (level = 0) || leafAsid w != 0)

/-- The walk from the entry of a level at physical address `table`. -/
def walkFrom (s : State) (va : Nat) : Nat → Nat → Walk
  | 0, table =>
    let at' := table + bitsOf va 12 9 * 8
    let w : Word64 := BitVec.ofNat 64 (s.num (mainKey at') 8)
    if !leafV w then .missing else if malformedEntry 0 w then .malformed else .leaf w at'
  | level + 1, table =>
    let at' := table + (if level = 2 then bitsOf va 39 17 else bitsOf va (21 + 9 * level) 9) * 8
    let w : Word64 := BitVec.ofNat 64 (s.num (mainKey at') 8)
    if !leafV w then .missing
    else if malformedEntry (level + 1) w then .malformed
    else if leafIs w then .leaf w at'
    else walkFrom s va level (leafFrame w)

/-- A walk under a translation root (R312, R314). -/
def walk (s : State) (root : Word64) (va : Nat) : Walk :=
  if root.getLsbD 0 then walkFrom s va 3 (bitsOf root.toNat 20 20 * 2 ^ 20) else .noRoot

/-- What an access needs (R105, R88, R278). -/
inductive Need where
  | r | w | rw | x | wx
  deriving DecidableEq, Repr

/-- The outcome of a translation. -/
inductive Xl where
  | phys (pa : Nat) (leaf : Word64)
  | park
  | fault (cls code : Nat)
  deriving DecidableEq, Repr

/-- Permission of a leaf for an access, in the order of R314, and the grant that the frame carries (R88). -/
def permitted (s : State) (leaf : Word64) (asid va : Nat) (need : Need) : Xl :=
  let pa := leafFrame leaf + va % 2 ^ pageBits (leafSize leaf)
  let vx := (s.frameOf (pa / 4096)).vx
  let wants : Bool := need = .w || need = .rw
  if leafAsid leaf ≠ 0 ∧ leafAsid leaf ≠ asid then .fault 0x09 0x05
  else if (need = .r || need = .rw) && !leafR leaf then .fault 0x09 0x01
  else if wants && (!leafW leaf || vx) then .fault 0x09 0x02
  else if need = .x && (!leafX leaf || !vx) then .fault 0x09 0x03
  else if need = .wx && (!leafWX leaf || !vx) then .fault 0x09 0x04
  else .phys pa leaf

/-! ### Who accesses -/

/-- The party of an access: `c` is a context, 640 for a part of the device that is none, or 641 for another device. -/
structure Agent where
  c      : Nat
  core   : Nat
  part   : Nat
  grp    : Nat
  launch : Nat
  node   : Nat
  rank   : Nat
  deriving DecidableEq, Repr

def Agent.die (a : Agent) : Nat := a.core / 40
def Agent.cluster (a : Agent) : Nat := a.core / 4

/-- A context as the party of an access. -/
def State.agent (s : State) (c : Nat) : Agent :=
  let x := s.ctx c
  ⟨c, c / 4, x.part, x.grp, x.launch, x.node, x.rank⟩

/-! ### Forwarding (R324, R325) -/

/-- The address under one forwarding pair of a die. -/
def forwardOne (s : State) (die asid n va : Nat) : Option Nat :=
  let old := (s.dcbAt die (0x082000 + 0x20 * n)).toNat
  let new := (s.dcbAt die (0x082008 + 0x20 * n)).toNat
  let wm := (s.dcbAt die (0x082010 + 0x20 * n)).toNat
  let len := 2 ^ (old % 64)
  let ob := bitsOf old 12 44 * 4096
  let nb := bitsOf new 12 44 * 4096
  let mark := bitsOf wm 12 29 * 4096
  if old / 2 ^ 63 = 1 ∧ wm / 2 ^ 48 = asid then
    if ob ≤ va ∧ va < ob + len then some (if va - ob < mark then nb + (va - ob) else va)
    else if nb ≤ va ∧ va < nb + len then some (if mark ≤ va - nb then ob + (va - nb) else va)
    else none
  else none

/-- The address after forwarding. -/
def forward (s : State) (die asid va : Nat) : Nat :=
  ((List.range 16).findSome? (fun n => forwardOne s die asid n va)).getD va

/-! ### Translation -/

/-- The translation of a main address in the address space of a queue group. A buffer that still holds an older leaf may be used in its place, until it is
invalidated (R315). -/
def Run.translateIn (r : Run s0) (die grp va : Nat) (need : Need) : Run s0 × Xl :=
  let s := r.st
  let asid := s.asidOf grp
  let va := if need = .x then va else forward s die asid va
  let w := walk s (s.rootOf grp) va
  let held := s.tlb.find? (fun e => e.asid == asid && e.page == va / 4096)
  let found := match w with
    | .leaf l _ => some l
    | _ => none
  let fresh : Run s0 × Xl :=
    match w with
    | .noRoot => (r, .fault 0x0A 0x03)
    | .missing => (r, .park)
    | .malformed => (r, .fault 0x0A 0x04)
    | .leaf l _ =>
      let tlb := ⟨asid, va / 4096, l⟩ :: s.tlb.filter (fun e => !(e.asid == asid && e.page == va / 4096))
      (if held = some ⟨asid, va / 4096, l⟩ then r else r.put (.tlb tlb), permitted s l asid va need)
  match held with
  | none => fresh
  | some e =>
    if found = some e.leaf then fresh
    else if Config.tlbKeeps r.choice then (r.chose, permitted s e.leaf asid va need)
    else (fresh.1.chose, fresh.2)

/-- Log 12, DESIGN CHOICE: whether a translation buffer still holds a leaf is a free choice. -/
def Run.translate (r : Run s0) (a : Agent) (va : Nat) (need : Need) : Run s0 × Xl := r.translateIn a.die a.grp va need

/-- A translation without any effect, for overlays and checks. -/
def State.peek (s : State) (a : Agent) (va : Nat) : Option (Nat × Word64) :=
  let va := forward s a.die (s.asidOf a.grp) va
  match walk s (s.rootOf a.grp) va with
  | .leaf l _ => some (leafFrame l + va % 2 ^ pageBits (leafSize l), l)
  | _ => none

/-! ### Coded lines (R308 to R310)

A line is 1 KiB of main memory. `State.lines` holds the metadata of a coded line, 0 for a raw one; the bytes that memory holds are the decoded ones. `State.learned` holds at 2 * die the lines written to compressed
pages since the die's learning phase began or ended, and at 2 * die + 1 the phase: 0 learning, 1 at rest, 2 waiting for the oldest generation to empty. -/

def cmpCtl (s : State) (die : Nat) : Nat := (s.dcbAt die 0x082400).toNat
def cmpGen (s : State) (die : Nat) : Nat := (s.dcbAt die 0x082408).toNat

/-- The metadata of a line coded in a generation in `n` sectors, and the generation and the sectors of a line (R308). -/
def lineMark (gen n : Nat) : Nat := 1 + gen + 4 * (n - 1)
def markGen (m : Nat) : Option Nat := if m = 0 then none else some ((m - 1) % 4)
def markSectors (m : Nat) : Nat := if m = 0 then 16 else (m - 1) / 4 + 1

/-- Sectors of a line under a code, when the line can be coded: every byte has a code, and 15 sectors hold it. -/
def codedSectors (lens : List Nat) (bytes : List Byte) : Option Nat :=
  let ls := bytes.map (fun b => lens.getD b.toNat 0)
  let n := ceilDiv ls.sum 512
  if ls.any (· == 0) || decide (15 < n) then none else some n

def lensKey (die g : Nat) : Nat := die * 4 + g
def State.lens (s : State) (die g : Nat) : List Nat := SMap.get s.codeLens [] (lensKey die g)

/-- The metadata of line `n` of main when it is written now on a compressed page: coded in CUR where that is resident, coding is on and its code takes 15 sectors or
less, else raw (R308 to R310). -/
def codeMark (s : State) (n : Nat) : Nat :=
  let die := n / 2 ^ 28 % 4
  if cmpCtl s die % 2 = 1 ∧ cmpGen s die % 16 ≠ 0 then
    let g := bitsOf (cmpGen s die) 6 2
    match codedSectors (s.lens die g) (s.bytes (mainKey (1024 * n)) 1024) with
    | some k => lineMark g k
    | none => 0
  else 0

/-- `n` bytes at a key have been written; `c` is C of the leaf of their page. The die counts the lines and their sectors (R392). Log 90, DEDUCED: a write or a read of a line
moves all the sectors that it occupies. -/
def Run.codeLines (r : Run s0) (c : Bool) (k n : Nat) : Run s0 :=
  if k < mainKey 0 ∨ hostKey 0 ≤ k then r
  else
    let pa := k - mainKey 0
    let die := pa / 2 ^ 38 % 4
    (List.range ((pa + n - 1) / 1024 + 1 - pa / 1024)).foldl (fun r i =>
      let m := if c then codeMark r.st (pa / 1024 + i) else 0
      let r := r.put (.line (pa / 1024 + i) m)
      let r := (r.countDie die (if m = 0 then 0x41 else 0x40) 1).countDie die 0x42 (markSectors m)
      if c then r.put (.learned (2 * die) (SMap.get r.st.learned 0 (2 * die) + 1)) else r) r

/-- `n` bytes at a key have been read: the die counts the sectors of their lines (R392). -/
def Run.readLines (r : Run s0) (k n : Nat) : Run s0 :=
  if k < mainKey 0 ∨ hostKey 0 ≤ k ∨ n = 0 then r
  else
    let pa := k - mainKey 0
    (List.range ((pa + n - 1) / 1024 + 1 - pa / 1024)).foldl (fun r i =>
      r.countDie (pa / 2 ^ 38 % 4) 0x43 (markSectors (SMap.get r.st.lines 0 (pa / 1024 + i)))) r

/-- The same for a write at an address of a party. -/
def Run.wroteLines (r : Run s0) (a : Agent) (sp : Space) (ea k n : Nat) : Run s0 :=
  match sp with
  | .main => r.codeLines ((r.st.peek a ea).any (fun e => leafC e.2)) k n
  | _ => r

/-- An invalidation (R315) of the pages of an address space that the test names. -/
def Run.invalidate (r : Run s0) (drop : TlbEntry → Bool) : Run s0 := r.put (.tlb (r.st.tlb.filter (fun e => !drop e)))

/-! ### Parking (R316) -/

def pttKey (die e : Nat) : Nat := die * 512 + e
def State.park (s : State) (die e : Nat) : Park := SMap.get s.ptt Park.free (pttKey die e)

/-- STATE is parked. Log 107, DEDUCED: COUNT of a parked translation. -/
def Park.live (p : Park) : Bool := !p.ws.isEmpty

/-- KIND bits (R316). -/
def kindRead : BitVec 5 := 1
def kindWrite : BitVec 5 := 2
def kindFetch : BitVec 5 := 4
def kindWeight : BitVec 5 := 8
def kindEngine : BitVec 5 := 16

/-- The context of a party, when it is one. -/
def Waiter.context : Waiter → Option Nat
  | .node c _ _ | .pend c _ | .fetch c | .helm c | .drive c => some c
  | .op _ | .ring _ | .accept _ | .completion _ | .peer _ | .area _ | .mover _ _ => none

/-- The entry that a miss shares, or the lowest free one. -/
def parkSlot (s : State) (die asid va part : Nat) : Option Nat :=
  match (List.range 512).find? (fun e => (s.park die e).live && (s.park die e).va == va / 4096 * 4096 && (s.park die e).asid == asid
      && (s.park die e).part == part) with
  | some e => some e
  | none => (List.range 512).find? (fun e => !(s.park die e).live)

/-- The access of `w` parks; when all 512 entries are in use it waits at the unit, and `none` says so. -/
def Run.parkOn (r : Run s0) (die grp va part : Nat) (kind : BitVec 5) (w : Waiter) : Option (Run s0) :=
  let asid := r.st.asidOf grp
  let va := if kind &&& kindFetch = 0 then forward r.st die asid va else va
  (parkSlot r.st die asid va part).map (fun e =>
    let p := r.st.park die e
    let p := if p.live then { p with kinds := p.kinds ||| kind, ws := p.ws ++ [w] }
      else ⟨va / 4096 * 4096, asid, kind, r.st.clk, part, [w]⟩
    let r := r.put (.ptt (pttKey die e) p)
    match w.context with
    | some c => r.count c none 0x20 1
    | none => r)

/-! ### Frames (R320 to R322) -/

/-- The frame may be handed out: free, populated (R289), and not on the bad-frame list (R321). Log 93, DESIGN CHOICE: what a partition's list of free frames is. -/
def State.frameFree (s : State) (f : Nat) : Bool := (s.frameOf f).st == 0 && !s.badFrames.contains f

/-- Frames of a die that are populated (R289). -/
def framesPerDie : Nat := 46875000

/-- The lowest `n` free frames of a partition from frame `f` of die `d` on. A partition's free frames are those of its dies that no launch pool holds. -/
def freeFrames (s : State) (dies : List Nat) (taken : List Nat) (n : Nat) : List Nat :=
  let listed := (SMap.keys s.frames ++ s.badFrames ++ taken)
  let span := n + listed.length
  let all := dies.flatMap (fun d => (List.range (min span framesPerDie)).map (fun i => d * 2 ^ 26 + i))
  (all.filter (fun f => s.frameFree f && !taken.contains f)).take n

/-- The lowest aligned run of `n` free frames of some dies: each frame that is not free spoils one run at most. -/
def freeRun (s : State) (dies : List Nat) (taken : List Nat) (n : Nat) : Option Nat :=
  let spoiled := (SMap.keys s.frames ++ s.badFrames ++ taken).length
  let runs := dies.flatMap (fun d => (List.range (min (spoiled + 1) (framesPerDie / n))).map (fun i => d * 2 ^ 26 + n * i))
  runs.find? (fun f => (List.range n).all (fun i => s.frameFree (f + i) && !taken.contains (f + i)))

/-- The frames of a launch's pool that no request has taken: those that have been are in use, or back on the free list (R321, R322). -/
def Launch.unused (l : Launch) : List Nat := l.frames.filter (fun f => !l.windows.any (fun e => e.2.contains f))

/-- Frames that accepted launches hold in their pools (R322) and as next-plane storage (R294). -/
def State.pooled (s : State) : List Nat := s.launches.flatMap (fun l => l.unused ++ l.planes)

/-- The index of the frame window of a node and rank in its launch (R322): the team sizes of the core nodes numbered below, plus the rank. -/
def windowIndex (l : Launch) (node rank : Nat) : Nat :=
  ((l.nodes.take node).map (fun n => if n.kind = 0 then n.team else 0)).sum + rank

def Launch.frwin (l : Launch) : Nat := fieldAt l.rec' 84 4
def Launch.frpool (l : Launch) : Nat := fieldAt l.rec' 80 4

/-- The lowest `n` consecutive frames, aligned to `n`, that a request of an agent may have, and the run in which its window holds them as used. A party of no launch, and one whose launch
has no windows, takes the lowest free frames of its partition. -/
def Run.takeFrames (r : Run s0) (a : Agent) (n : Nat) : Option (Nat × Run s0) :=
  match r.st.launches.find? (fun l => l.id == a.launch) with
  | none =>
    let base := if n = 1 then (freeFrames r.st (r.st.diesOf a.part) r.st.pooled 1).head? else freeRun r.st (r.st.diesOf a.part) r.st.pooled n
    base.map (fun f => (f, r))
  | some l =>
    if l.frwin = 0 then
      let base := if n = 1 then (freeFrames r.st (r.st.diesOf a.part) r.st.pooled 1).head? else freeRun r.st (r.st.diesOf a.part) r.st.pooled n
      base.map (fun f => (f, r))
    else
      let wi := windowIndex l a.node a.rank
      let used := SMap.get l.windows [] wi
      let rest := ((l.frames.drop (wi * l.frwin)).take l.frwin).filter (fun f => !used.contains f)
      let ok := fun (f : Nat) => f % n == 0 && (List.range n).all (fun i => rest.contains (f + i))
      match rest.find? ok with
      | none => none
      | some f =>
        let l' := { l with windows := SMap.set l.windows [] wi (used ++ (List.range n).map (fun i => f + i)) }
        some (f, r.put (.launches (r.st.launches.map (fun y => if y.id == l.id then l' else y))))

/-- Frames taken into use with REFCNT 1 (R323, R330). -/
def Run.useFrames (r : Run s0) (f n part : Nat) : Run s0 :=
  (List.range n).foldl (fun r i => r.put (.frame (f + i) ⟨1, BitVec.ofNat 6 part, false, false, 1⟩)) r

/-- What the entry of a frame that is freed becomes: free, or bad when the frame is listed (R291, R320). -/
def State.freedFrame (s : State) (f : Nat) : Frame := if s.badFrames.contains f then { Frame.reset with st := 2 } else Frame.reset

/-- A frame zeroed and free again (R321): it loses its grant (R88). -/
def Run.freeFrame (r : Run s0) (f : Nat) : Run s0 := (r.put (.clear (mainKey (4096 * f)) (mainKey (4096 * (f + 1))))).put (.frame f (r.st.freedFrame f))

/-- One leaf less maps a frame (R321); at REFCNT 0 it is free. -/
def Run.dropRef (r : Run s0) (f : Nat) : Run s0 :=
  let x := r.st.frameOf f
  if x.ref.toNat ≤ 1 then r.freeFrame f else r.put (.frame f { x with ref := x.ref - 1 })

/-- A waiter of a parked access goes on: it walks again (R317). -/
def Run.wake (r : Run s0) (w : Waiter) : Run s0 :=
  match w with
  | .node c iid i => r.modRun c iid (fun b => { b with parked := b.parked.filter (· != i) })
  | .pend c id => r.modCtx c (fun x => { x with pend := x.pend.map (fun p => if p.id == id then { p with parked := false } else p) })
  | .op id => r.put (.ops (r.st.ops.map (fun o => if o.id == id then { o with parked := false } else o)))
  | .fetch c => r.modCtx c (fun x => { x with fetchParked := false })
  | .helm c => r.modCtx c (fun x => { x with helmParked := false })
  | .drive c => r.modCtx c (fun x => { x with drive := x.drive.map (fun d => { d with parked := false }) })
  | .ring q => r.put (.ringParked (r.st.ringParked.filter (· != q)))
  | .accept l | .completion l => r.put (.launches (r.st.launches.map (fun y => if y.id == l then { y with parked := false } else y)))
  | .peer id => r.put (.peers (r.st.peers.map (fun y => if y.id == id then { y with parked := false } else y)))
  | .area part => r.put (.drains (r.st.drains.map (fun d => if d.part == part then { d with parked := false } else d)))
  | .mover die n => r.put (.movers (r.st.movers.filter (fun e => e.1 != die * 16 + n)))

/-- A waiter of a parked access receives a not-present fault (R317, R318). -/
def Run.deny (r : Run s0) (w : Waiter) (cls code : Nat) : Run s0 :=
  match w with
  | .node c iid i => r.modRun c iid (fun b => { b with parked := b.parked.filter (· != i), denied := (i, cls, code) :: b.denied })
  | .pend c id =>
    r.modCtx c (fun x => { x with pend := x.pend.map (fun p => if p.id == id then { p with parked := false, denied := some (cls, code) } else p) })
  | .op id => r.put (.ops (r.st.ops.map (fun o => if o.id == id then { o with parked := false, denied := some (cls, code) } else o)))
  | .fetch c => r.modCtx c (fun x => { x with fetchParked := false, fetchDenied := some (cls, code) })
  | .helm c => r.modCtx c (fun x => { x with helmParked := false, helmDenied := some (cls, code) })
  | .drive c => r.modCtx c (fun x => { x with drive := x.drive.map (fun d => { d with parked := false, denied := some (cls, code) }) })
  | .ring q => (r.put (.ringParked (r.st.ringParked.filter (· != q)))).put (.ringDenied (q :: r.st.ringDenied))
  | .accept l | .completion l =>
    r.put (.launches (r.st.launches.map (fun y => if y.id == l then { y with parked := false, denied := some (cls, code) } else y)))
  | .peer id =>
    match r.st.peers.find? (fun e => e.id == id) with
    | some e => (r.put (.peers (r.st.peers.filter (fun y => y.id != id)))).put (.replies (r.st.replies ++ [⟨e.req.srcDev, e.req.srcPart, e.req.va.toNat, [], cls, code⟩]))
    | none => r
  | .area part => r.put (.drains (r.st.drains.map (fun d => if d.part == part then { d with parked := false, denied := some (cls, code) } else d)))
  | .mover die n => r.put (.movers ((r.st.movers.filter (fun e => e.1 != die * 16 + n)) ++ [(die * 16 + n, some (cls, code))]))

/-- A park resolved by replay: the entry is free, and its waiters walk again in the order in which they parked. Log 17, DEDUCED: a waiter that can act goes before those that parked
after it on the entry. -/
def Run.replay (r : Run s0) (key : Nat) : Run s0 :=
  let p := SMap.get r.st.ptt Park.free key
  ((p.ws.foldl Run.wake r).put (.ptt key Park.free)).put (.replays (r.st.replays ++ (if 2 ≤ p.ws.length then [p.ws] else [])))

/-- Waiters that the test names no longer stand in line for a replay. -/
def dropReplays (l : List (List Waiter)) (gone : Waiter → Bool) : List (List Waiter) := (l.map (fun ws => ws.filter (fun w => !gone w))).filter (fun ws => decide (2 ≤ ws.length))

/-- A park that fails: every waiter receives the fault, and the entry is free. -/
def Run.failPark (r : Run s0) (key cls code : Nat) : Run s0 :=
  let p := SMap.get r.st.ptt Park.free key
  (p.ws.foldl (fun r w => r.deny w cls code) r).put (.ptt key Park.free)

/-- The device has mapped `2^k` bytes at `va`: parked entries of those pages replay at once (R317). -/
def Run.nowMapped (r : Run s0) (asid va k : Nat) : Run s0 :=
  (SMap.keys r.st.ptt).foldl (fun r key =>
    let p := SMap.get r.st.ptt Park.free key
    if p.live ∧ p.asid = asid ∧ p.va / 2 ^ k = va / 2 ^ k then r.replay key else r) r

/-- Table entries that one page of a size takes: a 64 KiB page has 16 (R314). -/
def entriesOf (sz : Nat) : Nat := if sz = 1 then 16 else 1

/-- The entries of a page written with one word. -/
def Run.writeLeaf (r : Run s0) (at' asid va sz : Nat) (w : Word64) : Run s0 :=
  let first := if sz = 1 then at' / 128 * 128 else at'
  let r := (List.range (entriesOf sz)).foldl (fun r i => r.write (mainKey (first + 8 * i)) (leBytes 8 w.toNat)) r
  r.invalidate (fun e => (e.asid == asid || leafAsid e.leaf == 0) && e.page * 4096 / 2 ^ pageBits sz == va / 2 ^ pageBits sz)

/-- The entry that a leaf of a size would take for an address (R323, R416). -/
inductive Place where
  | entry (at' : Nat) (w : Word64)
  | missing
  | mapped
  | malformed
  | noRoot
  deriving DecidableEq, Repr

/-- The level of the table that holds leaves of a size. -/
def levelOf (sz : Nat) : Nat :=
  match sz with
  | 0 | 1 => 0
  | 2 => 1
  | _ => 2

/-- The walk down to level `target`, from the table of a level. -/
def placeFrom (s : State) (va target : Nat) : Nat → Nat → Place
  | 0, table =>
    let at' := table + bitsOf va 12 9 * 8
    .entry at' (BitVec.ofNat 64 (s.num (mainKey at') 8))
  | level + 1, table =>
    let at' := table + (if level = 2 then bitsOf va 39 17 else bitsOf va (21 + 9 * level) 9) * 8
    let w : Word64 := BitVec.ofNat 64 (s.num (mainKey at') 8)
    if level + 1 = target then .entry at' w
    else if !leafV w then .missing
    else if malformedEntry (level + 1) w then .malformed
    else if leafIs w then .mapped
    else placeFrom s va target level (leafFrame w)

/-- Where a page of a size would be mapped; a page with a valid entry already is mapped. -/
def placeOf (s : State) (root : Word64) (va sz : Nat) : Place :=
  if !root.getLsbD 0 then .noRoot
  else
    match placeFrom s va (levelOf sz) 3 (bitsOf root.toNat 20 20 * 2 ^ 20) with
    | .entry at' w =>
      if leafV w || (List.range (entriesOf sz)).any (fun i => leafV (BitVec.ofNat 64 (s.num (mainKey (at' + 8 * i)) 8))) then .mapped else .entry at' w
    | p => p

/-- A leaf (R313). -/
def leafWord (frame sz asid : Nat) (rd wr s c : Bool) : Word64 :=
  BitVec.ofNat 64 (1 + (if rd then 4 else 0) + (if wr then 8 else 0) + (if c then 64 else 0) + (if s then 128 else 0) + 512 + sz * 1024 + frame * 4096
    + asid * 2 ^ 48)

/-- A page mapped by the device. -/
def Run.mapPage (r : Run s0) (at' asid va sz : Nat) (w : Word64) : Run s0 := (r.writeLeaf at' asid va sz w).nowMapped asid va (pageBits sz)

/-- Bytes of main memory copied from one physical address to another. -/
def Run.copyMain (r : Run s0) (src dst n : Nat) : Run s0 :=
  let bytes := r.st.bytes (mainKey src) n
  (List.range n).foldl (fun r i =>
    let b := bytes.getD i 0
    if r.st.byte (mainKey (dst + i)) = b then r else r.put (.byte (mainKey (dst + i)) b)) r

/-- A write that has reached the home unit of its frame waits there for its turn (R330, R331). -/
def State.homeQueued (s : State) (w : Waiter) : Bool := s.home.any (fun q => q.by' == w)

/-- The writer leaves the home unit at which it stood. -/
def Run.leaveHome (r : Run s0) (w : Waiter) : Run s0 := if r.st.homeQueued w then r.put (.home (r.st.home.filter (fun q => q.by' != w))) else r

/-- A writer waits at no home unit, or its turn in the batch being served has come (R331). -/
def State.homeTurn (s : State) (w : Waiter) : Bool :=
  match s.home.find? (fun q => q.by' == w) with
  | none => true
  | some q => s.home.find? (fun x => x.frame == q.frame && x.batch) == some q

/-- The place of a write through a leaf with S = 1 (R330): in place at REFCNT 1, else in new frames that the writer's leaf now names. The address is one that
forwarding has been applied to. `none` when no frame can be had. -/
def Run.ownFrameAt (r : Run s0) (a : Agent) (va pa : Nat) : Option (Run s0 × Nat) :=
  let asid := r.st.asidOf a.grp
  match walk r.st (r.st.rootOf a.grp) va with
  | .leaf l at' =>
    let k := pageBits (leafSize l)
    let pa := leafFrame l + va % 2 ^ k
    if (r.st.frameOf (pa / 4096)).ref.toNat ≤ 1 then some (r, pa)
    else
      let n := 2 ^ (k - 12)
      match r.takeFrames a n with
      | none => none
      | some (f, r) =>
        let r := r.useFrames f n a.part
        let r := (r.copyMain (leafFrame l) (f * 4096) (2 ^ k)).codeLines (leafC l) (mainKey (f * 4096)) (2 ^ k)
        let l' : Word64 := BitVec.ofNat 64 (l.toNat - leafFrame l + f * 4096)
        let r := r.mapPage at' asid va (leafSize l) l'
        let r := (List.range n).foldl (fun r i => r.dropRef (leafFrame l / 4096 + i)) r
        some (r, f * 4096 + va % 2 ^ k)
  | _ => some (r, pa)

/-- The same for an address as a program gives it. -/
def Run.ownFrame (r : Run s0) (a : Agent) (va pa : Nat) : Option (Run s0 × Nat) := r.ownFrameAt a (forward r.st a.die (r.st.asidOf a.grp) va) pa

end Sys2Proof.Machine
end

