-- ==== Sys2Proof/Machine/Access.lean ====
section
/-! DEFINITION. Memory accesses: the spaces and their checks (R104, R105), the pieces of an unaligned access (R114), granules and deferred readers (R115 to
R117), what a load sees of its own context's writes (R107), atomics (R120 to R123) and planed regions (R127, R128, R293 to R297). -/

namespace Sys2Proof.Machine

open Sys2Proof

variable {s0 : State}

/-! ### Spaces (R104) -/

/-- First byte of the token overflow area of a core store (R334). -/
def coreLimit : Nat := 0x2C0000

/-- Bytes of the parameter pool of a launch (R35). -/
def State.poolOf (s : State) (launch : Nat) : List Byte :=
  match s.launches.find? (fun l => l.id == launch) with
  | some l => l.pool
  | none => []

/-- Check 2 of R105: `n` bytes at `ea` satisfy R104 for the agent. -/
def spaceOk (s : State) (a : Agent) (sp : Space) (ea n : Nat) : Bool :=
  match sp with
  | .core => decide (ea + n ≤ coreLimit)
  | .clus => decide (ea + n ≤ 0x800000)
  | .die => decide ((s.window a.die a.part).1 ≤ ea ∧ ea + n ≤ (s.window a.die a.part).2 ∧ ea + n ≤ 0x3000000)
  | .main => decide (ea + n ≤ 2 ^ 56)
  | .host => decide (ea + n ≤ 2 ^ 57)
  | .peer => true
  | .param => decide (ea + n ≤ (s.poolOf a.launch).length)

/-- A peer access that names this device is the same access to main (R104). -/
def homeSpace (s : State) (sp : Space) (ea : Nat) : Space × Nat :=
  if sp = .peer ∧ ea / 2 ^ 51 = s.devnum then (.main, ea % 2 ^ 51) else (sp, ea)

/-! ### Planed regions -/

def groupKey (part sg : Nat) : Nat := part * 64 + sg
def State.group (s : State) (part sg : Nat) : StepGroup := SMap.get s.groups StepGroup.reset (groupKey part sg)

/-- The region of a running launch that an access of the agent touches, when its step group is configured (R293, R296). A region of a group that spans devices stands in main of each of
them (R297, R299). -/
def regionAt (s : State) (a : Agent) (sp : Space) (ea n : Nat) : Option Region :=
  let far := sp == .peer
  let ea := if far then ea % 2 ^ 51 else ea
  s.launches.findSome? (fun l =>
    if l.accepted && s.groupPart (l.q / 64) == some a.part && (sp == .die || l.q / 64 == a.grp) then
      l.regions.find? (fun g => g.rule != 4 && (if g.die then sp == .die else sp == .main || (far && g.gkey != 0))
        && decide (ea < g.base + g.size * 65536 ∧ g.base < ea + n) && (s.group a.part g.sg).conf && (s.group a.part g.sg).launch == l.id)
    else none)

/-- The agent is a configured member of the group (R295). -/
def isMember (s : State) (a : Agent) (sg : Nat) : Bool :=
  let g := s.group a.part sg
  g.conf && g.launch == a.launch && g.node == a.node && g.members.contains a.rank

/-- The party is another device: a region of a group that spans devices takes its accesses as those of a member there (R297, R299). -/
def Agent.far (a : Agent) : Bool := a.c == 641

/-! ### The checks a node makes when it fires (R105, R117, R127) -/

/-- What an access is, as far as its checks go. -/
inductive Doing where
  | load | waiting | store | granule | atomic
  deriving DecidableEq, Repr

/-- Check 1, check 2, the membership of R296, the planed limits of R124 and R127, and the permission fault of a write to param. -/
def fireCheck (s : State) (a : Agent) (sp : Space) (ea n : Nat) (aligned : Bool) (d : Doing) : Option (Nat × Nat) :=
  if aligned && ea % n != 0 then some (0x07, 0x00)
  else
    let (sp', ea') := homeSpace s sp ea
    if !spaceOk s a sp' ea' n then some (0x08, 0x00)
    else if sp = .param ∧ d ≠ .load ∧ d ≠ .waiting then some (0x09, 0x02)
    else
      match regionAt s a sp' ea' n with
      | none => none
      | some g =>
        if !(isMember s a g.sg || (a.far && g.gkey != 0)) then some (0x08, 0x00)
        else if d = .waiting ∨ d = .granule ∨ d = .atomic then some (0x08, 0x00)
        else if d = .store ∧ (n < g.width ∨ ea' % g.width ≠ 0) then some (0x07, 0x00)
        else none

/-- The pieces of an access of any alignment (R114), in ascending address. -/
def piecesFrom (fuel ea left : Nat) : List (Nat × Nat) :=
  match fuel with
  | 0 => []
  | f + 1 =>
    match [64, 32, 8, 4, 2, 1].find? (fun p => decide (p ≤ left) && ea % p == 0) with
    | none => []
    | some p => (ea, p) :: piecesFrom f (ea + p) (left - p)

def pieces (ea n : Nat) : List (Nat × Nat) := piecesFrom n ea n

/-! ### Where an access goes -/

/-- The place of an access, or why it has none. -/
inductive Loc where
  | key (k : Nat)
  | shared (k : Nat) (va : Nat)
  | pool (off : Nat)
  | park
  | fault (cls code : Nat)
  deriving DecidableEq, Repr

/-- The route to another device (R403). -/
def routed (s : State) (dev : Nat) : Bool :=
  let w := (s.dcbAt 0 (0x0A0000 + 8 * dev)).toNat
  w / 2 ^ 63 == 1 && decide (w % 16 ≤ 11)

/-- Checks 3 and 4 of R105. `shared` is a place in a page with S = 1, which a write reaches only through the frame's home unit (R330). Log 15, DESIGN CHOICE: an engine's or an atomic's write to a shared frame is served at once as a batch of one. Log 110, DESIGN CHOICE: whether the host or a peer rejects an access is free. Log 135, DESIGN CHOICE: an access to host memory wider than 8 bytes
is one event for the host as well. -/
def Run.locate (r : Run s0) (a : Agent) (sp : Space) (ea : Nat) (need : Need) : Run s0 × Loc :=
  let write : Bool := need = .w || need = .rw
  let (sp, ea) := homeSpace r.st sp ea
  match sp with
  | .core => (r, .key (coreKey a.core ea))
  | .clus => (r, .key (clusKey a.cluster ea))
  | .die => (r, .key (dieKey a.die ea))
  | .param => (r, .pool ea)
  | .main =>
    let (r, x) := r.translate a ea need
    match x with
    | .phys pa leaf => (r, if write && leafS leaf then .shared (mainKey pa) ea else .key (mainKey pa))
    | .park => (r, .park)
    | .fault c k => (r, .fault c k)
  | .host =>
    if Config.hostRejects ea write r.choice then (r.chose, .fault 0x09 (if write then 0x02 else 0x01)) else (r.chose, .key (hostKey ea))
  | .peer =>
    if !routed r.st (ea / 2 ^ 51) then (r, .fault 0x09 0x05)
    else
      match Config.peerRefuses (ea / 2 ^ 51) (ea % 2 ^ 51) write r.choice with
      | some (c, k) => (r.chose, .fault c k)
      | none => (r.chose, .key (peerKey (ea / 2 ^ 51) (ea % 2 ^ 51)))

/-- The place of an access as an overlay sees it, without any effect. -/
def State.keyOf (s : State) (a : Agent) (sp : Space) (ea : Nat) : Option Nat :=
  let (sp, ea) := homeSpace s sp ea
  match sp with
  | .core => some (coreKey a.core ea)
  | .clus => some (clusKey a.cluster ea)
  | .die => some (dieKey a.die ea)
  | .param => none
  | .main => (s.peek a ea).map (fun p => mainKey p.1)
  | .host => some (hostKey ea)
  | .peer => some (peerKey (ea / 2 ^ 51) (ea % 2 ^ 51))

/-! ### Atomics (R120 to R123) -/

/-- The FP format of an atomic's width. -/
def atomFmt (wd : MWidth) : FloatFmt := if wd = .w16 then .bf16 else .f32

/-- A total order of number bit patterns with −0 below +0 (R121, R161). -/
def numKey (f : FloatFmt) (x : Nat) : Int :=
  if x / 2 ^ (f.bits - 1) % 2 = 1 then -(x % 2 ^ (f.bits - 1) : Nat) - 1 else (x % 2 ^ (f.bits - 1) : Nat)

/-- `fsel_min` and `fsel_max` (R121): the pattern selected, the old one when they are equal, and NV for a signalling NaN. -/
def fsel (f : FloatFmt) (max : Bool) (old b : Nat) : Nat × FlagSet :=
  let x := f.read old
  let y := f.read b
  let nv := raiseIf (x.isSignalling || y.isSignalling) flagNV
  if x.isNan && y.isNan then (f.nan, nv)
  else if x.isNan then (b, nv)
  else if y.isNan then (old, nv)
  else if max then (if numKey f old < numKey f b then b else old, nv)
  else (if numKey f b < numKey f old then b else old, nv)

/-- The new value of a location and the flags raised (R120). `n` is the width in bytes; `b` is the operand payload. -/
def atomNew (op : AtomOp) (wd : MWidth) (old : Nat) (b : Payload) : Nat × FlagSet :=
  let m := 2 ^ (8 * wd.bytes)
  let x := b.toNat % m
  let w := 8 * wd.bytes
  match op with
  | .add => ((old + x) % m, 0)
  | .and => (Nat.land old x, 0)
  | .or => (Nat.lor old x, 0)
  | .xor => (Nat.xor old x, 0)
  | .min => (if signedOf w old ≤ signedOf w x then old else x, 0)
  | .max => (if signedOf w x ≤ signedOf w old then old else x, 0)
  | .minn => (if old ≤ x then old else x, 0)
  | .maxn => (if x ≤ old then old else x, 0)
  | .fmin => fsel (atomFmt wd) false old x
  | .fmax => fsel (atomFmt wd) true old x
  | .swap => (x, 0)
  | .esum =>
    let (l, f) := xsAdd (xsOfCell (leBytes 64 old)) (FloatFmt.f32.read (b.toNat % 2 ^ 32))
    (leNat (xsCell l), f)

/-- The new value of a location after `cas` (R123). -/
def casNew (wd : MWidth) (old : Nat) (b : Payload) : Nat :=
  let w := 8 * wd.bytes
  if old = bitsOf b.toNat 0 w then bitsOf b.toNat w w else old

/-- The bytes that an access writes, given the bytes that stand there; `none` for one that writes none. -/
def newBytes (acc : Access) (old : List Byte) : Option (List Byte) :=
  match acc.op with
  | .store | .fill | .wcv => some (leBytes acc.wd.bytes acc.data.toNat)
  | .empty => none
  | .atom op => some (leBytes acc.wd.bytes (atomNew op acc.wd (leNat old) acc.data).1)
  | .cas => some (leBytes acc.wd.bytes (casNew acc.wd (leNat old) acc.data))

/-! ### What a context sees of its own writes (R64, R107) -/

/-- Bytes that own writes give, newest first. -/
abbrev Overlay := List (Nat × Byte)

/-- A byte through an overlay. -/
def seenByte (s : State) (ov : Overlay) (k : Nat) : Byte :=
  match ov.find? (fun e => e.1 == k) with
  | some e => e.2
  | none => s.byte k

def seenBytes (s : State) (ov : Overlay) (k n : Nat) : List Byte := (List.range n).map (fun i => seenByte s ov (k + i))

/-- Bytes that stand at a key, as the overlay shows them. -/
def throughOverlay (ov : Overlay) (k : Nat) (bs : List Byte) : List Byte :=
  bs.mapIdx (fun i v => ((ov.find? (fun e => e.1 == k + i)).map Prod.snd).getD v)

/-- An overlay with one more own access. A contribution to an ISUM or XSUM region is never seen (R127). -/
def overlayOne (s : State) (a : Agent) (ov : Overlay) (acc : Access) : Overlay :=
  let hidden : Bool := match regionAt s a acc.sp acc.ea.toNat acc.wd.bytes with
    | some g => g.rule == 1 || g.rule == 2
    | none => false
  if hidden then ov
  else
    let put := fun (ov : Overlay) (k : Nat) (bs : List Byte) => ((List.range bs.length).map (fun i => (k + i, bs.getD i 0))) ++ ov
    match acc.op with
    | .wcv =>
      (pieces acc.ea.toNat acc.wd.bytes).foldl (fun ov p =>
        match s.keyOf a acc.sp p.1 with
        | some k => put ov k ((leBytes acc.wd.bytes acc.data.toNat).drop (p.1 - acc.ea.toNat) |>.take p.2)
        | none => ov) ov
    | _ =>
      match s.keyOf a acc.sp acc.ea.toNat with
      | none => ov
      | some k =>
        match newBytes acc (seenBytes s ov k acc.wd.bytes) with
        | some bs => put ov k bs
        | none => ov

/-- The memory accesses among effects. -/
def accessesOf (l : List Buffered) : List Access := l.filterMap (fun e =>
  match e.eff with
  | .access acc => some acc
  | _ => none)

/-- The own writes that a node of run `b` with ancestors `anc` sees: committed and still buffered, then of older runs, then those of its own run on which it
depends. -/
def ownAccesses (x : Ctx) (b : BlockRun) (anc : BitVec 128) : List Access :=
  x.pend.filterMap (fun p => match p.eff with
    | .access acc => some acc
    | _ => none)
    ++ (x.older b.iid).flatMap (fun o => accessesOf o.ordered)
    ++ accessesOf (b.ordered.filter (fun e => anc.getLsbD e.idx))

/-- A contribution of the context to the present phase that it sees (R127): those of PRIO and FAULT regions. -/
def ownContributions (s : State) (a : Agent) : Overlay :=
  (List.range 64).flatMap (fun sg =>
    let g := s.group a.part sg
    if isMember s a sg then
      ((g.next.filter (fun e => e.rank == g.base + a.rank && (e.rule == 0 || e.rule == 3))).flatMap (fun e =>
        (List.range e.width).map (fun i => (e.key + i, BitVec.ofNat 8 (e.value / 256 ^ i))))).reverse
    else [])

/-- The overlay of a node. -/
def overlayFor (s : State) (a : Agent) (x : Ctx) (b : BlockRun) (anc : BitVec 128) : Overlay :=
  (ownAccesses x b anc).foldl (overlayOne s a) (ownContributions s a)

/-- The effect is a write to memory. -/
def isWrite (e : Eff) : Bool :=
  match e with
  | .access _ | .slog _ _ _ _ | .append _ => true
  | _ => false

/-- A committed write of the context, the writes of its log appends among them (R233), is not yet performed. -/
def Ctx.writesPending (x : Ctx) : Bool := x.pend.any (fun p => isWrite p.eff)

/-- Two ranges of one space touch, to the byte or to the granule. -/
def touches (granular : Bool) (a n b m : Nat) : Bool :=
  if granular then decide (a / 16 ≤ (b + m - 1) / 16 ∧ b / 16 ≤ (a + n - 1) / 16) else decide (a < b + m ∧ b < a + n)

/-- An older write of the context stands in the way of a load until it has been performed: a posted atomic on its bytes, whose result is not known before
(R107), for a waiting load any write to its granules (R115), or an append to a log, whose place is not known before (R64, R233). Log 31, DEDUCED: a load in main waits for its context's older appends. Log 22, DEDUCED: loads and returning atomics wait for their own context's older writes to the same bytes. -/
def State.ownBars (s : State) (x : Ctx) (b : BlockRun) (sp : Space) (ea n : Nat) (waits : Bool) : Bool :=
  let (sp, ea) := homeSpace s sp ea
  let older := x.pend.map (·.eff) ++ (x.older b.iid).flatMap (fun o => o.effs.map (·.eff))
  older.any (fun e => match e with
    | .access acc =>
      let (sp', ea') := homeSpace s acc.sp acc.ea.toNat
      sp' == sp && touches waits ea n ea' acc.wd.bytes && (waits || (match acc.op with
        | .atom _ | .cas => true
        | _ => false))
    | .append acc => sp == .main && touches false ea n acc.ea.toNat acc.wd.bytes
    | .slog _ _ _ _ => sp == .main
    | _ => false)

/-! ### Granules (R115, R116) -/

/-- Entries of the deferred-reader pool of the store that holds a key, and whether two keys lie in one store. -/
def poolSize (k : Nat) : Nat := if k < 2 ^ 31 then 4096 else 16384

def storeOf (k : Nat) : Nat :=
  if k < 2 ^ 30 then k / 2 ^ 22 else if k < 2 ^ 31 then 1000 + (k - 2 ^ 30) / 2 ^ 23 else 2000 + (k - 2 ^ 31) / 2 ^ 26

/-- Readers that wait on a granule. -/
def State.waiting (s : State) (granule : Nat) : List Reader := s.readers.filter (fun e => e.granule == granule && e.answer.isNone && !e.failed)

/-- The lowest empty granule of those. -/
def State.firstEmpty (s : State) (gs : List Nat) : Option Nat := gs.find? (fun g => !s.isFull g)

/-- One reader of a granule that a fill has just served: answered, queued on the next empty granule, or left waiting behind a taker. -/
def Run.serveOne (r : Run s0) (e : Reader) : Run s0 :=
  let gs := granules e.key e.n
  let others := r.st.readers.filter (fun y => !(y.c == e.c && y.iid == e.iid && y.idx == e.idx && y.drive == e.drive))
  match r.st.firstEmpty gs with
  | some g => if g = e.granule then r else r.put (.readers (others ++ [{ e with granule := g, since := r.st.clk }]))
  | none =>
    let r := r.put (.readers (r.st.readers.map (fun y =>
      if y.c == e.c && y.iid == e.iid && y.idx == e.idx && y.drive == e.drive then { y with answer := some (r.st.bytes e.key e.n), bad := (r.st.poisonAt e.key e.n).getD (0, 0) } else y)))
    if e.take then r.mark gs false else r

/-- The readers of granules that have just become full (R116). Log 115, DEDUCED: a withdrawn deferred reader leaves its granule to the next. -/
def Run.serve (r : Run s0) (gs : List Nat) : Run s0 :=
  gs.foldl (fun r g => (r.st.waiting g).foldl Run.serveOne r) r

/-- Granules that are filled anew: the completion that filled them before is no longer what they hold. -/
def Run.untold (r : Run s0) (gs : List Nat) : Run s0 := gs.foldl (fun r g => if SMap.get r.st.told 0 g = 0 then r else r.put (.told g 0)) r

/-- The operations whose completions stand in the granules of `n` bytes at a key (R128, R183): a load that reads them consumes those. Log 50, DEDUCED: until the granule is filled anew. -/
def State.toldAt (s : State) (k n : Nat) : List Nat := (granules k n).filterMap (fun g => if SMap.get s.told 0 g = 0 then none else some (SMap.get s.told 0 g - 1))

/-- A fill: bytes written and every covered granule marked full, as one event, then its readers served. -/
def Run.fillAt (r : Run s0) (k : Nat) (bs : List Byte) : Run s0 :=
  let gs := granules k bs.length
  (((r.write k bs).untold gs).mark gs true).serve gs

/-! ### Performing one access -/

/-- How the performance of a buffered access ends. -/
inductive Perf where
  | done
  | park (va : Nat)
  | home (frame va : Nat)
  | fault (cls code va : Nat)
  deriving DecidableEq, Repr

/-- Who makes a planed store: the tag key and node number of R18, the commit sequence, the instruction index and what it depends on; `op` is 1 + the number of the
engine operation that makes it, or 0, `rows` says that it is a `scatter`, and `after` lists the operations of which a completion was consumed before (R128). -/
structure Issuer where
  seq    : Nat
  idx    : Nat
  tagKey : Nat
  node   : Nat
  ancest : BitVec 128
  op     : Nat
  rows   : Bool
  after  : List Nat
  deriving DecidableEq, Repr

/-- No store of a member. -/
def noIssuer : Issuer := ⟨0, 0, 0, 0, 0, 0, false, []⟩

/-- The global rank of whom a store belongs to, and the store's place among its other stores: of a member of this device its own, of one on another device free values, which its
packets do not carry here (R299). Log 18, DESIGN CHOICE: what the other devices of a group contribute. -/
def Run.storer (r : Run s0) (a : Agent) (g : StepGroup) (i : Issuer) : Run s0 × Nat × Issuer :=
  if a.c < 640 then (r, g.base + a.rank, i)
  else
    let x := (Config.freeWord r.choice).toNat
    let y := (Config.freeWord (r.choice + 1)).toNat
    let rank := x % 2 ^ 31
    (r.chose.chose, if rank < g.base then rank else rank + g.members.length, { noIssuer with seq := x / 2 ^ 31, tagKey := y / 2 ^ 15, node := y % 2 ^ 15 })

/-- The contributions of `bs` at key `k` and address `va` to a region (R127, R297). The combiner takes the present value of an element at its first contribution (R128). -/
def Run.contribute (r : Run s0) (a : Agent) (g : Region) (k va : Nat) (bs : List Byte) (i : Issuer) : Run s0 :=
  let grp := r.st.group a.part g.sg
  let (r, rank, i) := r.storer a grp i
  let seed := fun (key : Nat) => ((grp.next.find? (fun e => e.key == key)).map (·.seed)).getD (r.st.num key g.width)
  let es := (List.range (bs.length / g.width)).map (fun j =>
    let key := k + j * g.width
    (⟨key, va + j * g.width, g.width, g.rule, rank, a.c, i.seq, grp.next.length + j, i.idx, i.ancest, i.tagKey, i.node, i.op, i.rows, i.after, seed key,
      leNat ((bs.drop (j * g.width)).take g.width)⟩ : Contribution))
  r.put (.group (groupKey a.part g.sg) { grp with next := grp.next ++ es })

/-- A write of `bs` at a key: a planed store to a region, else ordinary bytes. -/
def Run.deposit (r : Run s0) (a : Agent) (sp : Space) (ea k : Nat) (bs : List Byte) (i : Issuer) : Run s0 :=
  let (sp, ea) := homeSpace r.st sp ea
  match regionAt r.st a sp ea bs.length with
  | some g => r.contribute a g k ea bs i
  | none => (r.write k bs).wroteLines a sp ea k bs.length

/-- One aligned access at its place. `piece` is the part of a `wcv` store that it carries. -/
def Run.performAt (r : Run s0) (a : Agent) (acc : Access) (ea : Nat) (piece : List Byte) (k : Nat) (i : Issuer) : Run s0 × Perf :=
  let gs := if acc.sp.granular then granules k (if piece.isEmpty then acc.wd.bytes else piece.length) else []
  match acc.op with
  | .store | .wcv =>
    if gs.any (fun g => !(r.st.waiting g).isEmpty) then (r, .fault 0x0B 0x02 ea) else (r.deposit a acc.sp ea k piece i, .done)
  | .fill => if gs.any r.st.taken then (r, .fault 0x0B 0x01 ea) else (r.fillAt k piece, .done)
  | .empty => if gs.any (fun g => !(r.st.waiting g).isEmpty) then (r, .fault 0x0B 0x02 ea) else (r.mark gs false, .done)
  | .atom _ | .cas =>
    match newBytes acc (r.st.bytes k acc.wd.bytes) with
    | some bs => ((r.write k bs).wroteLines a acc.sp ea k bs.length, .done)
    | none => (r, .done)

/-- One piece: located, then performed. At the home unit (`served`) a shared page is written through R330. -/
def Run.performPiece (r : Run s0) (a : Agent) (acc : Access) (ea : Nat) (piece : List Byte) (served : Bool) (i : Issuer) : Run s0 × Perf :=
  let need : Need := match acc.op with
    | .atom _ | .cas => .rw
    | _ => .w
  let (r, l) := r.locate a acc.sp ea need
  match l with
  | .key k => r.performAt a acc ea piece k i
  | .shared k va =>
    let pa := k - mainKey 0
    if !served then (r, .home (pa / 4096) va)
    else
      match r.ownFrame a va pa with
      | some (r, pa) => r.performAt a acc ea piece (mainKey pa) i
      | none => (r, .fault 0x08 0x02 va)
  | .pool _ => (r, .fault 0x09 0x02 ea)
  | .park => (r, .park ea)
  | .fault c q => (r, .fault c q ea)

/-- The pieces of an access, from piece `from'` on: each an event of its own; the first that does not complete stops the rest (R114). -/
def Run.performPieces (r : Run s0) (a : Agent) (acc : Access) (ps : List (Nat × Nat)) (served : Bool) (i : Issuer) : Run s0 × Perf :=
  match ps with
  | [] => (r, .done)
  | p :: rest =>
    let bs := ((leBytes acc.wd.bytes acc.data.toNat).drop (p.1 - acc.ea.toNat)).take p.2
    let (r, o) := r.performPiece a acc p.1 bs served i
    match o with
    | .done => r.performPieces a acc rest served i
    | o => (r, o)

/-- A buffered access performed (R108). Log 11, DESIGN CHOICE: a performed write is visible everywhere at once. -/
def Run.performAccess (r : Run s0) (a : Agent) (acc : Access) (served : Bool) (i : Issuer) : Run s0 × Perf :=
  let ps := if acc.op = .wcv then pieces acc.ea.toNat acc.wd.bytes else [(acc.ea.toNat, acc.wd.bytes)]
  r.performPieces a acc ps served i

/-! ### Frames in the order of requests (R322) -/

/-- The frames of a context come from a window of its own. -/
def State.hasWindow (s : State) (c : Nat) : Bool := (s.launches.find? (fun l => l.id == (s.ctx c).launch)).any (fun l => l.frwin != 0)

/-- A walk of a main address meets V = 0, and no buffer holds a leaf for it: an access there parks (R316). -/
def State.missing (s : State) (a : Agent) (va : Nat) : Bool :=
  let va := forward s a.die (s.asidOf a.grp) va
  walk s (s.rootOf a.grp) va == .missing && s.tlb.all (fun e => !(e.asid == s.asidOf a.grp && e.page == va / 4096))

/-- The address of main that an effect writes first. -/
def mainWrite (s : State) (e : Eff) : Option Nat :=
  match e with
  | .access acc | .append acc => let p := homeSpace s acc.sp acc.ea.toNat; if p.1 = .main ∧ acc.op ≠ .empty then some p.2 else none
  | .slog d _ _ _ => some d.toNat
  | _ => none

/-- A write at a main address asks for a frame: several leaves map its page (R330). -/
def State.splits (s : State) (a : Agent) (va : Nat) : Bool :=
  (s.peek a va).any (fun e => leafS e.2 && decide (1 < (s.frameOf (e.1 / 4096)).ref.toNat))

/-- A committed write of a context may ask for a frame yet: its page is shared, or not present. -/
def State.maySplit (s : State) (c : Nat) (q : Pending) : Bool := (mainWrite s q.eff).any (fun va => s.splits (s.agent c) va || s.missing (s.agent c) va)

/-- A request for a frame that comes before commit sequence `seq` and index `idx` in its context is still to be served (R322). Log 134, DEDUCED: a waited command and a returning
atomic take their frames when they are performed, before posted requests of their own instance. -/
def State.framesBefore (s : State) (c seq idx : Nat) : Bool :=
  let before := fun (q i : Nat) => decide (q < seq) || (q == seq && decide (i < idx))
  s.hasWindow c && ((s.ctx c).pend.any (fun q => before q.seq q.idx && s.maySplit c q)
    || s.ops.any (fun o => o.c == c && (o.cmd.kind == .alloc || o.cmd.kind == .dedup) && before o.seq o.idx))

/-! ### Reads -/

/-- How a read ends. -/
inductive Got where
  | bytes (bs : List Byte)
  | park (va : Nat)
  | fault (cls code va : Nat)
  deriving DecidableEq, Repr

/-- The bytes of one aligned read through an overlay. A plain load of an empty granule that holds a list of readers reads zero there (R116); poison is an
uncorrectable error (R286). -/
def Run.readPiece (r : Run s0) (a : Agent) (sp : Space) (ea n : Nat) (need : Need) (ov : Overlay) : Run s0 × Got :=
  let (r, l) := r.locate a sp ea need
  match l with
  | .key k | .shared k _ =>
    match r.st.poisonAt k n with
    | some (c, q) => (r, .fault c q ea)
    | none =>
      let bs := (List.range n).map (fun i =>
        let g := (k + i) / 16
        if sp.granular && !r.st.isFull g && !(r.st.waiting g).isEmpty then 0 else seenByte r.st ov (k + i))
      (r.readLines k n, .bytes bs)
  | .pool off => (r, .bytes (((r.st.poolOf a.launch).drop off).take n))
  | .park => (r, .park ea)
  | .fault c q => (r, .fault c q ea)

/-- The bytes of several pieces, lowest first. -/
def Run.readPieces (r : Run s0) (a : Agent) (sp : Space) (ps : List (Nat × Nat)) (need : Need) (ov : Overlay) : Run s0 × Got :=
  match ps with
  | [] => (r, .bytes [])
  | p :: rest =>
    let (r, g) := r.readPiece a sp p.1 p.2 need ov
    match g with
    | .bytes bs =>
      let (r, g) := r.readPieces a sp rest need ov
      match g with
      | .bytes cs => (r, .bytes (bs ++ cs))
      | g => (r, g)
    | g => (r, g)

/-- `n` bytes at an address of any alignment, in the pieces of R114. -/
def Run.readBytes (r : Run s0) (a : Agent) (sp : Space) (ea n : Nat) (need : Need) (ov : Overlay) : Run s0 × Got :=
  r.readPieces a sp (pieces ea n) need ov

/-- `bs` written at an address of any alignment in the pieces of R114; a shared page goes through its home unit at once, as a batch of one (R331). -/
def Run.writePieces (r : Run s0) (a : Agent) (sp : Space) (ea : Nat) (bs : List Byte) (i : Issuer) : Run s0 × Perf :=
  (pieces ea bs.length).foldl (fun (acc : Run s0 × Perf) p =>
    match acc.2 with
    | .done =>
      let (r, l) := acc.1.locate a sp p.1 .w
      let part := (bs.drop (p.1 - ea)).take p.2
      match l with
      | .key k => (r.deposit a sp p.1 k part i, .done)
      | .shared k va =>
        match r.ownFrame a va (k - mainKey 0) with
        | some (r, pa) => (r.deposit a sp p.1 (mainKey pa) part i, .done)
        | none => (r, .fault 0x08 0x02 va)
      | .pool _ => (r, .fault 0x09 0x02 p.1)
      | .park => (r, .park p.1)
      | .fault c q => (r, .fault c q p.1)
    | o => (acc.1, o)) (r, .done)

end Sys2Proof.Machine
end

