-- ==== Sys2Proof/Machine/Ops.lean ====
section
/-! DEFINITION. The operations that every family shares: placed blocks, event counters (R391, R392), discarding block runs (R13, R68), and taking a fault and
returning from its handler (R370 to R377). -/

namespace Sys2Proof.Machine

open Sys2Proof

variable {s0 : State}

/-! ### Placed blocks -/

def Core.placedAt (k : Core) (cfg slot : Nat) : Option Placed := k.placed.find? (fun p => p.cfg == cfg && p.slot == slot)

/-- The placed copy that a run executes. -/
def State.placedOf (s : State) (c : Nat) (b : BlockRun) : Option Placed := (s.core (c / 4)).placedAt b.cfg b.slot

def State.wordAt (s : State) (c : Nat) (b : BlockRun) (idx : Nat) : Option Word32 := (s.placedOf c b).bind (fun p => p.words[idx]?)

/-- Instruction `idx` of the block that a run executes. -/
def State.instrAt (s : State) (c : Nat) (b : BlockRun) (idx : Nat) : Option Instr :=
  (s.wordAt c b idx).bind (fun w => (decode w).toOption)

/-- The operations of which the run has consumed a completion: it came in by a `read`, as a token to a node that has fired, or as the answer of a waited command (R128). -/
def BlockRun.took (b : BlockRun) : List Nat :=
  (b.entered.filter (fun e => if e.2.2 then b.fired.contains e.2.1 else b.fired.any (fun n => (SMap.get b.ancest 0 n).getLsbD e.2.1))).map Prod.fst

/-- The operations that a store of node `i` of a run follows: a completion was consumed in an older run, or the node depends on one (R128). -/
def Ctx.afterIn (x : Ctx) (b : BlockRun) (i : Nat) : List Nat :=
  (x.consumed ++ (b.entered.filter (fun e => (SMap.get b.ancest 0 i).getLsbD e.2.1 || (e.2.2 && e.2.1 == i))).map Prod.fst).eraseDups

/-- The operations that a run consumed count for the younger ones, while their writes may still be unsettled. -/
def Run.consume (r : Run s0) (c : Nat) (b : BlockRun) : Run s0 :=
  let s := r.st
  let l := ((s.ctx c).consumed ++ b.took).eraseDups
  if l.isEmpty then r
  else r.modCtx c (fun x => { x with consumed := l.filter (fun k => s.ops.any (fun o => o.id == k) || s.groups.any (fun e => e.2.next.any (fun y => y.op == k + 1))) })

/-- The contexts of the core of a context. -/
def coreCtxs (c : Nat) : List Nat := (List.range 4).map (fun i => c / 4 * 4 + i)

/-- The frame is in use on the core of a context (R65). -/
def State.frameUsed (s : State) (c f : Nat) : Bool := (coreCtxs c).any (fun d => (s.ctx d).runs.any (fun b => b.frame.toNat == f)
  || (s.ctx d).next.any (fun n => n.by' == .iter && n.frame == f))

/-- The lowest free frame of the core of a context (R65), at the moment its instance begins. Log 139, DESIGN CHOICE: no rule fixes that moment. -/
def State.freeFrame (s : State) (c : Nat) : Option (BitVec 8) :=
  ((List.range 256).find? (fun f => !s.frameUsed c f)).map (fun f => BitVec.ofNat 8 f)

/-- Blocks a context has pinned go free (R68, R75). -/
def Run.unpin (r : Run s0) (c : Nat) (by' : Nat → Bool) : Run s0 :=
  r.modCore (c / 4) (fun k => { k with placed := k.placed.map (fun p =>
    if p.pin = some c ∧ by' p.pinBy then { p with pin := none } else p) })

/-! ### Discarding block runs (R13, R68) -/

/-- The context without run `iid` and the runs after it. Log 28, DEDUCED: a discard gives back the decision. -/
def Ctx.discardFrom (x : Ctx) (iid : Nat) : Ctx :=
  let kept := x.older iid
  let gone := x.runs.drop kept.length
  match gone with
  | [] => x
  | b :: _ =>
    let taken := gone.filterMap (fun y => y.undo.latch)
    let (latch, held) := match taken with
      | [] => (x.latch, x.held)
      | d :: ds => (some d, ds ++ (match x.latch with
          | some e => [e]
          | none => []) ++ x.held)
    { x with
      runs := kept
      next := none
      stack := b.undo.stack
      spill := b.undo.spill
      rspill := b.undo.rspill
      latch := latch
      held := held
      fetchParked := false
      fetchDenied := none }

/-- Run `iid` of a context and every younger one discarded whole: their deferred reads and parked accesses are withdrawn (R116) and the blocks their `cfgld`
nodes pinned go free. -/
def Run.discardFrom (r : Run s0) (c iid : Nat) : Run s0 :=
  let x := r.st.ctx c
  let gone := (x.runs.drop (x.older iid).length).map (·.iid)
  let r := r.modCtx c (fun x => x.discardFrom iid)
  let r := r.put (.readers (r.st.readers.filter (fun e => !(e.c == c && !e.drive && gone.contains e.iid))))
  let r := r.put (.home (r.st.home.filter (fun q => match q.by' with
    | .node d i _ => !(d == c && gone.contains i)
    | _ => true)))
  let r := (SMap.keys r.st.ptt).foldl (fun r k =>
    let p := SMap.get r.st.ptt Park.free k
    r.put (.ptt k { p with ws := p.ws.filter (fun w => match w with
      | .node d i _ => !(d == c && gone.contains i)
      | .fetch d => d != c
      | _ => true) })) r
  let r := r.unpin c (fun i => gone.contains i)
  r.count c none 0x04 gone.length

/-- Every uncommitted run of a context discarded. -/
def Run.discardAll (r : Run s0) (c : Nat) : Run s0 :=
  match (r.st.ctx c).runs with
  | [] =>
    let r := r.modCtx c (fun x => { x with next := none, fetchParked := false, fetchDenied := none })
    (SMap.keys r.st.ptt).foldl (fun r k =>
      let p := SMap.get r.st.ptt Park.free k
      r.put (.ptt k { p with ws := p.ws.filter (fun w => w != .fetch c) })) r
  | b :: _ => r.discardFrom c b.iid

/-! ### Fault records (R370, R371) -/

/-- A record with nothing but a class and a code. -/
def FaultRec.of (cls code : Nat) : FaultRec := ⟨cls, code, 0, 0, 0, 0, 0, 0, 0, 0, 0, 0, 0, [], []⟩

def rfAsync : Nat := 1
def rfEngine : Nat := 2
def rfChain : Nat := 4
def rfCkLost : Nat := 8
def rfMapHi : Nat := 16
def rfLost : Nat := 32
def rfDouble : Nat := 64

/-- The record of a fault at a node of a run; one of a block that could not be fetched names that block with index 255 (R48). -/
def NodeFault.record (f : NodeFault) (b : BlockRun) : FaultRec :=
  { FaultRec.of f.cls f.code with
    icls := f.icls
    icode := f.icode
    idx := if f.blk.isSome then 255 else f.idx
    blk := f.blk.getD b.addr
    tag := b.tag
    ticket := f.ticket
    vaddr := f.vaddr }

/-- The 64 bytes of a record; `oprec` is the address of its operand record. -/
def FaultRec.bytes (f : FaultRec) (oprec : Nat) : List Byte :=
  leBytes 1 f.cls ++ leBytes 1 f.code ++ leBytes 1 f.icls ++ leBytes 1 f.icode ++ leBytes 1 f.idx ++ leBytes 1 f.auxid ++ leBytes 1 f.rflags ++ leBytes 1 0
    ++ leBytes 8 f.blk.toNat ++ leBytes 8 f.tag.toNat ++ leBytes 4 f.ticket ++ leBytes 4 f.auxn ++ leBytes 8 oprec ++ leBytes 8 f.vaddr ++ leBytes 16 f.map

/-! ### Failing a node (R368) -/

/-- A node fails with a class and code: nothing more of its launch is dispatched, and FNODE is the lowest-numbered failed node. -/
def Launch.failNode (l : Launch) (node cls code : Nat) : Launch :=
  let lower := match l.fnode with
    | none => true
    | some n => decide (node < n)
  { l with
    nodes := l.nodes.mapIdx (fun i n => if i = node then { n with st := .failed, cls := cls, code := code } else n)
    work := l.work.map (fun p => if p.node = node ∧ (p.st = .stage ∨ p.st = .run) then { p with st := .failed } else p)
    fnode := if lower then some node else l.fnode
    cls := if lower then cls else l.cls
    code := if lower then code else l.code
    ending := true }

/-- Where the firmware keeps the record of the helm's own failing access beside an escalated record (R371). Log 27, DEDUCED: how several escalated records are kept. -/
def alsoKey (c : Nat) : Nat := 1024 + c

/-- Where the next record of a context stands: its records follow one another, 4096 apart. -/
def State.escalationKey (s : State) (c : Nat) : Nat := c + 4096 * ((SMap.keys s.escalated).filter (fun k => k % 4096 == c)).length

/-- The first record of a context leaves the firmware, with the one beside it; its next takes their place. -/
def Run.settleFault (r : Run s0) (c : Nat) : Run s0 :=
  let m := r.st.escalated.filter (fun e => e.1 != c && e.1 != alsoKey c)
  let later := m.filter (fun e => e.1 % 4096 == c || e.1 % 4096 == alsoKey c)
  let m := later.foldl (fun m e => SMap.set (SMap.set m (FaultRec.of 0 0) e.1 (FaultRec.of 0 0)) (FaultRec.of 0 0) (e.1 - 4096) e.2) m
  (r.put (.escalated m)).put (.withHost (r.st.withHost.filter (· != c)))

/-- All records of a context leave the firmware. -/
def Run.dropFaults (r : Run s0) (c : Nat) : Run s0 :=
  if (SMap.keys r.st.escalated).contains c then
    (r.put (.escalated (r.st.escalated.filter (fun e => e.1 % 4096 != c && e.1 % 4096 != alsoKey c)))).put (.withHost (r.st.withHost.filter (· != c)))
  else r

/-- The node of a launch fails; the contexts of its members stop and go free. Log 26, DEDUCED: the contexts of a failed node stop at once. -/
def Run.failNode (r : Run s0) (launch node cls code : Nat) : Run s0 :=
  let r := r.put (.launches (r.st.launches.map (fun l => if l.id == launch then l.failNode node cls code else l)))
  (SMap.keys r.st.ctxs).foldl (fun r c =>
    let x := r.st.ctx c
    if x.mode ≠ .free ∧ x.launch = launch ∧ x.node = node then
      let r := (r.discardAll c).dropFaults c
      let r := r.unpin c (fun _ => true)
      r.modCtx c (fun x => { x with mode := .free, drive := none, wdrv := false, asyncs := [], pendBit := false, resume := .none, under := .none, next := none, stack := [], spill := 0, latch := none, held := [], strays := [] })
    else r) r

/-! ### Escalation (R377) -/

/-- The context stops with the latch in place, its uncommitted runs are discarded, and the firmware holds the record. A context whose task has ended has no
latch to resume at. Log 133, DEDUCED: a context stopped in a handler resumes at the handler's own block, and keeps what the handler returns to. -/
def Run.escalate (r : Run s0) (c : Nat) (f : FaultRec) (latch : Latch) : Run s0 :=
  let r := r.discardAll c
  let x := r.st.ctx c
  let r := if x.mode = .running then r.modCtx c (fun x => { x with mode := .stopped, resume := latch, under := if x.hndl then x.resume else .none, pendBit := !x.asyncs.isEmpty, next := none }) else r
  r.put (.escalated (SMap.set r.st.escalated (FaultRec.of 0 0) (r.st.escalationKey c) f))

/-- The first run, or the successor still to begin, as a latch (R375 step 4). -/
def Ctx.latchHere (x : Ctx) : Latch :=
  match x.runs with
  | b :: _ => .block b.addr b.nest b.widths b.carried
  | [] =>
    match x.next with
    | some n => .block n.addr n.nest n.widths n.toks
    | none => x.resume

/-! ### Finding an async fault (R372, R374) -/

/-- A fault queued at its context: PEND is set, and a ninth is lost. -/
def Ctx.queueFault (x : Ctx) (clk : Nat) (f : FaultRec) : Ctx :=
  if x.asyncs.length < 8 then
    { x with asyncs := x.asyncs ++ [f], pendBit := true, pendAt := if x.asyncs.isEmpty then clk else x.pendAt }
  else { x with asyncs := x.asyncs.mapIdx (fun i g => if i = 7 then { g with rflags := g.rflags ||| rfLost } else g) }

/-- An async fault found: queued, or escalated when its task has ended. -/
def Run.raiseAsync (r : Run s0) (c : Nat) (f : FaultRec) : Run s0 :=
  let f := { f with rflags := f.rflags ||| rfAsync }
  let r := if f.rflags / rfEngine % 2 = 1 then r.count c none 0x2B 1 else r
  if (r.st.ctx c).mode = .running ∨ (r.st.ctx c).mode = .stopped then r.modCtx c (fun x => x.queueFault r.st.clk f)
  else r.escalate c f .none

/-! ### The fix (R390) -/

/-- FIXCTL of die 0. -/
def State.fixctl (s : State) : Nat := (s.dcbAt 0 0x082500).toNat

/-- A fix is taken of a partition, or of the package (`scope` 40). Its cause stands in FIXCAUSE. While a fix is under way no other is taken. -/
def Run.takeFix (r : Run s0) (scope cause : Nat) : Run s0 :=
  if !r.st.fixed.isEmpty then r
  else
    let r := r.setDcb 0 0x082508 (BitVec.ofNat 64 cause)
    let v := r.st.fixctl
    let buf := bitsOf v 12 45
    let r := r.setDcb 0 0x082500 (BitVec.ofNat 64 (buf * 4096 + (if scope = 40 then 1024 else scope * 16) + (if buf = 0 then 2 else 0)))
    ((r.put (.fixed [scope])).put (.fixedAt scope r.st.clk)).put (.fixFault none)

/-- A fix that the part triggers itself for a partition; it is refused while BUF is 0. -/
def Run.fixPartition (r : Run s0) (part cause : Nat) : Run s0 :=
  if bitsOf r.st.fixctl 12 45 = 0 then r else r.takeFix part cause

/-- A fault whose handler entry has FIX takes a fix first, and is the fault of its cause. -/
def Run.fixForFault (r : Run s0) (part : Nat) (f : FaultRec) : Run s0 :=
  if r.st.fixed.isEmpty && bitsOf r.st.fixctl 12 45 != 0 then (r.fixPartition part 3).put (.fixFault (some (f.cls, f.code))) else r

/-! ### Delivery (R373, R375) -/

/-- What the helm's own access to main comes to. -/
inductive HelmGot where
  | ok
  | wait
  | fails (cls code : Nat)
  deriving DecidableEq, Repr

/-- The helm needs the pages of its accesses: it waits on a parked one, and tries again when the park is resolved. -/
def Run.helmNeeds (r : Run s0) (c : Nat) (needs : List (Nat × Need)) : Run s0 × HelmGot :=
  match (r.st.ctx c).helmDenied with
  | some (k, q) => (r.modCtx c (fun x => { x with helmDenied := none }), .fails k q)
  | none =>
    needs.foldl (fun acc n =>
      match acc.2 with
      | .ok =>
        if 2 ^ 56 ≤ n.1 then (acc.1, .fails 0x08 0x00)
        else
          let a := acc.1.st.agent c
          let (r, x) := acc.1.translate a n.1 n.2
          match x with
          | .phys _ _ => (r, .ok)
          | .park =>
            match r.parkOn a.die a.grp n.1 a.part (if n.2 = .w then kindWrite else if n.2 = .x then kindFetch else kindRead) (.helm c) with
            | some r => (r.modCtx c (fun x => { x with helmParked := true }), .wait)
            | none => (r, .wait)
          | .fault k q => (r, .fails k q)
      | _ => acc) (r, .ok)

/-- How a delivery will go: it waits on a page, escalates (as a double fault, or with the record of the helm's own failing access), or runs the handler block.
`fix` is set when the entry takes a fix first. -/
inductive HelmPlan where
  | wait
  | escalate (fix double : Bool) (also : Option (Nat × Nat))
  | run (fix : Bool) (blk : Nat)
  deriving DecidableEq, Repr

/-- Steps 1 and 2 of R375 and the pages that step 3 writes. -/
def Run.planDelivery (r : Run s0) (c : Nat) (f : FaultRec) : Run s0 × HelmPlan :=
  let x := r.st.ctx c
  let a := r.st.agent c
  if x.handler = 0 ∨ r.st.htab x.part = 0 then (r, .escalate false false none)
  else
    let at' := x.handler.toNat + 8 * f.cls
    let (r, g) := r.helmNeeds c [(at', .r)]
    match g with
    | .wait => (r, .wait)
    | .fails k q => (r, .escalate false false (some (k, q)))
    | .ok =>
      let (r, e) := r.readBytes a .main at' 8 .r []
      let entry := match e with
        | .bytes bs => leNat bs
        | _ => 0
      let fix := entry % 2 == 1 && entry / 4 % 2 == 1
      if entry % 2 = 0 ∨ entry / 2 % 2 = 1 ∨ x.faultptr = 0 then (r, .escalate fix false none)
      else if x.hndl then (r, .escalate fix true none)
      else
        let (r, g) := r.helmNeeds c [(x.faultptr.toNat, .w), (x.faultptr.toNat + 255, .w)]
        match g with
        | .wait => (r, .wait)
        | .fails k q => (r, .escalate fix false (some (k, q)))
        | .ok => (r, .run fix (bitsOf entry 6 50 * 64))

/-- A fault delivered to its context, as `planDelivery` found it would go: the record and its operand record are written, the resume latch filled, HNDL and
LASTCLASS set, and the handler block begins under NEST zero; or the fault escalates. Log 25, DEDUCED: an entry with FIX takes the fix before the handler begins. -/
def Run.deliver (r : Run s0) (c : Nat) (f : FaultRec) (latch : Latch) (p : HelmPlan) : Run s0 :=
  match p with
  | .wait => r
  | .escalate fix double also =>
    let r := if fix then r.fixForFault (r.st.ctx c).part f else r
    let r := r.escalate c (if double then { f with rflags := f.rflags ||| rfDouble } else f) latch
    match also with
    | none => r
    | some (k, q) => r.put (.escalated (SMap.set r.st.escalated (FaultRec.of 0 0) (alsoKey (r.st.escalationKey c - 4096)) { FaultRec.of k q with vaddr := (r.st.ctx c).faultptr.toNat }))
  | .run fix blk =>
    let a := r.st.agent c
    let r := if fix then r.fixForFault a.part f else r
    let fp := (r.st.ctx c).faultptr.toNat
    let op := f.oprec.take 192
    let i : Issuer := noIssuer
    let r := if op.isEmpty then r else (r.writePieces a .main (fp + 64) op i).1
    let r := (r.writePieces a .main fp (f.bytes (if op.isEmpty then 0 else fp + 64)) i).1
    r.modCtx c (fun x =>
      { x with
        resume := latch
        hndl := true
        lastclass := BitVec.ofNat 8 f.cls
        pendBit := !x.asyncs.isEmpty
        pendAt := r.st.clk
        hDepth := x.stack.length + x.spill
        next := some ⟨BitVec.ofNat 64 blk, .dispatch, 0, [], 0, [], 0, 255, none⟩ })

/-! ### Handler return (R376) -/

/-- The latched block begins again under its latched tag with its tokens, the drive goes on, or the end of the task is named. -/
def Ctx.resumeLatch (x : Ctx) : Ctx :=
  match x.resume with
  | .block addr nest widths toks => { x with resume := .none, next := some ⟨addr, .handlerReturn, nest, widths, 0, toks, 0, 255, none⟩ }
  | .drive d => { x with resume := .none, wdrv := true, drive := some d, codebook := d.book }
  | .endOfTask | .none => x

/-- A handler return takes effect: HNDL is cleared and the latch resumed; `true` when the latch marks the end of the task. -/
def Run.handlerReturn (r : Run s0) (c : Nat) : Run s0 × Bool :=
  let ends := (r.st.ctx c).resume = .endOfTask
  (r.modCtx c (fun x => { x.resumeLatch with hndl := false, pendAt := r.st.clk, resume := if x.resume = .endOfTask then .none else x.resumeLatch.resume }), ends)

end Sys2Proof.Machine
end

