-- ==== Sys2Proof/Machine/Shape.lean ====
section
/-! DEFINITION. What the firing rule needs to know of each instruction: the slots it uses and the kinds it takes there, its targets, what stands in for its result,
its outputs, and what it reads and writes of its context (R10, R12, R37, R61, R71, R109, R110). -/

namespace Sys2Proof.Machine

open Sys2Proof

/-- A piece of a context's state that a node reads or buffers a write of (R64). -/
inductive Res where
  | g (n : Nat) | sys (r : SysReg) | rnd (n : Nat) | xs (n : Nat) | soft (n : Nat) | td | mem | barr | eng | all
  deriving DecidableEq, Repr

/-- The kind of the null or error token sent in place of a result. -/
inductive Ret where
  | likeA
  | kind (k : Kind)
  deriving DecidableEq, Repr

/-- The firing shape of an instruction. An empty list of kinds says that the slot is not used; `g` lists the kinds of a data operand in slot G. `engine` says that an engine
node holds the instruction and its PE slot is empty (R44); `lasting` that it leaves an effect for the commit without being an output (R177, R378). -/
structure Shape where
  gate    : Gate := .none
  a       : List Kind := []
  b       : List Kind := []
  g       : List Kind := []
  t0      : Target := .none
  t1      : Target := .none
  ret     : Ret := .likeA
  side    : Bool := false
  outs    : Nat := 0
  passA   : Bool := false
  scaled  : Bool := false
  oldest  : Bool := false
  held    : Bool := false
  waits   : Bool := false
  steps   : Bool := false
  ackNull : Bool := false
  exit    : Bool := false
  nests   : Bool := false
  engine  : Bool := false
  lasting : Bool := false
  merge   : Bool := false
  count   : Nat := 0
  reads   : List Res := []
  writes  : List Res := []
  deriving DecidableEq, Repr

/-- The node waits for no operand and no gate: it fires as soon as it is placed (R17, R72, R378). -/
def Shape.unprompted (sh : Shape) : Bool := sh.gate == .none && sh.a.isEmpty && sh.b.isEmpty && sh.g.isEmpty && !sh.merge && sh.count == 0

def anyKind : List Kind := [.scalar, .vector, .handle, .control]
def scalarOnly : List Kind := [.scalar]
def vectorOnly : List Kind := [.vector]

/-- A target that is given. -/
def given : Target → Nat
  | .none => 0
  | .slot _ _ => 1

/-- The kind of a token that an access width carries (R112). -/
def widthKind : MWidth → Kind
  | .v512 | .v256 => .vector
  | _ => .scalar

/-- Integer shapes (R94). -/
def intShape2 (g : Gate) (t0 t1 : Target) (ret : Kind := .scalar) : Shape :=
  { gate := g, a := scalarOnly, b := scalarOnly, t0 := t0, t1 := t1, ret := .kind ret }
def intShape1 (g : Gate) (t0 t1 : Target) (ret : Kind := .scalar) : Shape :=
  { gate := g, a := scalarOnly, t0 := t0, t1 := t1, ret := .kind ret }

/-- Exits (R72, R61). -/
def exitShape (g : Gate) (a : List Kind := []) : Shape := { gate := g, a := a, side := true, outs := 1, exit := true }

/-- A node with no data slot and a result of a kind. -/
def constShape (g : Gate) (t0 : Target) (ret : Kind) (reads : List Res := []) : Shape := { gate := g, t0 := t0, ret := .kind ret, reads := reads }

/-- Loads (R112, R113). -/
def loadShape (g : Gate) (wd : MWidth) (t0 : Target) : Shape :=
  { gate := g, a := scalarOnly, t0 := t0, ret := .kind (widthKind wd), held := true, reads := [.mem] }

/-- Stores, fills and `empty` (R108, R112). -/
def storeShape (g : Gate) (b : List Kind) (t0 : Target) : Shape :=
  { gate := g, a := scalarOnly, b := b, t0 := t0, ret := .kind .control, side := true, outs := 1, held := true, writes := [.mem] }

/-- Atomics (R109, R119). -/
def atomShape (g : Gate) (b : List Kind) (t0 : Target) (ret : Kind) : Shape :=
  { gate := g, a := scalarOnly, b := b, t0 := t0, ret := .kind ret, side := true, outs := 1, held := true, oldest := t0 != .none,
    reads := [.mem], writes := [.mem] }

def combShape (g : Gate) (v : Bool) (n : BitVec 7) (t0 : Target) : Shape :=
  let k : Kind := if v then .vector else .scalar
  { gate := g, a := [k], t0 := t0, ret := .kind k, count := n.toNat + 1 }

def fenceShape (g : Gate) (t0 : Target) : Shape := { gate := g, t0 := t0, ret := .kind .control, held := true }

/-- Vector shapes. -/
def vec2 (g : Gate) (t0 t1 : Target) : Shape :=
  { gate := g, a := vectorOnly, b := vectorOnly, t0 := t0, t1 := t1, ret := .kind .vector, scaled := true }
def vec1 (g : Gate) (t0 t1 : Target) (ret : Kind := .vector) : Shape :=
  { gate := g, a := vectorOnly, t0 := t0, t1 := t1, ret := .kind ret, scaled := true }
def vec3 (t0 t1 : Target) : Shape :=
  { a := vectorOnly, b := vectorOnly, g := vectorOnly, t0 := t0, t1 := t1, ret := .kind .vector, scaled := true }

/-- Engine commands (R180, R181). -/
def cmdShape (g : Gate) (a b : List Kind) (t0 t1 : Target) : Shape :=
  { gate := g, a := a, b := b, t0 := t0, t1 := t1, ret := .kind .control, side := true, outs := 1, held := true, oldest := t0 != .none,
    engine := true, reads := [.td], writes := [.eng, .td] }

def handleOnly : List Kind := [.handle]
def shapeKind : List Kind := [.handle, .scalar]

/-- Engine commands whose waited form answers with a status or a scalar (R184). -/
def statusShape (g : Gate) (a b : List Kind) (t0 t1 : Target) : Shape := { cmdShape g a b t0 t1 with ret := .kind .scalar }

/-- Soft-token nodes (R222, R223). -/
def softShape (g : Gate) (n : BitVec 4) (t0 : Target) : Shape :=
  { gate := g, t0 := t0, ret := .kind .control, side := true, ackNull := true, lasting := true, writes := [.soft n.toNat] }

/-- `semb` (R229): a waited engine command that counts no output. Its major 0x3C is not of the engine class, so it stands on its PE (R44). -/
def sembShape (g : Gate) (n : BitVec 4) (t0 : Target) : Shape :=
  { gate := g, a := scalarOnly, b := scalarOnly, t0 := t0, ret := .kind .scalar, side := true, held := true, oldest := true,
    reads := [.td, .mem, .soft n.toNat], writes := [.eng] }

/-- The state that a system register stands for. -/
def sysRes : SysReg → Res
  | .flags => .all
  | .rndkey n | .rndclo n | .rndchi n => .rnd n.toNat
  | r => .sys r

/-- The shape of each instruction. Events and weight blocks are no nodes. -/
def shape : Instr → Shape
  | .br g _ | .call g _ => exitShape g
  | .wdrive g _ => { exitShape g scalarOnly with b := scalarOnly, writes := [.eng], reads := [.td] }
  | .brn g | .brnDec g | .ret g => exitShape g
  | .bri g | .calli g => exitShape g scalarOnly
  | .iter g t0 t1 =>
    { exitShape g (if t0 = .none then [] else anyKind) with b := if t1 = .none then [] else anyKind, outs := 1 + given t0 + given t1 }
  | .halt g => exitShape g anyKind
  | .mov g t0 t1 => { gate := g, a := anyKind, t0 := t0, t1 := t1, passA := true }
  | .null g t0 t1 => { gate := g, a := anyKind, t0 := t0, t1 := t1 }
  | .steer t0 t1 => { gate := .arc, a := anyKind, g := [.control], t0 := t0, t1 := t1 }
  | .select t0 t1 => { gate := .arc, a := anyKind, b := anyKind, g := [.control], t0 := t0, t1 := t1 }
  | .merge t0 t1 => { a := anyKind, b := anyKind, t0 := t0, t1 := t1, merge := true }
  | .join g n t0 | .joinOr g n t0 => { gate := g, a := [.control], t0 := t0, ret := .kind .control, count := n.toNat + 1 }
  | .ctl g t0 t1 | .ctlNz g t0 t1 => { gate := g, a := anyKind, t0 := t0, t1 := t1, ret := .kind .control }
  | .movi g _ t0 | .lit g _ t0 => constShape g t0 .scalar
  | .read g r t0 | .readT g r t0 => constShape g t0 .scalar [.g r.toNat, .eng]
  | .write g r => { gate := g, a := scalarOnly, side := true, outs := 1, reads := [.eng], writes := [.g r.toNat] }
  | .itag g _ t0 => constShape g t0 .scalar
  | .nest g _ => { gate := g, nests := true, lasting := true }
  | .unnest g => { gate := g, nests := true, lasting := true }
  | .cfgld g t0 => { gate := g, a := scalarOnly, b := scalarOnly, t0 := t0, ret := .kind .control }
  | .decide g t0 t1 => { gate := g, a := scalarOnly, t0 := t0, t1 := t1, ret := .kind .control }
  | .decideRgn g t0 t1 => { gate := g, a := scalarOnly, b := scalarOnly, t0 := t0, t1 := t1, ret := .kind .control }
  | .add _ g t0 t1 | .sub _ g t0 t1 | .mul _ g t0 t1 | .mulh _ g t0 t1 | .mulhn _ g t0 t1 | .div _ g t0 t1 | .divn _ g t0 t1 | .rem _ g t0 t1
  | .remn _ g t0 t1 | .and _ g t0 t1 | .or _ g t0 t1 | .xor _ g t0 t1 | .andn _ g t0 t1 | .shl _ g t0 t1 | .shr _ g t0 t1 | .sra _ g t0 t1
  | .rotl _ g t0 t1 | .min _ g t0 t1 | .max _ g t0 t1 | .minn _ g t0 t1 | .maxn _ g t0 t1 => intShape2 g t0 t1
  | .clz _ g t0 t1 | .ctz _ g t0 t1 | .popc _ g t0 t1 | .sext _ g t0 t1 | .zext _ g t0 t1 => intShape1 g t0 t1
  | .bfx _ g _ t0 => intShape1 g t0 .none
  | .bfi _ g _ t0 | .lea g _ t0 => intShape2 g t0 .none
  | .cmpEq _ g t0 t1 | .cmpNe _ g t0 t1 | .cmpLt _ g t0 t1 | .cmpLe _ g t0 t1 | .cmpLtn _ g t0 t1 | .cmpLen _ g t0 t1 => intShape2 g t0 t1 .control
  | .addi _ g _ t0 | .andi _ g _ t0 | .ori _ g _ t0 | .xori _ g _ t0 | .shli _ g _ t0 | .shri _ g _ t0 | .srai _ g _ t0 | .muli _ g _ t0 =>
    intShape1 g t0 .none
  | .cmpiEq _ g _ t0 | .cmpiNe _ g _ t0 | .cmpiLt _ g _ t0 | .cmpiLe _ g _ t0 | .cmpiLtn _ g _ t0 | .cmpiLen _ g _ t0 => intShape1 g t0 .none .control
  | .ld _ wd g _ t0 | .wcvLoad _ wd g _ t0 => loadShape g wd t0
  | .lds _ wd fe g _ t0 | .ldRaw _ wd fe g _ t0 =>
    { loadShape g wd t0 with waits := fe != 0, oldest := fe == 2, writes := if fe = 2 then [.mem] else [] }
  | .ldWait _ wd g _ t0 => { loadShape g wd t0 with waits := true }
  | .ldTake _ wd g _ t0 => { loadShape g wd t0 with waits := true, oldest := true, writes := [.mem] }
  | .st _ wd g _ t0 | .fill _ wd g _ t0 => storeShape g [widthKind wd] t0
  | .empty _ _ g _ t0 => storeShape g [] t0
  | .wcvStore _ wd g _ => storeShape g [widthKind wd] .none
  | .atomAdd _ _ g t0 | .atomAnd _ _ g t0 | .atomOr _ _ g t0 | .atomXor _ _ g t0 | .atomMin _ _ g t0 | .atomMax _ _ g t0 | .atomMinn _ _ g t0
  | .atomMaxn _ _ g t0 | .atomFmin _ _ g t0 | .atomFmax _ _ g t0 | .atomSwap _ _ g t0 => atomShape g scalarOnly t0 .scalar
  | .atomEsum _ _ g t0 => atomShape g scalarOnly t0 .vector
  | .cas _ wd g t0 => atomShape g (if wd = .w64 then vectorOnly else scalarOnly) t0 .scalar
  | .step g _ => { gate := g, side := true, outs := 1, held := true, steps := true, writes := [.mem] }
  | .barr g _ => { gate := g, side := true, outs := 1, held := true, reads := [.barr], writes := [.barr] }
  | .bwait g _ t0 => { fenceShape g t0 with reads := [.barr] }
  | .fenceCore g t0 | .fenceClus g t0 | .fenceDie g t0 | .fencePkg g t0 | .fenceSys g t0 => fenceShape g t0
  | .combAdd g v n t0 | .combMin g v n t0 | .combMax g v n t0 | .combMinn g v n t0 | .combMaxn g v n t0 | .combAnd g v n t0 | .combOr g v n t0
  | .combXor g v n t0 | .combFadd g v n t0 | .combFmin g v n t0 | .combFmax g v n t0 => combShape g v n t0
  | .redF32 g _ | .redXs g _ =>
    { gate := g, a := [.vector, .handle], side := true, outs := 1, held := true, engine := true, reads := [.td], writes := [.eng] }
  | .vadd _ _ g t0 t1 | .vsub _ _ g t0 t1 | .vmul _ _ g t0 t1 | .vmax _ g t0 t1 | .vmin _ g t0 t1 => vec2 g t0 t1
  | .vfma _ _ t0 t1 | .vfms _ _ t0 t1 => vec3 t0 t1
  | .vabs _ g t0 t1 | .vneg _ g t0 t1 | .vrcp _ _ g t0 t1 | .vrsq _ _ g t0 t1 | .vsqrt _ _ g t0 t1 | .vexp2 _ _ g t0 t1 | .vlog2 _ _ g t0 t1
  | .vtanh _ _ g t0 t1 => vec1 g t0 t1
  | .vcmp _ _ g t0 t1 => vec2 g t0 t1
  | .vsel t0 t1 => { vec3 t0 t1 with scaled := false }
  | .vbcastW32 g t0 t1 | .vbcastW16 g t0 t1 | .vbcastW8 g t0 t1 => { gate := g, a := scalarOnly, t0 := t0, t1 := t1, ret := .kind .vector }
  | .vpermW32 g t0 t1 | .vpermW16 g t0 t1 | .vpermW8 g t0 t1 => { vec2 g t0 t1 with scaled := false }
  | .vextrW32 g _ t0 | .vextrW16 g _ t0 | .vextrW8 g _ t0 => vec1 g t0 .none .scalar
  | .vinsW32 g _ t0 | .vinsW16 g _ t0 | .vinsW8 g _ t0 => { vec1 g t0 .none with b := scalarOnly, scaled := false }
  | .vrsum _ g t0 t1 | .vrmax _ g t0 t1 | .vrmin _ g t0 t1 | .vamax _ g t0 t1 | .vexpo _ g t0 t1 => vec1 g t0 t1
  | .vexpoSc _ g t0 t1 => { vec1 g t0 t1 with reads := [.sys .mode] }
  | .vldexp _ g t0 t1 | .vscale g _ t0 t1 => { vec1 g t0 t1 with b := scalarOnly, scaled := false }
  | .vcvt g _ _ _ _ t0 | .vunpackLo g _ t0 | .vunpackHi g _ t0 => vec1 g t0 .none
  | .sacc _ t0 t1 => { vec3 t0 t1 with b := scalarOnly, scaled := false }
  | .vpack g _ t0 => vec2 g t0 .none
  | .eaddF32 g n t0 | .eaddBf16 g n t0 =>
    { gate := g, a := vectorOnly, t0 := t0, ret := .kind .control, side := true, ackNull := true, writes := [.xs n.toNat] }
  | .eroundF32 g n t0 | .eroundBf16 g n t0 => constShape g t0 .vector [.xs n.toNat]
  | .eclr g n => { gate := g, side := true, lasting := true, writes := [.xs n.toNat] }
  | .stopk g n t0 => { softShape g n t0 with a := scalarOnly, b := scalarOnly, reads := [.mem] }
  | .smix g n t0 => { softShape g n t0 with b := scalarOnly, reads := [.soft n.toNat] }
  | .shid g n t0 => { softShape g n t0 with a := scalarOnly, b := scalarOnly, reads := [.mem, .soft n.toNat] }
  | .semb g n t0 => { sembShape g n t0 with b := [] }
  | .sembProj g n t0 => sembShape g n t0
  | .scollArgmax g n t0 => { softShape g n t0 with reads := [.soft n.toNat] }
  | .scollSample g m n t0 => { softShape g n t0 with reads := [.soft n.toNat, .rnd m.toNat], writes := [.soft n.toNat, .rnd m.toNat] }
  | .scollConf g n t0 => { softShape g n t0 with b := scalarOnly, reads := [.soft n.toNat] }
  | .slog g m n t0 =>
    { softShape g n t0 with a := scalarOnly, outs := 1, reads := [.g m.toNat, .eng, .soft n.toNat], writes := [.mem, .soft n.toNat] }
  | .scmp g t0 => { gate := g, a := scalarOnly, b := scalarOnly, t0 := t0, ret := .kind .scalar, held := true, reads := [.mem] }
  | .srpl g n t0 =>
    { softShape g n t0 with a := scalarOnly, b := scalarOnly, held := true, reads := [.mem], writes := [.mem, .soft n.toNat] }
  | .sget g fld n t0 => { gate := g, a := if fld = 2 then scalarOnly else [], t0 := t0, ret := .kind .scalar, reads := [.soft n.toNat] }
  | .mma _ _ g t0 t1 | .mmaCb _ g t0 t1 => cmdShape g shapeKind shapeKind t0 t1
  | .mmaG _ _ t0 t1 => { cmdShape .none shapeKind shapeKind t0 t1 with g := handleOnly }
  | .accclr _ g t0 => cmdShape g [] [] t0 .none
  | .accrd _ g t0 t1 => { cmdShape g scalarOnly [] t0 t1 with ret := .kind .vector, oldest := true }
  | .accrdSt _ g t0 | .accwr _ g t0 => cmdShape g shapeKind [] t0 .none
  | .tdset g _ _ => cmdShape g scalarOnly [] .none .none
  | .copy g t0 t1 | .copyMc g t0 t1 => statusShape g scalarOnly [] t0 t1
  | .stage g => cmdShape g scalarOnly [] .none .none
  | .xform g t0 => statusShape g scalarOnly [] t0 .none
  | .fprint g _ t0 t1 => statusShape g scalarOnly scalarOnly t0 t1
  | .dedup g t0 => statusShape g scalarOnly [] t0 .none
  | .gatherRows g t0 t1 | .gatherSum g t0 t1 | .gatherMean g t0 t1 | .gatherWsum g t0 t1 | .scatterAdd g t0 t1 | .scatterMax g t0 t1
  | .scatterMin g t0 t1 | .scatterOvw g t0 t1 | .attn g t0 t1 => statusShape g scalarOnly [] t0 t1
  | .randN64 n g v t0 t1 | .randF32 n g v t0 t1 =>
    { gate := g, t0 := t0, t1 := t1, ret := .kind (if v then .vector else .scalar), side := true, outs := 1, held := true, engine := true,
      reads := [.rnd n.toNat], writes := [.rnd n.toNat] }
  | .rskip n g t0 =>
    { gate := g, a := scalarOnly, t0 := t0, ret := .kind .control, side := true, outs := 1, held := true, engine := true,
      reads := [.rnd n.toNat], writes := [.rnd n.toNat] }
  | .spawn g | .free g => cmdShape g scalarOnly [] .none .none
  | .alloc g t0 => cmdShape g scalarOnly scalarOnly t0 .none
  | .nop g t0 => constShape g t0 .control
  | .trap g _ t0 | .brk g _ t0 | .safe g t0 | .fixreq g t0 => { constShape g t0 .control with lasting := true }
  | .rdsr g r t0 => constShape g t0 .scalar [sysRes r]
  | .wrsr g r => { gate := g, a := scalarOnly, side := true, outs := 1, writes := [sysRes r] }
  | .flags g _ t0 => { constShape g t0 .scalar [.all] with lasting := true }
  | .perf g t0 => constShape g t0 .scalar [.sys .perfsel]
  | _ => {}

end Sys2Proof.Machine
end

