-- ==== Sys2Proof/Machine/Operands.lean ====
section
/-! DEFINITION. Firing: when a node may fire (R17, R64, R109, R110), the flag rules R12 with R70 and R71, what the firing leaves in its block run, and the tokens it sends (R39, R69,
R333, R334). Every meaning of a node goes through `fireRun`. -/

namespace Sys2Proof.Machine

open Sys2Proof

variable {s0 : State}

/-! ### Tokens at slots -/

/-- The tokens that have arrived at a slot, in order. -/
def BlockRun.at' (b : BlockRun) (i : Nat) (sl : Slot) : List Token := (b.toks.filter (fun e => e.idx == i && e.slot == sl)).map (·.tok)

/-- The token at a slot. -/
def BlockRun.tok? (b : BlockRun) (i : Nat) (sl : Slot) : Option Token := (b.toks.find? (fun e => e.idx == i && e.slot == sl)).map (·.tok)

/-- What a counting node holds. -/
def BlockRun.counting (b : BlockRun) (i : Nat) : Counting := (b.counts.find? (fun e => e.idx == i)).getD ⟨i, 0, 0, none, none⟩

def BlockRun.setCounting (b : BlockRun) (x : Counting) : BlockRun := { b with counts := x :: b.counts.filter (fun e => e.idx != x.idx) }

/-- How many tokens a slot of a node takes under one tag (R69, R78, R125). -/
def slotCapacity (sh : Shape) (sl : Slot) : Nat := if sl = .a ∧ sh.count ≠ 0 then sh.count else 1

/-- The PE on which instruction `i` of a placed block stands (R19, R44); none for an instruction of the engine class, which its engine node holds. -/
def State.peAt (s : State) (core cfg slot i : Nat) : Option Nat :=
  match ((s.core core).placedAt cfg slot).bind (fun p => (p.words[i]?).bind (fun w => (decode w).toOption)) with
  | some j => if (shape j).engine then none else some (i % 64)
  | none => some (i % 64)

/-- The PE of node `i` of a run. -/
def State.peOf (s : State) (c : Nat) (b : BlockRun) (i : Nat) : Option Nat := s.peAt (c / 4) b.cfg b.slot i

/-- Matching-store entries that a run holds at a PE (R333). -/
def State.heldAt (s : State) (c : Nat) (b : BlockRun) (pe : Nat) : Nat :=
  ((List.range 2).filter (fun k => let i := pe + 64 * k
    b.toks.any (fun e => e.idx == i) && !b.fired.contains i && s.peOf c b i == some pe)).length

/-- The reserved entries of a context at a PE that its oldest run has no node left to fill: the run that commits next may take them (R333). -/
def State.spareAt (s : State) (c pe : Nat) : Nat :=
  match (s.ctx c).runs with
  | [] => 2
  | b :: _ => 2 - ((List.range 2).filter (fun k => let i := pe + 64 * k
      (s.wordAt c b i).isSome && !b.fired.contains i && s.peOf c b i == some pe)).length

/-- The unreserved matching-store entries taken at a PE of the core (R333), run `b` of context `c` being as given. -/
def State.entriesAt (s : State) (c : Nat) (b : BlockRun) (pe : Nat) : Nat :=
  ((coreCtxs c).map (fun d =>
    let held := ((s.ctx d).runs.drop 1).map (fun y => s.heldAt d (if d = c ∧ y.iid = b.iid then b else y) pe)
    held.sum - min (held.headD 0) (s.spareAt d pe) + ((s.ctx d).strays.filter (fun t => s.peAt (d / 4) t.cfg t.slot t.tok.idx == some pe)).length)).sum

/-- A token for a node of run `b` finds no entry at its PE and goes to the overflow area (R334). Log 23, DEDUCED: who takes the eight reserved entries of a PE. -/
def State.overflows (s : State) (c : Nat) (b : BlockRun) (i : Nat) : Bool :=
  if (s.ctx c).isOldest b.iid || b.toks.any (fun e => e.idx == i) then false
  else
    match s.peOf c b i with
    | none => false
    | some pe =>
      let next := (((s.ctx c).runs.drop 1).head?).any (fun y => y.iid == b.iid)
      !(next && decide (s.heldAt c b pe < s.spareAt c pe)) && decide (248 ≤ s.entriesAt c b pe)

/-- A token arrives at a slot of a node; one more than the slot takes marks the run faulting there (R69). `src` is the node that sent it (R108). -/
def BlockRun.accept (b : BlockRun) (src : Option Nat) (cap : Nat) (overflow : Bool) (i : Nat) (sl : Slot) (t : Token) : BlockRun :=
  let b := match src with
    | none => b
    | some k =>
      let m := SMap.get b.ancest 0 k ||| (1 <<< k : BitVec 128)
      { b with ancest := SMap.set b.ancest 0 i (SMap.get b.ancest 0 i ||| m) }
  if cap ≤ (b.at' i sl).length then { b with faults := b.faults ++ [⟨i, 0x04, 0x01, 0, 0, 0, 0, none⟩] }
  else if overflow then { b with spilled := b.spilled ++ [⟨i, sl, t⟩] }
  else { b with toks := b.toks ++ [⟨i, sl, t⟩] }

/-- A token sent to a target of a run. -/
def State.sendTo (s : State) (c : Nat) (src : Option Nat) (b : BlockRun) (t : Target) (tok : Option Token) : BlockRun :=
  match t, tok with
  | .slot sl i, some tok =>
    let sh := ((s.instrAt c b i.toNat).map shape).getD {}
    b.accept src (slotCapacity sh sl) (s.overflows c b i.toNat) i.toNat sl tok
  | _, _ => b

/-- Tokens that stand in the overflow area of the core of a context (R334). -/
def State.spilledAt (s : State) (c : Nat) : Nat := ((coreCtxs c).map (fun d => (((s.ctx d).runs.map (fun y => y.spilled.length)).sum))).sum

/-- Room for a result: the overflow area of the core has an entry for every token that would go there (R17, R334). -/
def State.roomFor (s : State) (c : Nat) (b : BlockRun) (ts : List Target) : Bool :=
  let sent := ts.foldl (fun b t => s.sendTo c none b t (some ⟨.control, 0, false, false, false⟩)) b
  sent.spilled.length == b.spilled.length || decide (s.spilledAt c + (sent.spilled.length - b.spilled.length) ≤ 2048)

/-! ### When a node may fire -/

/-- A run older than `b` still stands in the way of a node that reads `rs` (R64): one of its nodes may yet write what the node reads. -/
def State.hazard (s : State) (c : Nat) (x : Ctx) (b : BlockRun) (rs : List Res) : Bool :=
  if rs.isEmpty then false
  else (x.older b.iid).any (fun o =>
    rs.contains .all || (List.range (((s.placedOf c o).map (fun p => p.words.length)).getD 0)).any (fun i =>
      match s.instrAt c o i with
      | none => false
      | some j => (shape j).writes.any (fun w => rs.contains w && (w == .eng || !o.fired.contains i))))

/-- An older run has a `.wait` or `.take` load that has not returned, or a `step` that has neither delivered a null nor been released (R110). -/
def State.holdsYounger (s : State) (c : Nat) (o : BlockRun) : Bool :=
  (List.range (((s.placedOf c o).map (fun p => p.words.length)).getD 0)).any (fun i =>
    match s.instrAt c o i with
    | none => false
    | some j =>
      ((shape j).waits && !o.fired.contains i)
        || ((shape j).steps && (!o.fired.contains i || o.faults.any (fun f => f.idx == i) || o.effs.any (fun e => e.idx == i && (match e.eff with
          | .step _ => true
          | _ => false)))))

/-- A committed step of the context is not released, or its fault has not been delivered (R110, R131). -/
def Ctx.stepHolds (x : Ctx) : Bool :=
  x.pend.any (fun p => match p.eff with
    | .step _ => true
    | _ => false) || x.arrivals.any (fun a => a.1 == 0)
    || (!x.hndl && x.asyncs.any (fun f => f.cls == 0x10 || (f.cls == 0x11 && f.code == 0x01)))

/-- The node is held (R110). -/
def State.isHeld (s : State) (c : Nat) (x : Ctx) (b : BlockRun) : Bool :=
  (x.older b.iid).any (fun o => s.holdsYounger c o) || x.stepHolds
    || s.readers.any (fun e => e.c == c && !e.drive && e.answer.isNone && !e.failed && !(x.runs.any (fun o => o.iid == e.iid)))

/-- The slots that a node waits for are filled (R17). A counting node fires once per arrival, `merge` once per slot. -/
def BlockRun.operands (b : BlockRun) (i : Nat) (sh : Shape) : Bool :=
  let gate := (sh.gate == .none && sh.g.isEmpty) || (b.tok? i .g).isSome
  if sh.merge then
    let seen := (b.counting i).seen
    ((b.tok? i .a).isSome && seen % 2 == 0) || ((b.tok? i .b).isSome && seen / 2 % 2 == 0)
  else if sh.count ≠ 0 then gate && decide ((b.counting i).seen < (b.at' i .a).length)
  else gate && (sh.a.isEmpty || (b.tok? i .a).isSome) && (sh.b.isEmpty || (b.tok? i .b).isSome)

/-- Every `nest` and `unnest` of the run has fired (R63, R81). -/
def State.nestsFired (s : State) (c : Nat) (b : BlockRun) : Bool :=
  (List.range (((s.placedOf c b).map (fun p => p.words.length)).getD 0)).all (fun i =>
    b.fired.contains i || !(((s.instrAt c b i).map (fun j => (shape j).nests)).getD false))

/-- The node waits on a granule (R116). -/
def State.waitsOnGranule (s : State) (c iid i : Nat) : Bool :=
  s.readers.any (fun e => e.c == c && e.iid == iid && e.idx == i && !e.drive && e.answer.isNone && !e.failed)

/-- Node `i` of a run may fire now, as far as the rules that all nodes share say. -/
def State.mayFire (s : State) (c : Nat) (x : Ctx) (b : BlockRun) (i : Nat) (sh : Shape) : Bool :=
  !b.fired.contains i && !b.parked.contains i && (b.faults.isEmpty || !x.isOldest b.iid || b.det) && b.operands i sh && s.roomFor c b [sh.t0, sh.t1]
    && (!sh.oldest || (x.isOldest b.iid && b.faults.isEmpty)) && !(sh.held && s.isHeld c x b) && !s.hazard c x b sh.reads
    && !(sh.waits && s.waitsOnGranule c b.iid i) && s.homeTurn (.node c b.iid i)

/-- An exit that fired and has yet to name its successor (R63). -/
def State.settles (s : State) (c : Nat) (b : BlockRun) (i : Nat) : Bool :=
  match b.exit with
  | some (j, _) => j == i && !b.begun && s.nestsFired c b && !b.parked.contains i
  | none => false

/-! ### What a firing does -/

/-- A node as it fires: its context as it sees it (R64), its run, its operands. -/
structure Fire where
  c    : Nat
  idx  : Nat
  x    : Ctx
  b    : BlockRun
  sh   : Shape
  a    : Token
  b'   : Token
  g    : Token
  deriving DecidableEq, Repr

/-- What a firing comes to. `wait`: it does not take place yet. -/
structure NodeOut where
  t0     : Option Token := none
  t1     : Option Token := none
  effs   : List Eff := []
  flags  : FlagSet := 0
  faults : List NodeFault := []
  outs   : Nat := 0
  exit   : Option ExitKind := none
  wait   : Bool := false
  keep   : Option Counting := none
  done   : Bool := true
  denied : Bool := false
  took   : List Nat := []
  deriving DecidableEq, Repr

/-- One result to both targets. -/
def NodeOut.of (t : Token) (flags : FlagSet := 0) : NodeOut := { t0 := some t, t1 := some t, flags := flags }

/-- The node marks its run faulting. -/
def Fire.fault (f : Fire) (cls code : Nat) (vaddr : Nat := 0) : NodeOut := { faults := [⟨f.idx, cls, code, 0, 0, 0, vaddr, none⟩] }

/-- Not yet. -/
def NodeOut.later : NodeOut := { wait := true }

/-- The S flag that a vector result takes (R12 rule 7). -/
def Fire.s (f : Fire) : Bool := f.a.s

/-- The run is in deterministic mode (R18). -/
def Fire.det (f : Fire) : Bool := f.b.det

/-- The kind of a null or error token in place of the result. -/
def Fire.retKind (f : Fire) : Kind :=
  match f.sh.ret with
  | .kind k => k
  | .likeA => if f.sh.a.isEmpty then .scalar else f.a.kind

/-- The operands that a node has, in slot order A, B, G. -/
def Fire.operands (f : Fire) : List Token :=
  (if f.sh.a.isEmpty then [] else [f.a]) ++ (if f.sh.b.isEmpty then [] else [f.b'])
    ++ (if f.sh.gate = .none ∧ f.sh.g.isEmpty then [] else [f.g])

/-- The operands that carry data. -/
def Fire.dataOperands (f : Fire) : List Token :=
  (if f.sh.a.isEmpty then [] else [f.a]) ++ (if f.sh.b.isEmpty then [] else [f.b']) ++ (if f.sh.g.isEmpty then [] else [f.g])

/-- The gate does not match (R12 rule 1, R70). -/
def Fire.mismatch (f : Fire) : Bool :=
  match f.sh.gate with
  | .onTrue => !f.g.e && (f.g.n || !f.g.polarity)
  | .onFalse => !f.g.e && (f.g.n || f.g.polarity)
  | _ => false

/-- Nulls to every target; an output node counts its outputs. -/
def Fire.nulls (f : Fire) : NodeOut := { NodeOut.of (nullToken f.retKind) with outs := f.sh.outs }

/-- Every operand is of a kind that its slot takes (R71). -/
def Fire.kindsOk (f : Fire) : Bool :=
  (f.sh.a.isEmpty || f.sh.a.contains f.a.kind) && (f.sh.b.isEmpty || f.sh.b.contains f.b'.kind) && (f.sh.g.isEmpty || f.sh.g.contains f.g.kind)

/-- The S flags of the data operands differ (R12 rule 6). -/
def Fire.scaleDiffers (f : Fire) : Bool := f.dataOperands.any (fun t => t.s != f.a.s)

/-- The flag rules in their order: what decides a firing before its own meaning, if anything does. -/
def Fire.rules (f : Fire) : Option NodeOut :=
  if f.sh.gate ≠ .none ∧ f.g.kind ≠ .control then some (f.fault 0x04 0x05)
  else if f.mismatch then some f.nulls
  else
    match (if f.sh.passA then (if f.a.e then [] else f.operands.drop 1) else f.operands).find? (fun t => t.e) with
    | some t =>
      if f.sh.side then
        some { faults := [⟨f.idx, 0x0D, 0x00, descClass t.word, descCode t.word, descTicket t.word, 0, none⟩] }
      else some (NodeOut.of (errorToken f.retKind t.word))
    | none =>
      if f.dataOperands.any (fun t => t.n) && !f.sh.passA then
        some (if f.sh.ackNull then { NodeOut.of (control true) with outs := f.sh.outs } else f.nulls)
      else if !f.kindsOk then some (f.fault 0x04 0x05)
      else if f.sh.scaled && f.scaleDiffers then some (f.fault 0x06 0x00)
      else none

/-- A node's firing recorded in its run and its results sent. -/
def State.record (s : State) (c i : Nat) (sh : Shape) (o : NodeOut) (b : BlockRun) : BlockRun :=
  let b := { b with
    fired := if o.done then i :: b.fired else b.fired
    denied := b.denied.filter (fun d => d.1 != i)
    effs := b.effs ++ o.effs.map (fun e => ⟨i, e⟩)
    entered := b.entered ++ o.took.map (fun k => (k, i, true))
    flags := b.flags ||| o.flags
    faults := b.faults ++ o.faults
    outs := b.outs + o.outs
    exit := match o.exit with
      | some k => some (i, k)
      | none => b.exit }
  let b := match o.keep with
    | some x => b.setCounting x
    | none => b
  let b := s.sendTo c (some i) b sh.t0 o.t0
  s.sendTo c (some i) b sh.t1 o.t1

/-- A fault of a node, unless the run is marked with it already. -/
def BlockRun.faultOnce (b : BlockRun) (i cls code : Nat) : BlockRun :=
  if b.faults.any (fun f => f.idx == i && f.cls == cls && f.code == code) then b else { b with faults := b.faults ++ [⟨i, cls, code, 0, 0, 0, 0, none⟩] }

/-- A run whose outputs are all produced and none of whose exits took effect is faulting at its lowest-indexed exit (R66). -/
def State.checkExit (s : State) (c : Nat) (b : BlockRun) : BlockRun :=
  match s.placedOf c b with
  | none => b
  | some p =>
    if p.nout ≤ b.outs ∧ b.exit.isNone then
      b.faultOnce (((List.range p.words.length).find? (fun i => ((s.instrAt c b i).map (fun j => (shape j).exit)).getD false)).getD 0) 0x04 0x02
    else b

/-- The nest and record that the run leaves (R65, R67), or the failing node and its code. -/
def tagAfter (b : BlockRun) : Except (Nat × Nat) (BitVec 56 × NestRec) :=
  b.ordered.foldl (fun acc e =>
    match acc with
    | .error x => .error x
    | .ok (n, w) =>
      match e.eff with
      | .nest c =>
        match pushLevel w c with
        | .ok w' => .ok (n, w')
        | .error q => .error (e.idx, q)
      | .unnest =>
        match popLevel n w with
        | .ok p => .ok p
        | .error q => .error (e.idx, q)
      | _ => .ok (n, w)) (.ok (b.nest, b.widths))

/-- When the last `nest` or `unnest` of a run has fired, the pushes and pops in ascending index decide the tag overflow and underflow faults (R15, R81). -/
def State.checkTag (s : State) (c : Nat) (b : BlockRun) : BlockRun :=
  match tagAfter b with
  | .ok _ => b
  | .error (k, q) => if s.nestsFired c b then b.faultOnce k 0x05 q else b

/-- What a firing makes plain of its run: an exit that is missing (R66), a tag that overflows (R81). -/
def State.checkRun (s : State) (c : Nat) (b : BlockRun) : BlockRun := s.checkTag c (s.checkExit c b)

/-- Tokens that have gone to the overflow area of a core since `s` (R392). -/
def Run.countSpills (r : Run s0) (s : State) (c : Nat) : Run s0 := r.count c none 0x27 (r.st.spilledAt c - s.spilledAt c)

/-- A firing takes place. It counts at the PE of the node; the fire of an engine node, which stands on none, counts where all PEs are counted (R44, R391). -/
def Run.finish (r : Run s0) (c iid i : Nat) (sh : Shape) (o : NodeOut) : Run s0 :=
  if o.wait then r
  else
    let s := r.st
    ((r.modRun c iid (fun b => s.checkRun c (s.record c i sh o b))).countSpills s c).count c (some (if sh.engine then 64 else i % 64)) 0x02 1

/-- A token that is not there. -/
def noToken : Token := ⟨.scalar, 0, false, false, false⟩

/-- Node `i` of a run as it fires. -/
def fireOf (c : Nat) (x : Ctx) (b : BlockRun) (i : Nat) (sh : Shape) : Fire :=
  ⟨c, i, x.view b, b, sh, (b.tok? i .a).getD noToken, (b.tok? i .b).getD noToken, (b.tok? i .g).getD noToken⟩

/-- The node at the site fires, when it may, with `body` as its own meaning. Log 112, DESIGN CHOICE: exec at a site where nothing stands. -/
def fireRun (ins : Instr) (body : Run s0 → Fire → Run s0 × NodeOut) (r : Run s0) : Run s0 :=
  let s := r.st
  let c := s.site.c
  let x := s.ctx c
  match x.run? s.site.iid with
  | none => r
  | some b =>
    let sh := shape ins
    if s.mayFire c x b s.site.idx sh then
      let f := fireOf c x b s.site.idx sh
      match f.rules with
      | some o => r.finish c b.iid f.idx sh o
      | none =>
        let (r, o) := body r f
        r.finish c b.iid f.idx sh o
    else r

/-- A node whose meaning changes nothing but its run. -/
def fireNode (ins : Instr) (body : Fire → NodeOut) (s : State) : Host.Outcome State Fault Refusal :=
  .next (fireRun ins (fun r f => (r, body f)) (Run.start s)).st

/-- A node with effects of its own. -/
def fireWith (ins : Instr) (body : {s0 : State} → Run s0 → Fire → Run s0 × NodeOut) (s : State) : Host.Outcome State Fault Refusal :=
  .next (fireRun ins body (Run.start s)).st

end Sys2Proof.Machine
end

