-- ==== Sys2Proof/Machine/Fetch.lean ====
section
/-! DEFINITION. Blocks as they stand in memory: headers (R30 to R36), the checks of one block (R38, R39, R47, R379) and its fetch (R33, R43, R48). -/

namespace Sys2Proof.Machine

open Sys2Proof

variable {s0 : State}

/-! ### Headers -/

def hdrType (w : Nat) : Nat := bitsOf w 28 4
def hdrNinst (w : Nat) : Nat := bitsOf w 21 7 + 1
def hdrNout (w : Nat) : Nat := bitsOf w 14 7 + 1
def hdrD (w : Nat) : Bool := bitsOf w 13 1 == 1
def hdrL (w : Nat) : Bool := bitsOf w 12 1 == 1
def hdrS (w : Nat) : Bool := bitsOf w 8 1 == 1
def hdrChk (w : Nat) : Nat := w % 256

/-- Bytes of a code block of `n` instructions (R32). -/
def codeLength (n : Nat) : Nat := 64 * ceilDiv (4 + 4 * n) 64

/-- Bytes of a literal pool of `n` entries (R34). -/
def poolLength (n : Nat) : Nat := 64 * ceilDiv (8 + 8 * n) 64

/-- The XOR of bytes (R32). -/
def chkOf (bs : List Byte) : Nat := (bs.foldl (· ^^^ ·) 0).toNat

/-! ### The instructions of a block -/

/-- The targets of an instruction, those of `iter` in its next instance among them (R74). -/
def targetsOf (i : Instr) : List Target :=
  match i with
  | .iter _ t0 t1 => [t0, t1]
  | i => [(shape i).t0, (shape i).t1]

/-- The instruction uses the slot (R38). -/
def slotUsed (sh : Shape) (sl : Slot) : Bool :=
  match sl with
  | .a => !sh.a.isEmpty
  | .b => !sh.b.isEmpty
  | .g => sh.gate != .none || !sh.g.isEmpty

/-- A target is bad in its block (R39). -/
def badTarget (is : List (Option Instr)) (t : Target) : Bool :=
  match t with
  | .none => false
  | .slot sl i =>
    match is[i.toNat]? with
    | none => true
    | some none => false
    | some (some j) => !slotUsed (shape j) sl

/-- The nodes that tokens of node `i` reach directly, and the slot. -/
def edges (is : List (Option Instr)) (i : Nat) : List (Nat × Slot) :=
  match is[i]? with
  | some (some (.iter _ _ _)) => []
  | some (some j) => (targetsOf j).filterMap (fun t => match t with
      | .slot sl k => some (k.toNat, sl)
      | .none => none)
  | _ => []

/-- Tokens of the nodes `todo` reach an edge that `ok` accepts, through nodes that `via` lets pass. -/
def reaches (is : List (Option Instr)) (ok : Instr → Slot → Bool) (via : Instr → Bool) : Nat → List Nat → List Nat → Bool
  | 0, _, _ => false
  | n + 1, todo, seen =>
    let es := todo.flatMap (edges is)
    es.any (fun e => match is[e.1]? with
      | some (some j) => ok j e.2
      | _ => false)
    || (let more := ((es.map Prod.fst).filter (fun k => !seen.contains k && (match is[k]? with
          | some (some j) => via j
          | _ => false))).eraseDups
        if more.isEmpty then false else reaches is ok via n more (more ++ seen))

/-- A slot G of an output node under GT 11. -/
def outputArc (j : Instr) (sl : Slot) : Bool := sl == .g && (shape j).gate == .arc && decide (0 < (shape j).outs)

/-- An output node. -/
def isOutput (j : Instr) : Bool := decide (0 < (shape j).outs)

/-- The node's tokens reach slot G of an output node under GT 11. -/
def reachesArc (is : List (Option Instr)) (i : Nat) (via : Instr → Bool) : Bool := reaches is outputArc via 129 [i] [i]

/-- The node's tokens reach an output node. -/
def reachesOutput (is : List (Option Instr)) (i : Nat) : Bool := reaches is (fun j _ => isOutput j) (fun _ => true) 129 [i] [i]

/-- The checks of R379 on the results of the system instructions fail at a node. -/
def systemUnrouted (is : List (Option Instr)) (i : Nat) : Bool :=
  match is[i]? with
  | some (some (.trap g _ _)) | some (some (.brk g _ _)) | some (some (.safe g _)) | some (some (.fixreq g _)) =>
    g != .none && !reachesArc is i (fun _ => true)
  | some (some (.flags _ m _)) => m != 0 && !reachesOutput is i
  | _ => false

/-- Output nodes of a block, each target of an `iter` counted as one more (R32, R61). -/
def outputsOf (is : List (Option Instr)) : Nat := (is.map (fun i => (i.map (fun j => (shape j).outs)).getD 0)).sum

/-- The instruction that a word carries, its own operand checks aside. -/
def assigned (w : Word32) : Option Instr :=
  match parse w with
  | .ok i => some i
  | .error _ => none

/-- The word carries an encoding that R47 sends to the illegal-instruction fault; a `wrsr` of a register that is not written to is an assigned instruction (R27). -/
def illegalWord (w : Word32) : Bool :=
  match decode w with
  | .ok _ => false
  | .error c => c != 0x04 && (match assigned w with
    | some (.wrsr _ _) => false
    | _ => true)

/-- The fault of instruction word `i` at run time (R47, R27, R74, R379), as class and code. -/
def wordFate (ws : List Word32) (is : List (Option Instr)) (loop : Bool) (i : Nat) : Option (Nat × Nat) :=
  match decode (ws.getD i 0) with
  | .error c =>
    match assigned (ws.getD i 0) with
    | some (.wrsr _ r) => some (0x01, if SysReg.writable r then 0x00 else 0x01)
    | _ => some (if c = 0x04 then (0x04, 0x00) else (0x01, 0x00))
  | .ok (.iter g t0 t1) => if !loop then some (0x01, 0x02) else if (targetsOf (.iter g t0 t1)).any (badTarget is) then some (0x04, 0x00) else none
  | .ok j =>
    if (targetsOf j).any (badTarget is) then some (0x04, 0x00)
    else if systemUnrouted is i then some (0x01, 0x00)
    else none

/-! ### The fetch -/

/-- A block as fetched. `bad` is the failing word of check 5 of R48: its index, class and code. -/
structure Fetched where
  words : List Word32
  pool  : Option (List Word64)
  next' : Option Word64
  det   : Bool
  loop  : Bool
  safe  : Bool
  nout  : Nat
  bad   : Option (Nat × Nat × Nat)
  deriving DecidableEq, Repr

/-- What a fetch comes to. -/
inductive FetchGot where
  | ok (f : Fetched)
  | park (va : Nat)
  | fault (cls code va : Nat)
  deriving DecidableEq, Repr

/-- The 4 KiB pages of a range of bytes. -/
def pagesOf (va n : Nat) : List Nat := (List.range ((va + n - 1) / 4096 + 1 - va / 4096)).map (fun i => (va / 4096 + i) * 4096)

/-- `n` bytes of code (R48 check 1, R88): every page is translated for X. -/
def Run.readCode (r : Run s0) (a : Agent) (va n : Nat) : Run s0 × Got :=
  (pagesOf va n).foldl (fun (acc : Run s0 × Got) p =>
    match acc.2 with
    | .bytes bs =>
      let lo := max p va
      let hi := min (p + 4096) (va + n)
      if 2 ^ 56 ≤ lo then (acc.1, .fault 0x08 0x00 lo)
      else
        let (r, x) := acc.1.translate a lo .x
        match x with
        | .phys pa _ => (r.readLines (mainKey pa) (hi - lo), .bytes (bs ++ r.st.bytes (mainKey pa) (hi - lo)))
        | .park => (r, .park lo)
        | .fault c q => (r, .fault c q lo)
    | g => (acc.1, g)) (r, .bytes [])

/-- Bytes as little-endian words of 4. -/
def wordsOf : List Byte → List Word32
  | b0 :: b1 :: b2 :: b3 :: r => BitVec.ofNat 32 (leNat [b0, b1, b2, b3]) :: wordsOf r
  | _ => []

/-- Bytes as little-endian words of 8. -/
def quadsOf (bs : List Byte) : List Word64 := (List.range (bs.length / 8)).map (fun i => BitVec.ofNat 64 (fieldAt bs (8 * i) 8))

/-- What follows a block (R33): a literal pool with its header, no pool, or a page that is not present. -/
inductive After where
  | pool (h : Nat)
  | none
  | absent
  deriving DecidableEq, Repr

/-- The unit after a block, as the fetch of a block that reads no pool sees it. Log 121, DEDUCED: where the header after a block cannot be read, no pool stands there, and the fetch of the
next block finds the fault. -/
def poolAfter (s : State) (a : Agent) (va : Nat) : After :=
  match walk s (s.rootOf a.grp) va with
  | .leaf l _ =>
    match permitted s l (s.asidOf a.grp) va .x with
    | .phys pa _ =>
      let h := s.num (mainKey pa) 4
      if hdrType h = 1 then .pool h else .none
    | _ => .none
  | .missing => .absent
  | _ => .none

/-- Checks 3 to 5 of R48 on a block whose bytes have been read. Log 61, DEDUCED: how a block with a failing word is begun. -/
def checkBlock (h : Nat) (bs : List Byte) (pool : Option (Nat × List Byte)) (next' : Option Nat) : FetchGot :=
  let n := hdrNinst h
  let code := (bs.drop 4).take (4 * n)
  let ws := wordsOf code
  let is := ws.map (fun w => (decode w).toOption)
  let loose := ws.map assigned
  if chkOf code ≠ hdrChk h then .fault 0x03 0x01 0
  else if (match pool with
      | some (ph, pb) => chkOf ((pb.drop 8).take (8 * hdrNinst ph)) != hdrChk ph
      | none => false) then .fault 0x03 0x03 0
  else if loose.all Option.isSome && !ws.any illegalWord && outputsOf loose != hdrNout h then .fault 0x03 0x02 0
  else
    let bad := (List.range n).findSome? (fun i => (wordFate ws is (hdrL h) i).map (fun e => (i, e.1, e.2)))
    .ok ⟨ws, pool.map (fun p => (quadsOf (p.2.drop 8)).take (hdrNinst p.1)), next'.map (BitVec.ofNat 64), hdrD h, hdrL h, hdrS h, hdrNout h, bad⟩

/-- A fetch of the block at an address (R48), as one event. Log 46, DESIGN CHOICE: R49 lets a change fall between two of its units. -/
def Run.fetchBlock (r : Run s0) (a : Agent) (va : Nat) : Run s0 × FetchGot :=
  let (r, g) := r.readCode a va 4
  match g with
  | .park v => (r, .park v)
  | .fault c q v => (r, .fault c q v)
  | .bytes hb =>
    let h := leNat hb
    if hdrType h ≠ 0 then (r, .fault 0x02 0x00 0)
    else
      let len := codeLength (hdrNinst h)
      let (r, g) := r.readCode a va len
      match g with
      | .park v => (r, .park v)
      | .fault c q v => (r, .fault c q v)
      | .bytes bs =>
        let reads := (wordsOf ((bs.drop 4).take (4 * hdrNinst h))).any (fun w => match assigned w with
          | some (.lit _ _ _) => true
          | _ => false)
        if !reads then
          (r, checkBlock h bs none (match poolAfter r.st a (va + len) with
            | .pool ph => some (va + len + poolLength (hdrNinst ph))
            | .none => some (va + len)
            | .absent => none))
        else
          let (r, g) := r.readCode a (va + len) 4
          match g with
          | .park v => (r, .park v)
          | .fault _ _ _ => (r, checkBlock h bs none (some (va + len)))
          | .bytes pb =>
            let ph := leNat pb
            if hdrType ph ≠ 1 then (r, checkBlock h bs none (some (va + len)))
            else
              let plen := poolLength (hdrNinst ph)
              let (r, g) := r.readCode a (va + len) plen
              match g with
              | .park v => (r, .park v)
              | .fault c q v => (r, .fault c q v)
              | .bytes pb => (r, checkBlock h bs (some (ph, pb)) (some (va + len + plen)))

/-- The block as placed in a blockslot. -/
def Fetched.placed (f : Fetched) (cfg slot : Nat) (addr : Word64) (grp : Nat) (pin : Option Nat) (pinBy : Nat) : Placed :=
  ⟨cfg, slot, addr, grp, f.words, f.pool, f.next', f.det, f.loop, f.safe, f.nout, pin, pinBy⟩

/-! ### Blockslots (R63, R82) -/

/-- A run of the core uses the blockslot. -/
def State.slotLive (s : State) (c cfg slot : Nat) : Bool := (coreCtxs c).any (fun d => (s.ctx d).runs.any (fun b => b.cfg == cfg && b.slot == slot)
  || (s.ctx d).next.any (fun n => n.copy == some (cfg, slot)))

/-- The placed copy that an exit of a context enters: one it has pinned, in the lowest-numbered set, else one left from an earlier run (R63, R82). -/
def State.residentCopy (s : State) (c : Nat) (addr : Word64) : Option (Nat × Nat) :=
  let ps := (s.core (c / 4)).placed.filter (fun p => p.addr == addr && p.grp == (s.ctx c).grp)
  let least := fun (l : List Placed) => (l.foldl (fun m p => match m with
    | none => some (p.cfg, p.slot)
    | some e => if p.cfg * 16 + p.slot < e.1 * 16 + e.2 then some (p.cfg, p.slot) else some e) (none : Option (Nat × Nat)))
  match least (ps.filter (fun p => p.pin == some c)) with
  | some e => some e
  | none => least ps

/-- The blockslot for a block that is fetched: the lowest free one, else the lowest whose block is not pinned and has no live run (R63). Log 122, DESIGN CHOICE: R63 does not say which
idle block is evicted, or when. -/
def State.roomForBlock (s : State) (c : Nat) : Option (Nat × Nat) :=
  let all := (List.range 64).map (fun i => (i / 16, i % 16))
  let k := s.core (c / 4)
  match all.find? (fun e => (k.placedAt e.1 e.2).isNone) with
  | some e => some e
  | none => all.find? (fun e => match k.placedAt e.1 e.2 with
    | some p => p.pin.isNone && !s.slotLive c e.1 e.2
    | none => true)

/-- A block put into a blockslot. -/
def Run.place (r : Run s0) (c : Nat) (p : Placed) : Run s0 :=
  r.modCore (c / 4) (fun k => { k with placed := p :: k.placed.filter (fun q => !(q.cfg == p.cfg && q.slot == p.slot)) })

/-- The block that follows a placed one, or the page that its reading waits on. -/
inductive NextGot where
  | named (addr : Word64)
  | park (va : Nat)
  deriving DecidableEq, Repr

/-- The next sequential block of a placed block (R33). Where the unit after the block was not present at the fetch, the helm reads it now, and the placed block keeps
what it finds (R49). -/
def Run.nextAfter (r : Run s0) (c : Nat) (p : Placed) : Run s0 × NextGot :=
  match p.next' with
  | some v => (r, .named v)
  | none =>
    let va := p.addr.toNat + codeLength p.words.length
    let (r, g) := r.readCode (r.st.agent c) va 4
    let found := fun (n : Nat) => (r.place c { p with next' := some (BitVec.ofNat 64 n) }, NextGot.named (BitVec.ofNat 64 n))
    match g with
    | .park v => (r, .park v)
    | .fault _ _ _ => found va
    | .bytes hb => found (if hdrType (leNat hb) = 1 then va + poolLength (hdrNinst (leNat hb)) else va)

end Sys2Proof.Machine
end

