-- ==== Sys2Proof/Machine/Control.lean ====
section
/-! DEFINITION. Exits (R66, R72 to R75), token instructions (R76 to R79), registers and tags (R80, R81), resident configurations and decisions (R82 to R84). -/

namespace Sys2Proof.Machine

open Sys2Proof

variable {s0 : State}

/-! ### Exits -/

/-- An exit fires with effect, or is the second one to do so (R66). -/
def Fire.leave (f : Fire) (k : ExitKind) : NodeOut :=
  if f.b.exit.isSome then { f.fault 0x04 0x02 with outs := f.sh.outs } else { exit := some k, outs := f.sh.outs }

/-- A node of a run marks it faulting. -/
def Run.nodeFault (r : Run s0) (c iid i cls code vaddr : Nat) (blk : Option Word64 := none) : Run s0 :=
  r.modRun c iid (fun b => { b with faults := b.faults ++ [⟨i, cls, code, 0, 0, 0, vaddr, blk⟩] })

/-- The exit of a run comes to nothing but a fault. -/
def Run.exitFault (r : Run s0) (c iid i cls code vaddr : Nat) (blk : Option Word64 := none) : Run s0 :=
  (r.nodeFault c iid i cls code vaddr blk).modRun c iid (fun b => { b with begun := true })

/-- The exit has named its successor. -/
def Run.names (r : Run s0) (c iid i : Nat) (addr : Word64) (by' : BegunBy) (nest : BitVec 56) (widths : NestRec) (frame : Nat) (toks : List Arrived)
    (copy : Option (Nat × Nat)) : Run s0 :=
  (r.modCtx c (fun x => { x with next := some ⟨addr, by', nest, widths, frame, toks, iid, i, copy⟩ })).modRun c iid (fun b => { b with begun := true })

/-- The exit has no successor to begin. -/
def Run.namesNone (r : Run s0) (c iid : Nat) : Run s0 := r.modRun c iid (fun b => { b with begun := true })

/-- A node of a run waits on a parked translation (R316, R319). -/
def Run.parkNode (r : Run s0) (c iid i va : Nat) (kind : BitVec 5) : Run s0 :=
  let a := r.st.agent c
  match r.parkOn a.die a.grp va a.part kind (.node c iid i) with
  | some r => r.modRun c iid (fun b => { b with parked := i :: b.parked })
  | none => r

/-- The address of a format B exit (R43). -/
def branchTarget (b : BlockRun) (off : BitVec 24) : Word64 := b.addr + off.signExtend 64 * 64

/-- RSPILL may yet be written by an older run (R64). -/
def State.spillUnsettled (s : State) (c : Nat) (x : Ctx) (b : BlockRun) : Bool :=
  s.hazard c x b [.sys .rspill] || (x.older b.iid).any (fun o => o.effs.any (fun e => match e.eff with
    | .wrsr .rspill _ => true
    | _ => false))

/-- The 64 bytes of a spilled return entry (R73). -/
def StackEntry.bytes (e : StackEntry) : List Byte :=
  leBytes 8 e.addr.toNat ++ leBytes 8 e.nest.toNat ++ leBytes 8 (NestRec.word e.widths).toNat ++ leBytes 40 0

/-- What the stack operation of an exit comes to. -/
inductive Stacked where
  | done (e : Option StackEntry)
  | wait
  | fault (cls code va : Nat)
  deriving DecidableEq, Repr

/-- The refusal that an exit's own access to main has met (R73, R317). -/
def BlockRun.deniedAt (b : BlockRun) (i : Nat) : Option (Nat × Nat) := (b.denied.find? (fun d => d.1 == i)).map Prod.snd

/-- A push (R73): the oldest of 32 entries is spilled to main at RSPILL. The spill is a store of the exiting run: its page must take writes as the exit names its
successor, and the bytes land after the commit (R108). -/
def Run.push (r : Run s0) (c : Nat) (b : BlockRun) (i : Nat) (e : StackEntry) : Run s0 × Stacked :=
  let x := r.st.ctx c
  if x.stack.length < 32 then (r.modCtx c (fun x => { x with stack := x.stack ++ [e] }), .done none)
  else if r.st.spillUnsettled c x b then (r, .wait)
  else
    let va := x.rspill.toNat
    match fireCheck r.st (r.st.agent c) .main va 64 true .store with
    | some (k, q) => (r, .fault k q va)
    | none =>
      match b.deniedAt i with
      | some (k, q) => (r, .fault k q va)
      | none =>
        let (r, l) := r.locate (r.st.agent c) .main va .w
        match l with
        | .park => (r.parkNode c b.iid i va kindWrite, .wait)
        | .fault k q => (r, .fault k q va)
        | _ =>
          let spilled : Access := ⟨.store, .main, .v512, x.rspill, BitVec.ofNat 512 (leNat ((x.stack.head?.map StackEntry.bytes).getD []))⟩
          let r := r.modCtx c (fun x => { x with stack := x.stack.drop 1 ++ [e], spill := x.spill + 1, rspill := x.rspill + 64 })
          (r.modRun c b.iid (fun b => { b with effs := b.effs ++ [⟨i, .access spilled⟩] }), .done none)

/-- A pop (R73): with nothing on chip, the entry at RSPILL − 64 is read back, as the run sees main (R64, R107). -/
def Run.pop (r : Run s0) (c : Nat) (b : BlockRun) (i : Nat) : Run s0 × Stacked :=
  let x := r.st.ctx c
  match x.stack.getLast? with
  | some e => (r.modCtx c (fun x => { x with stack := x.stack.dropLast }), .done (some e))
  | none =>
    if x.spill = 0 then (r, .fault 0x04 0x03 0)
    else if r.st.spillUnsettled c x b then (r, .wait)
    else
      let va := (x.rspill - 64).toNat
      let a := r.st.agent c
      match fireCheck r.st a .main va 64 true .load with
      | some (k, q) => (r, .fault k q va)
      | none =>
        match b.deniedAt i with
        | some (k, q) => (r, .fault k q va)
        | none =>
          if r.st.ownBars x b .main va 64 false then (r, .wait)
          else
            let (r, g) := r.readBytes a .main va 64 .r (overlayFor r.st a x b (SMap.get b.ancest 0 i))
            match g with
            | .bytes bs =>
              let e : StackEntry := ⟨BitVec.ofNat 64 (fieldAt bs 0 8), BitVec.ofNat 56 (fieldAt bs 8 8), nestOfWord (BitVec.ofNat 64 (fieldAt bs 16 8))⟩
              (r.modCtx c (fun x => { x with spill := x.spill - 1, rspill := x.rspill - 64 }), .done (some e))
            | .park v => (r.parkNode c b.iid i v kindRead, .wait)
            | .fault k q v => (r, .fault k q v)

/-- What an exit that has taken effect does with the tag it leaves. -/
abbrev Settle := {s0 : State} → Run s0 → Nat → BlockRun → Nat → BitVec 56 → NestRec → Run s0

/-- An exit: it fires, and names its successor once every `nest` and `unnest` of its run has fired (R63). -/
def exitNode (ins : Instr) (body : Fire → NodeOut) (settle : Settle) (s : State) : Host.Outcome State Fault Refusal :=
  let r := Run.start s
  let c := s.site.c
  let i := s.site.idx
  let ready : Bool := match (s.ctx c).run? s.site.iid with
    | some b => s.settles c b i
    | none => false
  let r := if ready then r else fireRun ins (fun r f => (r, body f)) r
  match (r.st.ctx c).run? s.site.iid with
  | none => .next r.st
  | some b =>
    if r.st.settles c b i then
      match tagAfter b with
      | .error _ => .next (r.namesNone c b.iid).st
      | .ok (n, w) => .next (settle r c b i n w).st
    else .next r.st

/-- A successor at an address, under the tag the run leaves. -/
def goTo (addr : Word64) : Settle := fun r c b i n w => r.names c b.iid i addr .other n w 0 [] none

/-- An exit that names the next sequential block goes on with its address (R33). It waits while the unit after its own block is not present; where that comes to a
fault, the block at that unit could not be fetched (R43, R48). -/
def withNext (go : Word64 → Settle) : Settle := fun r c b i n w =>
  match r.st.placedOf c b with
  | none => r
  | some p =>
    match p.next', b.deniedAt i with
    | none, some (k, q) =>
      let va := p.addr.toNat + codeLength p.words.length
      r.exitFault c b.iid i k q va (some (BitVec.ofNat 64 va))
    | _, _ =>
      let (r, g) := r.nextAfter c p
      match g with
      | .named v => go v r c b i n w
      | .park v => r.parkNode c b.iid i v kindFetch

/-- A call: a return entry for the next sequential block, then the successor (R72, R73). -/
def callTo (addr : Word64) : Settle := withNext (fun ret => fun r c b i n w =>
  let (r, o) := r.push c b i ⟨ret, n, w⟩
  match o with
  | .done _ => r.names c b.iid i addr .other n w 0 [] none
  | .wait => r
  | .fault k q v => r.exitFault c b.iid i k q v)

/-- The run at the site. -/
def State.siteRun (s : State) : Option BlockRun := (s.ctx s.site.c).run? s.site.iid

/-- `br` (R72). -/
def execBr (g : Gate) (off : BitVec 24) (s : State) : Host.Outcome State Fault Refusal :=
  exitNode (.br g off) (fun f => f.leave .br) (fun r c b i n w => goTo (branchTarget b off) r c b i n w) s

/-- `call` (R72, R73). -/
def execCall (g : Gate) (off : BitVec 24) (s : State) : Host.Outcome State Fault Refusal :=
  exitNode (.call g off) (fun f => f.leave .call) (fun r c b i n w => callTo (branchTarget b off) r c b i n w) s

/-- `brn` (R72, R33). -/
def execBrn (g : Gate) (s : State) : Host.Outcome State Fault Refusal :=
  exitNode (.brn g) (fun f => f.leave .brn) (withNext goTo) s

/-- The address in A of `bri` and `calli` (R72). -/
def indirect (f : Fire) (k : ExitKind) : NodeOut :=
  if f.a.word.toNat % 64 ≠ 0 then f.fault 0x07 0x00 f.a.word.toNat
  else if 2 ^ 56 ≤ f.a.word.toNat then f.fault 0x08 0x00 f.a.word.toNat
  else f.leave k

/-- The address that has arrived in slot A of an exit. -/
def addressOf (b : BlockRun) (i : Nat) : Word64 := ((b.tok? i .a).map Token.word).getD 0

/-- `bri` (R72). -/
def execBri (g : Gate) (s : State) : Host.Outcome State Fault Refusal :=
  exitNode (.bri g) (fun f => indirect f .bri) (fun r c b i n w => goTo (addressOf b i) r c b i n w) s

/-- `calli` (R72, R73). -/
def execCalli (g : Gate) (s : State) : Host.Outcome State Fault Refusal :=
  exitNode (.calli g) (fun f => indirect f .calli) (fun r c b i n w => callTo (addressOf b i) r c b i n w) s

/-- The decision latch holds a blockslot that the context has pinned (R84). -/
def Run.takeDecision (r : Run s0) (f : Fire) : Run s0 × NodeOut :=
  let x := r.st.ctx f.c
  if !x.isOldest f.b.iid then (r, .later)
  else
    match x.latch with
    | none => (r, .later)
    | some (k, j) =>
      if f.b.exit.isSome then (r, f.leave .brnDec)
      else
        match (r.st.core (f.c / 4)).placedAt k j with
        | some p =>
          if p.pin = some f.c then
            ((r.modCtx f.c (fun x => { x with latch := none })).modRun f.c f.b.iid (fun b => { b with undo := { b.undo with latch := some (k, j) } }), f.leave .brnDec)
          else (r, f.fault 0x04 0x07)
        | none => (r, f.fault 0x04 0x07)

/-- `brn.dec` (R84): it waits for the decision latch as the oldest run. -/
def execBrnDec (g : Gate) (s : State) : Host.Outcome State Fault Refusal :=
  let r := Run.start s
  let c := s.site.c
  let i := s.site.idx
  let ready : Bool := match s.siteRun with
    | some b => s.settles c b i
    | none => false
  let r := if ready then r else fireRun (.brnDec g) (fun r f => r.takeDecision f) r
  match (r.st.ctx c).run? s.site.iid with
  | none => .next r.st
  | some b =>
    if r.st.settles c b i then
      match tagAfter b with
      | .error _ => .next (r.namesNone c b.iid).st
      | .ok (n, w) =>
        let e : Nat × Nat := b.undo.latch.getD (0, 0)
        let addr := (((r.st.core (c / 4)).placedAt e.1 e.2).map (fun (p : Placed) => p.addr)).getD 0
        .next (r.names c b.iid i addr .other n w 0 [] (some e)).st
    else .next r.st

/-- The depth at which a `ret` is a handler return (R376). -/
def Ctx.atHandlerDepth (x : Ctx) : Bool := x.hndl && x.stack.length + x.spill == x.hDepth

/-- `ret` (R72, R73): the block of the popped return entry, under its tag; or the handler return (R376), which takes effect at the commit. -/
def execRet (g : Gate) (s : State) : Host.Outcome State Fault Refusal :=
  exitNode (.ret g) (fun f => f.leave .ret) (fun r c b i _ _ =>
    if (r.st.ctx c).atHandlerDepth then r.modRun c b.iid (fun b => { b with begun := true, exit := some (i, .handlerReturn) })
    else
      let (r, o) := r.pop c b i
      match o with
      | .done (some e) => r.names c b.iid i e.addr .ret e.nest e.widths 0 [] none
      | .done none => r
      | .wait => r
      | .fault k q v => r.exitFault c b.iid i k q v) s

/-- A token that `iter` passes to its next instance (R74). -/
def passed (t : Target) (tok : Option Token) : List Arrived :=
  match t, tok with
  | .slot sl i, some tok => [⟨i.toNat, sl, tok⟩]
  | _, _ => []

/-- `iter` (R74). Log 63, DEDUCED: iter's successor keeps its frame. -/
def execIter (g : Gate) (t0 t1 : Target) (s : State) : Host.Outcome State Fault Refusal :=
  exitNode (.iter g t0 t1) (fun f => f.leave .iter) (fun r c b i n w =>
    match incLevel n w with
    | .error q => r.exitFault c b.iid i 0x05 q 0
    | .ok n =>
      r.names c b.iid i b.addr .iter n w b.frame.toNat (passed t0 (b.tok? i .a) ++ passed t1 (b.tok? i .b)) (some (b.cfg, b.slot))) s

/-- `halt` (R75): the task ends at the commit. -/
def execHalt (g : Gate) (s : State) : Host.Outcome State Fault Refusal :=
  exitNode (.halt g) (fun f => f.leave .halt) (fun r c b _ _ _ => r.namesNone c b.iid) s

/-! ### Moving tokens (R76 to R79) -/

/-- `mov`: A unchanged. -/
def execMov (g : Gate) (t0 t1 : Target) (s : State) : Host.Outcome State Fault Refusal := fireNode (.mov g t0 t1) (fun f => NodeOut.of f.a) s

/-- `null`. -/
def execNull (g : Gate) (t0 t1 : Target) (s : State) : Host.Outcome State Fault Refusal :=
  fireNode (.null g t0 t1) (fun f => NodeOut.of (nullToken f.a.kind)) s

/-- `steer`: the polarity of G routes A. -/
def execSteer (t0 t1 : Target) (s : State) : Host.Outcome State Fault Refusal :=
  fireNode (.steer t0 t1) (fun f =>
    if f.g.polarity then { t0 := some f.a, t1 := some (nullToken f.a.kind) } else { t0 := some (nullToken f.a.kind), t1 := some f.a }) s

/-- `select`: A and B are of one kind. -/
def execSelect (t0 t1 : Target) (s : State) : Host.Outcome State Fault Refusal :=
  fireNode (.select t0 t1) (fun f =>
    if f.a.kind ≠ f.b'.kind then f.fault 0x04 0x05 else NodeOut.of (if f.g.polarity then f.a else f.b')) s

/-- The slot that a `merge` serves next (R77): A first in deterministic mode, else the one whose token came first. -/
def mergeSlot (b : BlockRun) (i : Nat) : Slot :=
  let seen := (b.counting i).seen
  let aLive := (b.tok? i .a).isSome && seen % 2 == 0
  let bLive := (b.tok? i .b).isSome && seen / 2 % 2 == 0
  if aLive && bLive then
    if b.det then .a
    else match b.toks.find? (fun e => e.idx == i) with
      | some e => e.slot
      | none => .a
  else if aLive then .a else .b

/-- `merge` (R77): fires once for each slot. -/
def execMerge (t0 t1 : Target) (s : State) : Host.Outcome State Fault Refusal :=
  let r := Run.start s
  let c := s.site.c
  let i := s.site.idx
  match s.siteRun with
  | none => .next r.st
  | some b =>
    let sh := shape (.merge t0 t1)
    if s.mayFire c (s.ctx c) b i sh then
      let sl := mergeSlot b i
      let t := (b.tok? i sl).getD noToken
      let k := b.counting i
      let k := { k with seen := k.seen + (if sl = .a then 1 else 2), nulls := k.nulls + (if t.n then 1 else 0) }
      let o : NodeOut := if !t.n || k.nulls == 2 then NodeOut.of t else {}
      .next (r.finish c b.iid i sh { o with keep := some k, done := k.seen == 3 }).st
    else .next r.st

/-- How a counting node combines an arrival with what it holds: the combined token and its flags, or the fault. -/
abbrev Combine := Option Token → Token → Except (Nat × Nat) (Token × FlagSet)

/-- A counting node (R78, R125): it fires once for each of its arrivals in slot A, and sends after the last. -/
def countNode (ins : Instr) (combine : Combine) (s : State) : Host.Outcome State Fault Refusal :=
  let r := Run.start s
  let c := s.site.c
  let i := s.site.idx
  match s.siteRun with
  | none => .next r.st
  | some b =>
    let sh : Shape := shape ins
    if s.mayFire c (s.ctx c) b i sh then
      let k := b.counting i
      let t := (b.at' i .a).getD k.seen noToken
      let f : Fire := { fireOf c (s.ctx c) b i sh with a := t }
      let last := k.seen + 1 == sh.count
      let send := fun (k : Counting) (fl : FlagSet) =>
        let o : NodeOut :=
          if !last then {}
          else match k.err with
            | some e => NodeOut.of (errorToken f.retKind e.word)
            | none => match k.held with
              | some h => NodeOut.of h
              | none => NodeOut.of (nullToken f.retKind)
        { o with keep := some { k with seen := k.seen + 1 }, done := last, flags := fl }
      let o : NodeOut :=
        if sh.gate ≠ .none ∧ f.g.kind ≠ .control then { f.fault 0x04 0x05 with keep := some { k with seen := k.seen + 1 }, done := last }
        else if f.mismatch then send { k with nulls := k.nulls + 1 } 0
        else if t.e || (sh.gate != .none && f.g.e) then send { k with err := some (k.err.getD (if t.e then t else f.g)) } 0
        else if t.n then send { k with nulls := k.nulls + 1 } 0
        else if !sh.a.contains t.kind then { f.fault 0x04 0x05 with keep := some { k with seen := k.seen + 1 }, done := last }
        else
          match combine k.held t with
          | .ok (h, fl) => send { k with held := some h } fl
          | .error (cls, code) => { f.fault cls code with keep := some { k with seen := k.seen + 1 }, done := last }
      .next (r.finish c b.iid i sh o).st
    else .next r.st

/-- `join` (R78): the AND of the polarities. -/
def execJoin (g : Gate) (n : BitVec 7) (t0 : Target) (s : State) : Host.Outcome State Fault Refusal :=
  countNode (.join g n t0) (fun h t => .ok (control ((h.map Token.polarity).getD true && t.polarity), 0)) s

/-- `join.or` (R78): their OR. -/
def execJoinOr (g : Gate) (n : BitVec 7) (t0 : Target) (s : State) : Host.Outcome State Fault Refusal :=
  countNode (.joinOr g n t0) (fun h t => .ok (control ((h.map Token.polarity).getD false || t.polarity), 0)) s

/-- `ctl`. -/
def execCtl (g : Gate) (t0 t1 : Target) (s : State) : Host.Outcome State Fault Refusal := fireNode (.ctl g t0 t1) (fun _ => NodeOut.of (control true)) s

/-- The polarity that `ctl.nz` finds (R79). -/
def nonzero (t : Token) : Bool :=
  match t.kind with
  | .scalar => t.word != 0
  | .vector => t.data != 0
  | .handle => true
  | .control => t.polarity

/-- `ctl.nz` (R79). -/
def execCtlNz (g : Gate) (t0 t1 : Target) (s : State) : Host.Outcome State Fault Refusal :=
  fireNode (.ctlNz g t0 t1) (fun f => NodeOut.of (control (nonzero f.a))) s

/-- `movi`. -/
def execMovi (g : Gate) (v : BitVec 10) (t0 : Target) (s : State) : Host.Outcome State Fault Refusal :=
  fireNode (.movi g v t0) (fun _ => NodeOut.of (scalar (v.signExtend 64))) s

/-- `lit`: an entry of the block's pool, or the space fault (R76). -/
def execLit (g : Gate) (j : BitVec 7) (t0 : Target) (s : State) : Host.Outcome State Fault Refusal :=
  fireNode (.lit g j t0) (fun f =>
    match ((s.placedOf f.c f.b).bind (·.pool)).bind (fun p => p[j.toNat]?) with
    | some v => NodeOut.of (scalar v)
    | none => f.fault 0x08 0x00) s

/-! ### Registers and tags (R80, R81) -/

/-- The operation whose completion a register holds is consumed by a read of it (R128). -/
def Ctx.tookFrom (x : Ctx) (n : Nat) : List Nat := if SMap.get x.gFrom 0 n = 0 then [] else [SMap.get x.gFrom 0 n - 1]

/-- `read`: it waits while gN is empty (R22). -/
def execRead (g : Gate) (n : BitVec 6) (t0 : Target) (s : State) : Host.Outcome State Fault Refusal :=
  fireNode (.read g n t0) (fun f => if f.x.isFull n.toNat then { NodeOut.of (scalar (f.x.reg n.toNat)) with took := f.x.tookFrom n.toNat } else .later) s

/-- `read.t`: an empty gN gives an E token (R22). -/
def execReadT (g : Gate) (n : BitVec 6) (t0 : Target) (s : State) : Host.Outcome State Fault Refusal :=
  fireNode (.readT g n t0) (fun f =>
    if f.x.isFull n.toNat then { NodeOut.of (scalar (f.x.reg n.toNat)) with took := f.x.tookFrom n.toNat }
    else NodeOut.of (errorToken .scalar (descriptor 0x0D 0x01 0))) s

/-- `write`: a register that a producer has pending is a conflict (R22). -/
def execWrite (g : Gate) (n : BitVec 6) (s : State) : Host.Outcome State Fault Refusal :=
  fireNode (.write g n) (fun f =>
    if f.x.isFull n.toNat then { effs := [.gwrite n f.a.word], outs := 1 } else f.fault 0x04 0x04) s

/-- `itag`. -/
def execItag (g : Gate) (l : BitVec 3) (t0 : Target) (s : State) : Host.Outcome State Fault Refusal :=
  fireNode (.itag g l t0) (fun f => NodeOut.of (scalar (BitVec.ofNat 64 (levelValue f.b.nest f.b.widths l.toNat)))) s

/-- A `nest` or `unnest` that fires last lets the exit of its run name its successor (R63); that is the exit's own next firing. -/
def execNest (g : Gate) (c : BitVec 3) (s : State) : Host.Outcome State Fault Refusal := fireNode (.nest g c) (fun _ => { effs := [.nest c] }) s

/-- `unnest`. -/
def execUnnest (g : Gate) (s : State) : Host.Outcome State Fault Refusal := fireNode (.unnest g) (fun _ => { effs := [.unnest] }) s

/-! ### Resident configurations and decisions (R82, R83) -/

/-- A blockslot that a `cfgld` may not take, or must wait for (R82). Log 123, DESIGN CHOICE: a slot that its own context has pinned and whose block has a live younger run is waited for. -/
def State.slotBars (s : State) (f : Fire) (k j : Nat) : Bool × Bool :=
  let own := (s.ctx f.c).older f.b.iid ++ [f.b]
  let bars := own.any (fun b => b.cfg == k && b.slot == j)
  match (s.core (f.c / 4)).placedAt k j with
  | none => (bars, false)
  | some p =>
    let other := match p.pin with
      | some d => d != f.c
      | none => false
    (bars || other, s.slotLive f.c k j)

/-- The blocks of a `cfgld` fetched and pinned one after the other. -/
def Run.pinBlocks (r : Run s0) (f : Fire) (k j : Nat) : Nat → Nat → Run s0 × NodeOut
  | 0, _ => (r, NodeOut.of (control true))
  | n + 1, va =>
    match f.b.denied.find? (fun d => d.1 == f.idx) with
    | some d => (r, NodeOut.of (errorToken .control (descriptor d.2.1 d.2.2 0)))
    | none =>
      let (r, g) := r.fetchBlock (r.st.agent f.c) va
      match g with
      | .park v => (r.parkNode f.c f.b.iid f.idx v kindFetch, .later)
      | .fault c q _ => (r, NodeOut.of (errorToken .control (descriptor c q 0)))
      | .ok b =>
        match b.bad with
        | some (_, c, q) => (r, NodeOut.of (errorToken .control (descriptor c q 0)))
        | none =>
          let p := b.placed k j (BitVec.ofNat 64 va) (r.st.ctx f.c).grp (some f.c) f.b.iid
          let r := r.place f.c p
          if n = 0 then r.pinBlocks f k (j + 1) n va
          else
            let (r, g) := r.nextAfter f.c p
            match g with
            | .named v => r.pinBlocks f k (j + 1) n v.toNat
            | .park v => (r.parkNode f.c f.b.iid f.idx v kindFetch, .later)

/-- `cfgld` (R82). Log 21, DEDUCED: cfgld on a misaligned address raises the alignment fault. -/
def execCfgld (g : Gate) (t0 : Target) (s : State) : Host.Outcome State Fault Refusal :=
  fireWith (.cfgld g t0) (fun r f =>
    let b := f.b'.word.toNat
    let k := b % 4
    let j := b / 4 % 16
    let n := b / 64 % 16 + 1
    let slots := (List.range n).map (fun i => r.st.slotBars f k (j + i))
    if 16 < j + n ∨ 1024 ≤ b then (r, f.fault 0x08 0x00)
    else if f.a.word.toNat % 64 ≠ 0 then (r, f.fault 0x07 0x00 f.a.word.toNat)
    else if slots.any (·.1) then (r, f.fault 0x08 0x00)
    else if slots.any (·.2) then (r, .later)
    else r.pinBlocks f k j n f.a.word.toNat) s

/-- `decide` (R83): the choice goes to the issuing context's own latch at the commit. A region of count 0 names it. -/
def execDecide (g : Gate) (t0 t1 : Target) (s : State) : Host.Outcome State Fault Refusal :=
  fireNode (.decide g t0 t1) (fun f =>
    let a := f.a.word.toNat
    if 64 ≤ a then f.fault 0x08 0x00
    else { NodeOut.of (control true) with effs := [.decide (a % 4) (a / 4 % 16) 0 0] }) s

/-- `decide.rgn` (R83): the choice goes to a range of team ranks. -/
def execDecideRgn (g : Gate) (t0 t1 : Target) (s : State) : Host.Outcome State Fault Refusal :=
  fireNode (.decideRgn g t0 t1) (fun f =>
    let a := f.a.word.toNat
    let b := f.b'.word.toNat
    let first := b % 256
    let n := b / 256 % 256 + 1
    if 64 ≤ a ∨ 65536 ≤ b ∨ f.x.tsize < first + n then f.fault 0x08 0x00
    else { NodeOut.of (control true) with effs := [.decide (a % 4) (a / 4 % 16) first n] }) s

end Sys2Proof.Machine
end

