-- ==== Sys2Proof/Machine/Memory.lean ====
section
/-! DEFINITION. Loads, stores, unaligned accesses and granules (R42, R105 to R118). -/

namespace Sys2Proof.Machine

open Sys2Proof

variable {s0 : State}

/-- The effective address (R42). -/
def effective (f : Fire) (wd : MWidth) (off : BitVec 7) : Word64 := f.a.word + off.signExtend 64 * BitVec.ofNat 64 wd.bytes

/-- The token of loaded bytes (R112): zero-extended, or sign-extended from the top loaded bit. -/
def loaded (wd : MWidth) (signed s : Bool) (bs : List Byte) : Token :=
  match widthKind wd with
  | .vector => vector (BitVec.ofNat 512 (leNat bs)) s
  | _ => scalar (if signed then BitVec.ofInt 64 (signedOf (8 * wd.bytes) (leNat bs)) else BitVec.ofNat 64 (leNat bs)) s

/-- The error token of a load (R105, R113). -/
def loadError (wd : MWidth) (cls code : Nat) : NodeOut := NodeOut.of (errorToken (widthKind wd) (descriptor cls code 0))

/-- What the accesses of node `i` see of their own context's buffered writes: those of older runs, and those of its run on which it depends (R107, R108). -/
def State.seenBy (s : State) (c : Nat) (b : BlockRun) (i : Nat) : Overlay := overlayFor s (s.agent c) (s.ctx c) b (SMap.get b.ancest 0 i)

/-- The operations whose completions a load of these bytes consumes (R128, R183). -/
def State.toldIn (s : State) (a : Agent) (sp : Space) (ea n : Nat) : List Nat := if sp.granular then ((s.keyOf a sp ea).map (fun k => s.toldAt k n)).getD [] else []

/-- The failure of a page that an access of the node waited for (R317, R318). -/
def Fire.deniedHere (f : Fire) : Option (Nat × Nat) := f.b.deniedAt f.idx

/-- A plain load performed as it fires, one aligned access (R106, R107). -/
def Run.plainLoad (r : Run s0) (f : Fire) (sp : Space) (wd : MWidth) (ea : Nat) (conv : List Byte → Token) : Run s0 × NodeOut :=
  let a := r.st.agent f.c
  match fireCheck r.st a sp ea wd.bytes true .load, f.deniedHere with
  | some (c, q), _ | none, some (c, q) => (r, loadError wd c q)
  | none, none =>
    if r.st.ownBars (r.st.ctx f.c) f.b sp ea wd.bytes false then (r, .later)
    else
      let (r, g) := r.readPiece a sp ea wd.bytes .r (r.st.seenBy f.c f.b f.idx)
      match g with
      | .bytes bs => (r, { NodeOut.of (conv bs) with took := r.st.toldIn a sp ea wd.bytes })
      | .park v => (r.parkNode f.c f.b.iid f.idx v kindRead, .later)
      | .fault c q _ => (r, loadError wd c q)

/-- An unaligned load (R114): each of its pieces is an event of its own, checked as it is read, and the last one delivers the result. -/
def Run.pieceLoad (r : Run s0) (f : Fire) (sp : Space) (wd : MWidth) (ea : Nat) (conv : List Byte → Token) : Run s0 × NodeOut :=
  let a := r.st.agent f.c
  let got := SMap.get f.b.partly [] f.idx
  match (pieces ea wd.bytes).find? (fun p => p.1 == ea + got.length) with
  | none => (r, NodeOut.of (conv got))
  | some p =>
    match fireCheck r.st a sp p.1 p.2 false .load, f.deniedHere with
    | some (c, q), _ | none, some (c, q) => (r, loadError wd c q)
    | none, none =>
      if r.st.ownBars (r.st.ctx f.c) f.b sp p.1 p.2 false then (r, .later)
      else
        let (r, g) := r.readPiece a sp p.1 p.2 .r (r.st.seenBy f.c f.b f.idx)
        match g with
        | .bytes bs =>
          let got := got ++ bs
          if wd.bytes ≤ got.length then (r, { NodeOut.of (conv got) with took := r.st.toldIn a sp ea wd.bytes })
          else (r.modRun f.c f.b.iid (fun b => { b with partly := SMap.set b.partly [] f.idx got, denied := b.denied.filter (fun d => d.1 != f.idx) }), .later)
        | .park v => (r.parkNode f.c f.b.iid f.idx v kindRead, .later)
        | .fault c q _ => (r, loadError wd c q)

/-- The reader that a waiting load has enqueued. -/
def State.readerOf (s : State) (f : Fire) : Option Reader :=
  s.readers.find? (fun e => e.c == f.c && e.iid == f.b.iid && e.idx == f.idx && !e.drive)

/-- The run without that reader. -/
def Run.dropReader (r : Run s0) (f : Fire) : Run s0 :=
  r.put (.readers (r.st.readers.filter (fun e => !(e.c == f.c && e.iid == f.b.iid && e.idx == f.idx && !e.drive))))

/-- The granules that the fills of its own run, on which a node depends, make full before it (R108, R115). -/
def State.filledBefore (s : State) (f : Fire) (sp : Space) : List Nat :=
  (accessesOf (f.b.ordered.filter (fun e => (SMap.get f.b.ancest 0 f.idx).getLsbD e.idx))).flatMap (fun acc =>
    if acc.op = .fill ∧ acc.sp = sp then ((s.keyOf (s.agent f.c) sp acc.ea.toNat).map (fun k => granules k acc.wd.bytes)).getD [] else [])

/-- A `.wait` or `.take` load (R115, R116): it reads full granules, or enqueues on the lowest empty one and delivers what a fill answers. A buffered store of its own run
on which it depends comes first (R108). -/
def Run.waitingLoad (r : Run s0) (f : Fire) (sp : Space) (wd : MWidth) (ea : Nat) (take : Bool) : Run s0 × NodeOut :=
  let conv := loaded wd false true
  let ov := r.st.seenBy f.c f.b f.idx
  match r.st.readerOf f with
  | some e =>
    match e.answer with
    | some bs =>
      if e.bad ≠ (0, 0) then (r.dropReader f, loadError wd e.bad.1 e.bad.2)
      else (r.dropReader f, { NodeOut.of (conv (throughOverlay ov e.key bs)) with took := r.st.toldAt e.key e.n })
    | none => if e.failed then (r.dropReader f, loadError wd 0x11 0x04) else (r, .later)
  | none =>
    let a := r.st.agent f.c
    match fireCheck r.st a sp ea wd.bytes true .waiting with
    | some (c, q) => (r, loadError wd c q)
    | none =>
      if r.st.ownBars (r.st.ctx f.c) f.b sp ea wd.bytes true then (r, .later)
      else
        let (r, l) := r.locate a sp ea .r
        match l with
        | .key k =>
          let gs := granules k wd.bytes
          match r.st.firstEmpty (gs.filter (fun g => !(r.st.filledBefore f sp).contains g)) with
          | none =>
            match r.st.poisonAt k wd.bytes with
            | some (c, q) => (r, loadError wd c q)
            | none =>
              let bs := seenBytes r.st ov k wd.bytes
              (if take then r.mark gs false else r, { NodeOut.of (conv bs) with took := r.st.toldAt k wd.bytes })
          | some g =>
            if poolSize k ≤ (r.st.readers.filter (fun e => storeOf e.key == storeOf k && e.answer.isNone && !e.failed)).length then
              (r, loadError wd 0x0C 0x00)
            else
              (r.put (.readers (r.st.readers ++ [⟨g, k, wd.bytes, f.c, f.b.iid, f.idx, take, r.st.clk, false, none, false, (0, 0)⟩])), .later)
        | .fault c q => (r, loadError wd c q)
        | _ => (r, .later)

/-- `ld` (R112). -/
def execLd (sp : Space) (wd : MWidth) (g : Gate) (off : BitVec 7) (t0 : Target) (s : State) : Host.Outcome State Fault Refusal :=
  fireWith (.ld sp wd g off t0) (fun r f => r.plainLoad f sp wd (effective f wd off).toNat (loaded wd false true)) s

/-- `ld` with `.wait` (R115, R116). -/
def execLdWait (sp : Space) (wd : MWidth) (g : Gate) (off : BitVec 7) (t0 : Target) (s : State) : Host.Outcome State Fault Refusal :=
  fireWith (.ldWait sp wd g off t0) (fun r f => r.waitingLoad f sp wd (effective f wd off).toNat false) s

/-- `ld` with `.take` (R109, R115, R116). -/
def execLdTake (sp : Space) (wd : MWidth) (g : Gate) (off : BitVec 7) (t0 : Target) (s : State) : Host.Outcome State Fault Refusal :=
  fireWith (.ldTake sp wd g off t0) (fun r f => r.waitingLoad f sp wd (effective f wd off).toNat true) s

/-- A load of `lds` or `ld.raw` with its full/empty qualifier (R41, R112). -/
def Run.qualifiedLoad (r : Run s0) (f : Fire) (sp : Space) (wd : MWidth) (fe : BitVec 2) (ea : Nat) (conv : List Byte → Token) : Run s0 × NodeOut :=
  if fe = 0 then r.plainLoad f sp wd ea conv
  else
    let (r, o) := r.waitingLoad f sp wd ea (fe == 2)
    let again := fun (t : Option Token) => t.map (fun t => if t.e then t else conv (leBytes wd.bytes t.data.toNat))
    (r, { o with t0 := again o.t0, t1 := again o.t1 })

/-- `lds` (R112). -/
def execLds (sp : Space) (wd : MWidth) (fe : BitVec 2) (g : Gate) (off : BitVec 7) (t0 : Target) (s : State) : Host.Outcome State Fault Refusal :=
  fireWith (.lds sp wd fe g off t0) (fun r f => r.qualifiedLoad f sp wd fe (effective f wd off).toNat (loaded wd true true)) s

/-- `ld.raw` (R112): S = 0. -/
def execLdRaw (sp : Space) (wd : MWidth) (fe : BitVec 2) (g : Gate) (off : BitVec 7) (t0 : Target) (s : State) : Host.Outcome State Fault Refusal :=
  fireWith (.ldRaw sp wd fe g off t0) (fun r f => r.qualifiedLoad f sp wd fe (effective f wd off).toNat (loaded wd false false)) s

/-- The load form of `wcv` (R114). -/
def execWcvLoad (sp : Space) (wd : MWidth) (g : Gate) (off : BitVec 7) (t0 : Target) (s : State) : Host.Outcome State Fault Refusal :=
  fireWith (.wcvLoad sp wd g off t0) (fun r f => r.pieceLoad f sp wd (effective f wd off).toNat (loaded wd false true)) s

/-- A buffered access that has passed the checks made at firing (R105, R108); its control token starts a chain. -/
def Fire.buffer (s : State) (f : Fire) (op : MemOp) (d : Doing) (sp : Space) (wd : MWidth) (ea : Word64) : NodeOut :=
  match fireCheck s (s.agent f.c) sp ea.toNat wd.bytes true d with
  | some (c, q) => f.fault c q ea.toNat
  | none => { NodeOut.of (control true) with effs := [.access ⟨op, sp, wd, ea, f.b'.data⟩], outs := 1 }

/-- `st` (R112). -/
def execSt (sp : Space) (wd : MWidth) (g : Gate) (off : BitVec 7) (t0 : Target) (s : State) : Host.Outcome State Fault Refusal :=
  fireNode (.st sp wd g off t0) (fun f => Fire.buffer s f .store .store sp wd (effective f wd off)) s

/-- `fill` (R115). -/
def execFill (sp : Space) (wd : MWidth) (g : Gate) (off : BitVec 7) (t0 : Target) (s : State) : Host.Outcome State Fault Refusal :=
  fireNode (.fill sp wd g off t0) (fun f => Fire.buffer s f .fill .granule sp wd (effective f wd off)) s

/-- `empty` (R115). -/
def execEmpty (sp : Space) (wd : MWidth) (g : Gate) (off : BitVec 7) (t0 : Target) (s : State) : Host.Outcome State Fault Refusal :=
  fireNode (.empty sp wd g off t0) (fun f => Fire.buffer s f .empty .granule sp wd (effective f wd off)) s

/-- The store form of `wcv` (R114). -/
def execWcvStore (sp : Space) (wd : MWidth) (g : Gate) (off : BitVec 7) (s : State) : Host.Outcome State Fault Refusal :=
  fireNode (.wcvStore sp wd g off) (fun f =>
    let ea := effective f wd off
    match (pieces ea.toNat wd.bytes).findSome? (fun p => (fireCheck s (s.agent f.c) sp p.1 p.2 false .store).map (fun e => (e, p.1))) with
    | some ((c, q), va) => f.fault c q va
    | none => { effs := [.access ⟨.wcv, sp, wd, ea, f.b'.data⟩], outs := 1 }) s

end Sys2Proof.Machine
end

