-- ==== Sys2Proof/Machine/Atomic.lean ====
section
/-! DEFINITION. Atomics and `cas` (R109, R119 to R124). -/

namespace Sys2Proof.Machine

open Sys2Proof

variable {s0 : State}

/-- The old value as a token (R120): a scalar, or the 64-byte cell. -/
def oldToken (wd : MWidth) (old : Nat) : Token := if wd = .v512 then vector (BitVec.ofNat 512 old) false else scalar (BitVec.ofNat 64 old)

/-- An earlier committed write of the context to the same bytes has not been performed (R111). -/
def State.ownPending (s : State) (x : Ctx) (sp : Space) (ea n : Nat) : Bool :=
  let (sp, ea) := homeSpace s sp ea
  x.pend.any (fun p => match p.eff with
    | .access acc | .append acc =>
      let (sp', ea') := homeSpace s acc.sp acc.ea.toNat
      sp' == sp && touches false ea n ea' acc.wd.bytes
    | _ => false)

/-- A returning atomic performed as it fires, in the oldest run (R109): the old value, the new one written as one event, the flags. `new` gives the new value and
the flags. A page with S = 1 is written in its turn at the home unit of its frame (R330, R331). Log 124, DESIGN CHOICE: a returning atomic and a `.take` are performed
before the stores of their own run. Log 16, DESIGN CHOICE: an atomic on poisoned bytes uses the stored bits. -/
def Run.atomicNow (r : Run s0) (f : Fire) (sp : Space) (wd : MWidth) (new : Nat → Nat × FlagSet) : Run s0 × NodeOut :=
  let ea := f.a.word.toNat
  let a := r.st.agent f.c
  let apply := fun (r : Run s0) (k : Nat) =>
    let old := r.st.num k wd.bytes
    let (v, fl) := new old
    ((r.write k (leBytes wd.bytes v)).wroteLines a sp ea k wd.bytes, { NodeOut.of (oldToken wd old) fl with outs := 1 })
  match fireCheck r.st a sp ea wd.bytes true .atomic with
  | some (c, q) => (r, f.fault c q ea)
  | none =>
    match f.deniedHere with
    | some (c, q) => (r, f.fault c q ea)
    | none =>
      if r.st.ownPending (r.st.ctx f.c) sp ea wd.bytes then (r, .later)
      else if sp = .main ∧ r.st.splits a ea = true ∧ r.st.framesBefore f.c (r.st.ctx f.c).seq f.idx = true then (r, .later)
      else
        let (r, l) := r.locate a sp ea .rw
        match l with
        | .key k => apply (r.leaveHome (.node f.c f.b.iid f.idx)) k
        | .shared k va =>
          let w : Waiter := .node f.c f.b.iid f.idx
          if r.st.homeQueued w then
            match (r.leaveHome w).ownFrame a va (k - mainKey 0) with
            | some (r, pa) => apply r (mainKey pa)
            | none => (r.leaveHome w, f.fault 0x08 0x02 va)
          else (r.put (.home (r.st.home ++ [⟨(k - mainKey 0) / 4096, f.c, f.x.rank, keyOf f.b.nest f.b.frame, f.idx, w, false⟩])), .later)
        | .pool _ => (r, f.fault 0x09 0x02 ea)
        | .park => ((r.leaveHome (.node f.c f.b.iid f.idx)).parkNode f.c f.b.iid f.idx ea (kindRead ||| kindWrite), .later)
        | .fault c q => (r.leaveHome (.node f.c f.b.iid f.idx), f.fault c q ea)

/-- An atomic: returning when it names a target, else buffered (R108, R109). -/
def atomNode (ins : Instr) (op : AtomOp) (sp : Space) (wd : MWidth) (t0 : Target) (s : State) : Host.Outcome State Fault Refusal :=
  fireWith ins (fun r f =>
    if t0 = .none then (r, { Fire.buffer r.st f (.atom op) .atomic sp wd f.a.word with t0 := none, t1 := none })
    else r.atomicNow f sp wd (fun old => atomNew op wd old f.b'.data)) s

/-- `atom` (R119, R120). -/
def execAtomAdd (sp : Space) (wd : MWidth) (g : Gate) (t0 : Target) (s : State) : Host.Outcome State Fault Refusal :=
  atomNode (.atomAdd sp wd g t0) .add sp wd t0 s

/-- `atom` (R119, R120). -/
def execAtomEsum (sp : Space) (wd : MWidth) (g : Gate) (t0 : Target) (s : State) : Host.Outcome State Fault Refusal :=
  atomNode (.atomEsum sp wd g t0) .esum sp wd t0 s

/-- `atom` (R119, R120). -/
def execAtomAnd (sp : Space) (wd : MWidth) (g : Gate) (t0 : Target) (s : State) : Host.Outcome State Fault Refusal :=
  atomNode (.atomAnd sp wd g t0) .and sp wd t0 s

/-- `atom` (R119, R120). -/
def execAtomOr (sp : Space) (wd : MWidth) (g : Gate) (t0 : Target) (s : State) : Host.Outcome State Fault Refusal :=
  atomNode (.atomOr sp wd g t0) .or sp wd t0 s

/-- `atom` (R119, R120). -/
def execAtomXor (sp : Space) (wd : MWidth) (g : Gate) (t0 : Target) (s : State) : Host.Outcome State Fault Refusal :=
  atomNode (.atomXor sp wd g t0) .xor sp wd t0 s

/-- `atom` (R119, R120). -/
def execAtomMin (sp : Space) (wd : MWidth) (g : Gate) (t0 : Target) (s : State) : Host.Outcome State Fault Refusal :=
  atomNode (.atomMin sp wd g t0) .min sp wd t0 s

/-- `atom` (R119, R120). -/
def execAtomMax (sp : Space) (wd : MWidth) (g : Gate) (t0 : Target) (s : State) : Host.Outcome State Fault Refusal :=
  atomNode (.atomMax sp wd g t0) .max sp wd t0 s

/-- `atom` (R119, R120). -/
def execAtomMinn (sp : Space) (wd : MWidth) (g : Gate) (t0 : Target) (s : State) : Host.Outcome State Fault Refusal :=
  atomNode (.atomMinn sp wd g t0) .minn sp wd t0 s

/-- `atom` (R119, R120). -/
def execAtomMaxn (sp : Space) (wd : MWidth) (g : Gate) (t0 : Target) (s : State) : Host.Outcome State Fault Refusal :=
  atomNode (.atomMaxn sp wd g t0) .maxn sp wd t0 s

/-- `atom` (R119, R120). -/
def execAtomFmin (sp : Space) (wd : MWidth) (g : Gate) (t0 : Target) (s : State) : Host.Outcome State Fault Refusal :=
  atomNode (.atomFmin sp wd g t0) .fmin sp wd t0 s

/-- `atom` (R119, R120). -/
def execAtomFmax (sp : Space) (wd : MWidth) (g : Gate) (t0 : Target) (s : State) : Host.Outcome State Fault Refusal :=
  atomNode (.atomFmax sp wd g t0) .fmax sp wd t0 s

/-- `atom` (R119, R120). -/
def execAtomSwap (sp : Space) (wd : MWidth) (g : Gate) (t0 : Target) (s : State) : Host.Outcome State Fault Refusal :=
  atomNode (.atomSwap sp wd g t0) .swap sp wd t0 s

/-- `cas` (R123). -/
def execCas (sp : Space) (wd : MWidth) (g : Gate) (t0 : Target) (s : State) : Host.Outcome State Fault Refusal :=
  fireWith (.cas sp wd g t0) (fun r f =>
    if t0 = .none then (r, { Fire.buffer r.st f .cas .atomic sp wd f.a.word with t0 := none, t1 := none })
    else r.atomicNow f sp wd (fun old => (casNew wd old f.b'.data, 0))) s

end Sys2Proof.Machine
end

