-- ==== Sys2Proof/Machine/Engine.lean ====
section
/-! DEFINITION. Engine operations (R180 to R186): their issue with a copy of every shape record and descriptor they name, their accesses, their completions and their
faults. -/

namespace Sys2Proof.Machine

open Sys2Proof

variable {s0 : State}

/-! ### Shape records (R24) -/

/-- A field of a shape record. -/
def shField (w : BitVec 256) (lo n : Nat) : Nat := bitsOf w.toNat lo n

def shBase (w : BitVec 256) : Nat := shField w 0 56
def shFmt (w : BitVec 256) : Nat := shField w 56 5
def shSpace (w : BitVec 256) : Nat := shField w 61 3
def shPlaneStride (w : BitVec 256) : Int := signedOf 32 (shField w 64 32)
def shRowStride (w : BitVec 256) : Int := signedOf 32 (shField w 96 32)
/-- BLOCKS and PLANES read 0 as 1. -/
def shBlocks (w : BitVec 256) : Nat := max 1 (shField w 128 16)
def shPlanes (w : BitVec 256) : Nat := max 1 (shField w 144 16)
def shCols (w : BitVec 256) : Nat := shField w 160 16
def shRows (w : BitVec 256) : Nat := shField w 176 16
def shBlockStride (w : BitVec 256) : Int := signedOf 32 (shField w 192 32)

/-- An address displaced by a signed number of bytes, modulo 2^64. -/
def displace (base : Nat) (d : Int) : Nat := (((base : Int) + d) % (2 ^ 64 : Nat)).toNat

/-- The address of row (block, plane, row) of a shape (R24). -/
def shRowAt (w : BitVec 256) (block plane row : Nat) : Nat :=
  displace (shBase w) (block * shBlockStride w + plane * shPlaneStride w + row * shRowStride w)

/-- Bits of an element of a format code (R137); `none` for a code that no record may use. CB4 has no element size. -/
def fmtBits (c : Nat) : Option Nat :=
  match c with
  | 1 => some 32
  | 2 | 3 => some 16
  | 4 | 5 | 6 => some 8
  | 7 => some 4
  | 8 => some 0
  | 9 => some 512
  | 16 | 20 => some 8
  | 17 | 21 => some 16
  | 18 | 22 => some 32
  | 19 | 23 => some 64
  | _ => none

/-- The space of an SP code (R40). -/
def spaceCode (c : Nat) : Option Space := spaceOf (BitVec.ofNat 3 c)

/-- A shape operand (R181): a handle carries its record, a scalar names one. -/
def shapeOperand (k : Core) (t : Payload) (kind : Kind) : Except (Nat × Nat) (BitVec 256) :=
  match kind with
  | .handle =>
    let w : BitVec 256 := t.setWidth 256
    if t.toNat / 2 ^ 256 ≠ 0 ∨ shSpace w ≠ 0 ∨ (fmtBits (shFmt w)).isNone then .error (0x08, 0x00) else .ok w
  | _ =>
    if 16 ≤ t.toNat % 2 ^ 64 then .error (0x08, 0x00)
    else
      let w := SMap.get k.td 0 (t.toNat % 16)
      if (fmtBits (shFmt w)).isNone then .error (0x08, 0x00) else .ok w

/-! ### Commands -/

/-- Bytes of the descriptor that slot A of a command addresses. -/
def descLength : CmdKind → Nat
  | .copy | .copyMc | .xform | .gather _ | .scatter _ | .attn | .semb _ _ => 128
  | .dedup => 64
  | _ => 0

/-- The completion words of a descriptor, each with its WHICH (R183, R184). -/
def completionWords (k : CmdKind) (d : List Byte) : List (Nat × Word64) :=
  let w := fun (off : Nat) => BitVec.ofNat 64 (fieldAt d off 8)
  match k with
  | .copy | .copyMc | .xform => [(1, w 64), (2, w 72)]
  | .gather _ | .scatter _ | .attn => [(0, w 64)]
  | .dedup => [(0, w 32)]
  | _ => []

/-- DK of a completion word. -/
def dkOf (w : Word64) : Nat := w.toNat / 2 ^ 62

/-- The g register that a completion word fills. -/
def fillsReg (w : Word64) : Option Nat := if dkOf w = 1 ∧ bitsOf w.toNat 6 56 = 0 then some (w.toNat % 64) else none

/-- The copy of a descriptor at issue, through the writes of older runs and those the command depends on (R182), or the failing check; its alignment comes
before its space, as in every check of an engine's access (log 30). -/
def descCopy (s : State) (c : Nat) (b : BlockRun) (i : Nat) (va n : Nat) : Except (Nat × Nat) (List Byte) :=
  if n = 0 then .ok []
  else if va % 64 ≠ 0 then .error (0x07, 0x00)
  else if coreLimit < va + n then .error (0x08, 0x00)
  else
    let a := s.agent c
    match s.poisonAt (coreKey a.core va) n with
    | some e => .error e
    | none => .ok (seenBytes s (overlayFor s a (s.ctx c) b (SMap.get b.ancest 0 i)) (coreKey a.core va) n)

/-- The shape operands of a command, in slot order. -/
def shapesOf (k : Core) (cmd : Cmd) : Except (Nat × Nat) (List (BitVec 256)) :=
  match cmd.kind with
  | .mma _ _ | .mmaCb _ => do return [← shapeOperand k cmd.a cmd.aK, ← shapeOperand k cmd.b cmd.bK]
  | .mmaG _ _ => do return [← shapeOperand k cmd.a cmd.aK, ← shapeOperand k cmd.b cmd.bK, ← shapeOperand k cmd.g .handle]
  | .accrdSt _ | .accwr _ => do return [← shapeOperand k cmd.a cmd.aK]
  | .semb _ true => do return [← shapeOperand k (cmd.b &&& 15) .scalar]
  | _ => .ok []

/-- The accumulator a command names (R187, R194). -/
def accOf : CmdKind → Option Nat
  | .mma a _ | .mmaG a _ | .mmaCb a | .accclr a | .accrd a | .accrdSt a | .accwr a => some a.toNat
  | _ => none

/-! ### Records, faults -/

/-- The operand record of an operation (R182, R371). -/
def EngOp.operandRecord (o : EngOp) : List Byte := o.shapes.flatMap (fun w => leBytes 32 w.toNat) ++ o.desc.take 128

/-- A deferred engine fault's record (R186, R370). Log 57, DEDUCED: which records have MAP and shard-map bytes. -/
def EngOp.faultRec (o : EngOp) (cls code vaddr : Nat) : FaultRec :=
  { FaultRec.of 0x0E code with
    icls := cls
    icode := code
    idx := o.idx
    rflags := rfEngine
    blk := o.blk
    tag := o.tag
    ticket := o.ticket
    vaddr := vaddr
    oprec := o.operandRecord }

/-- The issuing context still runs the task of the operation. -/
def State.ownerLives (s : State) (o : EngOp) : Bool :=
  let x := s.ctx o.c
  decide (o.c < 640) && x.mode != .free && x.launch == o.launch && x.node == o.node

/-- A fault of an operation reaches its context, or, for a node of the graph or a task that is gone, fails the node (R368, R377). -/
def Run.opFault (r : Run s0) (o : EngOp) (f : FaultRec) : Run s0 :=
  if r.st.ownerLives o then r.raiseAsync o.c f else r.failNode o.launch o.node f.icls f.icode

/-! ### Issue -/

/-- The registers that a command's completions fill are marked empty (R22); a register that a producer already holds keeps it, and the fault says so. -/
def Run.claimRegs (r : Run s0) (o : EngOp) (ws : List Word64) : Run s0 :=
  ws.foldl (fun r w =>
    match fillsReg w with
    | none => r
    | some n =>
      if (r.st.ctx o.c).isFull n then r.modCtx o.c (fun x => x.emptyReg n o.id)
      else r.opFault o (o.faultRec 0x04 0x04 0)) r

/-- An operation enters the queue of a physical accumulator (R193). -/
def Run.enqueue (r : Run s0) (core phys : Nat) (q : AccOp) : Run s0 :=
  r.modCore core (fun k => { k with queues := SMap.set k.queues [] phys (SMap.get k.queues [] phys ++ [q]) })

/-- The logical accumulators that a request block names, ascending (R240). -/
def accSetOf (d : List Byte) : List Nat := (List.range 4).filter (fun a => (fieldAt d 11 1).testBit a)

/-- A command issued: it takes the next ticket and a copy of what it names. A failing check is found when the operation runs. -/
def Run.issue (r : Run s0) (c : Nat) (b : BlockRun) (i : Nat) (cmd : Cmd) (waited : Bool) (t0 t1 : Target) : Run s0 :=
  let r := r.put .named
  let s := r.st
  let x := s.ctx c
  let shapes := shapesOf (s.core (c / 4)) cmd
  let desc := descCopy s c b i (cmd.a.toNat % 2 ^ 64) (descLength cmd.kind)
  let bad : Option (Nat × Nat) := match desc, shapes with
    | .error e, _ => some e
    | _, .error e => some e
    | _, _ => match accOf cmd.kind with
      | some a => if x.granted a then none else some (0x08, 0x00)
      | none => none
  let d := (desc.toOption).getD []
  let o : EngOp := {
    id := s.uid
    ticket := x.ticket.toNat
    c := c
    core := c / 4
    launch := x.launch
    node := x.node
    part := x.part
    grp := x.grp
    rank := x.rank
    iid := b.iid
    seq := x.seq
    blk := b.addr
    tag := b.tag
    widths := b.widths
    idx := i
    nodeNo := nodeNumber b.cfg b.slot i
    ancest := SMap.get b.ancest 0 i
    after := (x.consumed ++ b.took).eraseDups
    cmd := cmd
    waited := waited
    t0 := t0
    t1 := t1
    shapes := (shapes.toOption).getD []
    desc := d
    phase := 0
    row := 0
    drops := 0
    failmap := 0
    parked := false
    denied := bad
    attn := none
    data := []
    wrote := 0
    sent := 0
    failed := none
    at' := 0
    grant := x.accmap }
  let r := r.modCtx c (fun x => { x with ticket := x.ticket + 1 })
  let r := r.put (.ops (r.st.ops ++ [o]))
  let r := match accOf cmd.kind with
    | some a => if x.granted a then r.enqueue (c / 4) (x.physical a) (.engine o.id) else r
    | none => r
  let r := match cmd.kind with
    | .attn => (accSetOf d).foldl (fun r a => if x.granted a then r.enqueue (c / 4) (x.physical a) (.attention o.id) else r) r
    | _ => r
  if waited then r else r.claimRegs o ((completionWords cmd.kind d).map Prod.snd)

/-- The command of a node that fires. -/
def Fire.cmd (f : Fire) (k : CmdKind) : Cmd := ⟨k, f.a.data, f.a.kind, f.b'.data, f.b'.kind, f.g.data⟩

/-- An engine command (R180): posted, it is buffered and counts as an output now; waited, it is issued now and counts when its tokens are delivered. -/
def Run.command (r : Run s0) (f : Fire) (k : CmdKind) : Run s0 × NodeOut :=
  if f.sh.t0 = .none then (r, { effs := [.cmd (f.cmd k)], outs := f.sh.outs })
  else (r.issue f.c f.b f.idx (f.cmd k) true f.sh.t0 f.sh.t1, {})

/-- The meaning of an engine command. -/
def commandNode (ins : Instr) (k : CmdKind) (s : State) : Host.Outcome State Fault Refusal := fireWith ins (fun r f => r.command f k) s

/-! ### An operation's record in the list -/

def State.op? (s : State) (id : Nat) : Option EngOp := s.ops.find? (fun o => o.id == id)
def Run.setOp (r : Run s0) (o : EngOp) : Run s0 := r.put (.ops (r.st.ops.map (fun p => if p.id == o.id then o else p)))
/-- The operation leaves the list, and the home unit at which a write of it may wait. -/
def Run.dropOp (r : Run s0) (id : Nat) : Run s0 :=
  let r := r.leaveHome (.op id)
  r.put (.ops (r.st.ops.filter (fun p => p.id != id)))

/-- The party of an operation's accesses (R185). -/
def EngOp.agent (o : EngOp) : Agent := ⟨o.c, o.core, o.part, o.grp, o.launch, o.node, o.rank⟩

/-- Who makes the planed stores of an operation (R128). -/
def EngOp.issuer (o : EngOp) : Issuer := ⟨o.seq, o.idx, o.tag.toNat % 2 ^ 56 * 256 + o.tag.toNat / 2 ^ 56, o.nodeNo, o.ancest, o.id + 1,
  match o.cmd.kind with
  | .scatter _ => true
  | _ => false, o.after⟩

/-- The writes that the operation must see are performed (R182). -/
def State.opReady (s : State) (o : EngOp) : Bool :=
  !s.ownerLives o || (s.ctx o.c).pend.all (fun p => !isWrite p.eff || !(decide (p.seq < o.seq) || (p.seq == o.seq && o.ancest.getLsbD p.idx)))

/-! ### Completions -/

/-- A successful status (R184). -/
def statusWordOf (failmap which count : Nat) (zx : Bool) : Word64 :=
  BitVec.ofNat 64 (failmap % 16 * 2 ^ 44 + (if zx then 2 ^ 43 else 0) + which * 2 ^ 32 + count % 2 ^ 32)

/-- The tag of a completion token (R183). -/
def EngOp.tokenTag (o : EngOp) (coord : Nat) : Word64 :=
  (o.tag.extractLsb' 56 8) ++ setInnermost (o.tag.setWidth 56) o.widths coord

/-- The node a completion token names: set, blockslot, index, slot. -/
def tokenNode (w : Word64) : Nat × Nat × Nat × Nat := (w.toNat % 4, bitsOf w.toNat 2 4, bitsOf w.toNat 6 7, bitsOf w.toNat 13 2)

/-- The slot of a code. -/
def slotOfCode (c : Nat) : Option Slot :=
  match c with
  | 1 => some .a
  | 2 => some .b
  | 3 => some .g
  | _ => none

/-- Why a completion is lost, as ICLASS and ICODE (R183). -/
def completionLost (s : State) (o : EngOp) (w : Word64) : Option (Nat × Nat) :=
  let v := w.toNat
  match dkOf w with
  | 0 => if v = 0 then none else some (0x04, 0x06)
  | 1 => if bitsOf v 6 56 = 0 then none else some (0x04, 0x06)
  | 2 =>
    if v % 16 ≠ 0 ∨ bitsOf v 22 40 ≠ 0 then some (0x04, 0x06)
    else if coreLimit ≤ v % 2 ^ 22 then some (0x08, 0x00)
    else if s.taken (coreKey o.core (v % 2 ^ 22) / 16) then some (0x0B, 0x01)
    else none
  | _ =>
    let (k, j, i, q) := tokenNode w
    if bitsOf v 48 14 ≠ 0 ∨ bitsOf v 15 1 ≠ 0 ∨ (o.widths.isEmpty ∧ bitsOf v 16 32 ≠ 0) then some (0x04, 0x06)
    else
      match (s.core o.core).placedAt k j with
      | none => some (0x04, 0x06)
      | some p =>
        if p.pin ≠ some o.c then some (0x04, 0x06)
        else
          let used := match slotOfCode q, (p.words[i]?).bind (fun w => (decode w).toOption) with
            | some sl, some ins => slotUsed (shape ins) sl
            | _, _ => false
          if used then none else some (0x04, 0x06)

/-- An event of an operation counts at its context, or at its core where a node of the graph engine issued it (R392). -/
def Run.countOp (r : Run s0) (o : EngOp) (src n : Nat) : Run s0 := if o.c < 640 then r.count o.c none src n else r.countCore o.core src n

/-- A completion delivered through its word (R183, R184). -/
def Run.deliverWord (r : Run s0) (o : EngOp) (w value : Word64) (isErr : Bool) : Run s0 :=
  match completionLost r.st o w with
  | some (c, q) => r.opFault o (o.faultRec c q 0)
  | none =>
    match dkOf w with
    | 0 => r
    | 1 =>
      if r.st.ownerLives o ∧ SMap.get (r.st.ctx o.c).gEmpty 0 (w.toNat % 64) = o.id + 1 then r.modCtx o.c (fun x => x.fillReg (w.toNat % 64) value o.id)
      else r
    | 2 => let k := coreKey o.core (w.toNat % 2 ^ 22); (r.fillAt k (leBytes 8 value.toNat)).put (.told (k / 16) (o.id + 1))
    | _ =>
      let (k, j, i, q) := tokenNode w
      let tok := if isErr then errorToken .scalar value else scalar value
      let tag := o.tokenTag (bitsOf w.toNat 16 32)
      let sl := (slotOfCode q).getD .a
      if !r.st.ownerLives o then r
      else
        match (r.st.ctx o.c).runs.find? (fun b => b.tag == tag && b.cfg == k && b.slot == j) with
        | some b =>
          let s := r.st
          (r.modRun o.c b.iid (fun b => { s.sendTo o.c none b (.slot sl (BitVec.ofNat 7 i)) (some tok) with entered := b.entered ++ [(o.id, i, true)] })).countSpills s o.c
        | none => r.modCtx o.c (fun x => { x with strays := x.strays ++ [⟨tag, k, j, ⟨i, sl, tok⟩, o.faultRec 0x04 0x06 0, o.id⟩] })

/-- Tokens of a waited command to its targets (R180). -/
def Run.answer (r : Run s0) (o : EngOp) (t0 t1 : Option Token) : Run s0 :=
  let s := r.st
  (r.modRun o.c o.iid (fun b =>
    { s.sendTo o.c (some o.idx) (s.sendTo o.c (some o.idx) b o.t0 t0) o.t1 t1 with entered := b.entered ++ [(o.id, o.idx, false)] })).countSpills s o.c

/-- A waited command has delivered every token: it counts as produced. `semb` is no output node (R224). -/
def Run.answered (r : Run s0) (o : EngOp) : Run s0 :=
  let s := r.st
  let n := match o.cmd.kind with
    | .semb _ _ => 0
    | _ => 1
  r.modRun o.c o.iid (fun b => s.checkExit o.c { b with outs := b.outs + n })

/-- The completion of WHICH `w` of an operation that succeeded goes out: to its word of the descriptor, or as a token of status to T0 and T1, or to T0 for `srcdone`
and T1 for `vis` of the two-completion commands. -/
def Run.succeed (r : Run s0) (o : EngOp) (which count : Nat) (zx : Bool) : Run s0 :=
  let v := statusWordOf o.failmap which count zx
  if o.waited then
    let t := some (scalar v)
    (match which with
    | 0 => r.answer o t t
    | 1 => r.answer o t none
    | _ => r.answer o none t)
  else
    match (completionWords o.cmd.kind o.desc).find? (fun e => e.1 == which) with
    | some e => r.deliverWord o e.2 v false
    | none => r

/-- An operation has failed: its deferred fault is raised and every completion not yet delivered carries the error (R184, R186). -/
def Run.failOp (r : Run s0) (o : EngOp) (f : FaultRec) : Run s0 :=
  let r := r.opFault o f
  let d := descriptor f.icls f.icode o.ticket
  let left := (completionWords o.cmd.kind o.desc).filter (fun e => !o.sent.testBit e.1)
  let r :=
    if o.waited then
      let k : Kind := match o.cmd.kind with
        | .accrd _ => .vector
        | .mma _ _ | .mmaG _ _ | .mmaCb _ | .accclr _ | .accrdSt _ | .accwr _ | .alloc => .control
        | _ => .scalar
      let e := some (errorToken k d)
      match o.cmd.kind with
      | .copy | .copyMc => (r.answer o (if o.sent.testBit 1 then none else e) e).answered o
      | .xform => if o.sent.testBit 1 then r else (r.answer o e none).answered o
      | _ => (r.answer o e e).answered o
    else left.foldl (fun r e => r.deliverWord o e.2 d true) r
  r.dropOp o.id

/-- An operation has failed with a class and code. -/
def Run.failOpWith (r : Run s0) (o : EngOp) (cls code vaddr : Nat) : Run s0 := r.failOp o (o.faultRec cls code vaddr)

/-- An access of an operation waits on a parked translation (R185, R316). -/
def Run.parkOp (r : Run s0) (o : EngOp) (va : Nat) (kind : BitVec 5) : Run s0 :=
  let a := o.agent
  match r.parkOn a.die a.grp va a.part (kind ||| kindEngine) (.op o.id) with
  | some r => r.setOp { o with parked := true, at' := va }
  | none => r.setOp o

/-! ### Accesses -/

/-- The check of an engine read or write: its space, and the membership and limits of planed regions (R104, R296). A store to a region obeys its element width
(R127). Log 30, DEDUCED: which class an engine's error descriptor carries. -/
def engineCheck (s : State) (a : Agent) (sp : Space) (ea n : Nat) (write : Bool) : Option (Nat × Nat) :=
  fireCheck s a sp ea n false (if write then .store else .load)

/-- The buffered stores of the issuing run on which a command depends, while that run is not committed (R108, R182). A planed store is not among them: an engine reads the
present plane (R185). -/
def State.issuerStores (s : State) (o : EngOp) : Overlay :=
  match (if s.ownerLives o then (s.ctx o.c).run? o.iid else none) with
  | none => []
  | some b => ((accessesOf (b.ordered.filter (fun e => o.ancest.getLsbD e.idx))).filter (fun acc => (regionAt s o.agent acc.sp acc.ea.toNat acc.wd.bytes).isNone)).foldl
      (overlayOne s o.agent) []

/-- `n` bytes read by an operation (R182, R185): the present plane of a region. -/
def Run.engineRead (r : Run s0) (o : EngOp) (sp : Space) (ea n : Nat) : Run s0 × Got :=
  if n = 0 then (r, .bytes [])
  else
    match engineCheck r.st o.agent sp ea n false with
    | some (c, q) => (r, .fault c q ea)
    | none => r.readBytes o.agent sp ea n .r (r.st.issuerStores o)

/-- Bytes filled at a key granule by granule: a granule that is full, or claimed by another operation, keeps its data, and the address of the first such granule is given
(R185). A granule of `later` is marked full by a piece still to come. -/
def Run.fillAround (r : Run s0) (a : Agent) (sp : Space) (ea k : Nat) (bs : List Byte) (o : EngOp) (later : Option Nat) : Run s0 × Option Nat :=
  (granules k bs.length).foldl (fun (acc : Run s0 × Option Nat) g =>
    let lo := max (16 * g) k - k
    let part := (bs.drop lo).take (16 * g + 16 - (k + lo))
    if !acc.1.st.claims.contains (g, o.id) && acc.1.st.taken g then (acc.1, acc.2 <|> some (ea + lo))
    else
      let r := acc.1.deposit a sp (ea + lo) (k + lo) part o.issuer
      (if later = some g then r else ((r.untold [g]).mark [g] true).serve [g], acc.2)) (r, none)

/-- The next piece of the `n` bytes at `ea`, after the first `done` of them (R114, R197). -/
def pieceAfter (ea n done : Nat) : Option (Nat × Nat) := (pieces ea n).find? (fun p => p.1 == ea + done)

/-- One piece `p` of the `n` bytes that an operation writes at `ea`. In the on-chip stores it is a fill: a granule that is already full keeps its data, and the piece is the fill-full
fault (R185). With `home` a shared page is written through its frame's home unit in its turn, else at once as a batch of one (R330, R331, log 15). -/
def Run.engineWritePiece (r : Run s0) (o : EngOp) (core : Nat) (sp : Space) (ea n : Nat) (p : Nat × Nat) (part : List Byte) (home : Bool) : Run s0 × Perf :=
  let a := { o.agent with core := core }
  match engineCheck r.st a sp p.1 p.2 true with
  | some (c, q) => (r, .fault c q p.1)
  | none =>
    let (r, l) := r.locate a sp p.1 .w
    match l with
    | .key k =>
      if sp.granular && (regionAt r.st a sp p.1 p.2).isNone then
        let (r, x) := r.fillAround a sp p.1 k part o (if p.1 + p.2 < ea + n ∧ (k + p.2) % 16 ≠ 0 then some ((k + p.2) / 16) else none)
        (r, match x with
          | some va => .fault 0x0B 0x01 va
          | none => .done)
      else (r.deposit a sp p.1 k part o.issuer, .done)
    | .shared k va =>
      if home && !r.st.homeQueued (.op o.id) then (r, .home ((k - mainKey 0) / 4096) va)
      else
        match r.ownFrame a va (k - mainKey 0) with
        | some (r, pa) => (r.deposit a sp p.1 (mainKey pa) part o.issuer, .done)
        | none => (r, .fault 0x08 0x02 va)
    | .pool _ => (r, .fault 0x09 0x02 p.1)
    | .park => (r, .park p.1)
    | .fault c q => (r, .fault c q p.1)

/-- One row written by an operation as one event, in the pieces of R114: the rest of a row with a full granule is written, and the row is the fill-full fault (R185).
Log 29, DEDUCED: a copy's later row that hits a granule its earlier row filled is a fill of a full granule. -/
def Run.engineWrite (r : Run s0) (o : EngOp) (core : Nat) (sp : Space) (ea : Nat) (bs : List Byte) : Run s0 × Perf :=
  (pieces ea bs.length).foldl (fun (acc : Run s0 × Perf) p =>
    let go := fun (r : Run s0) => r.engineWritePiece o core sp ea bs.length p ((bs.drop (p.1 - ea)).take p.2) false
    match acc.2 with
    | .done => go acc.1
    | .fault 0x0B _ va =>
      let (r, x) := go acc.1
      (r, match x with
        | .done | .fault 0x0B _ _ => .fault 0x0B 0x01 va
        | x => x)
    | _ => acc) (r, .done)

/-- A write of the operation joins the queue of a frame's home unit (R331). -/
def Run.homeOp (r : Run s0) (o : EngOp) (frame : Nat) : Run s0 :=
  r.put (.home (r.st.home ++ [⟨frame, o.c, o.rank, o.issuer.tagKey, o.idx, .op o.id, false⟩]))

/-! ### The gather descriptor and its shard map (R203, R302) -/

def gTable (d : List Byte) : Nat := fieldAt d 0 8
def gRows (d : List Byte) : Nat := fieldAt d 8 4
def gRowBytes (d : List Byte) : Nat := fieldAt d 12 2
def gFmt (d : List Byte) : Nat := fieldAt d 14 1
def gOpt (d : List Byte) : Nat := fieldAt d 15 1
def gShmap (d : List Byte) : Nat := fieldAt d 16 8
def gIndex (d : List Byte) : Nat := fieldAt d 24 8
def gCount (d : List Byte) : Nat := fieldAt d 32 4
def gBags (d : List Byte) : Nat := fieldAt d 36 4
def gWeights (d : List Byte) : Nat := fieldAt d 40 8
def gOffsets (d : List Byte) : Nat := fieldAt d 48 8
def gData (d : List Byte) : Nat := fieldAt d 56 8

/-- The fields that `semb` shares with `gather` (R203, R229). -/
def tableFieldsOk (d : List Byte) (computes : Bool) : Bool :=
  gTable d % 64 == 0 && gRows d != 0 && gRowBytes d % 64 == 0 && decide (64 ≤ gRowBytes d ∧ gRowBytes d ≤ 16384) && gData d % 64 == 0
    && (fmtBits (gFmt d)).isSome && (!computes || gFmt d == 1 || gFmt d == 2)

/-- A shard map of `n` segments, its header and entries: NSH and the reserved bytes (R302). -/
def shardOk (m : List Byte) : Bool :=
  decide (1 ≤ fieldAt m 0 2 ∧ fieldAt m 0 2 ≤ 256) && ((m.drop 8).take 56).all (fun b => b == 0)
    && (List.range (fieldAt m 0 2)).all (fun s => fieldAt m (72 + 16 * s) 8 == 0)

/-- The shard map is read: its header, then its entries (R302). -/
def Run.readShards (r : Run s0) (o : EngOp) : Run s0 :=
  let va := gShmap o.desc
  let fetch := fun (r : Run s0) (va n : Nat) (k : Run s0 → List Byte → Run s0) =>
    let (r, g) := r.engineRead o .main va n
    match g with
    | .bytes bs => k r bs
    | .park v => r.parkOp o v kindRead
    | .fault c q v => r.failOpWith o c q v
  if va = 0 then r.setOp { o with phase := 1 }
  else if va % 64 ≠ 0 then r.failOpWith o 0x07 0x00 va
  else fetch r va 64 (fun r h =>
    if fieldAt h 0 2 = 0 ∨ 256 < fieldAt h 0 2 then r.failOpWith o 0x08 0x00 va
    else fetch r (va + 64) (16 * fieldAt h 0 2) (fun r t =>
      if shardOk (h ++ t) then r.setOp { o with desc := o.desc ++ h ++ t, phase := 1 } else r.failOpWith o 0x08 0x00 va))

/-- A command reads its shard map at its issue, when its descriptor is in order and the writes that it must see are performed; else with its first move (R182, R302). -/
def Run.mapAtIssue (r : Run s0) (id : Nat) (ok : EngOp → Bool) : Run s0 :=
  match r.st.op? id with
  | some o => if o.denied.isNone && ok o && r.st.opReady o then r.readShards o else r
  | none => r

end Sys2Proof.Machine
end

