-- ==== Sys2Proof/Machine/Elementary.lean ====
section
/-! DEFINITION. The correctly rounded elementary functions (R159). Each value is enclosed between two neighbours of a fixed-point grid of `2^-320`, wide apart by far
less than any rounding step; where both ends round alike that is the result. -/

namespace Sys2Proof.Machine

open Sys2Proof

/-- Fraction bits of the grid. -/
def gridBits : Nat := 320

/-- One on the grid. -/
def gridOne : Nat := 2 ^ gridBits

/-- A bound on the error of every function here, in grid units. -/
def gridError : Nat := 2 ^ 20

/-- `Σ u^(2k+1) / (2k+1)`, that is atanh `u`, for a grid value `u` up to 1/3. -/
def atanhFrom (u2 : Nat) : Nat → Nat → Nat → Nat
  | 0, _, _ => 0
  | n + 1, p, k => p / k + atanhFrom u2 n (p * u2 / gridOne) (k + 2)

def gridAtanh (u : Nat) : Nat := atanhFrom (u * u / gridOne) 104 u 1

/-- The natural logarithm of 2 on the grid. -/
def gridLn2 : Nat := 2 * gridAtanh (gridOne / 3)

/-- `Σ y^k / k!` from term `t` on. -/
def expFrom (y : Nat) : Nat → Nat → Nat → Nat
  | 0, _, _ => 0
  | n + 1, t, k => t + expFrom y n (t * y / gridOne / (k + 1)) (k + 1)

/-- The exponential of a grid value below 1. -/
def gridExp (y : Nat) : Nat := expFrom y 72 gridOne 0

/-- `2^f` for a grid fraction. -/
def gridExp2 (f : Nat) : Nat := gridExp (f * gridLn2 / gridOne)

/-- An irrational value within `gridError` units of `m × 2^e`, rounded; it is inexact in every format. Where the ends round apart the value is free. Log 108, DESIGN CHOICE: elementary functions are exact but for operands that 320 bits do not decide. -/
def rndNear (f : FloatFmt) (rm : Rm) (neg : Bool) (m : Nat) (e : Int) : Rounded :=
  let lo := rnd f rm .default (.fin neg (m - gridError) e true)
  let hi := rnd f rm .default (.fin neg (m + gridError) e true)
  if lo = hi then lo else ⟨Config.undecided (m + 2 ^ 400 * (2 ^ 20 * f.bits + e).toNat) % 2 ^ f.bits, flagNX⟩

/-- A special case without rounding. -/
def plainExt (f : FloatFmt) (x : Ext) (flags : FlagSet := 0) : Rounded :=
  let r := rnd f .rne .default x
  ⟨r.bits, r.flags ||| flags⟩

/-- A NaN operand (R140, R159). -/
def nanResult (f : FloatFmt) (signalling : Bool) : Rounded := ⟨f.nan, raiseIf signalling flagNV⟩

/-- The integer part and the grid fraction of a signed finite value. -/
def gridSplit (neg : Bool) (m : Nat) (e : Int) : Int × Nat :=
  let v : Int := (Ext.fin neg m e false).scaled (-(gridBits : Int))
  (v / (gridOne : Nat), (v % (gridOne : Nat)).toNat)

/-- `1 / a`. -/
def rcpOf (f : FloatFmt) (rm : Rm) (x : Ext) : Rounded :=
  let (q, fl) := divExt (.fin false 1 0 false) x
  let r := rnd f rm .default q
  ⟨r.bits, r.flags ||| fl⟩

/-- `1 / √a`. -/
def rsqOf (f : FloatFmt) (rm : Rm) (x : Ext) : Rounded :=
  match x with
  | .nan s => nanResult f s
  | .zero n => plainExt f (.inf n) flagDZ
  | .inf false => plainExt f (.zero false)
  | .inf true => ⟨f.nan, flagNV⟩
  | .fin true _ _ _ => ⟨f.nan, flagNV⟩
  | .fin false m e _ =>
    let (m, e) := if e % 2 = 0 then (m, e) else (2 * m, e - 1)
    let r := isqrt (2 ^ 384 / m)
    rnd f rm .default (.fin false r (-(e / 2) - 192) (r * r * m != 2 ^ 384))

/-- `√a`. -/
def sqrtOf (f : FloatFmt) (rm : Rm) (x : Ext) : Rounded :=
  match x with
  | .nan s => nanResult f s
  | .zero n => plainExt f (.zero n)
  | .inf false => plainExt f (.inf false)
  | .inf true => ⟨f.nan, flagNV⟩
  | .fin true _ _ _ => ⟨f.nan, flagNV⟩
  | .fin false m e _ => rnd f rm .default (sqrtExt m e)

/-- `2^a`. -/
def exp2Of (f : FloatFmt) (rm : Rm) (x : Ext) : Rounded :=
  match x with
  | .nan s => nanResult f s
  | .zero _ => plainExt f (.fin false 1 0 false)
  | .inf false => plainExt f (.inf false)
  | .inf true => plainExt f (.zero false)
  | .fin n m e _ =>
    if 4096 ≤ (Ext.fin false m e false).scaled (min e 0) / (2 ^ (-(min e 0)).toNat : Nat) then
      rnd f rm .default (.fin false 1 (if n then -4096 else 4096) true)
    else
      let (i, fr) := gridSplit n m e
      if fr = 0 then rnd f rm .default (.fin false 1 i false)
      else rndNear f rm false (gridExp2 fr) (i - gridBits)

/-- The exponential of a value that is no NaN, not positive infinity and not above zero, correctly rounded (R226). -/
def expOf (f : FloatFmt) (rm : Rm) (x : Ext) : Rounded :=
  match x with
  | .nan s => nanResult f s
  | .zero _ => plainExt f (.fin false 1 0 false)
  | .inf _ => plainExt f (.zero false)
  | .fin _ m e _ =>
    if 8 ≤ e + (Nat.log2 m : Nat) then rnd f rm .default (.fin false 1 (-300) true)
    else
      let v := ((Ext.fin false m e false).scaled (-(gridBits : Int))).toNat * gridOne / gridLn2
      rndNear f rm false (gridExp2 (gridOne - v % gridOne - 1)) (-(gridBits : Int) - (v / gridOne : Nat) - 1)

/-- `log2 a`. -/
def log2Of (f : FloatFmt) (rm : Rm) (x : Ext) : Rounded :=
  match x with
  | .nan s => nanResult f s
  | .zero _ => plainExt f (.inf true) flagDZ
  | .inf false => plainExt f (.inf false)
  | .inf true => ⟨f.nan, flagNV⟩
  | .fin true _ _ _ => ⟨f.nan, flagNV⟩
  | .fin false m e _ =>
    let l := Nat.log2 m
    let k : Int := e + l
    if m = 2 ^ l then rnd f rm .default (extOfInt k 0 false)
    else
      let u := (m - 2 ^ l) * gridOne / (m + 2 ^ l)
      let v : Int := k * (gridOne : Nat) + (2 * gridAtanh u * gridOne / gridLn2 : Nat)
      rndNear f rm (decide (v < 0)) v.natAbs (-(gridBits : Int))

/-- `tanh a`: close to ±1 and close to `a` the value differs from them by less than the sticky bit shows. -/
def tanhOf (f : FloatFmt) (rm : Rm) (x : Ext) : Rounded :=
  match x with
  | .nan s => nanResult f s
  | .zero n => plainExt f (.zero n)
  | .inf n => plainExt f (.fin n 1 0 false)
  | .fin n m e _ =>
    let lg := e + (Nat.log2 m : Nat)
    if lg < -40 then rnd f rm .default (.fin n (m * 2 ^ 32 - 1) (e - 32) true)
    else if 6 ≤ lg then rnd f rm .default (.fin n (2 ^ 128 - 1) (-128) true)
    else
      let w := (2 * (Ext.fin false m e false).scaled (-(gridBits : Int))).toNat
      let v := w * gridOne / gridLn2
      let i := v / gridOne
      let p := gridExp2 (gridOne - v % gridOne - 1) / 2 ^ (i + 1)
      rndNear f rm n ((gridOne - p) * gridOne / (gridOne + p)) (-(gridBits : Int))

end Sys2Proof.Machine
end

