-- ==== Sys2Proof/Machine/Vector.lean ====
section
/-! DEFINITION. The vector family, majors 0x28 to 0x2F (R156 to R177), and the decoding of O4 words (R147). -/

namespace Sys2Proof.Machine

open Sys2Proof

/-! ### Elements (R138) -/

/-- Element `i` of `w` bits of a token. -/
def elemAt (w : Nat) (v : Payload) (i : Nat) : Nat := bitsOf v.toNat (w * i) w

/-- The first `n` elements of `w` bits. -/
def elems (w n : Nat) (v : Payload) : List Nat := (List.range n).map (elemAt w v)

/-- Elements of `w` bits as a token's bits, zero above them. -/
def packElems (w : Nat) (l : List Nat) : Payload := BitVec.ofNat 512 (l.foldr (fun x n => x % 2 ^ w + 2 ^ w * n) 0)

/-- Elements of a format in a token. -/
def FloatFmt.count (f : FloatFmt) : Nat := 512 / f.bits

/-- The OR of the flags of several results. -/
def flagsOfAll (l : List Rounded) : FlagSet := l.foldl (fun f r => f ||| r.flags) 0

/-- A vector result of rounded elements. -/
def vecOut (w : Nat) (s : Bool) (l : List Rounded) : NodeOut := NodeOut.of (vector (packElems w (l.map Rounded.bits)) s) (flagsOfAll l)

/-- A node that computes element by element from A. -/
def lanes1 (f : FloatFmt) (op : Nat → Rounded) (x : Fire) : NodeOut := vecOut f.bits x.s ((elems f.bits f.count x.a.data).map op)

/-- A node that computes element by element from A and B. -/
def lanes2 (f : FloatFmt) (op : Nat → Nat → Rounded) (x : Fire) : NodeOut :=
  vecOut f.bits x.s ((List.range f.count).map (fun i => op (elemAt f.bits x.a.data i) (elemAt f.bits x.b'.data i)))

/-- A node that computes element by element from A, B and G. -/
def lanes3 (f : FloatFmt) (op : Nat → Nat → Nat → Rounded) (x : Fire) : NodeOut :=
  vecOut f.bits x.s ((List.range f.count).map (fun i =>
    op (elemAt f.bits x.a.data i) (elemAt f.bits x.b'.data i) (elemAt f.bits x.g.data i)))

/-! ### Arithmetic (R157 to R161) -/

/-- A rounded result with the flags of the operation. -/
def rounded (f : FloatFmt) (rm : Rm) (v : Ext × FlagSet) : Rounded :=
  let r := rnd f rm .default v.1
  ⟨r.bits, r.flags ||| v.2⟩

/-- A value of the other sign. -/
def Ext.negate (x : Ext) : Ext := x.withSign (!x.isNeg)

def addElem (f : FloatFmt) (rm : Rm) (a b : Nat) : Rounded := rounded f rm (addExt rm (f.read a) (f.read b))
def subElem (f : FloatFmt) (rm : Rm) (a b : Nat) : Rounded := rounded f rm (addExt rm (f.read a) (f.read b).negate)
def mulElem (f : FloatFmt) (rm : Rm) (a b : Nat) : Rounded := rounded f rm (mulExt (f.read a) (f.read b))

/-- `a × b + g` with one rounding; 0 × ∞ is invalid whatever the addend (R157). -/
def fmaExt (rm : Rm) (a b g : Ext) : Ext × FlagSet :=
  let (p, fl) := mulExt a b
  let (v, fl') := addExt rm p g
  (v, fl ||| fl')

def fmaElem (f : FloatFmt) (rm : Rm) (neg : Bool) (a b g : Nat) : Rounded :=
  let c := f.read g
  rounded f rm (fmaExt rm (f.read a) (f.read b) (if neg then c.negate else c))

/-- R161. -/
def selElem (f : FloatFmt) (max : Bool) (a b : Nat) : Rounded :=
  let (x, fl) := fsel f max a b
  ⟨x, fl⟩

/-- `vadd`. -/
def execVadd (f : Fmt) (rm : Rm) (g : Gate) (t0 t1 : Target) (s : State) : Host.Outcome State Fault Refusal :=
  fireNode (.vadd f rm g t0 t1) (lanes2 (floatFmt f) (addElem (floatFmt f) rm)) s

/-- `vsub`. -/
def execVsub (f : Fmt) (rm : Rm) (g : Gate) (t0 t1 : Target) (s : State) : Host.Outcome State Fault Refusal :=
  fireNode (.vsub f rm g t0 t1) (lanes2 (floatFmt f) (subElem (floatFmt f) rm)) s

/-- `vmul`. -/
def execVmul (f : Fmt) (rm : Rm) (g : Gate) (t0 t1 : Target) (s : State) : Host.Outcome State Fault Refusal :=
  fireNode (.vmul f rm g t0 t1) (lanes2 (floatFmt f) (mulElem (floatFmt f) rm)) s

/-- `vfma`. -/
def execVfma (f : Fmt) (rm : Rm) (t0 t1 : Target) (s : State) : Host.Outcome State Fault Refusal :=
  fireNode (.vfma f rm t0 t1) (lanes3 (floatFmt f) (fmaElem (floatFmt f) rm false)) s

/-- `vfms`. -/
def execVfms (f : Fmt) (rm : Rm) (t0 t1 : Target) (s : State) : Host.Outcome State Fault Refusal :=
  fireNode (.vfms f rm t0 t1) (lanes3 (floatFmt f) (fmaElem (floatFmt f) rm true)) s

/-- `vmax`. -/
def execVmax (f : Fmt) (g : Gate) (t0 t1 : Target) (s : State) : Host.Outcome State Fault Refusal :=
  fireNode (.vmax f g t0 t1) (lanes2 (floatFmt f) (selElem (floatFmt f) true)) s

/-- `vmin`. -/
def execVmin (f : Fmt) (g : Gate) (t0 t1 : Target) (s : State) : Host.Outcome State Fault Refusal :=
  fireNode (.vmin f g t0 t1) (lanes2 (floatFmt f) (selElem (floatFmt f) false)) s

/-- The element with its sign bit cleared, or inverted; nothing else changes (R158). -/
def absElem (f : FloatFmt) (a : Nat) : Nat := a % 2 ^ (f.bits - 1)
def negElem (f : FloatFmt) (a : Nat) : Nat := if a / 2 ^ (f.bits - 1) % 2 = 1 then a % 2 ^ (f.bits - 1) else a + 2 ^ (f.bits - 1)

/-- `vabs`. -/
def execVabs (f : Fmt) (g : Gate) (t0 t1 : Target) (s : State) : Host.Outcome State Fault Refusal :=
  fireNode (.vabs f g t0 t1) (lanes1 (floatFmt f) (fun a => ⟨absElem (floatFmt f) a, 0⟩)) s

/-- `vneg`. -/
def execVneg (f : Fmt) (g : Gate) (t0 t1 : Target) (s : State) : Host.Outcome State Fault Refusal :=
  fireNode (.vneg f g t0 t1) (lanes1 (floatFmt f) (fun a => ⟨negElem (floatFmt f) a, 0⟩)) s

/-- `vrcp` (R159). -/
def execVrcp (f : Fmt) (rm : Rm) (g : Gate) (t0 t1 : Target) (s : State) : Host.Outcome State Fault Refusal :=
  fireNode (.vrcp f rm g t0 t1) (lanes1 (floatFmt f) (fun a => rcpOf (floatFmt f) rm ((floatFmt f).read a))) s

/-- `vrsq` (R159). -/
def execVrsq (f : Fmt) (rm : Rm) (g : Gate) (t0 t1 : Target) (s : State) : Host.Outcome State Fault Refusal :=
  fireNode (.vrsq f rm g t0 t1) (lanes1 (floatFmt f) (fun a => rsqOf (floatFmt f) rm ((floatFmt f).read a))) s

/-- `vsqrt` (R159). -/
def execVsqrt (f : Fmt) (rm : Rm) (g : Gate) (t0 t1 : Target) (s : State) : Host.Outcome State Fault Refusal :=
  fireNode (.vsqrt f rm g t0 t1) (lanes1 (floatFmt f) (fun a => sqrtOf (floatFmt f) rm ((floatFmt f).read a))) s

/-- `vexp2` (R159). -/
def execVexp2 (f : Fmt) (rm : Rm) (g : Gate) (t0 t1 : Target) (s : State) : Host.Outcome State Fault Refusal :=
  fireNode (.vexp2 f rm g t0 t1) (lanes1 (floatFmt f) (fun a => exp2Of (floatFmt f) rm ((floatFmt f).read a))) s

/-- `vlog2` (R159). -/
def execVlog2 (f : Fmt) (rm : Rm) (g : Gate) (t0 t1 : Target) (s : State) : Host.Outcome State Fault Refusal :=
  fireNode (.vlog2 f rm g t0 t1) (lanes1 (floatFmt f) (fun a => log2Of (floatFmt f) rm ((floatFmt f).read a))) s

/-- `vtanh` (R159). -/
def execVtanh (f : Fmt) (rm : Rm) (g : Gate) (t0 t1 : Target) (s : State) : Host.Outcome State Fault Refusal :=
  fireNode (.vtanh f rm g t0 t1) (lanes1 (floatFmt f) (fun a => tanhOf (floatFmt f) rm ((floatFmt f).read a))) s

/-- An element of a mask, and the NV of the comparison (R162). -/
def cmpElem (f : FloatFmt) (c : VCond) (a b : Nat) : Rounded :=
  let x := f.read a
  let y := f.read b
  let unordered := x.isNan || y.isNan
  let signal := x.isSignalling || y.isSignalling
  let holds : Bool := match c with
    | .eq => x.eq y
    | .lt => x.lt y
    | .le => x.lt y || x.eq y
    | .un => unordered
  let nv : Bool := match c with
    | .eq | .un => signal
    | .lt | .le => unordered
  ⟨if holds then 2 ^ f.bits - 1 else 0, raiseIf nv flagNV⟩

/-- `vcmp` (R162): the mask has S = 0. -/
def execVcmp (f : Fmt) (c : VCond) (g : Gate) (t0 t1 : Target) (s : State) : Host.Outcome State Fault Refusal :=
  fireNode (.vcmp f c g t0 t1) (fun x => vecOut (floatFmt f).bits false ((List.range (floatFmt f).count).map (fun i =>
    cmpElem (floatFmt f) c (elemAt (floatFmt f).bits x.a.data i) (elemAt (floatFmt f).bits x.b'.data i)))) s

/-! ### Lane movement (R163) -/

/-- `vsel`: it compares the S flags of A and B. -/
def execVsel (t0 t1 : Target) (s : State) : Host.Outcome State Fault Refusal :=
  fireNode (.vsel t0 t1) (fun f =>
    if f.a.s ≠ f.b'.s then f.fault 0x06 0x00 else NodeOut.of (vector ((f.a.data &&& f.g.data) ||| (f.b'.data &&& ~~~f.g.data)) f.a.s)) s

/-- Every element takes the low bits of the scalar. -/
def broadcast (w : Nat) (f : Fire) : NodeOut := NodeOut.of (vector (packElems w (List.replicate (512 / w) (f.a.data.toNat % 2 ^ w))) f.a.s)

/-- `vbcast` (R163). -/
def execVbcastW32 (g : Gate) (t0 t1 : Target) (s : State) : Host.Outcome State Fault Refusal := fireNode (.vbcastW32 g t0 t1) (broadcast 32) s

/-- `vbcast` (R163). -/
def execVbcastW16 (g : Gate) (t0 t1 : Target) (s : State) : Host.Outcome State Fault Refusal := fireNode (.vbcastW16 g t0 t1) (broadcast 16) s

/-- `vbcast` (R163). -/
def execVbcastW8 (g : Gate) (t0 t1 : Target) (s : State) : Host.Outcome State Fault Refusal := fireNode (.vbcastW8 g t0 t1) (broadcast 8) s

/-- Element i becomes element B_i of A, modulo their count. -/
def permute (w : Nat) (f : Fire) : NodeOut :=
  NodeOut.of (vector (packElems w ((elems w (512 / w) f.b'.data).map (fun j => elemAt w f.a.data (j % (512 / w))))) f.a.s)

/-- `vperm` (R163). -/
def execVpermW32 (g : Gate) (t0 t1 : Target) (s : State) : Host.Outcome State Fault Refusal := fireNode (.vpermW32 g t0 t1) (permute 32) s

/-- `vperm` (R163). -/
def execVpermW16 (g : Gate) (t0 t1 : Target) (s : State) : Host.Outcome State Fault Refusal := fireNode (.vpermW16 g t0 t1) (permute 16) s

/-- `vperm` (R163). -/
def execVpermW8 (g : Gate) (t0 t1 : Target) (s : State) : Host.Outcome State Fault Refusal := fireNode (.vpermW8 g t0 t1) (permute 8) s

/-- Element l of A, zero-extended. -/
def extract (w : Nat) (l : BitVec 6) (f : Fire) : NodeOut := NodeOut.of (scalar (BitVec.ofNat 64 (elemAt w f.a.data l.toNat)) f.a.s)

/-- `vextr` (R163). -/
def execVextrW32 (g : Gate) (l : BitVec 6) (t0 : Target) (s : State) : Host.Outcome State Fault Refusal := fireNode (.vextrW32 g l t0) (extract 32 l) s

/-- `vextr` (R163). -/
def execVextrW16 (g : Gate) (l : BitVec 6) (t0 : Target) (s : State) : Host.Outcome State Fault Refusal := fireNode (.vextrW16 g l t0) (extract 16 l) s

/-- `vextr` (R163). -/
def execVextrW8 (g : Gate) (l : BitVec 6) (t0 : Target) (s : State) : Host.Outcome State Fault Refusal := fireNode (.vextrW8 g l t0) (extract 8 l) s

/-- A with element l replaced by the low bits of B. -/
def insert (w : Nat) (l : BitVec 6) (f : Fire) : NodeOut :=
  if f.a.s ≠ f.b'.s then f.fault 0x06 0x00
  else NodeOut.of (vector (packElems w ((elems w (512 / w) f.a.data).set l.toNat (f.b'.data.toNat % 2 ^ w))) f.a.s)

/-- `vins` (R163). -/
def execVinsW32 (g : Gate) (l : BitVec 6) (t0 : Target) (s : State) : Host.Outcome State Fault Refusal := fireNode (.vinsW32 g l t0) (insert 32 l) s

/-- `vins` (R163). -/
def execVinsW16 (g : Gate) (l : BitVec 6) (t0 : Target) (s : State) : Host.Outcome State Fault Refusal := fireNode (.vinsW16 g l t0) (insert 16 l) s

/-- `vins` (R163). -/
def execVinsW8 (g : Gate) (l : BitVec 6) (t0 : Target) (s : State) : Host.Outcome State Fault Refusal := fireNode (.vinsW8 g l t0) (insert 8 l) s

/-! ### Reductions (R164) -/

/-- One level of the tree: neighbours are combined. -/
def pairUp (op : Nat → Nat → Rounded) : List Nat → List Rounded
  | a :: b :: r => op a b :: pairUp op r
  | _ => []

/-- The pairwise tree with `n` levels left: the value and the flags of every level. -/
def treeReduce (op : Nat → Nat → Rounded) : Nat → List Nat → FlagSet → Rounded
  | 0, l, fl => ⟨l.headD 0, fl⟩
  | n + 1, l, fl =>
    let rs := pairUp op l
    treeReduce op n (rs.map Rounded.bits) (fl ||| flagsOfAll rs)

/-- The value of the tree in every element. -/
def reduceAll (f : FloatFmt) (op : Nat → Nat → Rounded) (pre : Nat → Nat) (x : Fire) : NodeOut :=
  let r := treeReduce op (Nat.log2 f.count) ((elems f.bits f.count x.a.data).map pre) 0
  NodeOut.of (vector (packElems f.bits (List.replicate f.count r.bits)) x.s) r.flags

/-- `vrsum` (R164). -/
def execVrsum (f : Fmt) (g : Gate) (t0 t1 : Target) (s : State) : Host.Outcome State Fault Refusal :=
  fireNode (.vrsum f g t0 t1) (reduceAll (floatFmt f) (addElem (floatFmt f) .rne) id) s

/-- `vrmax` (R164). -/
def execVrmax (f : Fmt) (g : Gate) (t0 t1 : Target) (s : State) : Host.Outcome State Fault Refusal :=
  fireNode (.vrmax f g t0 t1) (reduceAll (floatFmt f) (selElem (floatFmt f) true) id) s

/-- `vrmin` (R164). -/
def execVrmin (f : Fmt) (g : Gate) (t0 t1 : Target) (s : State) : Host.Outcome State Fault Refusal :=
  fireNode (.vrmin f g t0 t1) (reduceAll (floatFmt f) (selElem (floatFmt f) false) id) s

/-- `vamax` (R164). -/
def execVamax (f : Fmt) (g : Gate) (t0 t1 : Target) (s : State) : Host.Outcome State Fault Refusal :=
  fireNode (.vamax f g t0 t1) (reduceAll (floatFmt f) (selElem (floatFmt f) true) (absElem (floatFmt f))) s

/-! ### Exponents and scales (R165 to R167) -/

/-- The floor of log2 of the magnitude, at the element width. -/
def expoElem (f : FloatFmt) (a : Nat) : Nat :=
  match f.read a with
  | .fin _ m e _ => ((e + (Nat.log2 m : Nat)) % (2 ^ f.bits : Nat)).toNat
  | .zero _ => 2 ^ (f.bits - 1)
  | _ => 2 ^ (f.bits - 1) - 1

/-- `vexpo` (R165). -/
def execVexpo (f : Fmt) (g : Gate) (t0 t1 : Target) (s : State) : Host.Outcome State Fault Refusal :=
  fireNode (.vexpo f g t0 t1) (fun x => vecOut (floatFmt f).bits false ((elems (floatFmt f).bits (floatFmt f).count x.a.data).map (fun a =>
    ⟨expoElem (floatFmt f) a, 0⟩))) s

/-- ECAP, and whether ECAPEN is set (R28). -/
def ecapOf (mode : Word64) : Option Nat := if mode.getLsbD 1 then some (bitsOf mode.toNat 8 8) else none

/-- The scale code of an element (R166). -/
def scaleCode (f : FloatFmt) (cap : Option Nat) (a : Nat) : Rounded :=
  let x := f.read a
  let (c, fl) : Nat × FlagSet := match x with
    | .nan _ | .inf _ => (255, flagNV)
    | .zero _ => (127, 0)
    | .fin _ m e _ =>
      let l := Nat.log2 m
      let c : Int := e + (l : Int) + (if 4 * m ≤ 7 * 2 ^ l then 119 else 120)
      if c < 0 then (0, flagSCL) else (c.toNat, 0)
  match cap with
  | some k => if c ≠ 255 ∧ k < c then ⟨k, fl ||| raiseIf (!x.isZero) flagSAT⟩ else ⟨c, fl⟩
  | none => ⟨c, fl⟩

/-- `vexpo` with `.sc` (R166). -/
def execVexpoSc (f : Fmt) (g : Gate) (t0 t1 : Target) (s : State) : Host.Outcome State Fault Refusal :=
  fireNode (.vexpoSc f g t0 t1) (fun x => vecOut (floatFmt f).bits false ((elems (floatFmt f).bits (floatFmt f).count x.a.data).map
    (scaleCode (floatFmt f) (ecapOf x.x.modeReg)))) s

/-- `rnd(a × 2^n)`. A count beyond ±2048 rounds as ±2048 does. Log 40, DEDUCED: vldexp clamps its count, with equal results. -/
def ldexpElem (f : FloatFmt) (n : Int) (a : Nat) : Rounded :=
  match f.read a with
  | .nan t => nanResult f t
  | .fin neg m e k => rnd f .rne .default (.fin neg m (e + max (-2048) (min 2048 n)) k)
  | x => plainExt f x

/-- `vldexp` (R167). -/
def execVldexp (f : Fmt) (g : Gate) (t0 t1 : Target) (s : State) : Host.Outcome State Fault Refusal :=
  fireNode (.vldexp f g t0 t1) (fun x => lanes1 (floatFmt f) (ldexpElem (floatFmt f) x.b'.word.toInt) x) s

/-! ### Conversion (R168 to R170) -/

/-- The value of an E8M0 code (R142). -/
def e8m0 (c : Nat) : Ext := if c = 255 then .nan false else .fin false 1 ((c : Int) - 127) false

/-- Bits of a format code of R46. -/
def cvtBits (c : BitVec 3) : Nat :=
  match c.toNat with
  | 0 | 6 => 32
  | 1 | 2 => 16
  | _ => 8

/-- The floating format of a code. -/
def cvtFloat (c : BitVec 3) : Option FloatFmt :=
  match c.toNat with
  | 0 => some .f32
  | 1 => some .bf16
  | 2 => some .f16
  | 3 => some .e4m3
  | 4 => some .e5m2
  | _ => none

/-- The value of a source element. -/
def cvtRead (src : BitVec 3) (x : Nat) : Ext :=
  match cvtFloat src with
  | some f => f.read x
  | none => if src = 5 then e8m0 x else extOfInt (signedOf 32 x) 0 false

/-- The overflow qualifier of a word. -/
def ovfOf (o : BitVec 2) : Ovf :=
  match o.toNat with
  | 1 => .sat
  | 2 => .nan
  | _ => .default

/-- An element rounded to a 32-bit integer (R170). -/
def toInt32 (rm : Rm) (x : Ext) : Rounded :=
  match x with
  | .nan _ => ⟨0, flagNV⟩
  | .inf neg => ⟨if neg then 0x80000000 else 0x7FFFFFFF, flagNV⟩
  | .zero _ => ⟨0, 0⟩
  | .fin neg m e k =>
    let (n, exact) := intRound rm neg m (-e) k
    if neg then (if 2 ^ 31 < n then ⟨0x80000000, flagNV⟩ else ⟨(2 ^ 32 - n) % 2 ^ 32, raiseIf (!exact) flagNX⟩)
    else if 2 ^ 31 ≤ n then ⟨0x7FFFFFFF, flagNV⟩ else ⟨n, raiseIf (!exact) flagNX⟩

/-- One converted element. -/
def cvtElem (dst src : BitVec 3) (ovf : BitVec 2) (rm : Rm) (x : Nat) : Rounded :=
  let v := cvtRead src x
  match cvtFloat dst with
  | some f =>
    let r := rnd f rm (ovfOf ovf) v
    ⟨r.bits, r.flags ||| raiseIf v.isSignalling flagNV⟩
  | none => toInt32 rm v

/-- `vcvt` (R168). -/
def execVcvt (g : Gate) (dst src : BitVec 3) (ovf : BitVec 2) (rm : Rm) (t0 : Target) (s : State) : Host.Outcome State Fault Refusal :=
  fireNode (.vcvt g dst src ovf rm t0) (fun f =>
    let m := 512 / max (cvtBits dst) (cvtBits src)
    vecOut (cvtBits dst) f.s ((elems (cvtBits src) m f.a.data).map (cvtElem dst src ovf rm))) s

/-! ### Scales, packing (R171 to R173) -/

/-- The scale in B, and the NV of code 255. -/
def scaleOf (e : Bool) (b : Token) : Ext × FlagSet :=
  if e then (e8m0 (b.data.toNat % 256), raiseIf (decide (b.data.toNat % 256 = 255)) flagNV) else (FloatFmt.f32.read (b.data.toNat % 2 ^ 32), 0)

/-- `vscale` (R171). -/
def execVscale (g : Gate) (e : Bool) (t0 t1 : Target) (s : State) : Host.Outcome State Fault Refusal :=
  fireNode (.vscale g e t0 t1) (fun f =>
    if f.a.s then f.fault 0x06 0x00
    else
      let (c, fl) := scaleOf e f.b'
      vecOut 32 true ((elems 32 16 f.a.data).map (fun a =>
        let r := rounded .f32 .rne (mulExt (FloatFmt.f32.read a) c)
        ⟨r.bits, r.flags ||| fl⟩))) s

/-- `sacc` (R171). -/
def execSacc (e : Bool) (t0 t1 : Target) (s : State) : Host.Outcome State Fault Refusal :=
  fireNode (.sacc e t0 t1) (fun f =>
    if f.a.s || !f.g.s then f.fault 0x06 0x00
    else
      let (c, fl) := scaleOf e f.b'
      vecOut 32 true ((List.range 16).map (fun i =>
        let r := rounded .f32 .rne (fmaExt .rne (FloatFmt.f32.read (elemAt 32 f.a.data i)) c (FloatFmt.f32.read (elemAt 32 f.g.data i)))
        ⟨r.bits, r.flags ||| fl⟩))) s

/-- `vpack` (R172). -/
def execVpack (g : Gate) (k : BitVec 3) (t0 : Target) (s : State) : Host.Outcome State Fault Refusal :=
  fireNode (.vpack g k t0) (fun f =>
    let w := 32 * 2 ^ k.toNat
    NodeOut.of (vector (BitVec.ofNat 512 (f.a.data.toNat % 2 ^ w + 2 ^ w * (f.b'.data.toNat % 2 ^ w))) f.s)) s

/-- The E4M3 byte of a small integer. -/
def e4m3OfInt (v : Int) : Nat := (rnd .e4m3 .rne .default (extOfInt v 0 false)).bits

/-- The elements of an O4 word from slot `k` on, as E4M3 bytes; `none` for a marker at slot 6 or 7 (R147). -/
def o4From (w : Nat) : Nat → Nat → Option (List Nat)
  | 0, _ => some []
  | fuel + 1, k =>
    if 8 ≤ k then some []
    else
      let c := w / 16 ^ k % 16
      if c = 8 then
        if 5 < k then none else (o4From w fuel (k + 3)).map (fun l => (w / 16 ^ (k + 1) % 256) :: 0 :: 0 :: l)
      else (o4From w fuel (k + 1)).map (fun l => e4m3OfInt (if 8 ≤ c then (c : Int) - 16 else c) :: l)

/-- The 8 elements of an O4 word (R147). -/
def o4Word (w : Nat) : Option (List Nat) := o4From w 9 0

/-- A widened element: exact, with NV for a signalling NaN. -/
def widen (src dst : FloatFmt) (x : Nat) : Rounded :=
  let v := src.read x
  let r := plainExt dst v
  ⟨r.bits, r.flags ||| raiseIf v.isSignalling flagNV⟩

/-- One half of the elements of A in the format of twice their width (R173). Log 128, DESIGN CHOICE: of several malformed O4 words the record names the lowest. -/
def unpackHalf (hi : Bool) (src : BitVec 4) (f : Fire) : NodeOut :=
  let wide := fun (a b : FloatFmt) =>
    let n := b.count
    vecOut b.bits f.s ((List.range n).map (fun i => widen a b (elemAt a.bits f.a.data (i + (if hi then n else 0)))))
  match src.toNat with
  | 2 => wide .bf16 .f32
  | 3 => wide .f16 .f32
  | 4 => wide .e4m3 .bf16
  | 5 => wide .e5m2 .bf16
  | _ =>
    let at' := if hi then 8 else 0
    let ws := (List.range 8).map (fun i => o4Word (elemAt 32 f.a.data (at' + i)))
    match (List.range 8).find? (fun i => (ws.getD i none).isNone) with
    | some i => f.fault 0x14 0x00 (at' + i)
    | none => NodeOut.of (vector (packElems 8 (ws.flatMap (fun w => w.getD []))) f.s)

/-- `vunpack.lo` (R173). -/
def execVunpackLo (g : Gate) (src : BitVec 4) (t0 : Target) (s : State) : Host.Outcome State Fault Refusal :=
  fireNode (.vunpackLo g src t0) (unpackHalf false src) s

/-- `vunpack.hi` (R173). -/
def execVunpackHi (g : Gate) (src : BitVec 4) (t0 : Target) (s : State) : Host.Outcome State Fault Refusal :=
  fireNode (.vunpackHi g src t0) (unpackHalf true src) s

/-! ### Exact sums (R174 to R177) -/

/-- An addition buffered for the commit; its flags are those of its elements. -/
def eaddNode (bf16 : Bool) (n : BitVec 3) (f : Fire) : NodeOut :=
  if !f.a.s then f.fault 0x06 0x00
  else
    let fl := (List.range 16).foldl (fun fl j => fl ||| (addTerms XsLane.zero (eaddTerms bf16 f.a.data j)).2) (0 : FlagSet)
    { NodeOut.of (control true) fl with effs := [.eadd n bf16 f.a.data] }

/-- `eadd.f32` (R174). -/
def execEaddF32 (g : Gate) (n : BitVec 3) (t0 : Target) (s : State) : Host.Outcome State Fault Refusal :=
  fireNode (.eaddF32 g n t0) (eaddNode false n) s

/-- `eadd.bf16` (R174). -/
def execEaddBf16 (g : Gate) (n : BitVec 3) (t0 : Target) (s : State) : Host.Outcome State Fault Refusal :=
  fireNode (.eaddBf16 g n t0) (eaddNode true n) s

/-- The register as an `eround` sees it: older runs, then what it depends on in its own (R176). -/
def Fire.sums (f : Fire) : Ctx :=
  f.x.applySums ((f.b.ordered.filter (fun e => (SMap.get f.b.ancest 0 f.idx).getLsbD e.idx)).map (·.eff))

def eroundNode (fmt : FloatFmt) (n : BitVec 3) (f : Fire) : NodeOut :=
  vecOut fmt.bits true ((List.range 16).map (fun j => xsRound fmt (f.sums.lane n.toNat j)))

/-- `eround.f32` (R176). -/
def execEroundF32 (g : Gate) (n : BitVec 3) (t0 : Target) (s : State) : Host.Outcome State Fault Refusal :=
  fireNode (.eroundF32 g n t0) (eroundNode .f32 n) s

/-- `eround.bf16` (R176). -/
def execEroundBf16 (g : Gate) (n : BitVec 3) (t0 : Target) (s : State) : Host.Outcome State Fault Refusal :=
  fireNode (.eroundBf16 g n t0) (eroundNode .bf16 n) s

/-- `eclr` (R177). -/
def execEclr (g : Gate) (n : BitVec 3) (s : State) : Host.Outcome State Fault Refusal :=
  fireNode (.eclr g n) (fun _ => { effs := [.eclr n] }) s

end Sys2Proof.Machine
end

