-- ==== Sys2Proof/Machine/Matrix.lean ====
section
/-! DEFINITION. The matrix array (R148 to R151, R187 to R194): the commands, and the operation at the head of an accumulator's queue. -/

namespace Sys2Proof.Machine

open Sys2Proof

variable {s0 : State}

/-! ### Accumulators -/

def accKey (phys i n : Nat) : Nat := phys * 16384 + i * 128 + n

/-- Element (i, n) of a physical accumulator, as FP32 bits. -/
def Core.accAt (k : Core) (phys i n : Nat) : Nat := (SMap.get k.acc 0 (accKey phys i n)).toNat

def Core.setAcc (k : Core) (phys i n v : Nat) : Core := { k with acc := SMap.set k.acc 0 (accKey phys i n) (BitVec.ofNat 32 v) }

def Core.isPoisoned (k : Core) (phys : Nat) : Bool := SMap.get k.poisoned false phys

/-- The poison of a physical accumulator set or cleared (R193). -/
def Core.setPoison (k : Core) (phys : Nat) (b : Bool) : Core := { k with poisoned := SMap.set k.poisoned false phys b }

/-- Every element +0.0, poison cleared. -/
def Core.clearAcc (k : Core) (phys : Nat) : Core :=
  { k with acc := k.acc.filter (fun e => e.1 / 16384 != phys), poisoned := SMap.set k.poisoned false phys false }

/-- Elements written, each given as (row, column, bits). -/
def Core.writeAcc (k : Core) (phys : Nat) (l : List (Nat × Nat × Nat)) : Core := l.foldl (fun k e => k.setAcc phys e.1 e.2.1 e.2.2) k

/-- The head of an accumulator's queue leaves it. -/
def Core.popQueue (k : Core) (phys : Nat) : Core := { k with queues := SMap.set k.queues [] phys ((SMap.get k.queues [] phys).drop 1) }

/-! ### Group rounding (R150, R151) -/

/-- One group: the accumulator and the products of the group summed exactly and rounded once. -/
def groupSum (acc : Nat) (ps : List Ext) : Nat :=
  if ps.isEmpty then acc
  else
    let ts := FloatFmt.f32.read acc :: ps
    let pinf := ts.any (fun t => t == .inf false)
    let ninf := ts.any (fun t => t == .inf true)
    if ts.any Ext.isNan || (pinf && ninf) then FloatFmt.f32.nan
    else if pinf then FloatFmt.f32.infBits
    else if ninf then FloatFmt.f32.sign true + FloatFmt.f32.infBits
    else
      let e0 := ts.foldl (fun m t => match t.exponent with
        | some e => min m e
        | none => m) (0 : Int)
      let v := (ts.map (fun t => t.scaled e0)).foldl (· + ·) 0
      (rneF32 (extOfInt v e0 (ts.all (fun t => t == .zero true)))).bits

/-- An element of the accumulator after a tile step: its row of A and its column of B in groups of `g`. -/
def tileElement (g : Nat) : Nat → Nat → List Ext → List (Option Ext) → Nat
  | 0, acc, _, _ => acc
  | fuel + 1, acc, a, b =>
    if a.isEmpty then acc
    else
      let ps := ((a.take g).zip (b.take g)).filterMap (fun p => p.2.map (fun y => (mulExt p.1 y).1))
      tileElement g fuel (groupSum acc ps) (a.drop g) (b.drop g)

/-- A tile step: A by rows, B by columns, absent elements of B as `none`. -/
def tileStep (g : Nat) (acc : Nat → Nat → Nat) (a : List (List Ext)) (b : List (List (Option Ext))) : List (Nat × Nat × Nat) :=
  (a.mapIdx (fun i row => b.mapIdx (fun n col => (i, n, tileElement g row.length (acc i n) row col)))).flatten

/-- K, the group size and the bits of an element of a matrix format (R150): 0 e4m3, 1 e5m2, 2 bf16, 3 o4. -/
def tileK (f : Nat) : Nat :=
  match f with
  | 2 => 48
  | 3 => 192
  | _ => 96

def tileG (f : Nat) : Nat := if f = 3 then 6 else 3

/-- The FMT code of a matrix format. -/
def tileFmt (f : Nat) : Nat :=
  match f with
  | 0 => 4
  | 1 => 5
  | 2 => 2
  | _ => 7

/-- Bytes that hold `n` elements of a matrix format; O4 is read by whole words. Log 39, DESIGN CHOICE: O4 rows are read by whole words. -/
def tileBytes (f n : Nat) : Nat :=
  match f with
  | 2 => 2 * n
  | 3 => 4 * ceilDiv n 8
  | _ => n

/-- The elements of a row of a matrix format, or the byte offset of its malformed O4 word. -/
def tileRow (f n : Nat) (bs : List Byte) : Except Nat (List Ext) :=
  match f with
  | 0 => .ok ((List.range n).map (fun i => FloatFmt.e4m3.read (fieldAt bs i 1)))
  | 1 => .ok ((List.range n).map (fun i => FloatFmt.e5m2.read (fieldAt bs i 1)))
  | 2 => .ok ((List.range n).map (fun i => FloatFmt.bf16.read (fieldAt bs (2 * i) 2)))
  | _ =>
    let ws := (List.range (ceilDiv n 8)).map (fun i => o4Word (fieldAt bs (4 * i) 4))
    match (List.range (ceilDiv n 8)).find? (fun i => (ws.getD i none).isNone) with
    | some i => .error (4 * i)
    | none => .ok (((ws.flatMap (fun w => w.getD [])).map FloatFmt.e4m3.read).take n)

/-! ### CB4 tiles (R148, R149) -/

/-- Bytes of a CB4 record of `p` present elements. -/
def cb4Length (p : Nat) : Nat := 3136 + 64 * ceilDiv (ceilDiv p 2) 64

/-- The bits set in the bitmap of a CB4 record. -/
def cb4Present (bs : List Byte) : Nat := ((bs.drop 64).take 3072).foldl (fun n b => n + ((List.range 8).filter (fun i => b.getLsbD i)).length) 0

/-- The elements from `p` on in row-major order: a present one takes the next index. -/
def cb4From (bs : List Byte) (book : List Ext) : Nat → Nat → Nat → List (Option Ext)
  | 0, _, _ => []
  | fuel + 1, p, next =>
    if (bs.getD (64 + p / 8) 0).getLsbD (p % 8) then
      let j := fieldAt bs (3136 + next / 2) 1 / 16 ^ (next % 2) % 16
      some (book.getD j (.zero false)) :: cb4From bs book fuel (p + 1) (next + 1)
    else none :: cb4From bs book fuel (p + 1) next

/-- A codebook of 16 BF16 entries. -/
def bookOf (bs : List Byte) : List Ext := (List.range 16).map (fun j => FloatFmt.bf16.read (fieldAt bs (2 * j) 2))

/-- The columns of a CB4 record under a codebook; `none` when its count disagrees with its bitmap. -/
def cb4Columns (bs : List Byte) (book : List Ext) : Option (List (List (Option Ext))) :=
  if fieldAt bs 0 4 ≠ cb4Present bs then none
  else
    let all := cb4From bs book 24576 0 0
    some ((List.range 128).map (fun n => (List.range 192).map (fun k => all.getD (128 * k + n) none)))

/-! ### The operands of a tile step (R188 to R190) -/

/-- The rows of an operand, or the failing check with its address. -/
abbrev Rows := Except (Nat × Nat × Nat) (List (List Ext))

/-- Rows of `n` elements of a matrix format at the addresses given. -/
def Run.tileRows (r : Run s0) (o : EngOp) (f n : Nat) (at' : List Nat) : Run s0 × Rows :=
  at'.foldl (fun (acc : Run s0 × Rows) ea =>
    match acc.2 with
    | .error _ => acc
    | .ok rows =>
      if ea % 4 ≠ 0 then (acc.1, .error (0x07, 0x00, ea))
      else
        let (r, g) := acc.1.engineRead o .core ea (tileBytes f n)
        match g with
        | .bytes bs =>
          match tileRow f n bs with
          | .ok row => (r, .ok (rows ++ [row]))
          | .error off => (r, .error (0x14, 0x00, ea + off))
        | .park v => (r, .error (0x08, 0x00, v))
        | .fault c q v => (r, .error (c, q, v))) (r, .ok [])

/-- The shape may stand for an operand in the core store: its format, and one plane and block. -/
def operandOk (w : BitVec 256) (fmt : Nat) : Bool := shSpace w == 0 && shFmt w == fmt && shPlanes w == 1 && shBlocks w == 1

/-- Columns of rows. -/
def columnsOf (n : Nat) (rows : List (List Ext)) : List (List (Option Ext)) :=
  (List.range n).map (fun j => rows.map (fun row => some (row.getD j (.zero false))))

/-- The row addresses of operand A: its rows, or those that an index list names (R190). -/
def Run.tileA (r : Run s0) (o : EngOp) (k : Nat) (fmt : Nat) : Run s0 × Except (Nat × Nat × Nat) (List Nat) :=
  let a := o.shapes.getD 0 0
  match o.cmd.kind with
  | .mmaG _ _ =>
    let x := o.shapes.getD 2 0
    let c := shCols x
    if !operandOk a fmt || shRows a == 0 || shCols a != k || !operandOk x 21 || shRows x != 1 || c == 0 || decide (128 < c) then (r, .error (0x08, 0x00, 0))
    else
      let (r, g) := r.engineRead o .core (shBase x) (2 * c)
      match g with
      | .bytes bs =>
        let is := (List.range c).map (fun i => fieldAt bs (2 * i) 2)
        if is.any (fun i => decide (shRows a ≤ i)) then (r, .error (0x08, 0x01, shBase x))
        else (r, .ok (is.map (fun (i : Nat) => displace (shBase a) (i * shRowStride a))))
      | .park v => (r, .error (0x08, 0x00, v))
      | .fault p q v => (r, .error (p, q, v))
  | _ =>
    if !operandOk a fmt || decide (128 < shRows a) || shCols a != k then (r, .error (0x08, 0x00, 0))
    else (r, .ok ((List.range (shRows a)).map (fun (i : Nat) => displace (shBase a) (i * shRowStride a))))

/-- The columns of operand B. -/
def Run.tileB (r : Run s0) (o : EngOp) (f : Nat) : Run s0 × Except (Nat × Nat × Nat) (List (List (Option Ext))) :=
  let b := o.shapes.getD 1 0
  match o.cmd.kind with
  | .mmaCb _ =>
    if !operandOk b 8 || shRows b != 192 || shCols b != 128 then (r, .error (0x08, 0x00, 0))
    else if shBase b % 64 ≠ 0 then (r, .error (0x07, 0x00, shBase b))
    else
      let (r, g) := r.engineRead o .core (shBase b) 3136
      match g with
      | .bytes h =>
        if fieldAt h 0 4 ≠ cb4Present h then (r, .error (0x13, 0x08, shBase b))
        else
          let (r, g) := r.engineRead o .core (shBase b + 3136) (cb4Length (fieldAt h 0 4) - 3136)
          match g with
          | .bytes t =>
            match cb4Columns (h ++ t) (bookOf (h.drop 32)) with
            | some cols => (r, .ok cols)
            | none => (r, .error (0x13, 0x08, shBase b))
          | .park v => (r, .error (0x08, 0x00, v))
          | .fault p q v => (r, .error (p, q, v))
      | .park v => (r, .error (0x08, 0x00, v))
      | .fault p q v => (r, .error (p, q, v))
  | _ =>
    if !operandOk b (tileFmt f) || shRows b != tileK f || decide (128 < shCols b) then (r, .error (0x08, 0x00, 0))
    else
      let (r, rows) := r.tileRows o f (shCols b) ((List.range (tileK f)).map (fun (k : Nat) => displace (shBase b) (k * shRowStride b)))
      match rows with
      | .ok rows => (r, .ok (columnsOf (shCols b) rows))
      | .error e => (r, .error e)

/-- The format of A and the K and group size of a command; `mma.cb` takes E4M3 rows of 192 in groups of 6. -/
def mmaShape : CmdKind → Nat × Nat × Nat
  | .mma _ f | .mmaG _ f => (f.toNat, tileK f.toNat, tileG f.toNat)
  | _ => (0, 192, 6)

/-- A tile step of a command: the new elements, or the failing check. -/
def Run.tileOf (r : Run s0) (o : EngOp) (phys : Nat) : Run s0 × Except (Nat × Nat × Nat) (List (Nat × Nat × Nat)) :=
  let (f, k, g) := mmaShape o.cmd.kind
  let (r, at') := r.tileA o k (tileFmt f)
  match at' with
  | .error e => (r, .error e)
  | .ok at' =>
    let (r, a) := r.tileRows o f k at'
    match a with
    | .error e => (r, .error e)
    | .ok a =>
      let (r, b) := r.tileB o f
      match b with
      | .error e => (r, .error e)
      | .ok b => (r, .ok (tileStep g ((r.st.core o.core).accAt phys) a b))

/-! ### The head of a queue (R193, R194) -/

/-- The operation is done: its token goes out and it leaves its queue. -/
def Run.accDone (r : Run s0) (o : EngOp) (phys : Nat) (t : Token) : Run s0 :=
  let r := if o.waited then (r.answer o (some t) (some t)).answered o else r
  (r.modCore o.core (fun k => k.popQueue phys)).dropOp o.id

/-- An error completion without a fault (R193). -/
def Run.accError (r : Run s0) (o : EngOp) (phys cls code : Nat) (k : Kind) : Run s0 := r.accDone o phys (errorToken k (descriptor cls code o.ticket))

/-- The operation fails and leaves its queue; a tile step poisons the accumulator. -/
def Run.accFails (r : Run s0) (o : EngOp) (phys : Nat) (poison : Bool) (e : Nat × Nat × Nat) : Run s0 :=
  let r := r.modCore o.core (fun k => let k := k.popQueue phys; if poison then k.setPoison phys true else k)
  r.failOpWith o e.1 e.2.1 e.2.2

/-- The rectangle of an `accrd.st` or `accwr` is one that R194 allows. -/
def rectangleOk (w : BitVec 256) (bf16 : Bool) : Bool :=
  decide (shRows w ≤ 128) && decide (shCols w ≤ 128) && (shFmt w == 1 || (bf16 && shFmt w == 2)) && (spaceCode (shSpace w)).isSome

/-- A row of an accumulator in memory. -/
def accRowBytes (k : Core) (phys i n : Nat) (bf16 : Bool) : List Byte :=
  (List.range n).flatMap (fun j =>
    let v := k.accAt phys i j
    if bf16 then leBytes 2 (rnd .bf16 .rne .default (FloatFmt.f32.read v)).bits else leBytes 4 v)

/-- The rows of an `accwr`, from row `i` on. Log 38, DEDUCED: accrd.st and accwr stop at their failing row. -/
def Run.accRows (r : Run s0) (o : EngOp) (sp : Space) (w : BitVec 256) : Nat → Nat → List (Nat × Nat × Nat) → Run s0 × Except (Nat × Nat × Nat) (List (Nat × Nat × Nat))
  | 0, _, l => (r, .ok l)
  | n + 1, i, l =>
    let (r, g) := r.engineRead o sp (displace (shBase w) (i * shRowStride w)) (4 * shCols w)
    match g with
    | .bytes bs => r.accRows o sp w n (i + 1) (l ++ (List.range (shCols w)).map (fun j => (i, j, fieldAt bs (4 * j) 4)))
    | .park v => (r.parkOp o v kindRead, .error (0, 0, 0))
    | .fault c q v => (r, .error (c, q, v))

/-- The engine operation at the head of a queue makes its next move: it completes, or writes one row of an `accrd.st`. Log 37, DEDUCED: an accrd of a poisoned accumulator is a failing command with its deferred fault (R186, R193); only a skipped tile step raises none. -/
def Run.accOp (r : Run s0) (o : EngOp) (phys : Nat) : Run s0 :=
  let k := r.st.core o.core
  let w := o.shapes.getD 0 0
  match o.cmd.kind with
  | .accclr _ => (r.modCore o.core (fun k => k.clearAcc phys)).accDone o phys (control true)
  | .accrd _ =>
    let a := o.cmd.a.toNat % 2 ^ 64
    if a / 1024 ≠ 0 then r.accFails o phys false (0x08, 0x00, 0)
    else if k.isPoisoned phys then r.accFails o phys false (0x08, 0x06, 0)
    else r.accDone o phys (vector (packElems 32 ((List.range 16).map (fun j => k.accAt phys (a % 128) (16 * (a / 128) + j)))) false)
  | .accrdSt _ =>
    match o.denied with
    | some e => r.accFails o phys false (e.1, e.2, o.at')
    | none =>
      if !rectangleOk w true || shSpace w != 0 then r.accFails o phys false (0x08, 0x00, 0)
      else if k.isPoisoned phys then r.accFails o phys false (0x08, 0x06, 0)
      else if shRows w ≤ o.row ∨ shCols w = 0 then r.accDone o phys (control true)
      else
        let ea := displace (shBase w) (o.row * shRowStride w)
        let (r, p) := r.engineWrite o o.core .core ea (accRowBytes k phys o.row (shCols w) (shFmt w == 2))
        match p with
        | .done => if o.row + 1 < shRows w then r.setOp { o with row := o.row + 1 } else r.accDone o phys (control true)
        | .park v => r.parkOp o v kindWrite
        | .home _ v => r.accFails o phys false (0x08, 0x02, v)
        | .fault c q v => r.accFails o phys false (c, q, v)
  | .accwr _ =>
    match o.denied with
    | some e => r.accFails o phys false (e.1, e.2, o.at')
    | none =>
      if !rectangleOk w false then r.accFails o phys false (0x08, 0x00, 0)
      else
        let (r, l) := r.accRows o ((spaceCode (shSpace w)).getD .core) w (shRows w) 0 []
        match l with
        | .ok l => (r.modCore o.core (fun k => (k.writeAcc phys l).setPoison phys false)).accDone o phys (control true)
        | .error e => if e.1 = 0 then r else r.accFails o phys false e
  | _ =>
    if k.isPoisoned phys then r.accError o phys 0x08 0x06 .control
    else
      match o.denied with
      | some e => r.accFails o phys true (e.1, e.2, o.at')
      | none =>
        let (r, l) := r.tileOf o phys
        match l with
        | .ok l => ((r.modCore o.core (fun k => k.writeAcc phys l)).countOp o 0x28 1).accDone o phys (control true)
        | .error e => r.accFails o phys true e

/-! ### The commands (R187, R194, R195) -/

/-- `mma` (R187). -/
def execMma (acc f : BitVec 2) (g : Gate) (t0 t1 : Target) (s : State) : Host.Outcome State Fault Refusal :=
  commandNode (.mma acc f g t0 t1) (.mma acc f) s

/-- `mma` with gathered rows (R190). -/
def execMmaG (acc f : BitVec 2) (t0 t1 : Target) (s : State) : Host.Outcome State Fault Refusal := commandNode (.mmaG acc f t0 t1) (.mmaG acc f) s

/-- `mma.cb` (R187). -/
def execMmaCb (acc : BitVec 2) (g : Gate) (t0 t1 : Target) (s : State) : Host.Outcome State Fault Refusal :=
  commandNode (.mmaCb acc g t0 t1) (.mmaCb acc) s

/-- `accclr` (R194). -/
def execAccclr (acc : BitVec 2) (g : Gate) (t0 : Target) (s : State) : Host.Outcome State Fault Refusal :=
  commandNode (.accclr acc g t0) (.accclr acc) s

/-- `accrd` (R194). -/
def execAccrd (acc : BitVec 2) (g : Gate) (t0 t1 : Target) (s : State) : Host.Outcome State Fault Refusal :=
  commandNode (.accrd acc g t0 t1) (.accrd acc) s

/-- `accrd.st` (R194). -/
def execAccrdSt (acc : BitVec 2) (g : Gate) (t0 : Target) (s : State) : Host.Outcome State Fault Refusal :=
  commandNode (.accrdSt acc g t0) (.accrdSt acc) s

/-- `accwr` (R194). -/
def execAccwr (acc : BitVec 2) (g : Gate) (t0 : Target) (s : State) : Host.Outcome State Fault Refusal :=
  commandNode (.accwr acc g t0) (.accwr acc) s

/-- The place and width of a field of a shape record, and its range: a bound, or 32 bits signed (R195). -/
def tdField (fld : Nat) : Nat × Nat × Option Nat :=
  match fld with
  | 0 => (0, 56, some (2 ^ 56))
  | 1 => (61, 3, some 7)
  | 2 => (56, 5, some 32)
  | 3 => (176, 16, some 65536)
  | 4 => (160, 16, some 65536)
  | 5 => (144, 16, some 65536)
  | 6 => (128, 16, some 65536)
  | 7 => (96, 32, none)
  | 8 => (64, 32, none)
  | _ => (192, 32, none)

/-- The value is in the field's range. -/
def tdInRange (fld : Nat) (v : Word64) : Bool :=
  match (tdField fld).2.2 with
  | some n => decide (v.toNat < n)
  | none => decide (-(2 ^ 31 : Nat) ≤ v.toInt ∧ v.toInt < (2 ^ 31 : Nat))

/-- A record with one field replaced (R24, R195). -/
def setField (w : BitVec 256) (fld : Nat) (v : Word64) : BitVec 256 :=
  let (lo, n, _) := tdField fld
  let mask : BitVec 256 := BitVec.ofNat 256 ((2 ^ n - 1) * 2 ^ lo)
  (w &&& ~~~mask) ||| BitVec.ofNat 256 (v.toNat % 2 ^ n * 2 ^ lo)

/-- `tdset` (R195): it is written at the commit. -/
def execTdset (g : Gate) (fld : BitVec 6) (m : BitVec 4) (s : State) : Host.Outcome State Fault Refusal :=
  fireWith (.tdset g fld m) (fun r f => if tdInRange fld.toNat f.a.word then r.command f (.tdset fld m) else (r, f.fault 0x08 0x00)) s

end Sys2Proof.Machine
end

