-- ==== Sys2Proof/Machine/Random.lean ====
section
/-! DEFINITION. Random streams (R209 to R211). -/

namespace Sys2Proof.Machine

open Sys2Proof

/-- One round of a draw (R209). -/
def drawRound (p : Word64 × Word64) : Word64 × Word64 :=
  let x := (p.1 ^^^ (p.1 >>> 29)) * 0xBF58476D1CE4E5B9
  let x := x ^^^ p.2
  (x, p.2 + 0x9E3779B97F4A7C15)

/-- The draw of a key at a counter (R209). -/
def drawOf (key : Word64) (ctr : BitVec 128) : Word64 :=
  let p := drawRound (drawRound (drawRound (drawRound (ctr.setWidth 64 ^^^ key, ctr.extractLsb' 64 64 ^^^ key.rotateLeft 32))))
  p.1 ^^^ (p.1 >>> 32)

/-- The FP32 bits of a draw (R209): its top 24 bits times 2^-24, exact. -/
def drawF32 (x : Word64) : Nat :=
  let m := x.toNat / 2 ^ 40
  if m = 0 then 0 else (rneF32 (.fin false m (-24) false)).bits

/-- The stream that an instruction draws from or skips in (R210, R211, R228). -/
def streamOf (i : Instr) : Option (BitVec 2) :=
  match i with
  | .randN64 n _ _ _ _ | .randF32 n _ _ _ _ | .rskip n _ _ => some n
  | .scollSample _ m _ _ => some m
  | _ => none

/-- A lower-indexed node of the stream in the run has not fired (R210). -/
def State.earlierDraw (s : State) (f : Fire) (n : Nat) : Bool :=
  (List.range f.idx).any (fun i => !f.b.fired.contains i && (match s.instrAt f.c f.b i with
    | some j => (streamOf j).any (fun m => m.toNat == n)
    | none => false))

/-- The counter that a `rand` draws from: the stream as older runs leave it, after the lower-indexed draws and skips of its own run (R210). -/
def Fire.counter (f : Fire) (n : Nat) : BitVec 128 :=
  f.b.effs.foldl (fun c e => match e.eff with
    | .draw m k => if m.toNat = n ∧ e.idx < f.idx then c + BitVec.ofNat 128 k else c
    | _ => c) (f.x.counter n)

/-- Draws `0` to `k - 1` from a counter. -/
def draws (key : Word64) (ctr : BitVec 128) (k : Nat) : List Word64 := (List.range k).map (fun i => drawOf key (ctr + BitVec.ofNat 128 i))

/-- A `rand` node (R210). -/
def randNode (ins : Instr) (n : BitVec 2) (k : Nat) (tok : List Word64 → Token) (s : State) : Host.Outcome State Fault Refusal :=
  fireNode ins (fun f =>
    if s.earlierDraw f n.toNat then .later
    else { NodeOut.of (tok (draws (f.x.key n.toNat) (f.counter n.toNat) k)) with effs := [.draw n k], outs := 1 }) s

/-- `rand.n64` (R210). -/
def execRandN64 (n : BitVec 2) (g : Gate) (v : Bool) (t0 t1 : Target) (s : State) : Host.Outcome State Fault Refusal :=
  randNode (.randN64 n g v t0 t1) n (if v then 8 else 1) (fun l =>
    if v then vector (BitVec.ofNat 512 (l.foldr (fun x m => x.toNat + 2 ^ 64 * m) 0)) false else scalar (l.headD 0)) s

/-- `rand.f32` (R210). -/
def execRandF32 (n : BitVec 2) (g : Gate) (v : Bool) (t0 t1 : Target) (s : State) : Host.Outcome State Fault Refusal :=
  randNode (.randF32 n g v t0 t1) n (if v then 16 else 1) (fun l =>
    if v then vector (BitVec.ofNat 512 (l.foldr (fun x m => drawF32 x + 2 ^ 32 * m) 0)) true else scalar (BitVec.ofNat 64 (drawF32 (l.headD 0))) true) s

/-- `rskip` (R211). -/
def execRskip (n : BitVec 2) (g : Gate) (t0 : Target) (s : State) : Host.Outcome State Fault Refusal :=
  fireNode (.rskip n g t0) (fun f =>
    if s.earlierDraw f n.toNat then .later else { NodeOut.of (control true) with effs := [.draw n f.a.word.toNat], outs := 1 }) s

end Sys2Proof.Machine
end

