-- ==== Sys2Proof/Machine/Soft.lean ====
section
/-! DEFINITION. Soft registers (R218 to R221), the nodes that write and read them (R222 to R230, R233 to R237), and log records (R231, R232, R235). -/

namespace Sys2Proof.Machine

open Sys2Proof

variable {s0 : State}

/-! ### Register images (R219) -/

/-- A field of an image: `n` bytes at byte `off`. -/
def imgField (im : BitVec 1024) (off n : Nat) : Nat := bitsOf im.toNat (8 * off) (8 * n)

def imgKind (im : BitVec 1024) : Nat := imgField im 0 1
def imgFlags (im : BitVec 1024) : Nat := imgField im 1 1
def imgCount (im : BitVec 1024) : Nat := imgField im 2 2
def imgPos (im : BitVec 1024) : Nat := imgField im 4 4
def imgDigest (im : BitVec 1024) : Nat := imgField im 8 8
def imgVref (im : BitVec 1024) : Word64 := BitVec.ofNat 64 (imgField im 16 8)
def imgSpill (im : BitVec 1024) : Nat := imgField im 24 8

/-- Entries of a MIX image: id and weight bits. -/
def imgEntries (im : BitVec 1024) : List (Nat × Nat) :=
  (List.range (min 8 (imgCount im))).map (fun j => (imgField im (16 + 8 * j) 4, imgField im (20 + 8 * j) 4))

/-- FLAGS bits. -/
def softCollapsed : Nat := 1
def softSpilled : Nat := 2
def softBf16 : Nat := 8
def softTopk : Nat := 16
def softReplay : Nat := 32

def imgFlag (im : BitVec 1024) (f : Nat) : Bool := imgFlags im / f % 2 == 1

/-- An image; `payload` is bytes 16 to 79 as a number. -/
def softImage (kind flags count pos digest payload : Nat) : BitVec 1024 :=
  BitVec.ofNat 1024 (kind % 2 ^ 8 + 2 ^ 8 * (flags % 2 ^ 8) + 2 ^ 16 * (count % 2 ^ 16) + 2 ^ 32 * (pos % 2 ^ 32) + 2 ^ 64 * (digest % 2 ^ 64)
    + 2 ^ 128 * (payload % 2 ^ 512))

/-- MIX entries as a payload. -/
def mixPayload (es : List (Nat × Nat)) : Nat := es.foldr (fun e n => e.1 % 2 ^ 32 + 2 ^ 32 * (e.2 % 2 ^ 32) + 2 ^ 64 * n) 0

/-- The payload of a HIDDEN image. -/
def hiddenPayload (vref : Word64) (spill ppos step : Nat) : Nat :=
  vref.toNat + 2 ^ 64 * (spill % 2 ^ 64) + 2 ^ 128 * (ppos % 2 ^ 32) + 2 ^ 160 * (step % 2 ^ 32)

/-- The fingerprint of a run of words (R212). -/
def rx64 (ws : List Word64) : Word64 := (ws.mapIdx (fun i w => w.rotateLeft (i % 64))).foldl (· ^^^ ·) 0

/-- The digest of MIX entries (R221). -/
def mixDigest (es : List (Nat × Nat)) : Nat := (rx64 (es.map (fun e => BitVec.ofNat 64 (e.1 % 2 ^ 32 + 2 ^ 32 * (e.2 % 2 ^ 32))))).toNat

/-! ### Vector references (R220) -/

def vrefBf16 (v : Word64) : Bool := v.getLsbD 56
def vrefElems (v : Word64) : Nat := bitsOf v.toNat 32 24
def vrefAddr (v : Word64) : Nat := v.toNat % 2 ^ 22
def vrefSize (v : Word64) : Nat := if vrefBf16 v then 2 else 4
def vrefBytes (v : Word64) : Nat := vrefElems v * vrefSize v

/-- The reference is valid. -/
def vrefOk (v : Word64) : Bool :=
  v.toNat / 2 ^ 57 == 0 && bitsOf v.toNat 22 10 == 0 && vrefAddr v % 64 == 0 && decide (vrefAddr v + vrefBytes v ≤ coreLimit)

/-- The elements of a vector as FP32 bits; BF16 widens exactly and keeps NaNs. -/
def vrefValues (v : Word64) (bs : List Byte) : List Nat :=
  (List.range (vrefElems v)).map (fun i => if vrefBf16 v then fieldAt bs (2 * i) 2 * 65536 else fieldAt bs (4 * i) 4)

/-! ### What a node reads -/

/-- The register as a node sees it: older runs, then the writes of its own run on which it depends (R222). -/
def Fire.soft (f : Fire) (n : BitVec 4) : BitVec 1024 :=
  (f.x.applySoft (f.b.effs.filter (fun e => (SMap.get f.b.ancest 0 f.idx).getLsbD e.idx))).softReg n.toNat

/-- A register write joins the effects; another write of it in the run on which the node does not depend is a conflict at the higher index (R222). -/
def Fire.writeSoft (f : Fire) (n : BitVec 4) (image : BitVec 1024) (o : NodeOut) : NodeOut :=
  let other := f.b.effs.find? (fun e => !(SMap.get f.b.ancest 0 f.idx).getLsbD e.idx && (match e.eff with
    | .soft m _ => m == n
    | _ => false))
  match other with
  | some e => { faults := [⟨max e.idx f.idx, 0x04, 0x04, 0, 0, 0, 0, none⟩] }
  | none => { o with effs := .soft n image :: o.effs }

/-- The node has acted: its control token. -/
def acted : NodeOut := NodeOut.of (control true)

/-- What a read of a soft-token node comes to. -/
inductive SoftGot where
  | ok (bs : List Byte)
  | later
  | park (va : Nat)
  | fault (cls code va : Nat)
  deriving DecidableEq, Repr

/-- A read as the node fires, as a load makes it (R107, R222). -/
def Run.softRead (r : Run s0) (f : Fire) (sp : Space) (ea n : Nat) : Run s0 × SoftGot :=
  let a := r.st.agent f.c
  if n = 0 then (r, .ok [])
  else
    match fireCheck r.st a sp ea n false .load with
    | some (c, q) => (r, .fault c q ea)
    | none =>
      if r.st.ownBars (r.st.ctx f.c) f.b sp ea n false then (r, .later)
      else
        let (r, g) := r.readBytes a sp ea n .r (r.st.seenBy f.c f.b f.idx)
        match g with
        | .bytes bs => (r, .ok bs)
        | .park v => (r, .park v)
        | .fault c q v => (r, .fault c q v)

/-- A read that a side-effecting node needs: on failure its run is marked faulting. -/
def Run.needs (r : Run s0) (f : Fire) (sp : Space) (ea n : Nat) (k : Run s0 → List Byte → Run s0 × NodeOut) : Run s0 × NodeOut :=
  let (r, g) := r.softRead f sp ea n
  match g with
  | .ok bs => k r bs
  | .later => (r, .later)
  | .park v =>
    match f.b.denied.find? (fun d => d.1 == f.idx) with
    | some d => (r, f.fault d.2.1 d.2.2 v)
    | none => (r.parkNode f.c f.b.iid f.idx v kindRead, .later)
  | .fault c q v => (r, f.fault c q v)

/-! ### Producing soft values (R225 to R227) -/

/-- The rank of a logit: a greater key ranks first (R225). -/
def logitKey (x : Nat) : Int :=
  match FloatFmt.f32.read x with
  | .nan _ => -(2 ^ 40 : Nat)
  | .zero _ => 0
  | _ => if x / 2 ^ 31 % 2 = 1 then -(x % 2 ^ 31 : Nat) else (x % 2 ^ 31 : Nat)

/-- An entry joins the `k` best so far, after those that rank as high. -/
def rankIn (k : Nat) (best : List (Nat × Nat)) (e : Nat × Nat) : List (Nat × Nat) :=
  (best.takeWhile (fun b => decide (logitKey e.2 ≤ logitKey b.2)) ++ e :: best.dropWhile (fun b => decide (logitKey e.2 ≤ logitKey b.2))).take k

/-- The `k` best of a list of logits, in order. -/
def topOf (k : Nat) (vs : List Nat) : List (Nat × Nat) := (vs.mapIdx (fun i v => (i, v))).foldl (rankIn k) []

/-- `stopk` (R225). -/
def execStopk (g : Gate) (n : BitVec 4) (t0 : Target) (s : State) : Host.Outcome State Fault Refusal :=
  fireWith (.stopk g n t0) (fun r f =>
    let v := f.a.word
    let b := f.b'.word.toNat
    let k := b % 16
    if !vrefOk v || k == 0 || decide (8 < k) || decide (vrefElems v < k) || bitsOf b 4 28 != 0 then (r, f.fault 0x08 0x00)
    else r.needs f .core (vrefAddr v) (vrefBytes v) (fun r bs =>
      let es := topOf k (vrefValues v bs)
      (r, f.writeSoft n (softImage 2 softTopk k (b / 2 ^ 32) (mixDigest es) (mixPayload es)) acted))) s

/-- The weights of `smix` and the flags that its roundings raise (R226). -/
def mixWeights (t : Ext) (vs : List Nat) : List Nat × FlagSet :=
  let xs := vs.map FloatFmt.f32.read
  if xs.all Ext.isNan then (vs.map (fun _ => FloatFmt.f32.nan), flagNV)
  else
    let m := xs.headD (.zero false)
    let es : List Rounded := xs.map (fun x =>
      if x.isNan then ⟨0, flagNV⟩
      else
        let d : Rounded := if x.eq m then ⟨0, 0⟩ else rounded .f32 .rne (addExt .rne x m.negate)
        let q := rounded .f32 .rne (divExt (FloatFmt.f32.read d.bits) t)
        let e := expOf .f32 .rne (FloatFmt.f32.read q.bits)
        ⟨e.bits, d.flags ||| q.flags ||| e.flags⟩)
    let sum := es.foldl (fun (acc : Rounded) e =>
      let c := addElem .f32 .rne acc.bits e.bits
      ⟨c.bits, acc.flags ||| c.flags⟩) ⟨0, 0⟩
    let ws := es.map (fun e => rounded .f32 .rne (divExt (FloatFmt.f32.read e.bits) (FloatFmt.f32.read sum.bits)))
    (ws.map Rounded.bits, flagsOfAll es ||| sum.flags ||| flagsOfAll ws)

/-- `smix` (R226). -/
def execSmix (g : Gate) (n : BitVec 4) (t0 : Target) (s : State) : Host.Outcome State Fault Refusal :=
  fireNode (.smix g n t0) (fun f =>
    let im := f.soft n
    let t := FloatFmt.f32.read (f.b'.word.toNat % 2 ^ 32)
    let positive : Bool := match t with
      | .fin neg _ _ _ => !neg
      | _ => false
    if !imgFlag im softTopk || !positive then f.fault 0x08 0x00
    else
      let es := imgEntries im
      let (ws, fl) := mixWeights t (es.map Prod.snd)
      let es := (es.map Prod.fst).zip ws
      f.writeSoft n (softImage 2 0 (imgCount im) (imgPos im) (mixDigest es) (mixPayload es)) { acted with flags := fl }) s

/-- `shid` (R227), and the check of a pending replay (R237). -/
def execShid (g : Gate) (n : BitVec 4) (t0 : Target) (s : State) : Host.Outcome State Fault Refusal :=
  fireWith (.shid g n t0) (fun r f =>
    let v := f.a.word
    let d := vrefElems v
    let step := f.b'.word.toNat % 2 ^ 32
    let ppos := f.b'.word.toNat / 2 ^ 32
    let hbf := if vrefBf16 v then softBf16 else 0
    if !vrefOk v || decide (d < 16) || decide (16384 < d) || d % 16 != 0 || ppos == 0xFFFFFFFF then (r, f.fault 0x08 0x00)
    else r.needs f .core (vrefAddr v) (vrefBytes v) (fun r bs =>
      let dig := (rx64 (quadsOf bs)).toNat
      let im := f.soft n
      let differs := imgCount im != d || imgFlag im softBf16 != vrefBf16 v || imgField im 32 4 != ppos || imgField im 36 4 != step || imgDigest im != dig
      if imgFlag im softReplay && differs then (r, f.fault 0x18 0x01)
      else (r, f.writeSoft n (softImage 3 hbf d (ppos + 1) dig (hiddenPayload v 0 ppos step)) acted))) s

/-! ### Collapse (R228) -/

/-- The entry with the greatest weight, the lowest id first; a NaN never wins. -/
def bestEntry (es : List (Nat × Nat)) : Nat × Nat :=
  let better := fun (m e : Nat × Nat) =>
    let x := FloatFmt.f32.read e.2
    let y := FloatFmt.f32.read m.2
    !x.isNan && (y.isNan || y.lt x || (x.eq y && decide (e.1 < m.1)))
  es.tail.foldl (fun m e => if better m e then e else m) (es.headD (0, 0))

/-- A weight as sampling reads it. -/
def max0 (w : Nat) : Nat :=
  match FloatFmt.f32.read w with
  | .nan _ => 0
  | x => if x.isNeg then 0 else w

/-- The first entry whose running sum passes `u`. Log 34, DEDUCED: scoll.sample on TEXT draws nothing. -/
def sampleFrom (u : Ext) : Nat → List (Nat × Nat) → Option (Nat × Nat)
  | _, [] => none
  | c, e :: r =>
    let c := (addElem .f32 .rne c (max0 e.2)).bits
    if u.lt (FloatFmt.f32.read c) then some e else sampleFrom u c r

/-- The entry of `scoll.sample` for a draw. -/
def sampledEntry (draw : Word64) (es : List (Nat × Nat)) : Nat × Nat :=
  let u := FloatFmt.f32.read (drawF32 draw)
  match sampleFrom u 0 es with
  | some e => e
  | none => ((es.filter (fun e => (Ext.zero false).lt (FloatFmt.f32.read e.2))).getLast?).getD (es.headD (0, 0))

/-- A collapse: `pick` names the entry, or none. -/
def collapse (f : Fire) (n : BitVec 4) (pick : List (Nat × Nat) → Option (Nat × Nat)) (effs : List Eff) : NodeOut :=
  let im := f.soft n
  if imgFlag im softTopk || imgFlag im softReplay then f.fault 0x08 0x00
  else if imgKind im = 1 then acted
  else if imgKind im = 2 then
    match pick (imgEntries im) with
    | some e => f.writeSoft n (softImage 1 softCollapsed 1 (imgPos im) e.1 0) { acted with effs := effs }
    | none => { NodeOut.of (control false) with effs := effs }
  else f.fault 0x08 0x00

/-- `scoll.argmax` (R228). -/
def execScollArgmax (g : Gate) (n : BitVec 4) (t0 : Target) (s : State) : Host.Outcome State Fault Refusal :=
  fireNode (.scollArgmax g n t0) (fun f => collapse f n (fun es => some (bestEntry es)) []) s

/-- `scoll.sample` (R228). -/
def execScollSample (g : Gate) (m : BitVec 2) (n : BitVec 4) (t0 : Target) (s : State) : Host.Outcome State Fault Refusal :=
  fireNode (.scollSample g m n t0) (fun f =>
    if s.earlierDraw f m.toNat then .later
    else collapse f n (fun es => some (sampledEntry (drawOf (f.x.key m.toNat) (f.counter m.toNat)) es)) [.draw m 1]) s

/-- `scoll.conf` (R228). -/
def execScollConf (g : Gate) (n : BitVec 4) (t0 : Target) (s : State) : Host.Outcome State Fault Refusal :=
  fireNode (.scollConf g n t0) (fun f =>
    let t := FloatFmt.f32.read (f.b'.word.toNat % 2 ^ 32)
    collapse f n (fun es =>
      let e := bestEntry es
      let w := FloatFmt.f32.read e.2
      if !w.isNan && !t.isNan && !w.lt t then some e else none) []) s

/-! ### The next input row (R229) -/

/-- `semb`, and what must hold before any access. The register image goes with the operation as its data. Log 106, DEDUCED: semb checks the register's kind before its descriptor. -/
def sembNode (ins : Instr) (n : BitVec 4) (proj : Bool) (s : State) : Host.Outcome State Fault Refusal :=
  fireWith ins (fun r f =>
    let im := f.soft n
    let k := imgKind im
    let cmd := f.cmd (.semb n proj)
    let desc := (descCopy r.st f.c f.b f.idx f.a.word.toNat 128).toOption
    let rowBytes := desc.map (fun d => fieldAt d 12 2)
    let size := (desc.bind (fun d => fmtBits (fieldAt d 14 1))).getD 32 / 8
    let sh := (shapesOf (r.st.core (f.c / 4)) cmd).toOption.bind List.head?
    let long := rowBytes.any (fun w => decide (w < imgCount im * size))
    let badShape : Bool := match sh with
      | none => true
      | some h => shSpace h != 0 || !(shFmt h == 1 || shFmt h == 2) || shRows h != imgCount im
          || rowBytes.any (fun w => decide (w < shCols h * size))
    let bad := k == 0 || imgFlag im softTopk || imgFlag im softReplay || (proj && (k != 3 || badShape)) || (!proj && k == 3 && long)
    if bad then (r, f.fault 0x08 0x00)
    else
      let r := r.issue f.c f.b f.idx cmd true f.sh.t0 f.sh.t1
      match r.st.op? r.st.uid with
      | some o => ((r.setOp { o with data := leBytes 128 im.toNat }).mapAtIssue o.id (fun o => k != 3 && tableFieldsOk o.desc true && decide (gData o.desc + gRowBytes o.desc ≤ coreLimit)), {})
      | none => (r, {})) s

/-- `semb` (R229). -/
def execSemb (g : Gate) (n : BitVec 4) (t0 : Target) (s : State) : Host.Outcome State Fault Refusal := sembNode (.semb g n t0) n false s

/-- `semb.proj` (R229). -/
def execSembProj (g : Gate) (n : BitVec 4) (t0 : Target) (s : State) : Host.Outcome State Fault Refusal := sembNode (.sembProj g n t0) n true s

/-! ### The context log (R231 to R236) -/

/-- Bytes of the record of an image (R232). -/
def recordSize (kind count : Nat) : Nat :=
  match kind with
  | 2 => 16 + 16 * ceilDiv count 2
  | 3 => 32
  | _ => 16

/-- The record of an image (R232, R233). -/
def recordBytes (im : BitVec 1024) (spill : Nat) (replayable : Bool) : List Byte :=
  let k := imgKind im
  let spilled : Bool := k = 3 && spill != 0
  let kept := imgFlags im % 2 + imgFlags im / 8 % 2 * 8 + (if spilled || (k = 3 && imgFlag im softSpilled) then 2 else 0) + (if replayable then 4 else 0)
  let head := leBytes 1 k ++ leBytes 1 kept ++ leBytes 2 (imgCount im) ++ leBytes 4 (imgPos im) ++ leBytes 8 (imgDigest im)
  let body := match k with
    | 2 => leBytes (16 * ceilDiv (imgCount im) 2) (im.toNat / 2 ^ 128 % 2 ^ (64 * imgCount im))
    | 3 => leBytes 8 (if spilled then spill else imgSpill im) ++ leBytes 4 (imgField im 32 4) ++ leBytes 4 (imgField im 36 4)
    | _ => []
  head ++ body

/-- An append copies the vector of its soft token to the spill area (R233). -/
def copiesVector (im : BitVec 1024) (spill : Word64) : Bool := imgKind im == 3 && spill != 0

/-- `slog` (R233): gM and sN as they stand now; the append follows the commit. -/
def execSlog (g : Gate) (m : BitVec 6) (n : BitVec 4) (t0 : Target) (s : State) : Host.Outcome State Fault Refusal :=
  fireNode (.slog g m n t0) (fun f =>
    if !f.x.isFull m.toNat then .later
    else
      let im := f.soft n
      let k := imgKind im
      let spill : Word64 := if k = 3 then f.a.word else 0
      if k == 0 || imgFlag im softTopk || imgFlag im softReplay || spill.toNat % 64 != 0 then f.fault 0x08 0x00
      else
        let e : Eff := .slog (f.x.reg m.toNat) spill im f.det
        let o := { acted with effs := [e], outs := 1 }
        if spill = 0 then o
        else f.writeSoft n (softImage 3 (imgFlags im ||| softSpilled) (imgCount im) (imgPos im) (imgDigest im)
          (hiddenPayload (imgVref im) spill.toNat (imgField im 32 4) (imgField im 36 4))) o) s

/-- An `slog` of an older run has not been performed (R234). -/
def slogPending (x : Ctx) (b : BlockRun) : Bool :=
  let is := fun (e : Eff) => match e with
    | .slog _ _ _ _ | .append _ => true
    | _ => false
  x.pend.any (fun p => is p.eff) || (x.older b.iid).any (fun o => o.effs.any (fun e => is e.eff))

/-- A log as its descriptor gives it. -/
structure Log where
  base  : Nat
  index : Nat
  count : Nat
  used  : Nat
  deriving DecidableEq, Repr

def logOf (d : List Byte) : Log := ⟨fieldAt d 0 8, fieldAt d 8 8, fieldAt d 16 4, fieldAt d 20 4⟩

/-- The header of a record is well-formed (R235), given the bytes of the record area from its offset to USED. Log 36, DEDUCED: a misaligned log descriptor or index is an alignment fault. -/
def headerOk (h : List Byte) (room : Nat) : Bool :=
  let k := fieldAt h 0 1
  let c := fieldAt h 2 2
  (k == 1 || (k == 2 && decide (1 ≤ c ∧ c ≤ 8)) || (k == 3 && decide (16 ≤ c ∧ c ≤ 16384) && c % 16 == 0)) && decide (recordSize k c ≤ room)

/-- A 64-byte descriptor of a log. -/
def Run.readLog (r : Run s0) (f : Fire) (va : Nat) : Run s0 × SoftGot :=
  if va % 64 ≠ 0 then (r, .fault 0x07 0x00 va) else r.softRead f .main va 64

/-- Record `i` of a log: its bytes, or the malformed-log fault. -/
def Run.readRecord (r : Run s0) (f : Fire) (l : Log) (i : Nat) : Run s0 × SoftGot :=
  if l.count ≤ i then (r, .fault 0x08 0x07 l.index)
  else if l.index % 4 ≠ 0 then (r, .fault 0x07 0x00 (l.index + 4 * i))
  else
    let (r, g) := r.softRead f .main (l.index + 4 * i) 4
    match g with
    | .ok bs =>
      let off := leNat bs
      if l.used < off + 16 then (r, .fault 0x08 0x07 (l.base + off))
      else
        let (r, g) := r.softRead f .main (l.base + off) 16
        match g with
        | .ok h =>
          if !headerOk h (l.used - off) then (r, .fault 0x08 0x07 (l.base + off))
          else
            let n := recordSize (fieldAt h 0 1) (fieldAt h 2 2)
            if n = 16 then (r, .ok h)
            else
              let (r, g) := r.softRead f .main (l.base + off + 16) (n - 16)
              match g with
              | .ok t => (r, .ok (h ++ t))
              | g => (r, g)
        | g => (r, g)
    | g => (r, g)

/-- Fields of a record. -/
def recSpill (h : List Byte) : Nat := fieldAt h 16 8
def recBf16 (h : List Byte) : Bool := fieldAt h 1 1 / 8 % 2 == 1
def recSpilled (h : List Byte) : Bool := fieldAt h 1 1 / 2 % 2 == 1
def recVectorBytes (h : List Byte) : Nat := fieldAt h 2 2 * (if recBf16 h then 2 else 4)

/-- How two records compare: unequal, equal, equal on their digests alone, or equal if their spilled vectors are (R236). -/
inductive Compared where
  | unequal | equal | digest | spilled
  deriving DecidableEq, Repr

def compareRecords (x y : List Byte) : Compared :=
  if fieldAt x 0 1 ≠ fieldAt y 0 1 ∨ fieldAt x 4 4 ≠ fieldAt y 4 4 then .unequal
  else
    match fieldAt x 0 1 with
    | 1 => if fieldAt x 8 4 = fieldAt y 8 4 then .equal else .unequal
    | 2 =>
      if fieldAt x 2 2 = fieldAt y 2 2 ∧ (x.drop 16).take (8 * fieldAt x 2 2) = (y.drop 16).take (8 * fieldAt x 2 2) then .equal else .unequal
    | _ =>
      if fieldAt x 2 2 ≠ fieldAt y 2 2 ∨ recBf16 x ≠ recBf16 y ∨ fieldAt x 8 8 ≠ fieldAt y 8 8 then .unequal
      else if recSpilled x && recSpilled y then .spilled else .digest

/-- The length of the common prefix from record `i` on, and whether a digest match was counted. -/
def Run.prefixFrom (r : Run s0) (f : Fire) (p q : Log) : Nat → Nat → Bool → Run s0 × Except SoftGot (Nat × Bool)
  | 0, i, deq => (r, .ok (i, deq))
  | fuel + 1, i, deq =>
    let (r, g) := r.readRecord f p i
    match g with
    | .ok x =>
      let (r, g) := r.readRecord f q i
      match g with
      | .ok y =>
        match compareRecords x y with
        | .unequal => (r, .ok (i, deq))
        | .equal => r.prefixFrom f p q fuel (i + 1) deq
        | .digest => r.prefixFrom f p q fuel (i + 1) true
        | .spilled =>
          let (r, g) := r.softRead f .main (recSpill x) (recVectorBytes x)
          match g with
          | .ok vx =>
            let (r, g) := r.softRead f .main (recSpill y) (recVectorBytes y)
            match g with
            | .ok vy => if vx = vy then r.prefixFrom f p q fuel (i + 1) deq else (r, .ok (i, deq))
            | g => (r, .error g)
          | g => (r, .error g)
      | g => (r, .error g)
    | g => (r, .error g)

/-- The outcome of a failed read of `scmp`: an E token, or a wait. -/
def Run.scmpFails (r : Run s0) (f : Fire) (g : SoftGot) : Run s0 × NodeOut :=
  match g with
  | .park v =>
    match f.b.denied.find? (fun d => d.1 == f.idx) with
    | some d => (r, NodeOut.of (errorToken .scalar (descriptor d.2.1 d.2.2 0)))
    | none => (r.parkNode f.c f.b.iid f.idx v kindRead, .later)
  | .fault c q _ => (r, NodeOut.of (errorToken .scalar (descriptor c q 0)))
  | _ => (r, .later)

/-- `scmp` (R236). -/
def execScmp (g : Gate) (t0 : Target) (s : State) : Host.Outcome State Fault Refusal :=
  fireWith (.scmp g t0) (fun r f =>
    if slogPending (r.st.ctx f.c) f.b then (r, .later)
    else
      let (r, x) := r.readLog f f.a.word.toNat
      match x with
      | .ok dx =>
        let (r, y) := r.readLog f f.b'.word.toNat
        match y with
        | .ok dy =>
          let (r, o) := r.prefixFrom f (logOf dx) (logOf dy) (min (logOf dx).count (logOf dy).count) 0 false
          match o with
          | .ok (n, deq) => (r, NodeOut.of (scalar (BitVec.ofNat 64 (n + (if deq then 2 ^ 32 else 0)))))
          | .error g => r.scmpFails f g
        | g => r.scmpFails f g
      | g => r.scmpFails f g) s

/-! ### Replay (R237) -/

/-- A failed read of `srpl` marks the run faulting. -/
def Run.srplFails (r : Run s0) (f : Fire) (g : SoftGot) : Run s0 × NodeOut :=
  match g with
  | .park v =>
    match f.b.denied.find? (fun d => d.1 == f.idx) with
    | some d => (r, f.fault d.2.1 d.2.2 v)
    | none => (r.parkNode f.c f.b.iid f.idx v kindRead, .later)
  | .fault c q v => (r, f.fault c q v)
  | _ => (r, .later)

/-- Plain stores of a run of bytes to the core store, in pieces of 64 and 32 bytes. -/
def coreStores (addr : Nat) (bs : List Byte) : List Eff :=
  (List.range (ceilDiv bs.length 64)).map (fun i =>
    let part := (bs.drop (64 * i)).take 64
    .access ⟨.store, .core, if part.length = 64 then .v512 else .v256, BitVec.ofNat 64 (addr + 64 * i), BitVec.ofNat 512 (leNat part)⟩)

/-- `srpl` (R237). Log 35, DESIGN CHOICE: srpl's misaligned destination is a space fault. -/
def execSrpl (g : Gate) (n : BitVec 4) (t0 : Target) (s : State) : Host.Outcome State Fault Refusal :=
  fireWith (.srpl g n t0) (fun r f =>
    let b := f.b'.word.toNat
    let dst := bitsOf b 32 22
    if b / 2 ^ 54 ≠ 0 ∨ dst % 64 ≠ 0 then (r, f.fault 0x08 0x00)
    else if slogPending (r.st.ctx f.c) f.b then (r, .later)
    else
      let (r, d) := r.readLog f f.a.word.toNat
      match d with
      | .ok db =>
        let (r, x) := r.readRecord f (logOf db) (b % 2 ^ 32)
        match x with
        | .ok h =>
          let flags := fieldAt h 1 1
          let count := fieldAt h 2 2
          let pos := fieldAt h 4 4
          let dig := fieldAt h 8 8
          match fieldAt h 0 1 with
          | 1 => (r, f.writeSoft n (softImage 1 (flags % 2) 1 pos dig 0) acted)
          | 2 => (r, f.writeSoft n (softImage 2 (flags % 2) count pos dig (leNat ((h.drop 16).take (8 * count)))) acted)
          | _ =>
            let hb := if recBf16 h then softBf16 else 0
            let vref : Word64 := BitVec.ofNat 64 ((if recBf16 h then 2 ^ 56 else 0) + count * 2 ^ 32 + dst)
            let ppos := fieldAt h 24 4
            let step := fieldAt h 28 4
            if coreLimit < dst + recVectorBytes h then (r, f.fault 0x08 0x00 dst)
            else if recSpilled h then
              let (r, v) := r.softRead f .main (recSpill h) (recVectorBytes h)
              match v with
              | .ok bs =>
                if (rx64 (quadsOf bs)).toNat ≠ dig then (r, f.fault 0x18 0x01)
                else
                  (r, f.writeSoft n (softImage 3 (softSpilled + hb) count pos dig (hiddenPayload vref (recSpill h) ppos step))
                    { acted with effs := coreStores dst bs })
              | g => r.srplFails f g
            else if flags / 4 % 2 = 0 then (r, f.fault 0x18 0x02)
            else (r, f.writeSoft n (softImage 3 (softReplay + hb) count pos dig (hiddenPayload vref 0 ppos step)) acted)
        | g => r.srplFails f g
      | g => r.srplFails f g) s

/-! ### Fields (R230) -/

/-- `sget` (R230). -/
def execSget (g : Gate) (fld : BitVec 3) (n : BitVec 4) (t0 : Target) (s : State) : Host.Outcome State Fault Refusal :=
  fireNode (.sget g fld n t0) (fun f =>
    let im := f.soft n
    let j := f.a.word.toNat
    let v := fun (off : Nat) => NodeOut.of (scalar (BitVec.ofNat 64 (imgField im off 8)))
    match fld.toNat with
    | 0 => v 0
    | 1 => v 8
    | 2 =>
      if 7 < j then NodeOut.of (errorToken .scalar (descriptor 0x08 0x00 0))
      else if imgKind im = 2 then v (16 + 8 * j) else NodeOut.of (scalar 0)
    | k => if imgKind im = 3 then v (8 * (k - 1)) else NodeOut.of (scalar 0)) s

end Sys2Proof.Machine
end

