-- ==== Sys2Proof/Machine/Stream.lean ====
section
/-! DEFINITION. The streamer and the allocator: `copy`, `copy.mc`, `xform`, `fprint`, `dedup`, `alloc`, `free` (R196 to R202, R212 to R216, R323, R327 to R329,
R416). -/

namespace Sys2Proof.Machine

open Sys2Proof

variable {s0 : State}

/-! ### Completions -/

/-- A completion goes out, and the operation remembers it. -/
def Run.tell (r : Run s0) (o : EngOp) (which count : Nat) (zx : Bool) : Run s0 :=
  let r := r.succeed o which count zx
  match r.st.op? o.id with
  | some o => r.setOp { o with sent := o.sent ||| 2 ^ which }
  | none => r

/-- The operation is done. -/
def Run.ended (r : Run s0) (o : EngOp) : Run s0 := r.dropOp o.id

/-- The fault of a row-wise operation: MAP holds its lowest unretired row (R370). -/
def Run.failRow (r : Run s0) (o : EngOp) (e : Nat × Nat × Nat) : Run s0 :=
  let r := r.put (.claims (r.st.claims.filter (fun c => c.2 != o.id)))
  r.failOp o { o.faultRec e.1 e.2.1 e.2.2 with map := o.wrote }

/-! ### The copy descriptor (R196) -/

def descShape (d : List Byte) (off : Nat) : BitVec 256 := BitVec.ofNat 256 (fieldAt d off 32)
def copySrc (d : List Byte) : BitVec 256 := descShape d 0
def copyDst (d : List Byte) : BitVec 256 := descShape d 32
def copyScope (d : List Byte) : Nat := fieldAt d 80 1
def copyMask (d : List Byte) : Nat := fieldAt d 81 1
def copyXop (d : List Byte) : Nat := fieldAt d 82 1
def copyXcvt (d : List Byte) : Nat := fieldAt d 83 1

/-- VSCOPE and the reserved bytes. -/
def copyFieldsOk (d : List Byte) : Bool :=
  decide (copyScope d ≤ 4) && decide (copyMask d < 16) && (d.drop 87).all (fun b => b == 0)

/-- Bytes of `n` elements of a format code. -/
def rowBytes (fmt n : Nat) : Nat := ceilDiv (n * (fmtBits fmt).getD 0) 8

/-- The shape may be moved: a format with an element size, and an even number of O4 elements (R197). -/
def movable (w : BitVec 256) (fmtToo : Bool) : Bool :=
  !fmtToo || ((fmtBits (shFmt w)).any (fun b => b != 0) && (shFmt w != 7 || shCols w % 2 == 0))

/-- SPACE of a source, and of a destination. -/
def sourceOk (w : BitVec 256) : Bool := decide (shSpace w ≤ 6)
def destOk (w : BitVec 256) : Bool := decide (shSpace w ≤ 5)

/-- The two shapes have equal extents (R197). -/
def sameExtents (a b : BitVec 256) : Bool := shRows a == shRows b && shCols a == shCols b && shPlanes a == shPlanes b && shBlocks a == shBlocks b

/-- The format code of R46 for a FMT code. -/
def cvtCode (fmt : Nat) : Option (BitVec 3) :=
  match fmt with
  | 1 => some 0
  | 2 => some 1
  | 3 => some 2
  | 4 => some 3
  | 5 => some 4
  | 6 => some 5
  | 18 => some 6
  | _ => none

/-- The rounding mode of a code. -/
def rmOfCode (c : Nat) : Rm :=
  match c % 4 with
  | 0 => .rne
  | 1 => .rz
  | 2 => .ru
  | _ => .rd

/-- The conversion that an `xform` asks for, when R169 lists it under its OVF and RM. -/
def xformCvt (d : List Byte) : Option (BitVec 3 × BitVec 3 × BitVec 2 × Rm) :=
  match cvtCode (shFmt (copyDst d)), cvtCode (shFmt (copySrc d)) with
  | some x, some y =>
    let ovf : BitVec 2 := BitVec.ofNat 2 (copyXcvt d / 4)
    let rm := rmOfCode (copyXcvt d)
    if wfCode (.vcvt .none x y ovf rm .none) = 0 then some (x, y, ovf, rm) else none
  | _, _ => none

/-- The descriptor is one that its command takes (R196, R197, R200, R202). -/
def copyOk (k : CmdKind) (d : List Byte) : Bool :=
  let a := copySrc d
  let b := copyDst d
  copyFieldsOk d && (match k with
    | .copy => sourceOk a && destOk b && movable a true && sameExtents a b && shFmt a == shFmt b
    | .copyMc => sourceOk a && shSpace b == 0 && copyMask d != 0 && movable a true && sameExtents a b && shFmt a == shFmt b
    | _ =>
      match copyXop d with
      | 0 => sourceOk a && destOk b && movable a true && (fmtBits (shFmt a)).any (fun w => w % 8 == 0) && shFmt a == shFmt b && shRows b == shCols a
          && shCols b == shRows a && shPlanes a == shPlanes b && shBlocks a == shBlocks b
      | 1 => sourceOk a && destOk b && sameExtents a b && (xformCvt d).isSome
      | 2 => shSpace a == 3 && shFmt a == 20
      | 3 => destOk b && movable b true
      | _ => false)

/-- The rows that an operation reads, and those that it writes. -/
def readRows (k : CmdKind) (d : List Byte) : Nat :=
  match k, copyXop d with
  | .xform, 3 => 0
  | _, _ => let a := copySrc d; shRows a * shPlanes a * shBlocks a

def writeRows (k : CmdKind) (d : List Byte) : Nat :=
  match k, copyXop d with
  | .xform, 2 => 0
  | _, _ => let b := copyDst d; shRows b * shPlanes b * shBlocks b

/-- The address of row `i` in ascending order (R197). -/
def linearRow (w : BitVec 256) (i : Nat) : Nat := shRowAt w (i / (shRows w * shPlanes w)) (i / shRows w % shPlanes w) (i % shRows w)

/-- The bytes of row `i` of the destination, given the rows of the source read so far; `none` when it needs rows not read yet. -/
def destRow (o : EngOp) (i : Nat) : Option (List Byte) :=
  let a := copySrc o.desc
  let b := copyDst o.desc
  let n := rowBytes (shFmt a) (shCols a)
  match o.cmd.kind, copyXop o.desc with
  | .xform, 0 =>
    let e := (fmtBits (shFmt a)).getD 8 / 8
    let plane := i / shRows b
    if (plane + 1) * shRows a ≤ o.row then
      some ((List.range (shRows a)).flatMap (fun j => (o.data.drop ((plane * shRows a + j) * n + i % shRows b * e)).take e))
    else none
  | .xform, 3 => some (List.replicate (rowBytes (shFmt b) (shCols b)) 0)
  | .xform, _ =>
    if i < o.row then
      (xformCvt o.desc).map (fun c =>
        let sb := cvtBits c.2.1 / 8
        (List.range (shCols a)).flatMap (fun j => leBytes (cvtBits c.1 / 8) (cvtElem c.1 c.2.1 c.2.2.1 c.2.2.2 (fieldAt o.data (i * n + j * sb) sb)).bits))
    else none
  | _, _ => if i < o.row then some ((o.data.drop (i * n)).take n) else none

/-! ### Copies (R197 to R200, R202) -/

/-- ROWS or COLS is 0: the operation moves nothing (R199). -/
def zeroExtent (o : EngOp) : Bool :=
  let w := if o.cmd.kind = .xform ∧ copyXop o.desc = 3 then copyDst o.desc else copySrc o.desc
  shRows w == 0 || shCols w == 0

/-- A command of zero extent completes at its issue (R199). -/
def Run.atIssue (r : Run s0) (id : Nat) : Run s0 :=
  match r.st.op? id with
  | none => r
  | some o =>
    let streams : Bool := match o.cmd.kind with
      | .copy | .copyMc | .xform => true
      | _ => false
    if streams && o.denied.isNone && copyOk o.cmd.kind o.desc && zeroExtent o then
      let r := (r.tell o 1 0 true).tell o 2 0 true
      let r := if o.waited then r.answered o else r
      r.ended o
    else r

/-- A streamer command: posted, or issued now and, when it has zero extent, complete. -/
def streamNode (ins : Instr) (k : CmdKind) (s : State) : Host.Outcome State Fault Refusal :=
  fireWith ins (fun r f =>
    let id := r.st.uid + 1
    let (r, o) := r.command f k
    (if f.sh.t0 = .none then r else r.atIssue id, o)) s

/-- The cluster that a `copy.mc` writes to: the issuing core's, or for a staged operand the one that slot G names (R200, R363). -/
def EngOp.destCluster (o : EngOp) : Nat := if o.c < 640 ∨ o.cmd.g = 0 then o.core / 4 else o.cmd.g.toNat - 1

/-- The cores that an operation writes to: those of MCMASK, or its own (R200). -/
def EngOp.dests (o : EngOp) : List Nat :=
  match o.cmd.kind with
  | .copyMc => ((List.range 4).filter (fun c => (copyMask o.desc).testBit c && !o.failmap.testBit c)).map (fun c => o.destCluster * 4 + c)
  | _ => [o.core]

/-- The granules of the box of a `copy.mc` in a core. -/
def boxGranules (o : EngOp) (core : Nat) : List Nat :=
  let b := copyDst o.desc
  ((List.range (writeRows o.cmd.kind o.desc)).flatMap (fun i => granules (coreKey core (linearRow b i)) (rowBytes (shFmt b) (shCols b)))).eraseDups

/-- A destination of a `copy.mc` fails; its claims go. -/
def Run.failDest (r : Run s0) (o : EngOp) (core : Nat) (e : Nat × Nat × Nat) : Run s0 :=
  let r := r.put (.claims (r.st.claims.filter (fun c => !(c.2 == o.id && storeOf (c.1 * 16) == core))))
  match r.st.op? o.id with
  | some o => r.setOp { o with failmap := o.failmap ||| 2 ^ (core % 4), failed := some (o.failed.getD e) }
  | none => r

/-- The claims of a `copy.mc`, each destination's as one event. -/
def Run.claim (r : Run s0) (o : EngOp) : Run s0 :=
  o.dests.foldl (fun r core =>
    let gs := boxGranules o core
    if gs.any (fun g => decide (coreKey core coreLimit ≤ 16 * g)) then r.failDest o core (0x08, 0x00, shBase (copyDst o.desc))
    else if gs.any r.st.taken then r.failDest o core (0x0B, 0x01, shBase (copyDst o.desc))
    else r.put (.claims (r.st.claims ++ gs.map (fun g => (g, o.id))))) (r.setOp { o with phase := 1 })

/-- The end of a streaming operation: `vis`, and for a `copy.mc` the destinations that failed (R200). Log 42, DEDUCED: a waited xform's token is srcdone; zero extent completes with ZX. -/
def Run.streamEnds (r : Run s0) (o : EngOp) : Run s0 :=
  let r := r.put (.claims (r.st.claims.filter (fun c => c.2 != o.id)))
  match o.failed with
  | some e =>
    let f := { o.faultRec e.1 e.2.1 e.2.2 with auxid := o.failmap, map := 0 }
    if o.dests.isEmpty then r.failOp o f
    else
      let r := r.opFault o f
      let r := r.tell o 2 0 false
      (if o.waited then r.answered o else r).ended o
  | none =>
    let r := r.tell o 2 0 false
    let counts : Bool := match o.cmd.kind with
      | .xform => false
      | _ => true
    (if o.waited && counts then r.answered o else r).ended o

/-- `srcdone`: the last row has been read. The one token of a waited `xform` is this one. -/
def Run.sourceDone (r : Run s0) (o : EngOp) : Run s0 :=
  if o.sent.testBit 1 then r
  else
    let r := r.tell o 1 0 false
    let counts : Bool := match o.cmd.kind with
      | .xform => true
      | _ => false
    if o.waited && counts then r.answered o else r

/-- The lines that a row read by an `xform` under XOP 2 touches are recoded to CUR, or rewritten raw when their page has C clear; a line in CUR is left alone (R311). -/
def Run.recodeRow (r : Run s0) (o : EngOp) (ea n : Nat) : Run s0 :=
  if n = 0 then r
  else (List.range ((ea + n - 1) / 1024 + 1 - ea / 1024)).foldl (fun r i =>
    match r.st.peek o.agent ((ea / 1024 + i) * 1024) with
    | none => r
    | some (pa, leaf) =>
      match markGen (SMap.get r.st.lines 0 (pa / 1024)) with
      | none => r
      | some g => if g = bitsOf (cmpGen r.st (pa / 2 ^ 38 % 4)) 6 2 then r else r.put (.line (pa / 1024) (if leafC leaf then codeMark r.st (pa / 1024) else 0))) r

/-- The streamer of a core has moved `n` bytes, which its counters take in units of 64 (R392). Log 32, DESIGN CHOICE: what streamer bytes are. -/
def Run.countStreamed (r : Run s0) (o : EngOp) (n : Nat) : Run s0 :=
  let t := SMap.get r.st.streamed 0 o.core + n
  (r.put (.streamed o.core (t % 64))).countOp o 0x2D (t / 64)

/-- The next piece of the next row of the source is read (R197). -/
def Run.readRow (r : Run s0) (o : EngOp) : Run s0 :=
  let a := copySrc o.desc
  let ea := linearRow a o.row
  let n := rowBytes (shFmt a) (shCols a)
  let p := (pieceAfter ea n o.got.length).getD (ea, 0)
  let (r, g) := r.engineRead o ((spaceCode (shSpace a)).getD .core) p.1 p.2
  match g with
  | .bytes bs =>
    let got := o.got ++ bs
    if got.length < n then r.setOp { o with got := got }
    else
      let o := { o with row := o.row + 1, data := o.data ++ got, got := [] }
      let r := r.setOp o
      let r := if o.cmd.kind = .xform ∧ copyXop o.desc = 2 then r.recodeRow o ea n else r
      if readRows o.cmd.kind o.desc ≤ o.row then r.sourceDone o else r
  | .park v => r.parkOp o v kindRead
  | .fault c q v => r.failRow o (c, q, v)

/-- The next piece of row `wrote` of the destination is written, for a `copy.mc` at every destination (R197, R200). -/
def Run.writeRow (r : Run s0) (o : EngOp) (bs : List Byte) : Run s0 :=
  let b := copyDst o.desc
  let ea := linearRow b o.wrote
  let sp := (spaceCode (shSpace b)).getD .core
  let p := (pieceAfter ea bs.length o.put).getD (ea, 0)
  let part := (bs.drop o.put).take p.2
  let next := fun (o : EngOp) => if bs.length ≤ o.put + p.2 then { o with wrote := o.wrote + 1, put := 0 } else { o with put := o.put + p.2 }
  match o.cmd.kind with
  | .copyMc =>
    let r := o.dests.foldl (fun r core =>
      let (r, x) := r.engineWritePiece o core sp ea bs.length p part false
      match x with
      | .fault c q v => r.failDest o core (c, q, v)
      | _ => r) r
    match r.st.op? o.id with
    | some o => (r.setOp (next o)).countStreamed o p.2
    | none => r
  | _ =>
    let (r, x) := r.engineWritePiece o o.core sp ea bs.length p part true
    match x with
    | .done => (r.setOp (next o)).countStreamed o p.2
    | .park v => r.parkOp o v kindWrite
    | .home f _ => r.homeOp o f
    | .fault c q v => r.failRow o (c, q, v)

/-- A copy or transform makes its next move. Log 44, DESIGN CHOICE: the streamer's read-ahead is a free choice of at most one row. -/
def Run.streamOp (r : Run s0) (o : EngOp) : Run s0 :=
  match o.denied with
  | some e => r.failRow o (e.1, e.2, o.at')
  | none =>
    if !copyOk o.cmd.kind o.desc then r.failRow o (0x08, 0x00, 0)
    else if zeroExtent o then r.atIssue o.id
    else
      let isMc : Bool := match o.cmd.kind with
        | .copyMc => true
        | _ => false
      if isMc && o.phase == 0 then r.claim o
      else if o.dests.isEmpty then r.streamEnds o
      else
        let more := decide (o.row < readRows o.cmd.kind o.desc)
        let done := decide (writeRows o.cmd.kind o.desc ≤ o.wrote)
        if done && !more then (r.sourceDone o).streamEnds (match (r.sourceDone o).st.op? o.id with
          | some p => p
          | none => o)
        else
          match (if done then none else destRow o o.wrote) with
          | none => if more then r.readRow o else r
          | some bs =>
            if more && Config.readsAhead r.choice then r.chose.readRow o
            else (if more then r.chose else r).writeRow o bs

/-- `copy` (R197). -/
def execCopy (g : Gate) (t0 t1 : Target) (s : State) : Host.Outcome State Fault Refusal := streamNode (.copy g t0 t1) .copy s

/-- `copy.mc` (R200). -/
def execCopyMc (g : Gate) (t0 t1 : Target) (s : State) : Host.Outcome State Fault Refusal := streamNode (.copyMc g t0 t1) .copyMc s

/-- `stage` (R201): the entries are released at the commit. Bits 63:16 of A are ignored (R3). -/
def execStage (g : Gate) (s : State) : Host.Outcome State Fault Refusal := commandNode (.stage g) .stage s

/-- `xform` (R202). -/
def execXform (g : Gate) (t0 : Target) (s : State) : Host.Outcome State Fault Refusal := streamNode (.xform g t0) .xform s

/-! ### Fingerprints (R212) -/

/-- `fprint` (R212). -/
def execFprint (g : Gate) (core : Bool) (t0 t1 : Target) (s : State) : Host.Outcome State Fault Refusal :=
  commandNode (.fprint g core t0 t1) (.fprint core) s

/-- The next word of an `fprint` is read, or its fingerprint sent. -/
def Run.fprintOp (r : Run s0) (o : EngOp) (core : Bool) : Run s0 :=
  let a := o.cmd.a.toNat % 2 ^ 64
  let n := o.cmd.b.toNat % 2 ^ 64
  match o.denied with
  | some e => r.failOpWith o e.1 e.2 o.at'
  | none =>
    if a % 8 ≠ 0 then r.failOpWith o 0x07 0x00 a
    else if n % 8 ≠ 0 ∨ 2 ^ 32 < n then r.failOpWith o 0x08 0x00 a
    else if n / 8 ≤ o.row then
      let t := some (scalar (BitVec.ofNat 64 (leNat o.data)))
      ((r.answer o t t).answered o).ended o
    else
      let (r, g) := r.engineRead o (if core then .core else .main) (a + 8 * o.row) 8
      match g with
      | .bytes bs =>
        let w : Word64 := BitVec.ofNat 64 (leNat bs)
        (r.setOp { o with row := o.row + 1, data := leBytes 8 (BitVec.ofNat 64 (leNat o.data) ^^^ w.rotateLeft (o.row % 64)).toNat }).countStreamed o 8
      | .park v => r.parkOp o v kindRead
      | .fault c q v => r.failOpWith o c q v

/-! ### `alloc` and `free` (R215, R216, R323, R416) -/

/-- `alloc` (R215). Log 41, DESIGN CHOICE: misaligned alloc and free are space faults. -/
def execAlloc (g : Gate) (t0 : Target) (s : State) : Host.Outcome State Fault Refusal := commandNode (.alloc g t0) .alloc s

/-- `free` (R216): the page is unmapped at the commit. -/
def execFree (g : Gate) (s : State) : Host.Outcome State Fault Refusal := commandNode (.free g) .free s

/-- `spawn` (R214): the node is enqueued at the commit. -/
def execSpawn (g : Gate) (s : State) : Host.Outcome State Fault Refusal := commandNode (.spawn g) .spawn s

/-- An `alloc` is performed. Bits 63:4 of B are ignored (R3). -/
def Run.allocOp (r : Run s0) (o : EngOp) : Run s0 :=
  let va := o.cmd.a.toNat % 2 ^ 64
  let b := o.cmd.b.toNat % 2 ^ 64
  let sz := b % 4
  let k := pageBits sz
  match o.denied with
  | some e => r.failOpWith o e.1 e.2 o.at'
  | none =>
    if 2 ^ 56 ≤ va ∨ va % 2 ^ k ≠ 0 then r.failOpWith o 0x08 0x00 va
    else
      let asid := r.st.asidOf o.grp
      match placeOf r.st (r.st.rootOf o.grp) va sz with
      | .noRoot => r.failOpWith o 0x0A 0x03 va
      | .malformed => r.failOpWith o 0x0A 0x04 va
      | .mapped => r.failOpWith o 0x08 0x00 va
      | .missing => r.parkOp o va 0
      | .entry at' _ =>
        match r.takeFrames o.agent (2 ^ (k - 12)) with
        | none => r.failOpWith o 0x08 0x02 va
        | some (f, r) =>
          let r := r.useFrames f (2 ^ (k - 12)) o.part
          let r := r.mapPage at' asid va sz (leafWord f sz asid (b.testBit 2) (b.testBit 3) false false)
          let r := if o.waited then (r.answer o (some (control true)) none).answered o else r
          r.ended o

/-- A `free` is performed: V = 0, the buffers invalidated, and the count of each frame falls (R323). -/
def Run.freeOp (r : Run s0) (o : EngOp) : Run s0 :=
  let va := o.cmd.a.toNat % 2 ^ 64
  match walk r.st (r.st.rootOf o.grp) va with
  | .leaf l at' =>
    let k := pageBits (leafSize l)
    let n := 2 ^ (k - 12)
    let f := leafFrame l / 4096
    if 2 ^ 56 ≤ va ∨ va % 2 ^ k ≠ 0 ∨ (List.range n).any (fun i => (r.st.frameOf (f + i)).st != 1) = true then r.failOpWith o 0x08 0x00 va
    else
      let r := r.writeLeaf at' (r.st.asidOf o.grp) va (leafSize l) (l &&& ~~~1)
      ((List.range n).foldl (fun r i => r.dropRef (f + i)) r).ended o
  | _ => r.failOpWith o 0x08 0x00 va

/-! ### `dedup` (R213, R327 to R329) -/

/-- `dedup` (R213). -/
def execDedup (g : Gate) (t0 : Target) (s : State) : Host.Outcome State Fault Refusal := commandNode (.dedup g t0) .dedup s

def dedupSize (d : List Byte) : Nat := fieldAt d 9 1
def dedupDest (d : List Byte) : Nat := fieldAt d 16 8
def dedupTable (d : List Byte) : Nat := fieldAt d 24 8

/-- The descriptor of a `dedup` is one it takes. Log 45, DEDUCED: an ill-formed dedup table is a space fault. -/
def dedupOk (d : List Byte) : Bool :=
  (fieldAt d 8 1 == 0 || fieldAt d 8 1 == 3) && decide (dedupSize d ≤ 1) && ((d.drop 10).take 6).all (fun b => b == 0) && (d.drop 40).all (fun b => b == 0)
    && dedupDest d % 2 ^ pageBits (dedupSize d) == 0 && decide (dedupDest d < 2 ^ 56)

/-- The fingerprint-table descriptor is one it takes (R327). -/
def tableOk (t : List Byte) : Bool :=
  let n := fieldAt t 8 4
  n != 0 && decide (n ≤ 2 ^ 24) && n == 2 ^ Nat.log2 n && decide (fieldAt t 12 1 < 8) && fieldAt t 12 1 % 2 == 1 && ((t.drop 13).take 3).all (fun b => b == 0)
    && (t.drop 28).all (fun b => b == 0) && fieldAt t 0 8 % 64 == 0

/-- What the ways of a bucket give: an equal frame, and whether a fingerprint matched without one. -/
structure Probe where
  equal : Option Nat
  false' : Nat
  stale : List Nat
  deriving DecidableEq, Repr

/-- The ways of a bucket at physical address `at'`, in order, up to the first equal frame (R328). -/
def probe (s : State) (at' fp sz : Nat) (src : List Byte) : Probe :=
  (List.range 4).foldl (fun (p : Probe) w =>
    if p.equal.isSome then p
    else
      let f := s.num (mainKey (at' + 16 * w)) 8
      let e := s.num (mainKey (at' + 16 * w + 8)) 8
      let fr := bitsOf e 12 28
      if e % 2 = 1 ∧ f = fp ∧ bitsOf e 10 2 = sz then
        let x := s.frameOf fr
        if x.st ≠ 1 then { p with stale := p.stale ++ [w] }
        else if x.ref.toNat < 65535 then
          if s.bytes (mainKey (fr * 4096)) src.length = src then { p with equal := some fr } else { p with false' := p.false' + 1 }
        else p
      else p) ⟨none, 0, []⟩

/-- A page of main that a `dedup` writes itself: an address in it, where it stands, and whether its leaf has S = 1. -/
structure OwnPage where
  va     : Nat
  pa     : Nat
  shared : Bool
  deriving DecidableEq, Repr

/-- A write at an offset of such a page, through copy-on-write where the page is shared (R330); `f` gives the bytes from the key they go to, and `none` follows an earlier failure. -/
def Run.putOwn (r : Option (Run s0)) (a : Agent) (x : OwnPage) (off : Nat) (f : State → Nat → List Byte) : Option (Run s0) :=
  r.bind (fun r => (if x.shared then r.ownFrame a (x.va + off) (x.pa + off) else some (r, x.pa + off)).map (fun e =>
    let k := mainKey e.2
    let bs := f e.1.st k
    (e.1.write k bs).wroteLines a .main (x.va + off) k bs.length))

/-- A word of 4 bytes counts up. -/
def Run.bump (r : Option (Run s0)) (a : Agent) (x : OwnPage) (off n : Nat) : Option (Run s0) :=
  if n = 0 then r else Run.putOwn r a x off (fun s k => leBytes 4 (s.num k 4 + n))

/-- A page of `n` frames at frame `f` gains a leaf. -/
def Run.addRef (r : Run s0) (f n : Nat) : Run s0 :=
  (List.range n).foldl (fun r i => let x := r.st.frameOf (f + i); r.put (.frame (f + i) { x with ref := x.ref + 1 })) r

/-- The hold of a bucket: probe, compare and map (R328). `table` is the page of the table's descriptor, from the descriptor on, and `bkt` that of the bucket. -/
def Run.dedupMap (r : Run s0) (o : EngOp) (perm : Nat) (table bkt : OwnPage) (at' : Nat) : Run s0 :=
  let d := o.desc
  let a := o.agent
  let sz := dedupSize d
  let n := 2 ^ (pageBits sz - 12)
  let dst := dedupDest d
  let asid := r.st.asidOf o.grp
  let fp := (rx64 (quadsOf o.data)).toNat
  let p := probe r.st bkt.pa fp sz o.data
  let free := (List.range 4).find? (fun w => p.stale.contains w || r.st.num (mainKey (bkt.pa + 16 * w + 8)) 8 % 2 == 0)
  let leaf := fun (f : Nat) => leafWord f sz asid (perm.testBit 0) (perm.testBit 1) true (perm.testBit 2)
  let fails := fun (r : Run s0) => r.failOpWith o 0x08 0x02 dst
  let count := fun (r : Option (Run s0)) (outcome : Nat) (else' : Run s0) =>
    match r with
    | none => fails else'
    | some r =>
      let r := r.tell o 0 outcome false
      (if o.waited then r.answered o else r).ended o
  let cleared := Run.bump (p.stale.foldl (fun r w => Run.putOwn r a bkt (16 * w + 8) (fun s k => leBytes 8 (s.num k 8 / 2 * 2))) (some r)) a table 20 p.false'
  match cleared, p.equal with
  | none, _ => fails r
  | some r, some f => count (Run.bump (some ((r.mapPage at' asid dst sz (leaf f)).addRef f n)) a table 16 1) 1 r
  | some r, none =>
    match r.takeFrames a n with
    | none => fails r
    | some (f, r) =>
      let r := r.useFrames f n o.part
      let r := (r.write (mainKey (f * 4096)) o.data).codeLines (perm.testBit 2) (mainKey (f * 4096)) o.data.length
      let r := r.mapPage at' asid dst sz (leaf f)
      count (match free with
        | some w => Run.putOwn (some r) a bkt (16 * w) (fun _ _ => leBytes 8 fp ++ leBytes 8 (1 + sz * 1024 + f * 4096))
        | none => Run.bump (some r) a table 24 1) (if p.false' = 0 then 0 else 2) r

/-- A `dedup` makes its next move: it reads the next 64 bytes of its source, or holds its bucket and maps. Log 43, DESIGN CHOICE: how dedup and fprint are cut into events. -/
def Run.dedupOp (r : Run s0) (o : EngOp) : Run s0 :=
  let d := o.desc
  let a := o.agent
  match o.denied with
  | some e => r.failOpWith o e.1 e.2 o.at'
  | none =>
    if !dedupOk d then r.failOpWith o 0x08 0x00 (dedupDest d)
    else if o.row < 2 ^ pageBits (dedupSize d) / 64 then
      let (r, g) := r.engineRead o (if fieldAt d 8 1 = 0 then .core else .main) (fieldAt d 0 8 + 64 * o.row) 64
      match g with
      | .bytes bs => r.setOp { o with row := o.row + 1, data := o.data ++ bs }
      | .park v => r.parkOp o v kindRead
      | .fault c q v => r.failOpWith o c q v
    else
      let tb := dedupTable d
      if tb % 64 ≠ 0 then r.failOpWith o 0x07 0x00 tb
      else if 2 ^ 56 ≤ tb then r.failOpWith o 0x08 0x00 tb
      else
        let (r, x) := r.translate a tb .rw
        match x with
        | .park => r.parkOp o tb (kindRead ||| kindWrite)
        | .fault c q => r.failOpWith o c q tb
        | .phys table tleaf =>
          let t := r.st.bytes (mainKey table) 64
          if !tableOk t then r.failOpWith o 0x08 0x00 tb
          else
            let bkt := fieldAt t 0 8 + 64 * ((rx64 (quadsOf o.data)).toNat % fieldAt t 8 4)
            if 2 ^ 56 ≤ bkt then r.failOpWith o 0x08 0x00 bkt
            else
              let (r, y) := r.translate a bkt .rw
              match y with
              | .park => r.parkOp o bkt (kindRead ||| kindWrite)
              | .fault c q => r.failOpWith o c q bkt
              | .phys bpa bleaf =>
                match placeOf r.st (r.st.rootOf o.grp) (dedupDest d) (dedupSize d) with
                | .noRoot => r.failOpWith o 0x0A 0x03 (dedupDest d)
                | .malformed => r.failOpWith o 0x0A 0x04 (dedupDest d)
                | .mapped => r.failOpWith o 0x08 0x00 (dedupDest d)
                | .missing => r.parkOp o (dedupDest d) 0
                | .entry at' _ => r.dedupMap o (fieldAt t 12 1) ⟨tb, table, leafS tleaf⟩ ⟨bkt, bpa, leafS bleaf⟩ at'

end Sys2Proof.Machine
end

