-- ==== Sys2Proof/Machine/Gather.lean ====
section
/-! DEFINITION. The embedding gather unit: `gather`, `scatter` and the rows of `semb` (R203 to R207, R229), shard maps, the row directory and the channel
counters (R302 to R305). -/

namespace Sys2Proof.Machine

open Sys2Proof

variable {s0 : State}

/-! ### The descriptor (R203) -/

/-- What a job of the gather unit makes of its rows. -/
inductive GatherMode where
  | rows | sum | mean | wsum | add | max | min | ovw
  deriving DecidableEq, Repr

/-- The job updates table rows. -/
def GatherMode.updates : GatherMode → Bool
  | .add | .max | .min | .ovw => true
  | _ => false

/-- The job computes on elements, which are FP32 or BF16. -/
def GatherMode.computes : GatherMode → Bool
  | .rows | .ovw => false
  | _ => true

/-- The mode of an operation; `semb` gathers one row from a TEXT image and a weighted sum from a MIX image. -/
def EngOp.gmode (o : EngOp) : GatherMode :=
  match o.cmd.kind with
  | .gather m =>
    match m.toNat with
    | 0 => .rows
    | 1 => .sum
    | 2 => .mean
    | _ => .wsum
  | .scatter m =>
    match m.toNat with
    | 0 => .add
    | 1 => .max
    | 2 => .min
    | _ => .ovw
  | _ => if fieldAt o.data 0 1 = 1 then .rows else .wsum

def EngOp.isSemb (o : EngOp) : Bool :=
  match o.cmd.kind with
  | .semb _ _ => true
  | _ => false

/-- Bags are used. -/
def usesBags (m : GatherMode) (d : List Byte) : Bool := m.computes && !m.updates && gOpt d / 2 % 2 == 1

/-- Bags of a pooled job. -/
def bagCount (m : GatherMode) (d : List Byte) : Nat := if usesBags m d then gBags d else 1

/-- Rows of DATA. -/
def dataRows (m : GatherMode) (d : List Byte) : Nat := if m.updates || m = .rows then gCount d else bagCount m d

/-- The descriptor of a `gather` or `scatter` is one that it takes (R203, R204, R206); bits 7:2 of OPT and bytes 72 to 127, for which R203 states no fault, are ignored (R3), but a
`scatter` takes OPT 0 only. Log 47, DESIGN CHOICE: the classes of a gather's operand errors. Log 48, DEDUCED: a waited gather's status goes to both targets. -/
def gatherOk (m : GatherMode) (d : List Byte) : Bool :=
  tableFieldsOk d m.computes && decide (gCount d < 2 ^ 24) && (!(m.updates) || gOpt d == 0) && (m != .wsum || gOpt d % 2 == 1) && (!usesBags m d || decide (1 ≤ gBags d ∧ gBags d ≤ 65536))
    && decide (gData d + dataRows m d * gRowBytes d ≤ coreLimit)

/-! ### Where a row stands (R302 to R304) -/

/-- The golden-ratio multiplier of R303 and R305. -/
def hashMul (x : Nat) : Nat := x * 0x9E3779B97F4A7C15 % 2 ^ 64

/-- `hsh` (R303). -/
def hsh (x : Nat) : Nat := hashMul x / 2 ^ 56

/-- The NEWADDR that a die's directory gives a row (R304). -/
def directoryAddr (s : State) (die table row : Nat) : Option Nat :=
  (s.directory.find? (fun e => e.1 == die && e.2.table == table && e.2.row == row && e.2.st == 2)).map (fun e => e.2.dst)

/-- The address of row `r`, or the space fault (R303). `m` is the shard map, empty when there is none. -/
def rowAddr (s : State) (die : Nat) (d m : List Byte) (r : Nat) : Option Nat :=
  if m.isEmpty then some ((gTable d + r * gRowBytes d) % 2 ^ 64)
  else
    let n := fieldAt m 0 2
    let q := r / n
    if fieldAt m 4 4 ≤ q then none
    else
      let table := fieldAt m 2 2
      match (if table = 0 then none else directoryAddr s die table r) with
      | some a => some a
      | none => some ((fieldAt m (64 + 16 * ((r + hsh q) % n)) 8 + q * gRowBytes d) % 2 ^ 64)

/-- The shard map that the operation has copied. -/
def EngOp.shards (o : EngOp) : List Byte := o.desc.drop 128

/-! ### The counters of a channel (R289, R305) -/

/-- The channel of a physical address, of 256. -/
def channelOf (pa : Nat) : Nat := pa / 2 ^ 38 % 4 * 64 + pa / 4096 % 64

/-- Counter keys of a channel: 0 CHLOAD, 1 to 64 BKT0 to BKT63, 65 the positions counted towards the next HOTRING entry. -/
def channelKey (ch n : Nat) : Nat := ch * 128 + n

/-- A saturating 32-bit counter advances. The firmware's reading and clearing of it is `Run.clearChannel`. -/
def Run.countUp (r : Run s0) (key n : Nat) : Run s0 := r.put (.chCount key (min (2 ^ 32 - 1) (SMap.get r.st.chCount 0 key + n)))

/-- A kept position counts at the channel of the address it uses. -/
def Run.countPosition (r : Run s0) (o : EngOp) (row va : Nat) : Run s0 :=
  match r.st.peek o.agent va with
  | none => r
  | some (pa, _) =>
    let ch := channelOf pa
    let r := r.countUp (channelKey ch 0) (gRowBytes o.desc / 64)
    let r := r.countUp (channelKey ch (1 + hashMul row / 2 ^ 58)) 1
    let n := SMap.get r.st.chCount 0 (channelKey ch 65) + 1
    let r := r.put (.chCount (channelKey ch 65) (n % 1024))
    if n = 1024 then r.put (.hotRing ch ((SMap.get r.st.hotRing [] ch ++ [(if o.shards.isEmpty then 0 else fieldAt o.shards 2 2, row)]).drop
      ((SMap.get r.st.hotRing [] ch).length + 1 - 8)))
    else r

/-! ### What an operation holds

`data` holds the index list, the bag offsets and the weights as they were read, or for `semb` the register image, and after them the row being made: its bytes
for `.rows`, the cells of R122 for a pooled row. -/

/-- Positions of the job. -/
def EngOp.positions (o : EngOp) : Nat :=
  if o.isSemb then (if o.gmode = .rows then 1 else fieldAt o.data 2 2) else gCount o.desc

/-- Bytes of the lists in `data`. -/
def EngOp.listBytes (o : EngOp) : Nat :=
  if o.isSemb then 128
  else 4 * gCount o.desc + (if usesBags o.gmode o.desc then 4 * gBags o.desc else 0) + (if o.gmode = .wsum then 4 * gCount o.desc else 0)

/-- The index at a position. -/
def EngOp.indexAt (o : EngOp) (j : Nat) : Nat :=
  if o.isSemb then (if o.gmode = .rows then fieldAt o.data 8 8 else fieldAt o.data (16 + 8 * j) 4) else fieldAt o.data (4 * j) 4

/-- The weight at a position. -/
def EngOp.weightAt (o : EngOp) (j : Nat) : Nat :=
  if o.isSemb then fieldAt o.data (20 + 8 * j) 4
  else fieldAt o.data (4 * gCount o.desc + (if usesBags o.gmode o.desc then 4 * gBags o.desc else 0) + 4 * j) 4

/-- The first position of bag `b`; the last bag ends at NIDX. -/
def EngOp.bagStart (o : EngOp) (b : Nat) : Nat :=
  if o.isSemb || !usesBags o.gmode o.desc then (if b = 0 then 0 else o.positions)
  else if gBags o.desc ≤ b then gCount o.desc else fieldAt o.data (4 * gCount o.desc + 4 * b) 4

/-- The position is dropped (R205). -/
def EngOp.dropsAt (o : EngOp) (j : Nat) : Bool := o.indexAt j == 0xFFFFFFFF || decide (gRows o.desc ≤ o.indexAt j)

/-- The row being made. -/
def EngOp.part' (o : EngOp) : List Byte := o.data.drop o.listBytes

def EngOp.withPart (o : EngOp) (bs : List Byte) : EngOp := { o with data := o.data.take o.listBytes ++ bs }

/-- The element format of a pooled job. -/
def gatherFmt (d : List Byte) : FloatFmt := if gFmt d = 1 then .f32 else .bf16

/-- Elements of a row. -/
def rowElems (d : List Byte) : Nat := gRowBytes d * 8 / (gatherFmt d).bits

/-- Lane `e` of the row being made. -/
def EngOp.lane (o : EngOp) (e : Nat) : XsLane := if o.part'.isEmpty then XsLane.zero else xsOfCell ((o.part'.drop (64 * e)).take 64)

/-- An element of a row as FP32 bits: BF16 widens exactly. -/
def widened (f : FloatFmt) (x : Nat) : Nat := if f.bits = 16 then (rneF32 (f.read x)).bits else x

/-- The term that an element of a row adds to a pooled row (R204). -/
def pooledTerm (m : GatherMode) (f : FloatFmt) (w x : Nat) : Ext :=
  if m = .wsum then FloatFmt.f32.read (mulElem .f32 .rne w (widened f x)).bits else f.read x

/-- A row joins the pooled row. -/
def EngOp.pool (o : EngOp) (w : Nat) (row : List Byte) : EngOp :=
  let f := gatherFmt o.desc
  let n := f.bits / 8
  o.withPart ((List.range (rowElems o.desc)).flatMap (fun e => xsCell (xsAdd (o.lane e) (pooledTerm o.gmode f w (fieldAt row (n * e) n))).1))

/-- An element of a finished pooled row: the sum, or the exact sum divided by the kept count, rounded once (R154, R204). -/
def pooledElement (f : FloatFmt) (mean : Bool) (kept : Nat) (x : XsLane) : Nat :=
  if mean then (if kept = 0 then 0 else (rnd f .rne .default (divExt x.value.1 (.fin false kept 0 false)).1).bits) else (xsRound f x).bits

/-- The row for DATA. -/
def EngOp.rowMade (o : EngOp) : List Byte :=
  if o.gmode = .rows then (if o.part'.isEmpty then List.replicate (gRowBytes o.desc) 0 else o.part')
  else
    let f := gatherFmt o.desc
    let kept := ((List.range (o.row - o.bagStart o.wrote)).filter (fun i => !o.dropsAt (o.bagStart o.wrote + i))).length
    (List.range (rowElems o.desc)).flatMap (fun e => leBytes (f.bits / 8) (pooledElement f (o.gmode = .mean) kept (o.lane e)))

/-! ### The moves of an operation -/

/-- An operation that fails. -/
def Run.gatherFails (r : Run s0) (o : EngOp) (cls code va : Nat) : Run s0 := r.failOpWith o cls code va

/-- A read that the operation needs. -/
def Run.gatherRead (r : Run s0) (o : EngOp) (sp : Space) (va n : Nat) (k : Run s0 → List Byte → Run s0) : Run s0 :=
  let (r, g) := r.engineRead o sp va n
  match g with
  | .bytes bs => k r bs
  | .park v => r.parkOp o v kindRead
  | .fault c q v => r.gatherFails o c q v

/-- The completion: COUNT gives the dropped positions, which DROPCNT, or the launch's NDROP for a node of the graph, adds up (R205, R355). -/
def Run.gatherEnds (r : Run s0) (o : EngOp) : Run s0 :=
  let r := r.tell o 0 o.drops false
  let r :=
    if r.st.ownerLives o then (r.modCtx o.c (fun x => { x with dropcnt := x.dropcnt + BitVec.ofNat 64 o.drops })).count o.c none 0x24 o.drops
    else if o.c < 640 then r
    else r.put (.launches (r.st.launches.map (fun l => if l.id == o.launch then { l with ndrop := l.ndrop + o.drops } else l)))
  (if o.waited then r.answered o else r).ended o

/-- The bag offsets are in order (R203). -/
def bagsOk (d : List Byte) (offs : List Byte) : Bool :=
  fieldAt offs 0 4 == 0 && (List.range (gBags d)).all (fun b =>
    decide (fieldAt offs (4 * b) 4 ≤ (if b + 1 = gBags d then gCount d else fieldAt offs (4 * (b + 1)) 4)))

/-- The index list, the offsets and the weights are read. The lists are read in one event (log 46, DESIGN CHOICE). -/
def Run.readLists (r : Run s0) (o : EngOp) : Run s0 :=
  let d := o.desc
  if o.isSemb then r.setOp { o with phase := 2 }
  else r.gatherRead o .main (gIndex d) (4 * gCount d) (fun r idx =>
    r.gatherRead o .main (gOffsets d) (if usesBags o.gmode d then 4 * gBags d else 0) (fun r offs =>
      if usesBags o.gmode d && !bagsOk d offs then r.gatherFails o 0x08 0x00 (gOffsets d)
      else r.gatherRead o .main (gWeights d) (if o.gmode = .wsum then 4 * gCount d else 0) (fun r ws =>
        r.setOp { o with data := idx ++ offs ++ ws, phase := 2 })))

/-- The table row that a kept position names. -/
def Run.tableRow (r : Run s0) (o : EngOp) (row : Nat) (k : Run s0 → Nat → Run s0) : Run s0 :=
  match rowAddr r.st o.agent.die o.desc o.shards row with
  | none => r.gatherFails o 0x08 0x00 (gShmap o.desc)
  | some va => if va % 64 ≠ 0 then r.gatherFails o 0x07 0x00 va else k r va

/-- A gathering operation moves: it looks up its next position, or writes the row it has made (R204, R205). -/
def Run.gatherMove (r : Run s0) (o : EngOp) : Run s0 :=
  let n := if o.gmode = .rows then o.positions else if o.isSemb then 1 else bagCount o.gmode o.desc
  if n ≤ o.wrote then r.gatherEnds o
  else
    let stop := if o.gmode = .rows then o.wrote + 1 else o.bagStart (o.wrote + 1)
    let j := o.row
    if j < stop then
      if o.dropsAt j then r.setOp { o with row := j + 1, drops := o.drops + 1 }
      else r.tableRow o (o.indexAt j) (fun r va =>
        r.gatherRead o .main va (gRowBytes o.desc) (fun r bs =>
          (r.countPosition o (o.indexAt j) va).setOp { (if o.gmode = .rows then o.withPart bs else o.pool (o.weightAt j) bs) with row := j + 1 }))
    else
      let (r, p) := r.engineWrite o o.core .core (gData o.desc + o.wrote * gRowBytes o.desc) o.rowMade
      match p with
      | .done => r.setOp { o.withPart [] with wrote := o.wrote + 1 }
      | .fault c q v => r.gatherFails o c q v
      | .park v | .home _ v => r.gatherFails o 0x08 0x00 v

/-- The positions that name a table row, ascending; a row is taken at its first position. -/
def EngOp.naming (o : EngOp) (j : Nat) : List Nat := (List.range o.positions).filter (fun i => o.indexAt i == o.indexAt j)

/-- An element of a table row after every contribution (R206). -/
def updatedElement (m : GatherMode) (f : FloatFmt) (old : Nat) (cs : List Nat) : Nat :=
  match m with
  | .add => (xsRound f (cs.foldl (fun x c => (xsAdd x (f.read c)).1) (xsAdd XsLane.zero (f.read old)).1)).bits
  | .max => cs.foldl (fun x c => (selElem f true x c).bits) old
  | .min => cs.foldl (fun x c => (selElem f false x c).bits) old
  | _ => cs.getLastD old

/-- Bytes of a table row after every contribution. -/
def updatedUnit (m : GatherMode) (f : FloatFmt) (old : List Byte) (rows : List (List Byte)) : List Byte :=
  if m = .ovw then rows.getLastD old
  else
    let n := f.bits / 8
    (List.range (old.length / n)).flatMap (fun e => leBytes n (updatedElement m f (fieldAt old (n * e) n) (rows.map (fun row => fieldAt row (n * e) n))))

/-- Bytes of an element of a table row, at least 1: the bytes that one update changes (R206). -/
def elementBytes (d : List Byte) : Nat := max 1 ((fmtBits (gFmt d)).getD 8 / 8)

/-- The rule of a region takes the mode (R207). -/
def planedMode (rule : Nat) (m : GatherMode) : Bool :=
  match rule with
  | 2 => m = .add
  | 0 | 3 => m = .ovw
  | _ => false

/-- `n` bytes of the update rows at positions `js`, from byte `off` of each. Log 49, DESIGN CHOICE: rows partly in a planed region are handled per 64-byte unit. -/
def Run.updateRows (r : Run s0) (o : EngOp) (off n : Nat) : List Nat → List (List Byte) → (Run s0 → List (List Byte) → Run s0) → Run s0
  | [], rows, k => k r rows
  | j :: js, rows, k => r.gatherRead o .core (gData o.desc + j * gRowBytes o.desc + off) n (fun r bs => r.updateRows o off n js (rows ++ [bs]) k)

/-- An element of a row is updated in place (R206): a shared page in its turn at its frame's home unit (R330, R331). -/
def Run.updatePlain (r : Run s0) (o : EngOp) (va n : Nat) (rows : List (List Byte)) (fin : Run s0 → Run s0) : Run s0 :=
  let put := fun (r : Run s0) (k : Nat) =>
    match r.st.poisonAt k n with
    | some (c, q) => r.gatherFails o c q va
    | none => fin ((r.write k (updatedUnit o.gmode (gatherFmt o.desc) (r.st.bytes k n) rows)).wroteLines o.agent .main va k n)
  match engineCheck r.st o.agent .main va n true with
  | some (c, q) => r.gatherFails o c q va
  | none =>
    let (r, l) := r.locate o.agent .main va .rw
    match l with
    | .key k => put r k
    | .shared k v =>
      if !r.st.homeQueued (.op o.id) then r.homeOp o ((k - mainKey 0) / 4096)
      else
        match r.ownFrame o.agent v (k - mainKey 0) with
        | some (r, pa) => put r (mainKey pa)
        | none => r.gatherFails o 0x08 0x02 va
    | .park => r.parkOp o va (kindRead ||| kindWrite)
    | .fault c q => r.gatherFails o c q va
    | .pool _ => r.gatherFails o 0x09 0x02 va

/-- The contributions of positions to a unit of a planed row, in ascending position (R207). -/
def Run.updatePlaned (r : Run s0) (o : EngOp) (va : Nat) (fin : Run s0 → Run s0) : List (List Byte) → Run s0
  | [] => fin r
  | bs :: rest =>
    let (r, p) := r.engineWrite o o.core .main va bs
    match p with
    | .done => r.updatePlaned o va fin rest
    | .park v => r.parkOp o v kindWrite
    | .fault c q v => r.gatherFails o c q v
    | .home _ v => r.gatherFails o 0x08 0x02 v

/-- A scattering operation moves: it updates the next element of the row that its next position names, or makes the planed stores of the next 64 bytes (R206, R207). `put`
counts the bytes of the row that are done. -/
def Run.scatterMove (r : Run s0) (o : EngOp) : Run s0 :=
  if o.positions ≤ o.row then r.gatherEnds o
  else
    let j := o.row
    let skip : EngOp := { o with row := j + 1, wrote := j + 1, put := 0 }
    if o.dropsAt j then r.setOp { skip with drops := o.drops + 1 }
    else if (o.naming j).headD j < j then r.setOp skip
    else
      r.tableRow o (o.indexAt j) (fun r base =>
        let va := base + o.put
        let region := if o.put % 64 = 0 then regionAt r.st o.agent .main va 64 else none
        let n := if region.isSome then 64 else elementBytes o.desc
        let next : EngOp := if gRowBytes o.desc ≤ o.put + n then skip else { o with put := o.put + n }
        r.updateRows o o.put n (o.naming j) [] (fun r rows =>
          let fin := fun (r : Run s0) => (if o.put = 0 then (o.naming j).foldl (fun r _ => r.countPosition o (o.indexAt j) base) r else r).setOp next
          match region with
          | none => r.updatePlain o va n rows fin
          | some g =>
            if !isMember r.st o.agent g.sg || !planedMode g.rule o.gmode then r.gatherFails o 0x08 0x00 va
            else r.updatePlaned o va fin rows))

/-! ### The row of a HIDDEN image (R229) -/

/-- An element of `.proj`: the products are rounded to FP32, summed exactly and rounded once. -/
def projected (f : FloatFmt) (h : List Nat) (col : List Nat) : Nat :=
  (xsRound f ((h.zip col).foldl (fun x p => (xsAdd x (FloatFmt.f32.read (mulElem .f32 .rne p.1 p.2).bits)).1) XsLane.zero)).bits

/-- The rows of the matrix of a `.proj`. -/
def Run.projRows (r : Run s0) (o : EngOp) (w : BitVec 256) : List Nat → List (List Byte) → (Run s0 → List (List Byte) → Run s0) → Run s0
  | [], rows, k => k r rows
  | i :: is, rows, k =>
    r.gatherRead o .core (displace (shBase w) (i * shRowStride w)) (rowBytes (shFmt w) (shCols w)) (fun r bs => r.projRows o w is (rows ++ [bs]) k)

/-- The row of a HIDDEN image. -/
def Run.hiddenRow (r : Run s0) (o : EngOp) (proj : Bool) : Run s0 :=
  let im : BitVec 1024 := BitVec.ofNat 1024 (leNat o.data)
  let v := imgVref im
  let f := gatherFmt o.desc
  let n := f.bits / 8
  let finish := fun (r : Run s0) (xs : List Nat) =>
    let row := xs.flatMap (fun x => leBytes n x)
    let (r, p) := r.engineWrite o o.core .core (gData o.desc) (row ++ List.replicate (gRowBytes o.desc - row.length) 0)
    match p with
    | .done => r.gatherEnds o
    | .fault c q va => r.gatherFails o c q va
    | .park va | .home _ va => r.gatherFails o 0x08 0x00 va
  r.gatherRead o .core (vrefAddr v) (vrefBytes v) (fun r bs =>
    let h := vrefValues v bs
    if !proj then finish r (h.map (fun x => (rnd f .rne .default (FloatFmt.f32.read x)).bits))
    else
      let w := o.shapes.getD 0 0
      let wf : FloatFmt := if shFmt w = 1 then .f32 else .bf16
      let m := wf.bits / 8
      r.projRows o w (List.range (shRows w)) [] (fun r rows =>
        finish r ((List.range (shCols w)).map (fun j => projected f h (rows.map (fun row => widened wf (fieldAt row (m * j) m)))))))

/-- An operation of the gather unit makes its next move. -/
def Run.gatherOp (r : Run s0) (o : EngOp) : Run s0 :=
  let ok := if o.isSemb then tableFieldsOk o.desc true && decide (gData o.desc + gRowBytes o.desc ≤ coreLimit) else gatherOk o.gmode o.desc
  match o.denied with
  | some e => r.gatherFails o e.1 e.2 o.at'
  | none =>
    if !ok then r.gatherFails o 0x08 0x00 0
    else if o.isSemb && fieldAt o.data 0 1 == 3 then
      r.hiddenRow o (match o.cmd.kind with
        | .semb _ p => p
        | _ => false)
    else
      match o.phase with
      | 0 => r.readShards o
      | 1 => r.readLists o
      | _ => if o.gmode.updates then r.scatterMove o else r.gatherMove o

/-! ### The commands -/

/-- The meaning of a `gather` or `scatter`: a waited one reads its shard map at its issue (R302). -/
def gatherNode (ins : Instr) (k : CmdKind) (s : State) : Host.Outcome State Fault Refusal :=
  fireWith ins (fun r f =>
    let id := r.st.uid + 1
    let (r, o) := r.command f k
    (if f.sh.t0 = .none then r else r.mapAtIssue id (fun o => gatherOk o.gmode o.desc), o)) s

/-- `gather.rows` (R204). -/
def execGatherRows (g : Gate) (t0 t1 : Target) (s : State) : Host.Outcome State Fault Refusal := gatherNode (.gatherRows g t0 t1) (.gather 0) s

/-- `gather.sum` (R204). -/
def execGatherSum (g : Gate) (t0 t1 : Target) (s : State) : Host.Outcome State Fault Refusal := gatherNode (.gatherSum g t0 t1) (.gather 1) s

/-- `gather.mean` (R204). -/
def execGatherMean (g : Gate) (t0 t1 : Target) (s : State) : Host.Outcome State Fault Refusal := gatherNode (.gatherMean g t0 t1) (.gather 2) s

/-- `gather.wsum` (R204). -/
def execGatherWsum (g : Gate) (t0 t1 : Target) (s : State) : Host.Outcome State Fault Refusal := gatherNode (.gatherWsum g t0 t1) (.gather 3) s

/-- `scatter.add` (R206). -/
def execScatterAdd (g : Gate) (t0 t1 : Target) (s : State) : Host.Outcome State Fault Refusal := gatherNode (.scatterAdd g t0 t1) (.scatter 0) s

/-- `scatter.max` (R206). -/
def execScatterMax (g : Gate) (t0 t1 : Target) (s : State) : Host.Outcome State Fault Refusal := gatherNode (.scatterMax g t0 t1) (.scatter 1) s

/-- `scatter.min` (R206). -/
def execScatterMin (g : Gate) (t0 t1 : Target) (s : State) : Host.Outcome State Fault Refusal := gatherNode (.scatterMin g t0 t1) (.scatter 2) s

/-- `scatter.ovw` (R206). -/
def execScatterOvw (g : Gate) (t0 t1 : Target) (s : State) : Host.Outcome State Fault Refusal := gatherNode (.scatterOvw g t0 t1) (.scatter 3) s

end Sys2Proof.Machine
end

