-- ==== Sys2Proof/Machine/Attention.lean ====
section
/-! DEFINITION. The attention engine (R239 to R260): mask programs, the classes of tiles, the acceptance of a request, its units, its result and its checkpoint. -/

namespace Sys2Proof.Machine

open Sys2Proof

variable {s0 : State}

/-! ### Mask programs (R244 to R249) -/

def mkOp (w : Word32) : Nat := w.toNat / 2 ^ 27
def mkConst (w : Word32) : Int := signedOf 20 w.toNat

/-- Values that an operation pops. -/
def mkPops (op : Nat) : Nat :=
  match op with
  | 11 | 12 => 2
  | 13 => 1
  | _ => 0

/-- The code of the check of R246 that a word fails at a stack depth, codes 0x01, 0x05, 0x02 and 0x03 in that order. -/
def mkWordCode (docs : Bool) (depth : Nat) (w : Word32) : Option Nat :=
  let op := mkOp w
  if op = 0 ∨ 14 ≤ op ∨ bitsOf w.toNat 20 7 ≠ 0 ∨ (7 ≤ op ∧ bitsOf w.toNat 0 20 ≠ 0) then some 0x01
  else if (op = 7 ∨ op = 8) ∧ docs = false then some 0x05
  else if depth < mkPops op then some 0x02
  else if 4 < depth + 1 - mkPops op then some 0x03
  else none

/-- The checks of R246 on the words of a program: codes 0x01, 0x05, 0x02, 0x03 word by word, then 0x04. -/
def mkCode (docs : Bool) : Nat → List Word32 → Option Nat
  | depth, [] => if depth = 1 then none else some 0x04
  | depth, w :: ws =>
    match mkWordCode docs depth w with
    | some c => some c
    | none => mkCode docs (depth + 1 - mkPops (mkOp w)) ws

/-- A document table begins with 0 and strictly ascends. -/
def docsOk (docs : List Nat) : Bool :=
  (docs.isEmpty || docs.head? == some 0) && (docs.zip (docs.drop 1)).all (fun p => decide (p.1 < p.2))

/-- The last document that begins at or below a position (R245). -/
def docOf (docs : List Nat) (p : Nat) : Nat := (docs.filter (fun d => decide (d ≤ p))).length - 1

/-- A class (R247). -/
inductive TileClass where
  | full | partly | empty
  deriving DecidableEq, Repr

def TileClass.not : TileClass → TileClass
  | .full => .empty
  | .empty => .full
  | .partly => .partly

def TileClass.and (x y : TileClass) : TileClass :=
  if x = .full ∧ y = .full then .full else if x = .empty ∨ y = .empty then .empty else .partly

def TileClass.or (x y : TileClass) : TileClass :=
  if x = .full ∨ y = .full then .full else if x = .empty ∧ y = .empty then .empty else .partly

/-- What `full` and `empty` conditions give. -/
def classOf (full empty : Bool) : TileClass := if full then .full else if empty then .empty else .partly

/-- A primitive over queries `qa` to `qb` and keys `ka` to `kb` (R247). -/
def mkPrimitive (docs : List Nat) (w : Word32) (qa qb ka kb : Nat) : TileClass :=
  let c := mkConst w
  let doc := docOf docs
  match mkOp w with
  | 1 => classOf (decide ((kb : Int) ≤ qa + c)) (decide ((ka : Int) > qb + c))
  | 2 => classOf (decide ((ka : Int) ≥ qb + c)) (decide ((kb : Int) < qa + c))
  | 3 => classOf (decide ((kb : Int) < c)) (decide ((ka : Int) ≥ c))
  | 4 => classOf (decide ((ka : Int) ≥ c)) (decide ((kb : Int) < c))
  | 5 => classOf (decide ((qb : Int) < c)) (decide ((qa : Int) ≥ c))
  | 6 => classOf (decide ((qa : Int) ≥ c)) (decide ((qb : Int) < c))
  | 7 => classOf (doc ka == doc kb && doc kb == doc qa && doc qa == doc qb) (decide (doc kb < doc qa ∨ doc qb < doc ka))
  | 8 => classOf (decide (doc kb ≤ doc qa)) (decide (doc qb < doc ka))
  | 9 => .full
  | _ => .empty

/-- A program over a rectangle. -/
def mkClass (docs : List Nat) (ws : List Word32) (qa qb ka kb : Nat) : TileClass :=
  let stack := ws.foldl (fun (st : List TileClass) w =>
    match mkOp w, st with
    | 11, y :: x :: r => x.and y :: r
    | 12, y :: x :: r => x.or y :: r
    | 13, x :: r => x.not :: r
    | _, st => mkPrimitive docs w qa qb ka kb :: st) []
  stack.headD .empty

/-- One element is admitted (R245): on a rectangle of one element every primitive is F or E. -/
def admitted (docs : List Nat) (ws : List Word32) (q k : Nat) : Bool := mkClass docs ws q q k k == .full

/-! ### The request block (R240 to R242) -/

def aqAddr (d : List Byte) : Nat := fieldAt d 0 4
def aqStride (d : List Byte) : Nat := fieldAt d 4 2
def aqRows (d : List Byte) : Nat := fieldAt d 6 1
def aqDim (d : List Byte) : Nat := 64 * 2 ^ fieldAt d 7 1
def aqFmt (d : List Byte) : Nat := fieldAt d 8 1
def aqSlabs (d : List Byte) : Nat := fieldAt d 9 1
def aqGroups (d : List Byte) : Nat := fieldAt d 10 1
def aqKsc (d : List Byte) : Nat := fieldAt d 12 1
def aqVsc (d : List Byte) : Nat := fieldAt d 13 1
def aqRfmt (d : List Byte) : Nat := fieldAt d 14 1
def aqScale (d : List Byte) : Nat := fieldAt d 16 4
def aqResult (d : List Byte) : Nat := fieldAt d 20 4
def aqRstride (d : List Byte) : Nat := fieldAt d 24 2
def aqMask (d : List Byte) : Nat := fieldAt d 32 8
def aqDoct (d : List Byte) : Nat := fieldAt d 40 8
def aqNdoc (d : List Byte) : Nat := fieldAt d 48 4
def aqCkpt (d : List Byte) : Nat := fieldAt d 56 8
def aqSlabAt (d : List Byte) : Nat := fieldAt d 72 4
def aqMapAt (d : List Byte) : Nat := fieldAt d 76 4

/-- Bytes of an element of a request's formats. -/
def aqSize (fmt : Nat) : Nat := (fmtBits fmt).getD 0 / 8

/-- The floating format of a request's formats. -/
def aqFloat (fmt : Nat) : FloatFmt :=
  match fmt with
  | 1 => .f32
  | 2 => .bf16
  | _ => .e4m3

/-- The ranges of R240. A result that would pass the end of the core store is out of range. Log 52, DEDUCED: where misaligned attention operands are reported. -/
def requestOk (d : List Byte) : Bool :=
  ([15, 26, 27, 28, 29, 30, 31, 52, 53, 54, 55].all (fun i => d.getD i 0 == 0)) && (d.drop 80).all (fun b => b == 0)
    && decide (1 ≤ aqRows d ∧ aqRows d ≤ 128) && decide (fieldAt d 7 1 ≤ 2) && (aqFmt d == 2 || aqFmt d == 4) && decide (1 ≤ aqSlabs d ∧ aqSlabs d ≤ 8)
    && decide (1 ≤ aqGroups d ∧ aqGroups d ≤ 8) && decide (fieldAt d 11 1 < 16) && decide (aqKsc d ≤ 254) && decide (aqVsc d ≤ 254)
    && (aqRfmt d == 1 || aqRfmt d == 2) && aqScale d / 2 ^ 23 % 256 != 255 && aqStride d % 64 == 0 && decide (aqDim d * aqSize (aqFmt d) ≤ aqStride d)
    && aqRstride d % 64 == 0 && decide (aqDim d * aqSize (aqRfmt d) ≤ aqRstride d) && decide (aqNdoc d ≤ 4096) && aqCkpt d != 0
    && decide (aqResult d + (aqRows d - 1) * aqRstride d + aqDim d * aqSize (aqRfmt d) ≤ coreLimit)

/-- A slab: KBASE, VBASE, P0, P1 and SFLAGS. -/
def slabOf (bs : List Byte) : Nat × Nat × Nat × Nat × Nat := (fieldAt bs 0 8, fieldAt bs 8 8, fieldAt bs 16 4, fieldAt bs 20 4, fieldAt bs 24 1)

def slabShared (s : Nat × Nat × Nat × Nat × Nat) : Bool := s.2.2.2.2 % 2 == 1
def slabGroup (s : Nat × Nat × Nat × Nat × Nat) : Nat := s.2.2.2.2 / 2 % 8
def slabFirst (s : Nat × Nat × Nat × Nat × Nat) : Nat := s.2.2.1
def slabEnd (s : Nat × Nat × Nat × Nat × Nat) : Nat := s.2.2.2.1

/-- An entry of the slab list is one that R241 allows. -/
def slabOk (groups : Nat) (bs : List Byte) : Bool :=
  let s := slabOf bs
  decide (slabFirst s ≤ slabEnd s) && decide (slabEnd s - slabFirst s ≤ 2 ^ 24) && decide (s.2.2.2.2 < 16) && (bs.drop 25).all (fun b => b == 0)
    && (slabShared s || decide (slabGroup s < groups))

/-- Groups of the stacking map: ROW0, NROWS and QPOS. -/
def groupsOf (bs : List Byte) : List (Nat × Nat × Nat) :=
  (List.range (bs.length / 16)).map (fun g => (fieldAt bs (16 * g) 1, fieldAt bs (16 * g + 1) 1, fieldAt bs (16 * g + 4) 4))

/-- The map covers the rows exactly once and in order (R242). -/
def mapOk (rows : Nat) (bs : List Byte) : Bool :=
  let gs := groupsOf bs
  (List.range gs.length).all (fun g =>
      let e := gs.getD g (0, 0, 0)
      decide (1 ≤ e.2.1) && e.1 == ((gs.take g).map (fun x => x.2.1)).sum && ((bs.drop (16 * g + 2)).take 2).all (fun b => b == 0)
        && ((bs.drop (16 * g + 8)).take 8).all (fun b => b == 0))
    && (gs.map (fun x => x.2.1)).sum == rows

/-! ### Units (R248, R250) -/

/-- The slabs in the order of their units. -/
def slabOrder (ss : List (Nat × Nat × Nat × Nat × Nat)) : List (Nat × Nat × Nat × Nat × Nat) :=
  ss.filter slabShared ++ ss.filter (fun s => !slabShared s)

/-- Tiles of a slab. -/
def tilesOf (s : Nat × Nat × Nat × Nat × Nat) : Nat := ceilDiv (slabEnd s - slabFirst s) 128

/-- Unit `u`: its slab, and its first key and the key after its last. -/
def unitOf : List (Nat × Nat × Nat × Nat × Nat) → Nat → Option ((Nat × Nat × Nat × Nat × Nat) × Nat × Nat)
  | [], _ => none
  | s :: r, u =>
    if u < tilesOf s then some (s, slabFirst s + 128 * u, min (slabFirst s + 128 * u + 128) (slabEnd s))
    else unitOf r (u - tilesOf s)

/-- The groups that take part in a unit, with their classes (R248). -/
def unitClasses (st : AttnState) (s : Nat × Nat × Nat × Nat × Nat) (k0 k1 : Nat) : List ((Nat × Nat × Nat) × TileClass) :=
  let gs := if slabShared s then st.groups else (st.groups.drop (slabGroup s)).take 1
  gs.map (fun g => (g, mkClass st.docs st.words g.2.2 (g.2.2 + g.2.1 - 1) k0 (k1 - 1)))

/-- The class of a unit. -/
def unitClass (l : List ((Nat × Nat × Nat) × TileClass)) : TileClass :=
  if l.all (fun e => e.2 == .full) then .full else if l.all (fun e => e.2 == .empty) then .empty else .partly

/-! ### The computation (R251, R252) -/

/-- `cs`. -/
def scoreScale (d : List Byte) : Nat := (rneF32 (mulExt (FloatFmt.f32.read (aqScale d)) (.fin false 1 ((aqKsc d : Int) - 127) false)).1).bits

/-- The state of a row. -/
structure RowState where
  m   : Nat
  l   : Nat
  acc : List Nat
  deriving DecidableEq, Repr

/-- `t[j]`: the score of a query row for one key of a unit (R251). -/
def scoreOf (cs : Nat) (q k : List Ext) : Nat := (mulElem .f32 .rne (tileElement 3 q.length 0 q (k.map some)) cs).bits

/-- A row merges the admitted keys of a unit, given as their indices in the unit (R251). `kv` and `vs` are the K and V rows. -/
def mergeRow (fmt : Nat) (cs : Nat) (x : RowState) (q : List Ext) (ks vs : List (List Ext)) (adm : List Nat) : RowState :=
  let f := aqFloat fmt
  let ts := adm.map (fun j => (j, scoreOf cs q (ks.getD j [])))
  match ts with
  | [] => x
  | t0 :: rest =>
    let mt := rest.foldl (fun m t => (selElem .f32 true m t.2).bits) t0.2
    let mn := (selElem .f32 true x.m mt).bits
    let al :=
      if x.m = 0xFF800000 then 0
      else if (FloatFmt.f32.read x.m).eq (FloatFmt.f32.read mn) then 0x3F800000
      else (exp2Of .f32 .rne (addExt .rne (FloatFmt.f32.read x.m) (FloatFmt.f32.read mn).negate).1).bits
    let ps := ts.map (fun t =>
      (t.1, (rnd f .rne .default (FloatFmt.f32.read (exp2Of .f32 .rne (FloatFmt.f32.read (subElem .f32 .rne t.2 mn).bits)).bits)).bits))
    let l := (xsRound .f32 (ps.foldl (fun s p => (xsAdd s (f.read p.2)).1)
      (xsAdd XsLane.zero (FloatFmt.f32.read (mulElem .f32 .rne al x.l).bits)).1)).bits
    let weights := (List.range vs.length).map (fun j => match ps.find? (fun p => p.1 == j) with
      | some p => f.read p.2
      | none => .zero false)
    let acc := x.acc.mapIdx (fun n a =>
      tileElement 3 vs.length (mulElem .f32 .rne al a).bits weights (vs.mapIdx (fun j v => if adm.contains j then some (v.getD n (.zero false)) else none)))
    ⟨mn, l, acc⟩

/-- An element of the result (R252). -/
def resultElement (d : List Byte) (acc l : Nat) : Nat :=
  (rnd (aqFloat (aqRfmt d)) .rne .default
    (divExt (mulExt (FloatFmt.f32.read acc) (.fin false 1 ((aqVsc d : Int) - 127) false)).1 (FloatFmt.f32.read l)).1).bits

/-- Row `i` of the result. -/
def resultRow (d : List Byte) (st : AttnState) (i : Nat) : List Byte :=
  (List.range (aqDim d)).flatMap (fun n =>
    leBytes (aqSize (aqRfmt d)) (if st.adm.getLsbD i then resultElement d (((st.acc.getD i []).getD n 0).toNat) ((st.l.getD i 0).toNat) else 0))

/-- A row of K, V or Q as values. -/
def keyRow (fmt n : Nat) (bs : List Byte) : List Ext := (List.range n).map (fun i => (aqFloat fmt).read (fieldAt bs (aqSize fmt * i) (aqSize fmt)))

/-- The state after a unit that is not E, given its K and V bytes (R251). -/
def mergeUnit (d : List Byte) (st : AttnState) (k0 k1 : Nat) (cls : List ((Nat × Nat × Nat) × TileClass)) (kb vb : List Byte) : AttnState :=
  let n := aqDim d
  let w := n * aqSize (aqFmt d)
  let rows := fun (bs : List Byte) => (List.range (k1 - k0)).map (fun j => keyRow (aqFmt d) n ((bs.drop (j * w)).take w))
  let ks := rows kb
  let vs := rows vb
  let cs := scoreScale d
  cls.foldl (fun st e =>
    if e.2 = .empty then st
    else (List.range e.1.2.1).foldl (fun st i =>
      let row := e.1.1 + i
      let adm := (List.range (k1 - k0)).filter (fun j => e.2 == .full || admitted st.docs st.words (e.1.2.2 + i) (k0 + j))
      if adm.isEmpty then st
      else
        let x := mergeRow (aqFmt d) cs ⟨(st.m.getD row 0).toNat, (st.l.getD row 0).toNat, (st.acc.getD row []).map BitVec.toNat⟩
          (keyRow (aqFmt d) n ((st.qrows.getD row []).map (BitVec.ofNat 8))) ks vs adm
        { st with
          m := st.m.set row (BitVec.ofNat 32 x.m)
          l := st.l.set row (BitVec.ofNat 32 x.l)
          acc := st.acc.set row (x.acc.map (BitVec.ofNat 32))
          adm := st.adm ||| (1 <<< row : BitVec 128) }) st) st

/-- The score tile of a unit that is not E: row, key and `t[j]`, for the rows that take part (R253). -/
def scoreTile (d : List Byte) (st : AttnState) (k0 k1 : Nat) (cls : List ((Nat × Nat × Nat) × TileClass)) (kb : List Byte) : List (Nat × Nat × Nat) :=
  let n := aqDim d
  let w := n * aqSize (aqFmt d)
  cls.flatMap (fun e => if e.2 = .empty then [] else (List.range e.1.2.1).flatMap (fun i => (List.range (k1 - k0)).map (fun j =>
    (e.1.1 + i, j, scoreOf (scoreScale d) (keyRow (aqFmt d) n ((st.qrows.getD (e.1.1 + i) []).map (BitVec.ofNat 8))) (keyRow (aqFmt d) n ((kb.drop (j * w)).take w))))))

/-- The output columns of `acc` that accumulator `k` of the output ones holds (R253). -/
def outputTile (st : AttnState) (k : Nat) : List (Nat × Nat × Nat) :=
  ((List.range st.acc.length).zip st.acc).flatMap (fun e => ((List.range 128).zip ((e.2.drop (128 * k)).take 128)).map (fun x => (e.1, x.1, x.2.toNat)))

/-! ### Checkpoints (R257 to R259) -/

/-- RQFP. -/
def requestPrint (d lists : List Byte) : Word64 := rx64 (quadsOf (d.take 64 ++ leBytes 8 0 ++ (d.drop 72).take 56 ++ lists))

/-- The checkpoint after CKFLAGS. -/
def checkpointBytes (d lists : List Byte) (st : AttnState) (body : Bool) : List Byte :=
  let row := fun (l : List Word32) (i : Nat) (rest : Word32) => leBytes 4 (if i < aqRows d then l.getD i rest else rest).toNat
  leBytes 4 st.unit ++ leBytes 8 (requestPrint d lists).toNat ++ leBytes 4 st.nfull ++ leBytes 4 st.npart ++ leBytes 4 st.nempty ++ leBytes 4 0
    ++ leBytes 16 st.adm.toNat ++ leBytes 16 0
    ++ (if body then (List.range 128).flatMap (fun i => row st.m i 0xFF800000) ++ (List.range 128).flatMap (fun i => row st.l i 0)
        ++ (List.range 128).flatMap (fun i => (List.range (aqDim d)).flatMap (fun n =>
          leBytes 4 (if i < aqRows d then (st.acc.getD i []).getD n 0 else 0).toNat))
      else [])

/-- The state that a checkpoint holds. -/
def loadCheckpoint (d : List Byte) (st : AttnState) (c : List Byte) : AttnState :=
  let n := aqDim d
  { st with
    unit := fieldAt c 4 4
    nfull := fieldAt c 16 4
    npart := fieldAt c 20 4
    nempty := fieldAt c 24 4
    adm := BitVec.ofNat 128 (fieldAt c 32 16)
    m := (List.range (aqRows d)).map (fun i => BitVec.ofNat 32 (fieldAt c (64 + 4 * i) 4))
    l := (List.range (aqRows d)).map (fun i => BitVec.ofNat 32 (fieldAt c (576 + 4 * i) 4))
    acc := (List.range (aqRows d)).map (fun i => (List.range n).map (fun k => BitVec.ofNat 32 (fieldAt c (1088 + 4 * (i * n + k)) 4)))
    resumed := true }

/-! ### The end of a request -/

/-- The request leaves the queues of its accumulators. -/
def Run.leaveQueues (r : Run s0) (o : EngOp) : Run s0 :=
  (List.range 4).foldl (fun r a => r.modCore o.core (fun k => { k with queues := SMap.set k.queues [] a ((SMap.get k.queues [] a).filter (fun q => match q with
    | .attention id => id != o.id
    | _ => true)) })) r

/-- Every named accumulator holds +0 after an accepted request, and is poisoned when it failed (R253). -/
def Run.wipeAccs (r : Run s0) (o : EngOp) (st : AttnState) (poison : Bool) : Run s0 :=
  st.accPhys.foldl (fun r a => r.modCore o.core (fun k => (k.clearAcc a).setPoison a poison)) r

/-- The accumulators of a request as it goes on: the scores of its last unit, and the output columns (R253). Log 130, DESIGN CHOICE: the score tile holds `t[j]`, and rows that took no
part in the last unit keep what stood there. -/
def Run.showAccs (r : Run s0) (o : EngOp) (st : AttnState) (scores : List (Nat × Nat × Nat)) : Run s0 :=
  match st.accPhys with
  | [] => r
  | a :: outs => r.modCore o.core (fun k => ((List.range outs.length).zip outs).foldl (fun k e => k.writeAcc e.2 (outputTile st e.1)) (k.writeAcc a scores))

/-- A request fails at acceptance (R243). -/
def Run.refuse (r : Run s0) (o : EngOp) (cls code va : Nat) : Run s0 := (r.leaveQueues o).failOpWith o cls code va

/-- An accepted request ends in an error. -/
def Run.attnFails (r : Run s0) (o : EngOp) (st : AttnState) (f : FaultRec) : Run s0 := ((r.leaveQueues o).wipeAccs o st true).failOp o f

/-- An accepted request ends well: the counts are added, and COUNT gives the rows that admitted no key (R239, R256). -/
def Run.attnEnds (r : Run s0) (o : EngOp) (st : AttnState) : Run s0 :=
  let none' := ((List.range (aqRows o.desc)).filter (fun i => !st.adm.getLsbD i)).length
  let r := (r.leaveQueues o).wipeAccs o st false
  let r := r.tell o 0 none' false
  let r := if r.st.ownerLives o then r.modCtx o.c (fun x => { x with
      tilefull := x.tilefull + BitVec.ofNat 64 st.nfull
      tilepart := x.tilepart + BitVec.ofNat 64 st.npart
      tileempty := x.tileempty + BitVec.ofNat 64 st.nempty }) else r
  let r := if r.st.ownerLives o then ((r.count o.c none 0x21 st.nfull).count o.c none 0x22 st.npart).count o.c none 0x23 st.nempty else r
  (if o.waited then r.answered o else r).ended o

/-! ### Acceptance (R243) -/

/-- The request stands at the head of the queue of every accumulator that it has entered. Log 51, DESIGN CHOICE: attention is accepted at the head of its queues. -/
def State.attnAtHead (s : State) (o : EngOp) : Bool :=
  (List.range 4).all (fun a =>
    let q := SMap.get (s.core o.core).queues [] a
    !q.contains (.attention o.id) || q.head? == some (.attention o.id))

/-- A read of acceptance: a failure refuses the request, a park waits. -/
def Run.acceptRead (r : Run s0) (o : EngOp) (sp : Space) (va n : Nat) (k : Run s0 → List Byte → Run s0) : Run s0 :=
  let (r, g) := r.engineRead o sp va n
  match g with
  | .bytes bs => k r bs
  | .park v => r.parkOp o v kindRead
  | .fault c q v => r.refuse o c q v

/-- The rows of a matrix of bytes read one after the other. -/
def Run.acceptRows (r : Run s0) (o : EngOp) (n : Nat) : List Nat → List (List Byte) → (Run s0 → List (List Byte) → Run s0) → Run s0
  | [], rows, k => k r rows
  | a :: as, rows, k => r.acceptRead o .core a n (fun r bs => r.acceptRows o n as (rows ++ [bs]) k)

/-- The mask block of a request: its words, or `none` for a block that fails code 0x06. -/
def Run.readMask (r : Run s0) (o : EngOp) (k : Run s0 → Option (List Word32) → Run s0) : Run s0 :=
  let va := aqMask o.desc
  if va = 0 then k r (some [9 <<< 27])
  else if va % 64 ≠ 0 then r.refuse o 0x07 0x00 va
  else r.acceptRead o .main va 64 (fun r bs =>
    let h := fieldAt bs 0 4
    let n := hdrNinst h
    if hdrType h ≠ 3 ∨ 16 < n then k r none
    else r.acceptRead o .main (va + 64) (codeLength n - 64) (fun r more =>
      let code := ((bs ++ more).drop 4).take (4 * n)
      k r (if chkOf code = hdrChk h then some (wordsOf code) else none)))

/-- The document table of a request. -/
def Run.readDocs (r : Run s0) (o : EngOp) (k : Run s0 → List Nat → Run s0) : Run s0 :=
  let va := aqDoct o.desc
  let n := aqNdoc o.desc
  if va = 0 ∨ n = 0 then k r []
  else if va % 4 ≠ 0 then r.refuse o 0x07 0x00 va
  else r.acceptRead o .main va (4 * n) (fun r bs => k r ((List.range n).map (fun j => fieldAt bs (4 * j) 4)))

/-- The physical accumulator of a logical one under the operation's grant. -/
def EngOp.physical (o : EngOp) (n : Nat) : Nat := o.grant.toNat / 2 ^ (8 + 2 * n) % 4

/-- The last steps of acceptance: the checkpoint, the query rows, and the state that the first unit starts from. -/
def Run.acceptState (r : Run s0) (o : EngOp) (lists : List Byte) (words : List Word32) (docs : List Nat) : Run s0 :=
  let d := o.desc
  let slabs := (List.range (aqSlabs d)).map (fun i => slabOf ((lists.drop (32 * i)).take 32))
  let set := accSetOf d
  let st : AttnState := {
    qrows := []
    slabs := slabs
    groups := groupsOf (lists.drop (32 * aqSlabs d))
    words := words
    docs := docs
    unit := 0
    total := (slabs.map tilesOf).sum
    m := List.replicate (aqRows d) 0xFF800000
    l := List.replicate (aqRows d) 0
    acc := List.replicate (aqRows d) (List.replicate (aqDim d) 0)
    adm := 0
    nfull := 0
    npart := 0
    nempty := 0
    accSet := BitVec.ofNat 4 (fieldAt d 11 1)
    accPhys := set.map o.physical
    resumed := false }
  r.acceptRead o .main (aqCkpt d) 64 (fun r h =>
    let valid := fieldAt h 0 1 % 2 == 1
    let bad := BitVec.ofNat 64 (fieldAt h 8 8) != requestPrint d lists || decide (st.total < fieldAt h 4 4)
      || fieldAt h 16 4 + fieldAt h 20 4 + fieldAt h 24 4 != fieldAt h 4 4
    if valid && bad then r.refuse o 0x08 0x05 (aqCkpt d)
    else r.acceptRows o (aqDim d * aqSize (aqFmt d)) ((List.range (aqRows d)).map (fun i => aqAddr d + i * aqStride d)) [] (fun r rows =>
      r.acceptRead o .main (aqCkpt d + 64) (if valid then 1024 + 512 * aqDim d else 0) (fun r body =>
        let st := { st with qrows := rows.map (fun bs => bs.map BitVec.toNat) }
        let st := if valid then loadCheckpoint d st (h ++ body) else st
        let r := st.accPhys.foldl (fun r a => r.modCore o.core (fun k => k.setPoison a false)) r
        (r.showAccs o st []).setOp { o with phase := if st.unit < st.total then 1 else 2, attn := some st, data := lists, denied := none })))

/-- A request is accepted, refused, or waits on a page (R243, in its order). -/
def Run.acceptAttn (r : Run s0) (o : EngOp) : Run s0 :=
  let d := o.desc
  let set := accSetOf d
  if o.denied.isSome then r.refuse o (o.denied.getD (0x08, 0x00)).1 (o.denied.getD (0x08, 0x00)).2 o.at'
  else if !requestOk d then r.refuse o 0x08 0x00 0
  else if set.length ≠ 1 + ceilDiv (aqDim d) 128 ∨ set.any (fun a => !o.grant.getLsbD a) = true then r.refuse o 0x08 0x00 0
  else
    match [(aqAddr d, 64), (aqResult d, 64), (aqCkpt d, 64), (aqSlabAt d, 32), (aqMapAt d, 16)].find? (fun e => e.1 % e.2 != 0) with
    | some e => r.refuse o 0x07 0x00 e.1
    | none =>
      let nb := 32 * aqSlabs d
      r.acceptRead o .core (aqSlabAt d) nb (fun r sl =>
        r.acceptRead o .core (aqMapAt d) (16 * aqGroups d) (fun r mp =>
          let slab := fun (i : Nat) => (sl.drop (32 * i)).take 32
          if !(List.range (aqSlabs d)).all (fun i => slabOk (aqGroups d) (slab i)) || !mapOk (aqRows d) mp then r.refuse o 0x08 0x00 0
          else
            match ((List.range (aqSlabs d)).flatMap (fun i => [(slabOf (slab i)).1, (slabOf (slab i)).2.1])).find? (fun a => a % 64 != 0) with
            | some a => r.refuse o 0x07 0x00 a
            | none =>
              r.readMask o (fun r words =>
                r.readDocs o (fun r docs =>
                  match words with
                  | none => r.refuse o 0x12 0x06 (aqMask d)
                  | some ws =>
                    match mkCode (aqDoct d != 0 && aqNdoc d != 0) 0 ws with
                    | some c => r.refuse o 0x12 c (aqMask d)
                    | none => if docsOk docs then r.acceptState o (sl ++ mp) ws docs else r.refuse o 0x12 0x07 (aqDoct d)))))

/-! ### Writing the checkpoint -/

/-- A checkpoint write has failed: the header holds nothing that the spec states (R258). Log 53, DESIGN CHOICE: a lost checkpoint's header bytes are free. -/
def Run.checkpointLost (r : Run s0) (o : EngOp) (st : AttnState) (va : Nat) : Run s0 :=
  let n := r.choice
  let (r, _) := r.chose.engineWrite o o.core .main (aqCkpt o.desc) ((List.range 64).map (fun i => Config.freeByte n i))
  r.attnFails o st { o.faultRec 0x08 0x09 va with rflags := rfEngine ||| rfCkLost }

/-- The checkpoint is written, CKFLAGS last; `k` goes on after it. -/
def Run.writeCheckpoint (r : Run s0) (o : EngOp) (st : AttnState) (valid : Bool) (k : Run s0 → Run s0) : Run s0 :=
  match o.denied with
  | some _ => r.checkpointLost o st o.at'
  | none =>
    let (r, p) := r.engineWrite o o.core .main (aqCkpt o.desc + 4) (checkpointBytes o.desc o.data st valid)
    match p with
    | .done =>
      let (r, p) := r.engineWrite o o.core .main (aqCkpt o.desc) (leBytes 4 (if valid then 1 else 0))
      match p with
      | .done => k r
      | .park v => r.parkOp o v kindWrite
      | .home _ v | .fault _ _ v => r.checkpointLost o st v
    | .park v => r.parkOp o v kindWrite
    | .home _ v | .fault _ _ v => r.checkpointLost o st v

/-- The fault of a failed unit or result write is delivered once the checkpoint stands (R252, R258). -/
def Run.saveAndFail (r : Run s0) (o : EngOp) (st : AttnState) : Run s0 :=
  r.writeCheckpoint o st true (fun r =>
    let e := o.failed.getD (0x08, 0x00, 0)
    r.attnFails o st (o.faultRec e.1 e.2.1 e.2.2))

/-! ### Units and results -/

/-- A unit fails: it is discarded, and the checkpoint is to be written. -/
def Run.unitFails (r : Run s0) (o : EngOp) (st : AttnState) (cls code va : Nat) : Run s0 :=
  let o := { o with failed := some (cls, code, va), phase := 3, denied := none, got := [] }
  (r.setOp o).saveAndFail o st

/-- A drain stops a request between units: its checkpoint is written, and it waits to be saved (R260). -/
def Run.attnStops (r : Run s0) (o : EngOp) (st : AttnState) : Run s0 :=
  let o := { o with phase := 5, got := [] }
  (r.setOp o).writeCheckpoint o st true (fun r => r.setOp { o with phase := 4, denied := none })

/-- The next unit moves on: the next piece of its K rows and then of its V rows is read, each an event of its own (R255), and with the last one it is masked, merged and committed
(R249 to R251, R256); or the checkpoint of a unit that failed is written. -/
def Run.attnUnitOf (r : Run s0) (o : EngOp) (st : AttnState) : Run s0 :=
  if o.phase = 3 then r.saveAndFail o st
  else if o.denied.isSome then r.unitFails o st (o.denied.getD (0x08, 0x00)).1 (o.denied.getD (0x08, 0x00)).2 o.at'
  else
    match unitOf (slabOrder st.slabs) st.unit with
    | none => r.setOp { o with phase := 2 }
    | some (s, k0, k1) =>
      let cls := unitClasses st s k0 k1
      let c := unitClass cls
      let commit := fun (r : Run s0) (st : AttnState) =>
        let st := { st with
          unit := st.unit + 1
          nfull := st.nfull + (if c = .full then 1 else 0)
          npart := st.npart + (if c = .partly then 1 else 0)
          nempty := st.nempty + (if c = .empty then 1 else 0) }
        r.setOp { o with attn := some st, phase := if st.unit < st.total then 1 else 2, denied := none, got := [] }
      if c = .empty then commit r st
      else
        let w := aqDim o.desc * aqSize (aqFmt o.desc)
        let n := (k1 - k0) * w
        let side := if o.got.length < n then s.1 else s.2.1
        let p := (pieceAfter (side + (k0 - slabFirst s) * w) n (o.got.length % n)).getD (side, 0)
        let (r, g) := r.engineRead o .main p.1 p.2
        match g with
        | .bytes bs =>
          let got := o.got ++ bs
          if got.length < 2 * n then r.setOp { o with got := got }
          else
            let st' := mergeUnit o.desc st k0 k1 cls (got.take n) (got.drop n)
            commit (r.showAccs o st' (scoreTile o.desc st k0 k1 cls (got.take n))) st'
        | .park v => r.parkOp o v kindRead
        | .fault c q v => r.unitFails o st c q v

/-- A row of the result is written, or after the last the header (R252). -/
def Run.attnResult (r : Run s0) (o : EngOp) (st : AttnState) : Run s0 :=
  if aqRows o.desc ≤ o.wrote then
    if o.failed.isSome then r.saveAndFail o st
    else
      let o := { o with phase := 2 }
      r.writeCheckpoint o st false (fun r => r.attnEnds o st)
  else
    let (r, p) := r.engineWrite o o.core .core (aqResult o.desc + o.wrote * aqRstride o.desc) (resultRow o.desc st o.wrote)
    let next : EngOp := { o with wrote := o.wrote + 1 }
    match p with
    | .fault c q v => r.setOp { next with failed := some (o.failed.getD (c, q, v)) }
    | _ => r.setOp next

/-- `attn` (R208, R239). -/
def execAttn (g : Gate) (t0 t1 : Target) (s : State) : Host.Outcome State Fault Refusal := commandNode (.attn g t0 t1) .attn s

/-- What an event of the attention engine needs: the request is in its phase, nothing of it is parked, and the writes it must see are performed. -/
def State.attnReady (s : State) (o : EngOp) (phases : List Nat) : Bool := !o.parked && phases.contains o.phase && s.opReady o && o.cmd.kind == .attn

/-- `ATTN_ACCEPT` (R243). -/
def execAttnAccept (k : Nat) (s : State) : Host.Outcome State Fault Refusal :=
  let r := Run.start s
  match s.op? k with
  | some o => .next (if s.attnReady o [0] && s.attnAtHead o then r.acceptAttn o else r).st
  | none => .next r.st

/-- `ATTN_UNIT` (R251, R258). -/
def execAttnUnit (k : Nat) (s : State) : Host.Outcome State Fault Refusal :=
  let r := Run.start s
  match s.op? k with
  | some o =>
    match o.attn with
    | some st => .next (if s.attnReady o [1, 3, 5] then
        (if o.phase = 5 ∨ (o.phase = 1 ∧ o.denied = none ∧ o.got = [] ∧ s.draining o.part = true) then r.attnStops o st else r.attnUnitOf o st) else r).st
    | none => .next r.st
  | none => .next r.st

/-- `ATTN_RESULT_WRITE` (R252). -/
def execAttnResultWrite (k : Nat) (s : State) : Host.Outcome State Fault Refusal :=
  let r := Run.start s
  match s.op? k with
  | some o =>
    match o.attn with
    | some st => .next (if s.attnReady o [2] then r.attnResult o st else r).st
    | none => .next r.st
  | none => .next r.st

end Sys2Proof.Machine
end

