-- ==== Sys2Proof/Machine/Weight.lean ====
section
/-! DEFINITION. Weight-driven mode (R261 to R282): the `wdrive` exit, the drive and its walk of a chain, the weight blocks, chain faults and the chain's exit. -/

namespace Sys2Proof.Machine

open Sys2Proof

variable {s0 : State}

/-! ### The exit (R261) -/

/-- `wdrive`: what it checks as it fires. -/
def driveChecks (f : Fire) : NodeOut :=
  let a := f.a.word.toNat
  let b := f.b'.word.toNat
  if a % 64 ≠ 0 then f.fault 0x07 0x00 a
  else if 2 ^ 56 ≤ a then f.fault 0x08 0x00 a
  else if b % 64 ≠ 0 then f.fault 0x07 0x00 b
  else if coreLimit - 64 < b then f.fault 0x08 0x00 b
  else f.leave (.wdrive f.a.word f.b'.word)

/-- `wdrive` (R261): the drive starts at the commit. -/
def execWdrive (g : Gate) (off : BitVec 24) (s : State) : Host.Outcome State Fault Refusal :=
  exitNode (.wdrive g off) driveChecks (fun r c b _ _ _ => r.namesNone c b.iid) s

/-! ### A drive as a party -/

/-- The drive as the operation whose accesses and completions these are (R185, R263). -/
def Drive.op (c : Nat) (x : Ctx) (d : Drive) : EngOp := {
  id := d.id
  ticket := d.ticket
  c := c
  core := c / 4
  launch := x.launch
  node := x.node
  part := x.part
  grp := x.grp
  rank := x.rank
  iid := 0
  seq := d.seq
  blk := d.wblk
  tag := tagOf d.frame d.nest
  widths := d.widths
  idx := d.idx
  nodeNo := d.idx
  ancest := 0
  after := []
  cmd := ⟨.stage, 0, .scalar, 0, .scalar, 0⟩
  waited := false
  t0 := .none
  t1 := .none
  shapes := []
  desc := d.desc
  phase := 0
  row := 0
  drops := 0
  failmap := 0
  parked := false
  denied := none
  attn := none
  data := []
  wrote := 0
  sent := 0
  failed := none
  at' := 0
  grant := x.accmap }

def Run.setDrive (r : Run s0) (c : Nat) (d : Drive) : Run s0 := r.modCtx c (fun x => { x with drive := some d })

/-! ### Starting (R263) -/

/-- The shape records that VALID bytes name. -/
def slotRecords (k : Core) (desc : List Byte) : SMap (BitVec 256) :=
  (List.range 16).foldl (fun m j =>
    let b := fieldAt desc j 1
    if 128 ≤ b then SMap.set m 0 j (SMap.get k.td 0 (b % 16)) else m) []

/-- The drive takes a ticket, and a CDONE of DK 01 marks its register; a register that a producer already holds keeps it (R22, R263, R281). -/
def Run.go (r : Run s0) (c : Nat) (d : Drive) : Run s0 :=
  let r := r.put .named
  let x := r.st.ctx c
  let d := { d with id := r.st.uid, ticket := x.ticket.toNat, parked := false, denied := none, fault := none, hdr := [], offs := none, value := none, leaving := false, ahead := [] }
  let r := r.modCtx c (fun x => { x with ticket := x.ticket + 1, wdrv := true })
  match (if d.dropDone then none else fillsReg d.cdone) with
  | none => r.setDrive c d
  | some n =>
    if x.isFull n then (r.modCtx c (fun x => x.emptyReg n d.id)).setDrive c d
    else
      let o := d.op c x
      (r.setDrive c { d with dropDone := true }).opFault o (o.faultRec 0x04 0x04 0)

/-- The drive starts at the commit of run `b`, whose `wdrive` is node `i`; `after` is the tag that the run leaves, and the resume block is that of the exit. -/
def Run.startDrive (r : Run s0) (c : Nat) (b : BlockRun) (i : Nat) (head : Word64) (desc : List Byte) (resume : Word64) (after : BitVec 56 × NestRec) : Run s0 :=
  let x := r.st.ctx c
  let keep := fieldAt desc 26 1 % 2 == 1
  let r := if keep then r else r.modCtx c (fun x => { x with codebook := 0 })
  r.go c {
    id := 0
    desc := desc
    recs := slotRecords (r.st.core (c / 4)) desc
    blk := head
    tile := fieldAt desc 24 2
    head := true
    hdr := []
    offs := none
    value := none
    resume := resume
    frame := b.frame
    nest := b.nest
    widths := b.widths
    after := after
    seq := x.seq
    wblk := b.addr
    idx := i
    ticket := 0
    cdone := BitVec.ofNat 64 (fieldAt desc 16 8)
    dropDone := false
    count := 0
    leaving := false
    parked := false
    denied := none
    at' := 0
    fault := none }

/-- The descriptor is one that R262 allows. -/
def driveDescOk (d : List Byte) : Bool :=
  ((d.take 16).all (fun b => b.toNat / 16 % 8 == 0)) && decide (fieldAt d 26 1 < 2) && (d.drop 27).all (fun b => b == 0)

/-! ### Chain faults (R280) -/

/-- A chain fault: the drive stops, CDONE carries the error, and the fault is to be delivered with the drive in the latch. -/
def Run.chainFault (r : Run s0) (c : Nat) (d : Drive) (cls code idx va : Nat) : Run s0 :=
  let o := d.op c (r.st.ctx c)
  let f : FaultRec := { FaultRec.of cls code with
    idx := idx
    rflags := rfAsync ||| rfChain
    blk := d.blk
    tag := o.tag
    ticket := d.ticket
    vaddr := va
    oprec := d.desc.take 64 }
  let r := if d.dropDone then r else r.deliverWord o d.cdone (descriptor cls code d.ticket) true
  let r := r.put (.readers (r.st.readers.filter (fun e => !(e.c == c && e.drive))))
  (r.modCtx c (fun x => { x with wdrv := false })).setDrive c { d with fault := some f, parked := false, denied := none }

/-- The chain fault is delivered at once, whatever other faults wait (R373, R375). -/
def Run.deliverChain (r : Run s0) (c : Nat) (d : Drive) (f : FaultRec) : Run s0 :=
  let (r, p) := r.planDelivery c f
  match p with
  | .wait => r
  | p =>
    let r := r.modCtx c (fun x => { x with drive := none })
    (r.count c none 0x2B 1).deliver c f (.drive { d with fault := none, book := (r.st.ctx c).codebook }) p

/-! ### Reading weights (R275, R278, R279) -/

/-- `n` bytes of weights at `va` as they stand in memory; every page needs WX. -/
def Run.weightBytes (r : Run s0) (c va n : Nat) : Run s0 × Got :=
  let a := r.st.agent c
  (pagesOf va n).foldl (fun (acc : Run s0 × Got) p =>
    match acc.2 with
    | .bytes bs =>
      let lo := max p va
      let hi := min (p + 4096) (va + n)
      if 2 ^ 56 ≤ lo then (acc.1, .fault 0x08 0x00 lo)
      else
        let (r, x) := acc.1.translate a lo .wx
        match x with
        | .phys pa _ =>
          match r.st.poisonAt (mainKey pa) (hi - lo) with
          | some e => (r, .fault e.1 e.2 lo)
          | none => (r, .bytes (bs ++ r.st.bytes (mainKey pa) (hi - lo)))
        | .park => (r, .park lo)
        | .fault q w => (r, .fault q w lo)
    | g => (acc.1, g)) (r, Got.bytes [])

/-- Bytes that the drive has read ahead. -/
def Drive.aheadOf (d : Drive) (va n : Nat) : Option Ahead := d.ahead.find? (fun e => e.va == va && decide (n ≤ e.n))

/-- `n` bytes of weights at `va` that the drive needs now: those it has read ahead, or those in memory. A park waits, and the chain fault of one that has failed belongs to
tile `idx`. -/
def Run.readWeight (r : Run s0) (c : Nat) (d : Drive) (idx va n : Nat) (k : Run s0 → List Byte → Run s0) : Run s0 :=
  let a := r.st.agent c
  match d.denied, d.aheadOf va n with
  | some e, _ => r.chainFault c d e.1 e.2 idx d.at'
  | none, some e => match e.bad with
    | some (q, w, v) => r.chainFault c d q w idx v
    | none => k r (e.bytes.take n)
  | none, none =>
    let (r, g) := r.weightBytes c va n
    match g with
    | .bytes bs => k r bs
    | .park v =>
      match r.parkOn a.die a.grp v a.part (kindRead ||| kindWeight) (.drive c) with
      | some r => r.setDrive c { d with parked := true, at' := v }
      | none => r
    | .fault q w v => r.chainFault c d q w idx v

/-! ### Headers -/

/-- The operation of a weight block and its header, for any instruction. -/
def weightOf : Instr → Option (Nat × WBlock)
  | .wMac h => some (0, h)
  | .wCb h => some (1, h)
  | .wO4 h => some (2, h)
  | .wBook h => some (3, h)
  | .wSwitch h => some (4, h)
  | .wEmit h => some (5, h)
  | .wExit h => some (6, h)
  | _ => none

def wbSlot (h : WBlock) : Nat := bitsOf h.route.toNat 5 3
def wbAcc (h : WBlock) : Nat := h.route.toNat % 4
def wbKt (h : WBlock) : Nat := bitsOf h.route.toNat 8 12
def wbCt (h : WBlock) : Nat := bitsOf h.route.toNat 20 12
def wbAux (h : WBlock) : Word64 := h.aux.setWidth 64
def wbAclr (h : WBlock) : Bool := h.flags.getLsbD 2
def linkKind (h : WBlock) : Nat := h.link.toNat / 2 ^ 62

/-- FMT, WFLAGS, ROUTE, PLEN and LINK kinds that R266 to R268 allow an operation: checks 5 to 8 of R269, but for the records of `w.cb`. -/
def headerFault (wop : Nat) (h : WBlock) : Option Nat :=
  let fmts : List Nat := match wop with
    | 0 => [2, 4, 5]
    | 1 => [8]
    | 2 => [7]
    | _ => [0]
  let flags : BitVec 4 := match wop with
    | 0 | 2 | 5 => 4
    | 1 => 6
    | 3 => 1
    | _ => 0
  let route := match wop with
    | 0 | 1 | 2 | 5 => routeTile h.route
    | 4 => routeSwitch h.route
    | _ => h.route == 0
  let kinds : List Nat := match wop with
    | 4 => [2]
    | 6 => [3]
    | _ => [0, 1, 3]
  let plen := match wop with
    | 0 | 2 => plenTiles h.plen.toNat
    | 1 => h.plen != 0
    | 4 => h.plen == 2
    | _ => h.plen == 0
  let link := match linkKind h with
    | 1 => bitsOf h.link.toNat 56 6 == 0 && h.link.toNat % 64 == 0
    | 2 => bitsOf h.link.toNat 4 58 == 0
    | _ => bitsOf h.link.toNat 0 62 == 0
  if !fmts.contains h.fmt.toNat then some 0x02
  else if h.flags &&& ~~~flags ≠ 0 ∨ h.flags &&& 3 = 3 ∨ route = false then some 0x03
  else if !plen then some 0x04
  else if !kinds.contains (linkKind h) || !link then some 0x05
  else none

/-- The matrix format of a payload's activations, its K and its group size (R150, R270). -/
def weightShape (wop : Nat) (h : WBlock) : Nat × Nat × Nat :=
  if wop = 1 then (0, 192, 6)
  else
    let f := match h.fmt.toNat with
      | 2 => 2
      | 5 => 1
      | 7 => 3
      | _ => 0
    (f, tileK f, tileG f)

/-- Check 10 of R269 for a block of `t` tiles. -/
def slotFault (x : Ctx) (d : Drive) (wop : Nat) (h : WBlock) (t : Nat) : Bool :=
  let valid := fun (j : Nat) => decide (128 ≤ fieldAt d.desc j 1)
  let w := fun (j : Nat) => SMap.get d.recs 0 j
  match wop with
  | 0 | 1 | 2 =>
    let a := w (wbSlot h)
    let (f, k, _) := weightShape wop h
    !x.granted (wbAcc h) || !valid (wbSlot h) || shSpace a != 0 || shFmt a != tileFmt f || shRows a == 0 || decide (128 < shRows a)
      || decide (shCols a < (wbKt h + t) * k) || shBase a % 4 != 0 || (shRows a != 1 && decide (shRowStride a % 4 ≠ 0))
  | 5 =>
    let o := w (8 + wbSlot h)
    !x.granted (wbAcc h) || !valid (8 + wbSlot h) || shSpace o != 0 || !(shFmt o == 1 || shFmt o == 2) || decide (128 < shRows o)
      || decide (shCols o < 128 * (wbCt h + 1))
  | _ => false

/-- The places of the CB4 records of a payload of `len` bytes, from offset `off` on (R269 check 7): code 0x04 when they do not fill it. -/
def Run.walkRecords (r : Run s0) (c : Nat) (d : Drive) (base len : Nat) : Nat → Nat → List Nat → (Run s0 → List Nat → Run s0) → Run s0
  | 0, off, offs, k => if off = len then k r offs else r.chainFault c d 0x13 0x04 255 (base + off)
  | n + 1, off, offs, k =>
    if off = len then k r offs
    else r.readWeight c d 255 (base + off) 4 (fun r bs =>
      let next := off + cb4Length (leNat bs)
      if len < next then r.chainFault c d 0x13 0x04 255 (base + off) else r.walkRecords c d base len n next (offs ++ [off]) k)

/-- The queue of a logical accumulator is empty. Log 54, DEDUCED: a chain's tile step waits for an empty queue, and one that fails was never issued. -/
def State.accFree (s : State) (c acc : Nat) : Bool := (SMap.get (s.core (c / 4)).queues [] ((s.ctx c).physical acc)).isEmpty

/-- A block that has become current is checked (R269, checks 5 to 10); `offs` then holds the places of its tiles, and its accumulator is cleared before tile 0 (R270). -/
def Run.checkCurrent (r : Run s0) (c : Nat) (d : Drive) (wop : Nat) (h : WBlock) : Run s0 :=
  let bad := fun (r : Run s0) (code : Nat) => r.chainFault c d 0x13 code 255 d.blk.toNat
  let finish := fun (r : Run s0) (offs : List Nat) =>
    let t := offs.length
    if (if wop < 3 then decide (t ≤ d.tile) else d.tile != 0) then bad r 0x0A
    else if slotFault (r.st.ctx c) d wop h t then r.chainFault c d 0x08 0x00 255 d.blk.toNat
    else if decide (wop < 3) && wbAclr h && d.tile == 0 then
      let phys := (r.st.ctx c).physical (wbAcc h)
      if r.st.accFree c (wbAcc h) then (r.modCore (c / 4) (fun k => { k.clearAcc phys with poisoned := k.poisoned })).setDrive c { d with offs := some offs, denied := none } else r
    else r.setDrive c { d with offs := some offs, denied := none }
  match headerFault wop h with
  | some 0x05 =>
    if wop = 1 then r.walkRecords c d (d.blk.toNat + 64) (64 * h.plen.toNat) 128 0 [] (fun r _ => bad r 0x05) else bad r 0x05
  | some code => bad r code
  | none =>
    if wop = 1 then r.walkRecords c d (d.blk.toNat + 64) (64 * h.plen.toNat) 128 0 [] finish
    else finish r (if wop < 3 then (List.range (h.plen.toNat / 192)).map (fun t => 12288 * t) else [])

/-! ### From block to block (R264, R268) -/

/-- The block is complete: the drive goes on at `next`, or leaves the chain. -/
def Run.blockDone (r : Run s0) (c : Nat) (d : Drive) (next : Option Nat) : Run s0 :=
  let d := { d with count := d.count + 1, tile := 0, hdr := [], offs := none, value := none, denied := none, ahead := d.ahead.filter (fun e => e.head && e.va != d.blk.toNat) }
  let r := r.count c none 0x2C 1
  match next with
  | none => r.setDrive c { d with leaving := true }
  | some a => r.setDrive c { d with blk := BitVec.ofNat 64 a }

/-- The successor that LINK names, but for a switch. -/
def linkNext (d : Drive) (h : WBlock) : Option Nat :=
  match linkKind h with
  | 0 => some (d.blk.toNat + 64 + 64 * h.plen.toNat)
  | 1 => some (bitsOf h.link.toNat 0 56)
  | _ => none

/-- The drive that is to move at the site, with what every block needs: the block checked, and the writes of the committed runs performed (R263). -/
def weightBlock (wop : Nat) (h : WBlock) (body : {s0 : State} → Run s0 → Nat → Drive → List Nat → Run s0) (s : State) : Host.Outcome State Fault Refusal :=
  let r := Run.start s
  let c := s.site.c
  match (s.ctx c).drive with
  | none => .next r.st
  | some d =>
    if d.parked ∨ d.leaving ∨ d.fault.isSome = true then .next r.st
    else
      match d.offs with
      | none => .next (r.checkCurrent c d wop h).st
      | some offs => .next (body r c d offs).st

/-! ### Tiles (R270) -/

/-- The columns of a tile of a weight payload, or the failing check: class, code and byte offset. -/
def payloadColumns (wop f : Nat) (book : Option (List Ext)) (bs : List Byte) : Except (Nat × Nat × Nat) (List (List (Option Ext))) :=
  if wop = 1 then
    match cb4Columns bs (book.getD (bookOf (bs.drop 32))) with
    | some cols => .ok cols
    | none => .error (0x13, 0x08, 0)
  else
    let w := tileBytes f 128
    let rows := (List.range (tileK f)).foldl (fun (acc : Except (Nat × Nat × Nat) (List (List Ext))) k =>
      match acc with
      | .error e => .error e
      | .ok l =>
        match tileRow f 128 ((bs.drop (k * w)).take w) with
        | .ok row => .ok (l ++ [row])
        | .error off => .error (0x14, 0x00, k * w + off)) (.ok [])
    match rows with
    | .ok rows => .ok (columnsOf 128 rows)
    | .error e => .error e

/-- The next tile step of a block (R270): read, performed at once on an accumulator whose queue is empty, and skipped where the accumulator is poisoned (R193). -/
def Run.weightTile (r : Run s0) (c : Nat) (d : Drive) (wop : Nat) (h : WBlock) (offs : List Nat) : Run s0 :=
  if !r.st.accFree c (wbAcc h) then r
  else
    let t := d.tile
    let x := r.st.ctx c
    let phys := x.physical (wbAcc h)
    let va := d.blk.toNat + 64 + offs.getD t 0
    let (f, k, g) := weightShape wop h
    let next := fun (r : Run s0) =>
      let d := { d with tile := t + 1, denied := none }
      if t + 1 < offs.length then r.setDrive c d else r.blockDone c d (linkNext d h)
    if (r.st.core (c / 4)).isPoisoned phys then next r
    else
      let len := fun (k : Run s0 → Nat → Run s0) => if wop = 1 then r.readWeight c d t va 4 (fun r bs => k r (cb4Length (leNat bs))) else k r 12288
      len (fun r n =>
        r.readWeight c d t va n (fun r bs =>
          let fails := fun (r : Run s0) (e : Nat × Nat × Nat) => r.chainFault c d e.1 e.2.1 t e.2.2
          let book := if h.flags.getLsbD 1 then some (bookOf (leBytes 32 x.codebook.toNat)) else none
          match payloadColumns wop f book bs with
          | .error e => fails r (e.1, e.2.1, va + e.2.2)
          | .ok cols =>
            let a := SMap.get d.recs 0 (wbSlot h)
            let o := d.op c x
            let (r, rows) := r.tileRows o f k ((List.range (shRows a)).map (fun (i : Nat) =>
              displace (shBase a) (i * shRowStride a + ((wbKt h + t) * tileBytes f k : Nat))))
            match rows with
            | .error e => fails r e
            | .ok rows => next ((r.modCore (c / 4) (fun q => q.writeAcc phys (tileStep g (q.accAt phys) rows cols))).count c none 0x28 1)))

/-- `w.mac` (R270). -/
def execWMac (h : WBlock) (s : State) : Host.Outcome State Fault Refusal := weightBlock 0 h (fun r c d offs => r.weightTile c d 0 h offs) s

/-- `w.cb` (R270). -/
def execWCb (h : WBlock) (s : State) : Host.Outcome State Fault Refusal := weightBlock 1 h (fun r c d offs => r.weightTile c d 1 h offs) s

/-- `w.o4` (R270). -/
def execWO4 (h : WBlock) (s : State) : Host.Outcome State Fault Refusal := weightBlock 2 h (fun r c d offs => r.weightTile c d 2 h offs) s

/-! ### The other blocks -/

/-- `w.book` (R271). -/
def execWBook (h : WBlock) (s : State) : Host.Outcome State Fault Refusal :=
  weightBlock 3 h (fun r c d _ =>
    let load := fun {s0 : State} (r : Run s0) (bs : Nat) => (r.modCtx c (fun x => { x with codebook := BitVec.ofNat 256 bs })).blockDone c d (linkNext d h)
    if h.flags.getLsbD 0 then load r h.aux.toNat
    else
      let va := (wbAux h).toNat
      if va % 32 ≠ 0 then r.chainFault c d 0x07 0x00 255 va
      else r.readWeight c d 255 va 32 (fun r bs => load r (leNat bs))) s

/-- The decision value of a switch has come: its table entry names the successor (R273). Log 56, DEDUCED: a drive waits for its context's committed accesses; how its faults are marked. -/
def Run.switchTo (r : Run s0) (c : Nat) (d : Drive) (h : WBlock) (v : Word64) : Run s0 :=
  let at' := d.blk.toNat + 64 + 8 * v.toNat
  if h.link.toNat % 16 + 1 ≤ v.toNat then r.chainFault c d 0x13 0x07 255 d.blk.toNat
  else r.readWeight c { d with value := some v } 255 at' 8 (fun r bs =>
    let e := leNat bs
    match e / 2 ^ 62 with
    | 3 => if bitsOf e 56 6 = 0 then r.blockDone c d none else r.chainFault c d 0x13 0x07 255 at'
    | 1 => if bitsOf e 56 6 = 0 then r.blockDone c d (some (bitsOf e 0 56)) else r.chainFault c d 0x13 0x07 255 at'
    | _ => r.chainFault c d 0x13 0x07 255 at')

/-- The decision value taken from a core-store granule (R116, R273). -/
def Run.switchTake (r : Run s0) (c : Nat) (d : Drive) (h : WBlock) : Run s0 :=
  let ea := (wbAux h).toNat
  let drop := fun (r : Run s0) => r.put (.readers (r.st.readers.filter (fun e => !(e.c == c && e.drive))))
  match r.st.readers.find? (fun e => e.c == c && e.drive) with
  | some e =>
    match e.answer with
    | some bs => if e.bad ≠ (0, 0) then (drop r).chainFault c d e.bad.1 e.bad.2 255 ea else (drop r).switchTo c d h (BitVec.ofNat 64 (leNat bs))
    | none => if e.failed then (drop r).chainFault c d 0x11 0x05 255 ea else r
  | none =>
    let a := r.st.agent c
    match fireCheck r.st a .core ea 8 true .waiting with
    | some (q, w) => r.chainFault c d q w 255 ea
    | none =>
      let k := coreKey (c / 4) ea
      if r.st.isFull (k / 16) then
        match r.st.poisonAt k 8 with
        | some e => r.chainFault c d e.1 e.2 255 ea
        | none =>
          let v : Word64 := BitVec.ofNat 64 (r.st.num k 8)
          (r.mark [k / 16] false).switchTo c d h v
      else if poolSize k ≤ (r.st.readers.filter (fun e => storeOf e.key == storeOf k && e.answer.isNone && !e.failed)).length then
        r.chainFault c d 0x0C 0x00 255 ea
      else r.put (.readers (r.st.readers ++ [⟨k / 16, k, 8, c, 0, 0, true, r.st.clk, true, none, false, (0, 0)⟩]))

/-- `w.switch` (R273). -/
def execWSwitch (h : WBlock) (s : State) : Host.Outcome State Fault Refusal :=
  weightBlock 4 h (fun r c d _ =>
    match d.value with
    | some v => r.switchTo c d h v
    | none =>
      if h.route.getLsbD 6 then r.switchTake c d h
      else
        let x := r.st.ctx c
        let n := h.route.toNat % 64
        if x.isFull n then r.switchTo c d h (x.reg n) else r) s

/-- The completion of an emit (R272). A register that it names is filled, unless a pending producer holds it. -/
def Run.emitDone (r : Run s0) (o : EngOp) (w value : Word64) : Run s0 :=
  match fillsReg w with
  | none => r.deliverWord o w value false
  | some n => if (r.st.ctx o.c).isFull n then r.modCtx o.c (fun x => x.fillReg n value o.id) else r.opFault o (o.faultRec 0x04 0x04 0)

/-- Rows of an emit, from row `i` on. Log 55, DEDUCED: w.emit stops at its failing row. -/
def Run.emitRows (r : Run s0) (c : Nat) (d : Drive) (h : WBlock) (o : EngOp) (w : BitVec 256) (phys : Nat) : Nat → Nat → (Run s0 → Run s0) → Run s0
  | 0, _, k => k r
  | n + 1, i, k =>
    let bf16 := shFmt w == 2
    let ea := displace (shBase w) (i * shRowStride w + (128 * wbCt h * (if bf16 then 2 else 4) : Nat))
    let (r, p) := r.engineWrite o o.core .core ea (accRowBytes (r.st.core o.core) phys i 128 bf16)
    match p with
    | .done => r.emitRows c d h o w phys n (i + 1) k
    | .fault q e v => r.chainFault c d q e 255 v
    | .park v | .home _ v => r.chainFault c d 0x08 0x00 255 v

/-- `w.emit` (R272). Log 117, DEDUCED: w.emit of a poisoned accumulator writes the data. -/
def execWEmit (h : WBlock) (s : State) : Host.Outcome State Fault Refusal :=
  weightBlock 5 h (fun r c d _ =>
    if !r.st.accFree c (wbAcc h) then r
    else
      let x := r.st.ctx c
      let o := d.op c x
      let phys := x.physical (wbAcc h)
      let w := SMap.get d.recs 0 (8 + wbSlot h)
      r.emitRows c d h o w phys (shRows w) 0 (fun r =>
        let r := if wbAclr h then r.modCore (c / 4) (fun k => { k.clearAcc phys with poisoned := k.poisoned }) else r
        (r.emitDone o (wbAux h) (statusWordOf 0 0 (shRows w) false)).blockDone c d (linkNext d h))) s

/-- `w.exit` (R274). -/
def execWExit (h : WBlock) (s : State) : Host.Outcome State Fault Refusal := weightBlock 6 h (fun r c d _ => r.blockDone c d none) s

/-! ### Reading ahead (R275) -/

/-- The blocks after the current one along links of kind 00 and 01, as far as their headers have been read, at most 4: the last is the first whose header has not. -/
def Drive.upcoming (d : Drive) : Nat → Nat → List Byte → List Nat
  | 0, _, _ => []
  | n + 1, at', hdr =>
    match (parseHeader (quadsOf hdr)).toOption.bind weightOf with
    | none => []
    | some (_, h) =>
      match linkNext { d with blk := BitVec.ofNat 64 at' } h with
      | none => []
      | some a => a :: (match d.aheadOf a 64 with
        | some e => if e.bad.isSome then [] else d.upcoming n a e.bytes
        | none => [])

/-- What a drive may read ahead: the next header along the chain, and the next tile of its block, in pages that are present. Log 131, DESIGN CHOICE: when the streamer reads ahead, and
that it reads nothing ahead that would park. -/
def State.aheadReads (s : State) (c : Nat) : List (Nat × Nat × Bool) :=
  match (s.ctx c).drive with
  | none => []
  | some d =>
    match d.offs with
    | none => []
    | some offs =>
      let heads := ((d.upcoming 4 d.blk.toNat d.hdr).filter (fun a => (d.aheadOf a 64).isNone)).map (fun a => (a, 64, true))
      let last := d.blk.toNat + 64 + 64 * fieldAt d.hdr 0 2
      let tile := fun (t : Nat) => d.blk.toNat + 64 + offs.getD t 0
      let tiles := (((List.range offs.length).filter (fun t => decide (d.tile ≤ t))).find? (fun t => (d.aheadOf (tile t) 4).isNone)).map (fun t =>
        (tile t, (if t + 1 < offs.length then tile (t + 1) else last) - tile t, false))
      (heads ++ tiles.toList).filter (fun e => (pagesOf e.1 e.2.1).all (fun p => (s.peek (s.agent c) p).isSome))

/-- The streamer of a drive reads ahead; a failure is held until its block is current. -/
def Run.readAhead (r : Run s0) (c : Nat) (e : Nat × Nat × Bool) : Run s0 :=
  let (r, g) := r.weightBytes c e.1 e.2.1
  match (r.st.ctx c).drive, g with
  | some d, .bytes bs => r.setDrive c { d with ahead := d.ahead ++ [⟨e.1, e.2.1, e.2.2, bs, none⟩] }
  | some d, .fault q w v => r.setDrive c { d with ahead := d.ahead ++ [⟨e.1, e.2.1, e.2.2, [], some (q, w, v)⟩] }
  | _, _ => r

/-! ### The walk -/

/-- The drive of a context may move: it is running, nothing of it waits, and the writes of the committed runs are performed (R263). -/
def State.driveMoves (s : State) (c : Nat) : Bool :=
  let x := s.ctx c
  decide (x.mode = .running) && (match x.drive with
    | none => false
    | some d => !d.parked && !d.leaving && !x.helmParked && !x.writesPending)

/-- The drive of a context fetches its current block: the block to run, or what came of it. A chain fault that waits is delivered instead. -/
def driveFetch (s : State) (c : Nat) : State × Option Instr :=
  let r := Run.start s
  match (s.ctx c).drive with
  | none => (s, none)
  | some d =>
    match d.fault with
    | some f => ((r.deliverChain c d f).st, none)
    | none =>
      if d.head && !driveDescOk d.desc then ((r.chainFault c d 0x08 0x00 255 0).st, none)
      else if d.hdr.isEmpty then
        ((r.readWeight c d 255 d.blk.toNat 64 (fun r bs => r.setDrive c { d with hdr := bs, head := false, denied := none })).st, none)
      else
        match parseHeader (quadsOf d.hdr) with
        | .error code => ((r.chainFault c d 0x13 code 255 d.blk.toNat).st, none)
        | .ok i => ((r.put (.site ⟨c, 0, 0⟩)).st, some i)

/-- `DRIVE_EXIT` (R264): CDONE carries the number of blocks completed, and the resume block is named. -/
def execDriveExit (c : Nat) (s : State) : Host.Outcome State Fault Refusal :=
  let r := Run.start s
  let x := s.ctx c
  match x.drive with
  | none => .next r.st
  | some d =>
    if d.leaving then
      let r := if d.dropDone then r else r.deliverWord (d.op c x) d.cdone (statusWordOf 0 0 d.count false) false
      .next (r.modCtx c (fun x => { x with
        wdrv := false
        drive := none
        pendAt := r.st.clk
        next := some ⟨d.resume, .other, d.after.1, d.after.2, 0, [], 0, 255, none⟩ })).st
    else .next r.st

end Sys2Proof.Machine
end

