-- ==== Sys2Proof/Machine/Completion.lean ====
section
/-! DEFINITION. The events of engine operations in progress (R183, R193, R197 to R216, R229): the head of an accumulator queue moves on, and every other operation
makes its next move; and what a posted command does at its issue (R180, R195, R201, R214, R216). -/

namespace Sys2Proof.Machine

open Sys2Proof

variable {s0 : State}

/-! ### The static copy schedule (R201) -/

/-- The address and the count of the schedule of a launch (R352). Log 58, DEDUCED: a schedule's entries are released once a launch. -/
def scheduleOf (s : State) (launch : Nat) : Nat × Nat :=
  match s.launches.find? (fun l => l.id == launch) with
  | some l => (fieldAt l.rec' 40 8, fieldAt l.rec' 48 4)
  | none => (0, 0)

def releasedOf (s : State) (launch : Nat) : List Nat := ((s.launches.find? (fun l => l.id == launch)).map (·.released)).getD []

/-- Entry `i`, whose bytes are `d`, is issued as a posted copy under a ticket of its own. -/
def Run.release (r : Run s0) (o : EngOp) (i : Nat) (d : List Byte) : Run s0 :=
  let r := r.put .named
  let x := r.st.ctx o.c
  let kind : CmdKind := if copyMask d = 0 then .copy else .copyMc
  let e : EngOp := { o with
    id := r.st.uid
    ticket := x.ticket.toNat
    cmd := { o.cmd with kind := kind }
    desc := d }
  let r := r.modCtx o.c (fun x => { x with ticket := x.ticket + 1 })
  let r := r.put (.launches (r.st.launches.map (fun l => if l.id == o.launch then { l with released := i :: l.released } else l)))
  let r := r.put (.ops (r.st.ops ++ [e]))
  (r.claimRegs e ((completionWords kind d).map Prod.snd)).atIssue e.id

/-- The last `k` of the `n` entries at `base`. -/
def Run.stageFrom (r : Run s0) (o : EngOp) (base n : Nat) : Nat → Run s0
  | 0 => r.dropOp o.id
  | k + 1 =>
    let i := n - (k + 1)
    if (releasedOf r.st o.launch).contains i then r.stageFrom o base n k
    else
      let (r, g) := r.engineRead o .main (base + 128 * i) 128
      match g with
      | .bytes d =>
        if fieldAt d 86 1 = o.rank ∧ fieldAt d 84 2 ≤ o.cmd.a.toNat % 65536 then (r.release o i d).stageFrom o base n k else r.stageFrom o base n k
      | .park v => r.parkOp o v kindRead
      | .fault c q v => r.failOpWith o c q v

/-- A `stage` (R201). -/
def Run.stageOp (r : Run s0) (o : EngOp) : Run s0 :=
  match o.denied with
  | some e => r.failOpWith o e.1 e.2 o.at'
  | none =>
    let (base, n) := scheduleOf r.st o.launch
    r.stageFrom o base n n

/-! ### Commands performed at their issue -/

/-- `spawn` (R214, R366): the pass is counted and enqueued. -/
def Run.spawnOp (r : Run s0) (o : EngOp) : Run s0 :=
  let n := o.cmd.a.toNat % 2 ^ 64
  match r.st.launches.find? (fun l => l.id == o.launch) with
  | none => r.failOpWith o 0x08 0x00 0
  | some l =>
    if (l.nodes[n]?).any (fun e => e.spawn) then
      let r := r.put .named
      let pass : Pass := ⟨r.st.uid, n, .ready, r.st.clk, 0, [], [], []⟩
      (r.put (.launches (r.st.launches.map (fun y => if y.id == l.id then { y with spawns := y.spawns + 1, work := y.work ++ [pass] } else y)))).dropOp o.id
    else r.failOpWith o 0x08 0x00 0

/-- `tdset` (R24, R195): the field of the record. -/
def Run.tdsetOp (r : Run s0) (o : EngOp) (fld m : Nat) : Run s0 :=
  (r.modCore o.core (fun k => { k with td := SMap.set k.td 0 m (setField (SMap.get k.td 0 m) fld (o.cmd.a.setWidth 64)) })).dropOp o.id

/-- A posted command is issued (R180). Log 19, DESIGN CHOICE: tdset, stage, free and spawn act at the commit and take a ticket, stage and free once older writes are performed. -/
def Run.post (r : Run s0) (c : Nat) (b : BlockRun) (i : Nat) (cmd : Cmd) : Run s0 :=
  let id := r.st.uid + 1
  let r := r.issue c b i cmd false .none .none
  match r.st.op? id with
  | none => r
  | some o =>
    match cmd.kind with
    | .copy | .copyMc | .xform => r.atIssue id
    | .stage => if r.st.opReady o then r.stageOp o else r
    | .gather _ | .scatter _ => r.mapAtIssue id (fun o => gatherOk o.gmode o.desc)
    | .spawn => r.spawnOp o
    | .free => if r.st.opReady o then r.freeOp o else r
    | .tdset fld m => r.tdsetOp o fld.toNat m.toNat
    | _ => r

/-! ### `MATRIX_TILE_STEP` (R193) -/

/-- The operation at the head of the queue of a physical accumulator, when it may move. -/
def State.headOp (s : State) (core acc : Nat) : Option EngOp :=
  match SMap.get (s.core core).queues [] acc with
  | .engine id :: _ => (s.op? id).bind (fun o => if !o.parked && s.opReady o then some o else none)
  | _ => none

/-- The operation is a tile step of the matrix array. -/
def EngOp.isTile (o : EngOp) : Bool :=
  match o.cmd.kind with
  | .mma _ _ | .mmaG _ _ | .mmaCb _ => true
  | _ => false

/-- The operation of a queue that moves next: tile steps of different accumulators that may move take the array in the order of their issue (R192). -/
def State.queueHead (s : State) (core acc : Nat) : Option EngOp :=
  (s.headOp core acc).bind (fun o =>
    if o.isTile && (List.range 4).any (fun a => (s.headOp core a).any (fun p => p.isTile && decide (p.id < o.id))) then none else some o)

/-- `MATRIX_TILE_STEP`: the head of an accumulator queue moves on (R188 to R194). -/
def execMatrixTileStep (core acc : Nat) (s : State) : Host.Outcome State Fault Refusal :=
  let r := Run.start s
  match s.queueHead core acc with
  | some o => .next (r.accOp o acc).st
  | none => .next r.st

/-! ### `ENGINE_COMPLETION` (R183) -/

/-- The operation stands in an accumulator queue. -/
def State.inQueue (s : State) (o : EngOp) : Bool := (s.core o.core).queues.any (fun e => e.2.contains (.engine o.id))

/-- The operation may make its next move. The `dedup` commands of a context hold their buckets in the order of issue (R329), and
requests for frames of a window are served in their order (R322). -/
def State.completes (s : State) (o : EngOp) : Bool :=
  !o.parked && s.opReady o && s.homeTurn (.op o.id) && (match o.cmd.kind with
    | .attn => false
    | .alloc => !s.framesBefore o.c o.seq o.idx
    | .dedup => !s.framesBefore o.c o.seq o.idx && s.ops.all (fun p => !(p.cmd.kind == .dedup && p.c == o.c && decide (p.id < o.id)))
    | .mma _ _ | .mmaG _ _ | .mmaCb _ | .accclr _ | .accrd _ | .accrdSt _ | .accwr _ => !s.inQueue o
    | _ => true)

/-- A copy or transform that the graph engine dispatched reads its descriptor, whose address stands in slot A (R359, R363). Slot B holds the mask of the member
cores of the cluster that slot G names when the copy stages an operand: with a core destination it goes to each of them, else the first cluster's copy alone is made. -/
def Run.nodeDesc (r : Run s0) (o : EngOp) : Run s0 :=
  let va := o.cmd.a.toNat % 2 ^ 64
  if va % 64 ≠ 0 then r.failOpWith o 0x07 0x00 va
  else
    let (r, g) := r.engineRead o .main va 128
    match g with
    | .bytes d =>
      let mask := o.cmd.b.toNat % 16
      if mask = 0 then r.setOp { o with desc := d, cmd := { o.cmd with kind := if o.cmd.kind = .copy ∧ copyMask d ≠ 0 then .copyMc else o.cmd.kind } }
      else if shSpace (copyDst d) = 0 then r.setOp { o with cmd := { o.cmd with kind := .copyMc }, desc := d.take 81 ++ [BitVec.ofNat 8 mask] ++ d.drop 82 }
      else if o.cmd.g.toNat = o.core / 4 + 1 then r.setOp { o with desc := d }
      else r.dropOp o.id
    | .park v => r.parkOp o v kindRead
    | .fault c q v => r.failOpWith o c q v

/-- An operation makes its next move, by its kind. One that names an accumulator that is not granted has only its fault (R23). -/
def Run.moveOp (r : Run s0) (o : EngOp) : Run s0 :=
  match o.cmd.kind with
  | .copy | .copyMc | .xform => if o.desc.isEmpty && o.denied.isNone then r.nodeDesc o else r.streamOp o
  | .fprint core => r.fprintOp o core
  | .dedup => r.dedupOp o
  | .gather _ | .scatter _ | .semb _ _ => r.gatherOp o
  | .alloc => r.allocOp o
  | .stage => r.stageOp o
  | .spawn => r.spawnOp o
  | .free => r.freeOp o
  | .tdset fld m => r.tdsetOp o fld.toNat m.toNat
  | .mma _ _ | .mmaG _ _ | .mmaCb _ | .accclr _ | .accrd _ | .accrdSt _ | .accwr _ | .attn =>
    match o.denied with
    | some e => r.failOpWith o e.1 e.2 o.at'
    | none => r.failOpWith o 0x08 0x00 0

/-- `ENGINE_COMPLETION`: the next event of an operation, and with the last of them its completion. -/
def execEngineCompletion (k : Nat) (s : State) : Host.Outcome State Fault Refusal :=
  let r := Run.start s
  match s.op? k with
  | some o => .next (if s.completes o then (if s.homeQueued (.op k) then (r.moveOp o).leaveHome (.op k) else r.moveOp o) else r).st
  | none => .next r.st

end Sys2Proof.Machine
end

