-- ==== Sys2Proof/Machine/Trees.lean ====
section
/-! DEFINITION. Reduction trees (R135, R344 to R348), and the return of overflowed tokens (R334). -/

namespace Sys2Proof.Machine

open Sys2Proof

variable {s0 : State}

/-! ### `red` (R135, R344) -/

/-- The tree that a context's `red` names, when it is bound to its team and the context is a leaf of it. -/
def State.treeOf (s : State) (x : Ctx) (t : Nat) : Option Tree :=
  s.trees.find? (fun y => y.launch == x.launch && y.node == x.node && y.ident == t && y.nodes.any (fun n => n.children.contains (true, x.rank)))

/-- A handle of `red` is one that R135 allows. -/
def redHandleOk (w : BitVec 512) : Bool :=
  let v : BitVec 256 := w.setWidth 256
  let n := shRows v * shCols v * 4
  decide (w.toNat / 2 ^ 256 = 0) && shFmt v == 1 && shSpace v == 0 && shPlanes v == 1 && shBlocks v == 1 && [64, 128, 192, 256].contains n
    && (List.range (shRows v)).all (fun i => shRowAt v 0 0 i % 4 == 0 && decide (shRowAt v 0 0 i + 4 * shCols v ≤ coreLimit))

/-- Bytes of the data of a `red`. -/
def redLength (t : Token) : Nat :=
  match t.kind with
  | .handle => let v : BitVec 256 := t.data.setWidth 256; shRows v * shCols v * 4
  | _ => 64

/-- A `red` as it fires: its checks, then the packet that its commit sends. -/
def redNode (ins : Instr) (xs : Bool) (n : BitVec 6) (s : State) : Host.Outcome State Fault Refusal :=
  fireNode ins (fun f =>
    match s.treeOf (s.ctx f.c) n.toNat with
    | none => f.fault 0x08 0x00
    | some t =>
      if (f.a.kind == .handle && !redHandleOk f.a.data) || t.xs != xs || redLength f.a != t.len then f.fault 0x08 0x00
      else { effs := [.red xs n f.a.data f.a.kind f.a.s], outs := 1 }) s

/-- `red.f32` (R135). -/
def execRedF32 (g : Gate) (t : BitVec 6) (s : State) : Host.Outcome State Fault Refusal := redNode (.redF32 g t) false t s

/-- `red.xs` (R135). -/
def execRedXs (g : Gate) (t : BitVec 6) (s : State) : Host.Outcome State Fault Refusal := redNode (.redXs g t) true t s

/-! ### Sending -/

/-- A tree of the list replaced: the one of the same launch, node and identifier. -/
def Run.setTree (r : Run s0) (t : Tree) : Run s0 :=
  r.put (.trees (r.st.trees.map (fun y => if y.launch == t.launch && y.node == t.node && y.ident == t.ident then t else y)))

/-- The packet put at the end of child slot `k` of node `j`. -/
def Tree.putPacket (t : Tree) (j k : Nat) (p : Packet) : Tree :=
  { t with nodes := t.nodes.mapIdx (fun i n => if i = j then { n with slots := n.slots.mapIdx (fun l q => if l = k then q ++ [p] else q) } else n) }

/-- The fault of a packet that a failed tree discards (R347). -/
def lostPacket (t : Tree) (round : Nat) : FaultRec := { FaultRec.of 0x11 0x06 with auxid := t.ident, auxn := round }

/-- The data of a `red`, captured at the commit: a handle's rows as its context sees them. Log 64, DESIGN CHOICE: a red packet arrives at once. -/
def redData (s : State) (c : Nat) (b : BlockRun) (i : Nat) (data : Payload) (kind : Kind) : List Byte :=
  match kind with
  | .handle =>
    let v : BitVec 256 := data.setWidth 256
    (List.range (shRows v)).flatMap (fun j => seenBytes s (s.seenBy c b i) (coreKey (c / 4) (shRowAt v 0 0 j)) (4 * shCols v))
  | _ => leBytes 64 data.toNat

/-- The operation as which a tree delivers in a context. -/
def treeOp (s : State) (c : Nat) (blk tag : Word64) (widths : NestRec) (idx id : Nat) : EngOp :=
  let x := s.ctx c
  let d : Drive := {
    id := id, desc := [], recs := [], blk := blk, tile := 0, head := false, hdr := [], offs := none, value := none, resume := 0,
    frame := tag.extractLsb' 56 8, nest := tag.setWidth 56, widths := widths, after := (0, []), seq := x.seq, wblk := blk, idx := idx, ticket := 0, cdone := 0,
    dropDone := false, count := 0, leaving := false, parked := false, denied := none, at' := 0, fault := none }
  d.op c x

/-- The commit of a `red` (R135, R344, R347): its packet enters the leaf's slot. DRANK's own `red` marks the register that CDONE names (R22). -/
def Run.sendRed (r : Run s0) (c : Nat) (b : BlockRun) (i : Nat) (xs : Bool) (n : Nat) (data : Payload) (kind : Kind) (s : Bool) : Run s0 :=
  let x := r.st.ctx c
  match r.st.treeOf x n with
  | none => r.raiseAsync c { FaultRec.of 0x08 0x00 with idx := i, blk := b.addr, tag := b.tag }
  | some t =>
    let round := SMap.get t.sent 0 x.rank
    let t := { t with sent := SMap.set t.sent 0 x.rank (round + 1) }
    if t.failed then (r.setTree t).raiseAsync c { lostPacket t round with idx := i, blk := b.addr, tag := b.tag }
    else
      let r := r.put .named
      let o := treeOp r.st c b.addr b.tag b.widths i r.st.uid
      let (r, t) : Run s0 × Tree :=
        if x.rank ≠ t.drank ∨ t.cdone = 0 then (r, t)
        else
          match fillsReg t.cdone with
          | none => (r, { t with marks := t.marks ++ [(round, o)] })
          | some g =>
            if x.isFull g then (r.modCtx c (fun x => x.emptyReg g o.id), { t with marks := t.marks ++ [(round, o)] })
            else (r.opFault o (o.faultRec 0x04 0x04 0), { t with dropped := round :: t.dropped })
      let bs := redData r.st c b i data kind
      let es := (List.range (bs.length / 4)).map (fun e => fieldAt bs (4 * e) 4)
      let p : Packet := {
        round := round
        els := if xs then es.map (fun e => (xsAdd XsLane.zero (FloatFmt.f32.read e)).1) else []
        f32 := if xs then [] else es.map (BitVec.ofNat 32)
        s := s
        inc := false
        miss := []
        count := 1
        err := false
        c := c
        at' := r.st.clk }
      match (List.range t.nodes.length).findSome? (fun j => ((t.nodes[j]?).bind (fun y => y.children.findIdx? (· == (true, x.rank)))).map (fun k => (j, k))) with
      | some (j, k) => r.setTree (t.putPacket j k p)
      | none => r.setTree t

/-! ### Combining (R345, R347) -/

/-- The height of a node (R342), within a number of levels. -/
def Tree.height (t : Tree) : Nat → Nat → Nat
  | 0, _ => 1
  | n + 1, j => 1 + (((t.nodes[j]?).map (·.children)).getD []).foldl (fun m e => if e.1 then m else max m (Tree.height t n e.2)) 0

/-- The ranks of the leaves below a child (R347). -/
def Tree.leaves (t : Tree) : Nat → Bool × Nat → List Nat
  | 0, e => if e.1 then [e.2] else []
  | n + 1, e => if e.1 then [e.2] else (((t.nodes[e.2]?).map (·.children)).getD []).flatMap (Tree.leaves t n)

/-- The packets of a node's round at the heads of its slots. -/
def TreeNode.heads (n : TreeNode) : List (Option Packet) :=
  n.slots.map (fun q => match q with
    | p :: _ => if p.round = n.round then some p else none
    | [] => none)

/-- Two packets combined, in child order. Log 65, DESIGN CHOICE: a round both incomplete and of mixed scale fails the tree. -/
def joinPackets (p q : Packet) : Packet :=
  { p with
    els := (p.els.zip q.els).map (fun e => xsMerge e.1 e.2)
    f32 := (p.f32.zip q.f32).map (fun e => BitVec.ofNat 32 (rneF32 (addExt .rne (FloatFmt.f32.read e.1.toNat) (FloatFmt.f32.read e.2.toNat)).1).bits)
    inc := p.inc || q.inc
    miss := p.miss ++ q.miss
    count := p.count + q.count
    err := p.err || q.err || p.s != q.s }

/-- The packet that a node sends on for its round: the heads present in child order, the leaves below every empty slot missing. -/
def Tree.combined (t : Tree) (n : TreeNode) : Option Packet :=
  let hs := n.heads
  let missing := ((n.children.zip hs).filter (fun e => e.2.isNone)).flatMap (fun e => t.leaves t.nodes.length e.1)
  match hs.filterMap id with
  | [] => none
  | p :: ps => let q := ps.foldl joinPackets p; some { q with inc := q.inc || !missing.isEmpty, miss := q.miss ++ missing, c := 640 }

/-- A node's round leaves it. -/
def TreeNode.take (n : TreeNode) : TreeNode :=
  { n with
    round := n.round + 1
    slots := n.slots.map (fun q => match q with
      | p :: l => if p.round = n.round then l else q
      | [] => q) }

/-- Bits of a missing-contributor bitmap, and whether a rank is above them (R370). -/
def missingMap (ranks : List Nat) : Nat × Bool := ((ranks.filter (· < 128)).eraseDups.foldl (fun m k => m + 2 ^ k) 0, ranks.any (fun k => decide (128 ≤ k)))

/-- The context that runs a rank of the node a tree serves. -/
def State.memberCtx (s : State) (launch node rank : Nat) : Option Nat :=
  (SMap.keys s.ctxs).find? (fun c => let x := s.ctx c; x.mode != .free && x.launch == launch && x.node == node && x.rank == rank)

/-- A failed tree discards what its nodes hold, and the senders are told (R347). Log 67, DEDUCED: only leaf packets of a discarded tree give sender faults. -/
def Run.discardPackets (r : Run s0) (t : Tree) : Run s0 :=
  let held := t.nodes.flatMap (fun n => n.slots.flatten)
  let r := r.setTree { t with failed := true, nodes := t.nodes.map (fun n => { n with slots := n.slots.map (fun _ => []) }) }
  held.foldl (fun r p => if p.c < 640 then r.raiseAsync p.c (lostPacket t p.round) else r) r

/-- Bytes filled at a granule's address in the core store of an operation's core and poisoned, granule by granule (R347): a granule that is full keeps what it holds, and the address of the
first such one is given. -/
def Run.fillPoisoned (r : Run s0) (o : EngOp) (at' : Nat) (bs : List Byte) (e : Nat × Nat) : Run s0 × Option Nat :=
  let k := coreKey o.core at'
  (granules k bs.length).foldl (fun (acc : Run s0 × Option Nat) g =>
    if acc.1.st.taken g then (acc.1, acc.2 <|> some (at' + (16 * g - k)))
    else
      let r := acc.1.write (16 * g) ((bs.drop (16 * g - k)).take 16)
      let r := (r.put (.poison (2 * g) e)).put (.poison (2 * g + 1) e)
      (((r.untold [g]).mark [g] true).serve [g], acc.2)) (r, none)

/-- The root delivers a round (R346, R347, R348). Log 66, DESIGN CHOICE: CDONE of a round in which DRANK sent nothing. Log 118, DEDUCED: a round delivers its status even when a data granule is full. -/
def Run.deliverRound (r : Run s0) (t : Tree) (p : Packet) : Run s0 :=
  match r.st.memberCtx t.launch t.node t.drank with
  | none => r.setTree t
  | some c =>
    let mark := t.marks.find? (fun e => e.1 == p.round)
    let o := (mark.map Prod.snd).getD (treeOp r.st c 0 0 [] 0 0)
    let t := { t with marks := t.marks.filter (fun e => e.1 != p.round) }
    let r := r.setTree t
    let a := t.raddr + p.round % t.rslots * t.rstride
    let vals := if t.xs then p.els.map (fun x => (xsRound .f32 x).bits) else p.f32.map (·.toNat)
    let data := vals.flatMap (leBytes 4)
    let bad : Option (Nat × Nat) := if p.err then some (0x06, 0x00) else if p.inc then some (0x11, 0x03) else none
    let write := fun (r : Run s0) (at' : Nat) (bs : List Byte) =>
      let (r, x) := r.engineWrite o o.core .core at' bs
      match x with
      | .fault q w v => r.opFault o (o.faultRec q w v)
      | _ => r
    let spoil := fun (r : Run s0) (at' : Nat) (bs : List Byte) (e : Nat × Nat) =>
      let (r, x) := r.fillPoisoned o at' bs e
      match x with
      | some v => r.opFault o (o.faultRec 0x0B 0x01 v)
      | none => r
    let r := (List.range (t.len / 64)).foldl (fun r k =>
      let bs := (data.drop (64 * k)).take 64
      match bad with
      | none => write r (a + 64 * k) bs
      | some e => spoil r (a + 64 * k) bs e) r
    let miss := p.miss.eraseDups
    let status : Word64 := match bad with
      | some e => descriptor e.1 e.2 0
      | none => BitVec.ofNat 64 p.count
    let r := write r (a + t.len) (leBytes 8 status.toNat ++ leBytes 4 p.round ++ leBytes 4 miss.length)
    let r :=
      if t.cdone = 0 ∨ t.dropped.contains p.round then r
      else
        match mark, fillsReg t.cdone with
        | none, some g =>
          if (r.st.ctx c).isFull g then r.modCtx c (fun x => x.fillReg g status o.id) else r.opFault o (o.faultRec 0x04 0x04 0)
        | _, _ => r.deliverWord o t.cdone status bad.isSome
    match bad with
    | none => r
    | some e =>
      let (map, hi) := missingMap miss
      let r := r.raiseAsync c { FaultRec.of e.1 e.2 with auxid := t.ident, auxn := p.round, map := map, rflags := if hi then rfMapHi else 0, miss := miss }
      if p.inc then
        match r.st.trees.find? (fun y => y.launch == t.launch && y.node == t.node && y.ident == t.ident) with
        | some t => r.discardPackets t
        | none => r
      else r

/-- Node `j` combines the round at its heads and sends it to its parent, or delivers it. -/
def Run.combineAt (r : Run s0) (t : Tree) (j : Nat) : Run s0 :=
  match t.nodes[j]? with
  | none => r
  | some n =>
    match t.combined n with
    | none => r
    | some p =>
      let t := { t with nodes := t.nodes.mapIdx (fun i y => if i = j then y.take else y) }
      match n.parent with
      | none => r.deliverRound t p
      | some k =>
        match ((t.nodes[k]?).map (·.children)).bind (fun cs => cs.findIdx? (· == (false, j))) with
        | some slot => r.setTree (t.putPacket k slot { p with at' := r.st.clk })
        | none => r.setTree t

/-- A node has its round at every slot. -/
def Tree.complete (t : Tree) (j : Nat) : Bool := !t.failed && ((t.nodes[j]?).any (fun n => n.heads.all Option.isSome))

/-- `RED_NODE_COMBINE` (R345, R346). -/
def execRedNodeCombine (k node : Nat) (s : State) : Host.Outcome State Fault Refusal :=
  let r := Run.start s
  match s.trees[k]? with
  | some t => .next (if t.complete node then r.combineAt t node else r).st
  | none => .next r.st

/-- The partition of a launch. -/
def State.partOfLaunch (s : State) (launch : Nat) : Nat := ((s.launches.find? (fun l => l.id == launch)).map (fun l => fieldAt l.rec' 26 1)).getD 0

/-- A partition whose drain, freeze or fix stops the timers of its groups, barriers and trees (R383, R390). -/
def State.timersStopped (s : State) (p : Nat) : Bool := s.stoppedPart p || s.drains.any (fun d => d.part == p)

/-- A pass of a node stands in a save area (R383, R387). -/
def State.nodeSaved (s : State) (launch node : Nat) : Bool := s.launches.any (fun l => l.id == launch && l.work.any (fun p => p.node == node && p.st == .held))

/-- The timer of a node's round has expired (R347). -/
def State.treeExpired (s : State) (t : Tree) (j : Nat) : Bool :=
  match t.nodes[j]? with
  | none => false
  | some n =>
    let p := s.partOfLaunch t.launch
    let hs := n.heads.filterMap id
    let first := hs.foldl (fun m q => min m q.at') ((hs.head?.map (·.at')).getD 0)
    !t.failed && !s.timersStopped p && !hs.isEmpty && decide (first + clocksOf (s.redtmo p) * t.height t.nodes.length j < s.clk)

/-- `RED_NODE_TIMEOUT` (R347): the node goes on with the heads that are present. -/
def execRedNodeTimeout (k node : Nat) (s : State) : Host.Outcome State Fault Refusal :=
  let r := Run.start s
  match s.trees[k]? with
  | some t => .next (if s.treeExpired t node then r.combineAt t node else r).st
  | none => .next r.st

/-! ### The overflow area (R334) -/

/-- The first overflowed token of a core whose PE has an entry again. -/
def State.returning (s : State) (core : Nat) : Option (Nat × BlockRun × Arrived) :=
  (coreCtxs (4 * core)).findSome? (fun c => (s.ctx c).runs.findSome? (fun b =>
    (b.spilled.find? (fun t => !s.overflows c b t.idx)).map (fun t => (c, b, t))))

/-- `OVERFLOW_TOKEN_RETURN` (R334): it is matched as if it had just arrived. -/
def execOverflowTokenReturn (core : Nat) (s : State) : Host.Outcome State Fault Refusal :=
  let r := Run.start s
  match s.returning core with
  | none => .next r.st
  | some (c, b, t) => .next (r.modRun c b.iid (fun b => s.sendTo c none { b with spilled := b.spilled.erase t } (.slot t.slot (BitVec.ofNat 7 t.idx)) (some t.tok))).st

end Sys2Proof.Machine
end

