-- ==== Sys2Proof/Machine/Helm.lean ====
section
/-! DEFINITION. The helm begins block runs (R63, R65, R48) and delivers sync faults (R13, R372) and async faults whose commit does not come (R373). -/

namespace Sys2Proof.Machine

open Sys2Proof

variable {s0 : State}

/-! ### Drains (R380, R382) -/

/-- The successor that a latch names. -/
def latchSucc : Latch → Option Succ
  | .block addr nest widths toks => some ⟨addr, .handlerReturn, nest, widths, 0, toks, 0, 255, none⟩
  | _ => none

/-- The context stops at a safe point: what stands at and after it is discarded, and the first of it waits (R382). -/
def Run.stopHere (r : Run s0) (c : Nat) : Run s0 :=
  let x := r.st.ctx c
  let next := if x.runs.isEmpty then x.next else latchSucc x.latchHere
  let r := (r.discardAll c).modCtx c (fun x => { x with next := next, safePoint := true })
  r.put (.drains (r.st.drains.map (fun d => if d.part == x.part then { d with stopped := c :: d.stopped } else d)))

/-! ### Lost completion tokens (R183) -/

/-- Completion tokens of a context whose frame is free again are lost. -/
def Run.dropStrays (r : Run s0) (c : Nat) : Run s0 :=
  let s := r.st
  let dead := (s.ctx c).strays.filter (fun t => !s.frameUsed c (t.tag.toNat / 2 ^ 56))
  let r := r.modCtx c (fun x => { x with strays := x.strays.filter (fun t => !dead.contains t) })
  dead.foldl (fun r t => r.raiseAsync c t.lost) r

/-! ### `INSTANCE_BEGIN` -/

/-- A run begins in blockslot `slot` of set `cfg`, with the tokens that `iter` passed and the completion tokens that wait for it. -/
def Run.startRun (r : Run s0) (c : Nat) (n : Succ) (cfg slot : Nat) (det : Bool) (faults : List NodeFault) : Run s0 :=
  match (if n.by' = .iter then some (BitVec.ofNat 8 n.frame) else r.st.freeFrame c) with
  | none => r
  | some f =>
    let r := r.put .named
    let x := r.st.ctx c
    let mine := fun (t : Stray) => t.tag == tagOf f n.nest && t.cfg == cfg && t.slot == slot
    let b : BlockRun := {
      iid := r.st.uid
      addr := n.addr
      cfg := cfg
      slot := slot
      frame := f
      nest := n.nest
      widths := n.widths
      det := det || x.detLaunch
      toks := []
      counts := []
      fired := []
      ancest := []
      entered := (x.strays.filter mine).map (fun t => (t.op, t.tok.idx, true))
      outs := 0
      faults := faults
      exit := none
      effs := []
      flags := 0
      carried := n.toks
      undo := ⟨x.stack, x.spill, x.rspill, none⟩
      begun := false
      parked := []
      denied := []
      spilled := [] }
    let r := r.modCtx c (fun x => { x with runs := x.runs ++ [b], next := none, safePoint := false, strays := x.strays.filter (fun t => !mine t) })
    let s := r.st
    (r.modRun c b.iid (fun b => (n.toks ++ (x.strays.filter mine).map (·.tok)).foldl (fun b t =>
      s.sendTo c none b (.slot t.slot (BitVec.ofNat 7 t.idx)) (some t.tok)) b)).countSpills s c

/-- The run of a placed block begins; before a block with S = 1 a drain stops the context (R380). -/
def Run.startPlaced (r : Run s0) (c : Nat) (n : Succ) (p : Placed) : Run s0 :=
  let x := r.st.ctx c
  if p.safe && x.runs.isEmpty && r.st.draining x.part then r.stopHere c else r.startRun c n p.cfg p.slot p.det []

/-- The record of a block that could not be fetched and has no exit to report it against. Log 60, DEDUCED: records of failed block fetches. -/
def fetchFault (n : Succ) (cls code va : Nat) : FaultRec := { FaultRec.of cls code with idx := 255, blk := n.addr, tag := tagOf 0 n.nest, vaddr := va }

/-- Checks 1 to 4 of R48 have failed: the exit that named the block is at fault (R43); with no such run left the fault is delivered with the block latched, and a
handler block escalates (R375). -/
def Run.fetchFails (r : Run s0) (c : Nat) (n : Succ) (cls code va : Nat) : Run s0 :=
  let x := r.st.ctx c
  let clear := fun (x : Ctx) => { x with next := none, fetchDenied := none }
  if x.runs.any (fun b => b.iid == n.src) then
    (r.modRun c n.src (fun b => { b with faults := b.faults ++ [⟨n.idx, cls, code, 0, 0, 0, va, some n.addr⟩] })).modCtx c clear
  else if x.hndl ∧ n.by' = .dispatch then (r.modCtx c clear).escalate c (fetchFault n cls code va) x.resume
  else
    let (r, p) := r.planDelivery c (fetchFault n cls code va)
    match p with
    | .wait => r
    | p => (r.modCtx c clear).deliver c (fetchFault n cls code va) (.block n.addr n.nest n.widths n.toks) p

/-- The placed copy that a successor enters without a fetch (R63, R74, R82, R84). -/
def State.copyFor (s : State) (c : Nat) (n : Succ) : Option Placed :=
  let at' := fun (e : Nat × Nat) => ((s.core (c / 4)).placedAt e.1 e.2).bind (fun p => if p.addr == n.addr then some p else none)
  match n.copy.bind at' with
  | some p => some p
  | none => (s.residentCopy c n.addr).bind at'

/-- The successor of a context may begin (R16, R63). -/
def State.mayBegin (s : State) (c : Nat) : Bool :=
  let x := s.ctx c
  match x.next with
  | none => false
  | some n =>
    decide (x.mode = .running) && decide (x.runs.length < 16) && !x.fetchParked && !x.helmParked && x.drive.isNone && !s.atStop c
      && (n.by' == .iter || (s.freeFrame c).isSome) && ((s.copyFor c n).isSome || (s.roomForBlock c).isSome)

/-- The successor begins: on its placed copy, or after its fetch (R48). A block with a word that fails check 5 is placed nowhere, and its run is faulting. -/
def Run.beginNext (r : Run s0) (c : Nat) (n : Succ) : Run s0 :=
  let x := r.st.ctx c
  if r.st.draining x.part && x.runs.isEmpty && x.safePoint then r.stopHere c
  else
    match r.st.copyFor c n with
    | some p => r.startPlaced c n p
    | none =>
      match x.fetchDenied with
      | some e => r.fetchFails c n e.1 e.2 x.fetchAt
      | none =>
        let a := r.st.agent c
        let (r, g) := r.fetchBlock a n.addr.toNat
        match g with
        | .park v =>
          match r.parkOn a.die a.grp v a.part kindFetch (.fetch c) with
          | some r => r.modCtx c (fun x => { x with fetchParked := true, fetchAt := v })
          | none => r
        | .fault q w v => r.fetchFails c n q w v
        | .ok f =>
          match f.bad with
          | some (i, q, w) => r.startRun c n 4 0 f.det [⟨i, q, w, 0, 0, 0, 0, none⟩]
          | none =>
            match r.st.roomForBlock c with
            | none => r
            | some (k, j) =>
              let p := f.placed k j n.addr a.grp none 0
              (r.place c p).startPlaced c n p

/-- `INSTANCE_BEGIN` (R63, R65). -/
def execInstanceBegin (c : Nat) (s : State) : Host.Outcome State Fault Refusal :=
  let r := Run.start s
  match (s.ctx c).next with
  | some n => .next (if s.mayBegin c then r.beginNext c n else r).st
  | none => .next r.st

/-! ### Sync faults (R13, R372) -/

/-- The fault reported of a run: that of its lowest-indexed faulting node, the first one there. -/
def BlockRun.reported (b : BlockRun) : Option NodeFault :=
  b.faults.foldl (fun m f => match m with
    | none => some f
    | some g => if f.idx < g.idx then some f else some g) none

/-- The oldest run of a context is faulting. -/
def State.faulting (s : State) (c : Nat) : Option (BlockRun × NodeFault) :=
  let x := s.ctx c
  if x.mode = .running ∧ x.helmParked = false ∧ s.atStop c = false then
    match x.runs with
    | b :: _ => b.reported.map (fun f => (b, f))
    | [] => none
  else none

/-- `SYNC_FAULT_DELIVERY` (R372): the run and every younger one are discarded, and the fault is delivered with the run latched. -/
def execSyncFaultDelivery (c : Nat) (s : State) : Host.Outcome State Fault Refusal :=
  let r := Run.start s
  match s.faulting c with
  | none => .next r.st
  | some (b, f) =>
    let (r, p) := r.planDelivery c (f.record b)
    match p with
    | .wait => .next r.st
    | p => .next (((r.discardAll c).deliver c (f.record b) (.block b.addr b.nest b.widths b.carried) p).dropStrays c).st

/-! ### Async faults (R373) -/

/-- The first queued fault of a context is delivered: every run still uncommitted is discarded. -/
def Run.deliverQueued (r : Run s0) (c : Nat) (latch : Latch) (p : HelmPlan) : Run s0 :=
  match (r.st.ctx c).asyncs with
  | [] => r
  | f :: _ =>
    let r := (r.discardAll c).modCtx c (fun x => { x with asyncs := x.asyncs.drop 1 })
    (r.deliver c f latch p).dropStrays c

/-- No commit has followed for 1 µs since PEND was set. -/
def State.asyncOverdue (s : State) (c : Nat) : Bool :=
  let x := s.ctx c
  decide (x.mode = .running) && !x.asyncs.isEmpty && !x.hndl && x.drive.isNone && !x.helmParked && !s.atStop c && decide (x.pendAt + clocksOf 1 ≤ s.clk)

/-- `ASYNC_DELIVERY_TIMEOUT` (R373). -/
def execAsyncDeliveryTimeout (c : Nat) (s : State) : Host.Outcome State Fault Refusal :=
  let r := Run.start s
  match s.asyncOverdue c, (s.ctx c).asyncs with
  | true, f :: _ =>
    let (r, p) := r.planDelivery c f
    match p with
    | .wait => .next r.st
    | p => .next (r.deliverQueued c (s.ctx c).latchHere p).st
  | _, _ => .next r.st

end Sys2Proof.Machine
end

