-- ==== Sys2Proof/Machine/Perform.lean ====
section
/-! DEFINITION. What follows a commit: buffered accesses and log appends are performed (R108, R111, R114, R117, R118, R233), steps arrive (R129, R298), waiting loads
time out (R117), and writes to shared frames are served by their home units (R330, R331). -/

namespace Sys2Proof.Machine

open Sys2Proof

variable {s0 : State}

/-! ### Order among a context's effects (R108, R111, R118) -/

/-- The places that an effect touches: the bytes of an access; the descriptor, record area and index array of an append, and the vector that it copies with the place
it copies it to. -/
def placesOf (s : State) (a : Agent) (e : Eff) : List (Space × Nat × Nat) :=
  match e with
  | .access acc | .append acc => let p := homeSpace s acc.sp acc.ea.toNat; [(p.1, p.2, acc.wd.bytes)]
  | .slog d spill im _ =>
    let field := fun (off : Nat) (n : Nat) => match s.peek a (d.toNat + off) with
      | some p => some (s.num (mainKey p.1) n)
      | none => none
    let copied := if copiesVector im spill then [(Space.core, vrefAddr (imgVref im), vrefBytes (imgVref im)), (.main, spill.toNat, vrefBytes (imgVref im))] else []
    (match field 0 8, field 8 8, field 24 4, field 28 4 with
    | some base, some index, some caprec, some cap => [(.main, d.toNat, 64), (.main, base, cap), (.main, index, 4 * caprec)]
    | _, _, _, _ => [(.main, 0, 2 ^ 64)]) ++ copied
  | _ => []

/-- The effect marks granules or works on whole granules. -/
def granularEff (e : Eff) : Bool :=
  match e with
  | .access acc => acc.op == .fill || acc.op == .empty
  | _ => false

/-- The memory access that an effect is. -/
def accessOf (e : Eff) : Option Access :=
  match e with
  | .access acc | .append acc => some acc
  | _ => none

/-- Two effects of a context share a location. -/
def sharesPlace (s : State) (a : Agent) (e f : Eff) : Bool :=
  let near := (placesOf s a e).any (fun p => (placesOf s a f).any (fun q => p.1 == q.1 && touches ((granularEff e || granularEff f) && p.1.granular) p.2.1 p.2.2 q.2.1 q.2.2))
  let aliased := match accessOf e, accessOf f with
    | some x, some y =>
      match s.keyOf a x.sp x.ea.toNat, s.keyOf a y.sp y.ea.toNat with
      | some k, some l => touches false k x.wd.bytes l y.wd.bytes
      | _, _ => false
    | _, _ => false
  near || aliased

def isFill (e : Eff) : Bool :=
  match e with
  | .access acc => acc.op == .fill
  | _ => false

/-- Main accesses to one page. -/
def samePage (s : State) (a : Agent) (e f : Eff) : Bool :=
  (placesOf s a e).any (fun p => (placesOf s a f).any (fun q => p.1 == .main && q.1 == .main && decide (p.2.1 / 4096 = q.2.1 / 4096)))

/-- `q` must be performed before `p`: an earlier piece of the same access, an effect it depends on, an older write to its location, for a fill every older write, and a
parked access to its page. Log 13, DEDUCED: in a deterministic launch the unordered writes of one run to one location take ascending index order (R92, R108). -/
def comesFirst (s : State) (a : Agent) (det : Bool) (q p : Pending) : Bool :=
  q.id != p.id && isWrite q.eff
    && ((q.seq == p.seq && q.idx == p.idx && decide (q.id < p.id))
      || (q.seq == p.seq && q.idx != p.idx && p.ancest.getLsbD q.idx)
      || (det && q.seq == p.seq && decide (q.idx < p.idx) && !q.ancest.getLsbD p.idx && sharesPlace s a q.eff p.eff)
      || (decide (q.seq < p.seq) && (isFill p.eff || sharesPlace s a q.eff p.eff))
      || (q.parked && samePage s a q.eff p.eff))

/-- The addresses, by space, of the accesses that an operation has still to make in main or in a die store, as far as its command names them (R298). -/
def EngOp.toCome (s : State) (o : EngOp) : List (Space × Nat × Nat) :=
  let d := o.desc
  let rows := fun (w : BitVec 256) (i n : Nat) =>
    (List.range (n - i)).map (fun j => ((spaceCode (shSpace w)).getD .core, linearRow w (i + j), rowBytes (shFmt w) (shCols w)))
  let table := fun (is : List Nat) => is.filterMap (fun i => (rowAddr s o.agent.die d o.shards i).map (fun va => (Space.main, va, gRowBytes d)))
  match o.cmd.kind with
  | .copy | .copyMc | .xform => rows (copySrc d) o.row (readRows o.cmd.kind d) ++ rows (copyDst d) o.wrote (writeRows o.cmd.kind d)
  | .gather _ | .scatter _ | .semb _ _ =>
    (if o.phase = 0 ∧ gShmap d ≠ 0 then [(.main, gShmap d, 64 + 16 * 256)] else [])
      ++ table (if o.phase < 2 then List.range (gRows d) else (List.range (o.positions - o.row)).map (fun i => o.indexAt (o.row + i)))
  | .attn =>
    match o.attn with
    | none => [(.main, 0, 2 ^ 56)]
    | some st => if o.phase = 2 then [] else
        st.slabs.flatMap (fun e => let n := (slabEnd e - slabFirst e) * (aqDim d * aqSize (aqFmt d)); [(.main, e.1, n), (.main, e.2.1, n)])
          ++ (if aqCkpt d = 0 then [] else [(.main, aqCkpt d, 65536)])
  | .fprint core => if core then [] else [(.main, o.cmd.a.toNat % 2 ^ 64 + 8 * o.row, o.cmd.b.toNat % 2 ^ 64 - 8 * o.row)]
  | .dedup =>
    let n := 2 ^ pageBits (dedupSize d)
    [(.main, dedupDest d, n), (.main, dedupTable d, 64)] ++ (if fieldAt d 8 1 = 0 then [] else [(.main, fieldAt d 0 8 + 64 * o.row, n - 64 * o.row)])
  | _ => []

/-- An operation has still to read or write in a configured region. -/
def State.inRegions (s : State) (o : EngOp) : Bool := (o.toCome s).any (fun e => e.2.2 != 0 && (regionAt s o.agent e.1 e.2.1 e.2.2).isSome)

/-- The arrival of a `step` counts (R129, R298): the writes of the committed runs are performed, and so are all reads and writes in planed regions of the commands issued up to it.
Log 68, DEDUCED: an attention request that is not yet accepted may read any region. -/
def State.stepReady (s : State) (c : Nat) (p : Pending) (sg : Nat) : Bool :=
  let x := s.ctx c
  let planed := (s.launches.find? (fun l => l.id == x.launch)).any (fun l => !l.regions.isEmpty)
  !x.arrivals.contains (0, sg) && x.pend.all (fun q => !(isWrite q.eff && decide (q.seq ≤ p.seq)))
    && (!planed || s.ops.all (fun o => !(o.c == c && o.launch == x.launch && o.node == x.node && decide (o.seq ≤ p.seq) && s.inRegions o)))

/-- The first access of an effect to main parks: its page is not present. -/
def State.willPark (s : State) (a : Agent) (e : Eff) : Bool := (mainWrite s e).any (s.missing a)

/-- A buffered effect of a context may be performed. One whose page is not present joins those that have parked there (R316, R319); those whose frames come from a window ask for them in
order (R322). Log 70, DEDUCED: an access whose page is not present parks behind older parked ones. -/
def State.mayPerform (s : State) (c : Nat) (p : Pending) : Bool :=
  !p.parked && !p.atHome && (match p.eff with
    | .step sg => s.stepReady c p sg.toNat
    | .access _ | .slog _ _ _ _ | .append _ => 
      (s.ctx c).pend.all (fun q => !comesFirst s (s.agent c) (s.ctx c).detLaunch q p || (q.parked && s.willPark (s.agent c) p.eff))
        && !((mainWrite s p.eff).any (s.splits (s.agent c)) && s.framesBefore c p.seq p.idx)
    | _ => true)

/-! ### Ends -/

def Run.dropPending (r : Run s0) (c : Nat) (f : Pending → Bool) : Run s0 := r.modCtx c (fun x => { x with pend := x.pend.filter (fun p => !f p) })

/-- The record of an async fault of a committed effect. -/
def Pending.record (p : Pending) (cls code va : Nat) : FaultRec := { FaultRec.of cls code with idx := p.idx, blk := p.blk, tag := p.tag, vaddr := va }

/-- A buffered effect fails: the pieces after it are not performed, and the fault is async (R114, R117). -/
def Run.failPending (r : Run s0) (c : Nat) (p : Pending) (cls code va : Nat) : Run s0 :=
  (r.dropPending c (fun q => q.seq == p.seq && q.idx == p.idx && isWrite q.eff && decide (p.id ≤ q.id))).raiseAsync c (p.record cls code va)

/-- Who makes the planed stores of a buffered effect (R128). -/
def Pending.issuer (p : Pending) : Issuer := ⟨p.seq, p.idx, p.tag.toNat % 2 ^ 56 * 256 + p.tag.toNat / 2 ^ 56, p.node, p.ancest, 0, false, p.after⟩

/-- A committed effect of the context as its record is. -/
def Run.modPending (r : Run s0) (c id : Nat) (f : Pending → Pending) : Run s0 :=
  r.modCtx c (fun x => { x with pend := x.pend.map (fun q => if q.id == id then f q else q) })

/-- The effect waits on a parked translation; `kind` says what it does there (R316). -/
def Run.parkPending (r : Run s0) (c : Nat) (p : Pending) (va : Nat) (kind : BitVec 5) : Run s0 :=
  let a := r.st.agent c
  match r.parkOn a.die a.grp va a.part kind (.pend c p.id) with
  | some r => r.modPending c p.id (fun q => { q with parked := true, at' := va })
  | none => r

/-- What an access does, for the mark of its park (R316). -/
def Access.parkKind (acc : Access) : BitVec 5 :=
  match acc.op with
  | .atom _ | .cas => kindRead ||| kindWrite
  | _ => kindWrite

/-- How the performance of a committed effect goes on. -/
def Run.settlePending (r : Run s0) (c : Nat) (p : Pending) (kind : BitVec 5) (o : Perf) : Run s0 :=
  match o with
  | .done => r.dropPending c (fun q => q.id == p.id)
  | .park v => r.parkPending c p v kind
  | .home f _ =>
    (r.modPending c p.id (fun q => { q with atHome := true })).put (.home (r.st.home ++ [⟨f, c, (r.st.ctx c).rank, p.issuer.tagKey, p.idx, .pend c p.id, false⟩]))
  | .fault k q v => r.failPending c p k q v

/-- An access performed, at its frame's home unit when `served`. A write of a log append is checked now (R105, R233). -/
def Run.performPending (r : Run s0) (c : Nat) (p : Pending) (acc : Access) (served : Bool) : Run s0 :=
  match p.denied, (match p.eff with
    | .append _ => fireCheck r.st (r.st.agent c) acc.sp acc.ea.toNat acc.wd.bytes false .store
    | _ => none) with
  | some e, _ => r.failPending c p e.1 e.2 acc.ea.toNat
  | none, some e => r.failPending c p e.1 e.2 acc.ea.toNat
  | none, none =>
    let (r, o) := r.performAccess (r.st.agent c) acc served p.issuer
    r.settlePending c p acc.parkKind o

/-! ### Log appends (R233) -/

/-- The width of a piece. -/
def widthOf (n : Nat) : MWidth :=
  match n with
  | 1 => .w8
  | 2 => .w16
  | 4 => .w32
  | 8 => .w64
  | 32 => .v256
  | _ => .v512

/-- The writes that put bytes at an address of main, piece by piece (R114). -/
def appendsAt (va : Nat) (bs : List Byte) : List Eff :=
  (pieces va bs.length).map (fun p => .append ⟨.store, .main, widthOf p.2, BitVec.ofNat 64 p.1, BitVec.ofNat 512 (leNat ((bs.drop (p.1 - va)).take p.2))⟩)

/-- What the reservation of an append comes to: the writes that follow it with the fault that stops them, or how it ends without one. -/
inductive Reserved where
  | writes (l : List Eff) (bad : Option (Nat × Nat × Nat))
  | perf (p : Perf)
  deriving DecidableEq, Repr

/-- The writes of an append whose descriptor is `d` and whose reservation found COUNT and USED: the vector as it stands now, the record, and its index entry. -/
def appendWrites (s : State) (a : Agent) (d : List Byte) (count used : Nat) (spill : Word64) (im : BitVec 1024) (bytes : List Byte) : Reserved :=
  let entry := fieldAt d 8 8 + 4 * count
  let tail := appendsAt (fieldAt d 0 8 + used) bytes
  let bad : Option (Nat × Nat × Nat) := if entry % 4 ≠ 0 then some (0x07, 0x00, entry) else none
  let tail := if entry % 4 ≠ 0 then tail else tail ++ appendsAt entry (leBytes 4 used)
  if copiesVector im spill then
    let v := imgVref im
    match s.poisonAt (coreKey a.core (vrefAddr v)) (vrefBytes v) with
    | some e => .writes [] (some (e.1, e.2, vrefAddr v))
    | none => .writes (appendsAt spill.toNat (s.bytes (coreKey a.core (vrefAddr v)) (vrefBytes v)) ++ tail) bad
  else .writes tail bad

/-- The reservation of an append: it reads the descriptor and adds to COUNT and USED, as one event at the combiner of its bank (R124, R233). A shared page is reached through
its home unit. -/
def Run.reserveRecord (r : Run s0) (a : Agent) (desc : Nat) (spill : Word64) (im : BitVec 1024) (replayable served : Bool) : Run s0 × Reserved :=
  match fireCheck r.st a .main desc 64 true .atomic with
  | some (c, q) => (r, .perf (.fault c q desc))
  | none =>
    let (r, l) := r.locate a .main desc .rw
    let add := fun (r : Run s0) (k : Nat) =>
      match r.st.poisonAt k 64 with
      | some (c, q) => (r, Reserved.perf (.fault c q desc))
      | none =>
        let d := r.st.bytes k 64
        let count := fieldAt d 16 4
        let used := fieldAt d 20 4
        let bytes := recordBytes im spill.toNat replayable
        if fieldAt d 24 4 ≤ count ∨ fieldAt d 28 4 < used + bytes.length then (r, .perf (.fault 0x08 0x08 desc))
        else
          ((r.write (k + 16) (leBytes 4 (count + 1) ++ leBytes 4 (used + bytes.length))).wroteLines a .main (desc + 16) (k + 16) 8,
            appendWrites r.st a d count used spill im bytes)
    match l with
    | .key k => add r k
    | .shared k va =>
      if !served then (r, .perf (.home ((k - mainKey 0) / 4096) va))
      else
        match r.ownFrame a va (k - mainKey 0) with
        | some (r, pa) => add r (mainKey pa)
        | none => (r, .perf (.fault 0x08 0x02 va))
    | .pool _ => (r, .perf (.fault 0x09 0x02 desc))
    | .park => (r, .perf (.park desc))
    | .fault c q => (r, .perf (.fault c q desc))

/-- An append performed: once its record is reserved, the writes that follow are effects of their own in its place, in their order. Log 69, DEDUCED: a record that fails after its
reservation keeps it. -/
def Run.performAppend (r : Run s0) (c : Nat) (p : Pending) (desc spill : Word64) (im : BitVec 1024) (replayable served : Bool) : Run s0 :=
  match p.denied with
  | some e => r.failPending c p e.1 e.2 p.at'
  | none =>
    let (r, o) := r.reserveRecord (r.st.agent c) desc.toNat spill im replayable served
    match o with
    | .perf o => r.settlePending c p (kindRead ||| kindWrite) o
    | .writes l bad =>
      let (r, news) := l.foldl (fun (acc : Run s0 × List Pending) e => let r := acc.1.put .named; (r, acc.2 ++ [{ p with id := r.st.uid, eff := e, atHome := false }])) (r, [])
      let r := r.modCtx c (fun x => { x with pend := x.pend.flatMap (fun q => if q.id == p.id then news else [q]) })
      match bad with
      | none => r
      | some (k, q, v) => r.raiseAsync c (p.record k q v)

/-! ### Arrivals (R129, R131) -/

/-- The fault of a step that times out (R131). Log 59, DEDUCED: fields of the records of step, barrier and collision faults. -/
def stepFault (g : StepGroup) (sg : Nat) : FaultRec :=
  let miss := g.members.filter (fun m => !g.arrived.contains m)
  let (map, hi) := missingMap miss
  { FaultRec.of 0x11 0x01 with auxid := sg, auxn := g.phase.toNat, map := map, rflags := if hi then rfMapHi else 0, miss := miss }

/-- A context arrives at a step group; a failed group answers every arrival with the timeout fault. -/
def Run.arrive (r : Run s0) (c : Nat) (sg : Nat) : Run s0 :=
  let x := r.st.ctx c
  let g := r.st.group x.part sg
  if g.failed then r.raiseAsync c (stepFault { g with arrived := [] } sg)
  else if isMember r.st (r.st.agent c) sg then
    let r := r.put (.group (groupKey x.part sg) { g with arrived := g.arrived ++ [x.rank], first := if g.arrived.isEmpty && !g.seen then r.st.clk else g.first })
    r.modCtx c (fun x => { x with arrivals := x.arrivals ++ [(0, sg)] })
  else r

/-- `BUFFERED_ACCESS_PERFORM` (R108): effect `k` of a context. -/
def execBufferedAccessPerform (c k : Nat) (s : State) : Host.Outcome State Fault Refusal :=
  let r := Run.start s
  match (s.ctx c).pend.find? (fun p => p.id == k) with
  | none => .next r.st
  | some p =>
    if s.mayPerform c p then
      match p.eff with
      | .access acc | .append acc => .next (r.performPending c p acc false).st
      | .slog d sp im rp => .next (r.performAppend c p d sp im rp false).st
      | .step sg => .next ((r.dropPending c (fun q => q.id == p.id)).arrive c sg.toNat).st
      | _ => .next (r.dropPending c (fun q => q.id == p.id)).st
    else .next r.st

/-! ### `GRANULE_WAIT_TIMEOUT` (R117, R273) -/

/-- A waiting reader is overdue. Log 71, DEDUCED: whose STEPTMO a waiting load uses. -/
def State.readerOverdue (s : State) (e : Reader) : Bool :=
  e.answer.isNone && !e.failed && decide (e.since + clocksOf (s.steptmo (s.ctx e.c).part) ≤ s.clk)

/-- `GRANULE_WAIT_TIMEOUT`: reader `k` is withdrawn. -/
def execGranuleWaitTimeout (k : Nat) (s : State) : Host.Outcome State Fault Refusal :=
  let r := Run.start s
  match s.readers[k]? with
  | none => .next r.st
  | some e =>
    if s.readerOverdue e then .next (r.put (.readers (s.readers.mapIdx (fun i y => if i = k then { y with failed := true } else y)))).st else .next r.st

/-! ### `HOME_UNIT_BATCH` (R330, R331) -/

/-- The order of service in a batch: team rank, the key of R18, instruction index, CTXID. -/
def homeBefore (x y : HomeReq) : Bool :=
  decide (x.rank < y.rank) || (x.rank == y.rank && (decide (x.key < y.key) || (x.key == y.key && (decide (x.idx < y.idx) || (x.idx == y.idx && decide (x.c ≤ y.c))))))

/-- A request put into its place. -/
def insertHome (x : HomeReq) : List HomeReq → List HomeReq
  | [] => [x]
  | y :: l => if homeBefore y x then y :: insertHome x l else x :: y :: l

/-- One request of a batch is served. -/
def Run.serveHome (r : Run s0) (q : HomeReq) : Run s0 :=
  match q.by' with
  | .pend c id =>
    match (r.st.ctx c).pend.find? (fun p => p.id == id) with
    | some p =>
      let r := r.modPending c id (fun y => { y with atHome := false })
      match p.eff with
      | .access acc | .append acc => r.performPending c { p with atHome := false } acc true
      | .slog d sp im rp => r.performAppend c { p with atHome := false } d sp im rp true
      | _ => r
    | none => r
  | _ => r

/-- The requests of a batch at the head of it that are buffered effects, served in their order; a returning atomic or an engine's write at the head is made by its own next event. -/
def Run.serveBatch (r : Run s0) : List HomeReq → Run s0
  | [] => r
  | q :: l =>
    match q.by' with
    | .pend _ _ => ((r.leaveHome q.by').serveHome q).serveBatch l
    | _ => r

/-- The batch of a frame as its home unit serves it: the one begun, or every write that has reached the unit, in the order of R331. -/
def State.batchOf (s : State) (frame : Nat) : List HomeReq :=
  match s.home.filter (fun q => q.frame == frame && q.batch) with
  | [] => ((s.home.filter (fun q => q.frame == frame)).foldl (fun l q => insertHome q l) []).map (fun q => { q with batch := true })
  | l => l

/-- The home unit of a frame has something to do of its own: a batch to begin, or a buffered effect at the head of the one begun. -/
def State.homeServes (s : State) (frame : Nat) : Bool :=
  match s.home.filter (fun q => q.frame == frame && q.batch) with
  | [] => true
  | q :: _ => match q.by' with
    | .pend _ _ => true
    | _ => false

/-- `HOME_UNIT_BATCH`: the writes that have reached the home unit of a frame are served (R331). -/
def execHomeUnitBatch (frame : Nat) (s : State) : Host.Outcome State Fault Refusal :=
  let r := Run.start s
  let batch := s.batchOf frame
  let rest := s.home.filter (fun q => !batch.any (fun y => y.by' == q.by'))
  .next ((r.put (.home (batch ++ rest))).serveBatch batch).st

end Sys2Proof.Machine
end

