-- ==== Sys2Proof/Machine/Sync.lean ====
section
/-! DEFINITION. Steps and barriers (R129, R132, R133), fences (R126) and combining in the matching store (R125). -/

namespace Sys2Proof.Machine

open Sys2Proof

/-- Lane arithmetic of `comb` on `w` bits (R125). -/
inductive CombOp where
  | add | min | max | minn | maxn | and | or | xor | fadd | fmin | fmax
  deriving DecidableEq, Repr

/-- The operation works on FP32. -/
def CombOp.isFloat : CombOp → Bool
  | .fadd | .fmin | .fmax => true
  | _ => false

/-- `op(held, arrival)` on one lane. Log 33, DEDUCED: comb raises the flags of its float operation. -/
def combLane (op : CombOp) (w h x : Nat) : Nat × FlagSet :=
  match op with
  | .add => ((h + x) % 2 ^ w, 0)
  | .min => (if signedOf w h ≤ signedOf w x then h else x, 0)
  | .max => (if signedOf w x ≤ signedOf w h then h else x, 0)
  | .minn => (if h ≤ x then h else x, 0)
  | .maxn => (if x ≤ h then h else x, 0)
  | .and => (Nat.land h x, 0)
  | .or => (Nat.lor h x, 0)
  | .xor => (Nat.xor h x, 0)
  | .fadd =>
    let (v, f) := addExt .rne (FloatFmt.f32.read h) (FloatFmt.f32.read x)
    let r := rneF32 v
    (r.bits, r.flags ||| f)
  | .fmin => fsel .f32 false h x
  | .fmax => fsel .f32 true h x

/-- `op(held, arrival)` on tokens: a scalar, or 16 lanes of 32 bits. -/
def combOf (op : CombOp) (v : Bool) : Combine := fun h t =>
  match h with
  | none => .ok (if op.isFloat && !v then scalar (t.word &&& 0xFFFFFFFF) t.s else t, 0)
  | some h =>
    if h.s ≠ t.s then .error (0x06, 0x00)
    else if v then
      let ls := (List.range 16).map (fun j => combLane op 32 (bitsOf h.data.toNat (32 * j) 32) (bitsOf t.data.toNat (32 * j) 32))
      .ok (vector (BitVec.ofNat 512 (ls.foldr (fun l n => l.1 + 2 ^ 32 * n) 0)) h.s, ls.foldl (fun f l => f ||| l.2) 0)
    else
      let w := if op.isFloat then 32 else 64
      let (x, f) := combLane op w (h.word.toNat % 2 ^ w) (t.word.toNat % 2 ^ w)
      .ok (scalar (BitVec.ofNat 64 x) h.s, f)

/-- `comb` (R125). -/
def execCombAdd (g : Gate) (v : Bool) (n : BitVec 7) (t0 : Target) (s : State) : Host.Outcome State Fault Refusal :=
  countNode (.combAdd g v n t0) (combOf .add v) s

/-- `comb` (R125). -/
def execCombMin (g : Gate) (v : Bool) (n : BitVec 7) (t0 : Target) (s : State) : Host.Outcome State Fault Refusal :=
  countNode (.combMin g v n t0) (combOf .min v) s

/-- `comb` (R125). -/
def execCombMax (g : Gate) (v : Bool) (n : BitVec 7) (t0 : Target) (s : State) : Host.Outcome State Fault Refusal :=
  countNode (.combMax g v n t0) (combOf .max v) s

/-- `comb` (R125). -/
def execCombMinn (g : Gate) (v : Bool) (n : BitVec 7) (t0 : Target) (s : State) : Host.Outcome State Fault Refusal :=
  countNode (.combMinn g v n t0) (combOf .minn v) s

/-- `comb` (R125). -/
def execCombMaxn (g : Gate) (v : Bool) (n : BitVec 7) (t0 : Target) (s : State) : Host.Outcome State Fault Refusal :=
  countNode (.combMaxn g v n t0) (combOf .maxn v) s

/-- `comb` (R125). -/
def execCombAnd (g : Gate) (v : Bool) (n : BitVec 7) (t0 : Target) (s : State) : Host.Outcome State Fault Refusal :=
  countNode (.combAnd g v n t0) (combOf .and v) s

/-- `comb` (R125). -/
def execCombOr (g : Gate) (v : Bool) (n : BitVec 7) (t0 : Target) (s : State) : Host.Outcome State Fault Refusal :=
  countNode (.combOr g v n t0) (combOf .or v) s

/-- `comb` (R125). -/
def execCombXor (g : Gate) (v : Bool) (n : BitVec 7) (t0 : Target) (s : State) : Host.Outcome State Fault Refusal :=
  countNode (.combXor g v n t0) (combOf .xor v) s

/-- `comb` (R125). -/
def execCombFadd (g : Gate) (v : Bool) (n : BitVec 7) (t0 : Target) (s : State) : Host.Outcome State Fault Refusal :=
  countNode (.combFadd g v n t0) (combOf .fadd v) s

/-- `comb` (R125). -/
def execCombFmin (g : Gate) (v : Bool) (n : BitVec 7) (t0 : Target) (s : State) : Host.Outcome State Fault Refusal :=
  countNode (.combFmin g v n t0) (combOf .fmin v) s

/-- `comb` (R125). -/
def execCombFmax (g : Gate) (v : Bool) (n : BitVec 7) (t0 : Target) (s : State) : Host.Outcome State Fault Refusal :=
  countNode (.combFmax g v n t0) (combOf .fmax v) s

/-! ### Steps and barriers -/

/-- `step` (R129): the context is a configured member, and the arrival is made at the commit. -/
def execStep (g : Gate) (n : BitVec 6) (s : State) : Host.Outcome State Fault Refusal :=
  fireNode (.step g n) (fun f =>
    if isMember s (s.agent f.c) n.toNat then { effs := [.step n], outs := 1 } else f.fault 0x08 0x00) s

def barrierKey (c n : Nat) : Nat := c / 16 * 32 + n
def State.barrier (s : State) (c n : Nat) : Barrier := SMap.get s.barriers Barrier.reset (barrierKey c n)

/-- The context has an arrival at a barrier that is not released: made, committed, or buffered in an older run (R133). -/
def Ctx.arrivedAt (x : Ctx) (b : BlockRun) (n : Nat) : Bool :=
  let isBarr := fun (e : Eff) => match e with
    | .barr m => m.toNat == n
    | _ => false
  x.arrivals.contains (1, n) || x.pend.any (fun p => isBarr p.eff) || (x.older b.iid).any (fun o => o.effs.any (fun e => isBarr e.eff))

/-- `barr` (R132). -/
def execBarr (g : Gate) (n : BitVec 5) (s : State) : Host.Outcome State Fault Refusal :=
  fireNode (.barr g n) (fun f =>
    let own := f.b.effs.any (fun e => match e.eff with
      | .barr m => m == n
      | _ => false)
    if !(s.barrier f.c n.toNat).armed || (s.ctx f.c).arrivedAt f.b n.toNat || own then f.fault 0x08 0x00
    else { effs := [.barr n], outs := 1 }) s

/-- `bwait` (R133), and the timeout of the generation it waits for (R134). -/
def execBwait (g : Gate) (n : BitVec 5) (t0 : Target) (s : State) : Host.Outcome State Fault Refusal :=
  fireNode (.bwait g n t0) (fun f =>
    match f.b.denied.find? (fun d => d.1 == f.idx) with
    | some d => NodeOut.of (errorToken .control (descriptor d.2.1 d.2.2 0))
    | none => if (s.ctx f.c).arrivedAt f.b n.toNat then .later else NodeOut.of (control true)) s

/-! ### Fences -/

/-- A fence (R126): every older run has committed and every write of theirs is performed, and so visible at every scope. -/
def fenceNode (ins : Instr) (s : State) : Host.Outcome State Fault Refusal :=
  fireNode ins (fun f =>
    let x := s.ctx f.c
    if x.isOldest f.b.iid && !x.writesPending then NodeOut.of (control true) else .later) s

/-- `fence` (R126). -/
def execFenceCore (g : Gate) (t0 : Target) (s : State) : Host.Outcome State Fault Refusal := fenceNode (.fenceCore g t0) s

/-- `fence` (R126). -/
def execFenceClus (g : Gate) (t0 : Target) (s : State) : Host.Outcome State Fault Refusal := fenceNode (.fenceClus g t0) s

/-- `fence` (R126). -/
def execFenceDie (g : Gate) (t0 : Target) (s : State) : Host.Outcome State Fault Refusal := fenceNode (.fenceDie g t0) s

/-- `fence` (R126). -/
def execFencePkg (g : Gate) (t0 : Target) (s : State) : Host.Outcome State Fault Refusal := fenceNode (.fencePkg g t0) s

/-- `fence` (R126). -/
def execFenceSys (g : Gate) (t0 : Target) (s : State) : Host.Outcome State Fault Refusal := fenceNode (.fenceSys g t0) s

end Sys2Proof.Machine
end

