-- ==== Sys2Proof/Machine/Commit.lean ====
section
/-! DEFINITION. The commit of a block run (R67), the end of a task (R75), the delivery of async faults at a commit (R373), stop points (R380, R382), and decisions (R83). -/

namespace Sys2Proof.Machine

open Sys2Proof

variable {s0 : State}

/-! ### When a run may commit -/

/-- A `.take` load of the run whose address has arrived and which has not fired: its effect on its granules still comes. -/
def State.takesStill (s : State) (c : Nat) (b : BlockRun) : Bool :=
  (List.range (((s.placedOf c b).map (fun p => p.words.length)).getD 0)).any (fun i =>
    !b.fired.contains i && (b.tok? i .a).isSome && (match s.instrAt c b i with
      | some (.ldTake _ _ _ _ _) => true
      | some (.lds _ _ fe _ _ _) | some (.ldRaw _ _ fe _ _ _) => fe == 2
      | _ => false))

/-- A `semb` of the run is in flight, or still to fire. -/
def State.embedsStill (s : State) (c : Nat) (b : BlockRun) : Bool :=
  s.ops.any (fun o => o.c == c && o.iid == b.iid && (match o.cmd.kind with
    | .semb _ _ => true
    | _ => false))
  || (List.range (((s.placedOf c b).map (fun p => p.words.length)).getD 0)).any (fun i =>
    !b.fired.contains i && (b.tok? i .a).isSome && (match s.instrAt c b i with
      | some (.semb _ _ _) | some (.sembProj _ _ _) => true
      | _ => false))

/-- A node that fires as soon as it is placed and leaves an effect for the commit has still to fire (R177, R378). -/
def State.lastsStill (s : State) (c : Nat) (b : BlockRun) : Bool :=
  (List.range (((s.placedOf c b).map (fun p => p.words.length)).getD 0)).any (fun i =>
    !b.fired.contains i && ((s.instrAt c b i).map (fun j => (shape j).lasting && (shape j).unprompted)).getD false)

/-- The spawns of a run can be counted (R366). -/
def State.spawnsFit (s : State) (c : Nat) (b : BlockRun) : Bool :=
  let n := (b.effs.filter (fun e => match e.eff with
    | .cmd k => k.kind == .spawn
    | _ => false)).length
  n == 0 || (s.launches.find? (fun l => l.id == (s.ctx c).launch)).all (fun l => decide (l.spawns + n ≤ 4096))

/-- The successor that the run named has begun, or its fetch finds no fault (R43). -/
def State.successorOk (s : State) (c : Nat) (b : BlockRun) : Bool :=
  match (s.ctx c).next with
  | none => true
  | some n => n.src != b.iid || (s.copyFor c n).isSome || (match ((Run.start s).fetchBlock (s.agent c) n.addr.toNat).2 with
    | .ok _ => true
    | _ => false)

/-- The oldest run of a context, when it may commit (R67). -/
def State.committing (s : State) (c : Nat) : Option (BlockRun × (Nat × ExitKind)) :=
  let x := s.ctx c
  if x.mode = .running ∧ x.helmParked = false ∧ s.atStop c = false then
    match x.runs with
    | [] => none
    | b :: _ =>
      match s.placedOf c b, b.exit with
      | some p, some e =>
        if p.nout ≤ b.outs && b.faults.isEmpty && b.begun && b.parked.isEmpty && !s.takesStill c b && !s.lastsStill c b && !s.embedsStill c b && s.spawnsFit c b && s.successorOk c b then
          some (b, e)
        else none
      | _, _ => none
  else none

/-! ### The effects of a commit (R67, R108) -/

/-- The accesses that an effect is issued as: a converting vector store in its pieces (R114), any other whole. -/
def issuedAs (e : Eff) : List Eff :=
  match e with
  | .access acc =>
    match acc.op with
    | .wcv => (pieces acc.ea.toNat acc.wd.bytes).map (fun p => .access { acc with
        op := .store
        wd := widthOf p.2
        ea := BitVec.ofNat 64 p.1
        data := BitVec.ofNat 512 (acc.data.toNat / 256 ^ (p.1 - acc.ea.toNat)) })
    | _ => [e]
  | .slog _ _ _ _ | .step _ => [e]
  | _ => []

/-- An effect joins those that the context has committed and not performed. -/
def Run.pendEff (r : Run s0) (c : Nat) (b : BlockRun) (i : Nat) (e : Eff) : Run s0 :=
  let r := r.put .named
  let id := r.st.uid
  r.modCtx c (fun x => { x with pend := x.pend ++ [⟨id, x.seq, i, b.iid, b.addr, b.tag, nodeNumber b.cfg b.slot i, SMap.get b.ancest 0 i, x.afterIn b i, e, false, none, false, 0⟩] })

/-- An arrival at a barrier (R132): the last one releases it. -/
def Run.arriveBarrier (r : Run s0) (c n : Nat) : Run s0 :=
  let x := r.st.barrier c n
  let who := x.arrived ++ [c]
  if x.expect ≤ who.length then
    let r := r.put (.barrier (barrierKey c n) { x with arrived := [], gen := x.gen + 1, first := 0 })
    x.arrived.foldl (fun r d => r.modCtx d (fun y => { y with arrivals := y.arrivals.filter (· != (1, n)) })) r
  else
    let r := r.put (.barrier (barrierKey c n) { x with arrived := who, first := if x.arrived.isEmpty then r.st.clk else x.first })
    r.modCtx c (fun y => { y with arrivals := y.arrivals ++ [(1, n)] })

/-- The contexts that a decision of a context reaches (R83): its own, or those of its team in a range of ranks. -/
def State.decided (s : State) (c first count : Nat) : List Nat :=
  let x := s.ctx c
  if count = 0 then [c]
  else (SMap.keys s.ctxs).filter (fun d => let y := s.ctx d; (y.mode == .running || y.mode == .stopped) && y.launch == x.launch && y.node == x.node && y.pass == x.pass
    && decide (first ≤ y.rank ∧ y.rank < first + count))

/-- A decision is sent: the network holds it for each latch. -/
def Run.sendDecision (r : Run s0) (c set slot first count : Nat) : Run s0 :=
  (r.st.decided c first count).foldl (fun r d => r.modCtx d (fun y => { y with held := y.held ++ [(set, slot)] })) r

/-- One effect of the committing run, while it is still its context's oldest: commands are issued, packets and decisions sent. -/
def Run.issueEff (r : Run s0) (c : Nat) (b : BlockRun) (e : Buffered) : Run s0 :=
  match e.eff with
  | .cmd k => r.post c b e.idx k
  | .red xs n data kind s => r.sendRed c b e.idx xs n.toNat data kind s
  | .barr n => r.arriveBarrier c n.toNat
  | .decide set slot first count => r.sendDecision c set slot first count
  | _ => r

/-- The value of RSPILL that a run writes. -/
def spillWritten (b : BlockRun) : Option Word64 :=
  b.ordered.foldl (fun w e => match e.eff with
    | .wrsr .rspill v => some (v &&& 0xFFFF_FFFF_FFFF_FFC0)
    | _ => w) none

/-- The registers of a context take the effects of its oldest run, which leaves it (R64, R67). -/
def Ctx.retire (x : Ctx) (b : BlockRun) : Ctx :=
  let x := x.applyRun b
  let runs := x.runs.drop 1
  { x with
    seq := x.seq + 1
    runs := match spillWritten b with
      | some v => runs.map (fun y => { y with undo := { y.undo with rspill := v } })
      | none => runs }

/-- The faults that a run's `trap` and `brk` raise at its commit (R378). Log 74, DEDUCED: trap, brk and fixreq act at the commit of their run. -/
def trapsOf (b : BlockRun) : List FaultRec :=
  b.ordered.filterMap (fun e => match e.eff with
    | .trap k q => some { FaultRec.of k q with idx := e.idx, blk := b.addr, tag := b.tag }
    | _ => none)

/-- The run asks for a fix of its partition. -/
def wantsFix (b : BlockRun) : Bool := b.effs.any (fun e => e.eff == .fixreq)

/-- `safe` fired with effect in the run. -/
def wantsSafe (b : BlockRun) : Bool := b.effs.any (fun e => e.eff == .safe)

/-- All effects of the commit but that of its exit. Log 76, DESIGN CHOICE: the parts of a commit have a fixed order. -/
def Run.commitEffects (r : Run s0) (c : Nat) (b : BlockRun) : Run s0 :=
  let r := b.ordered.foldl (fun r e => r.issueEff c b e) r
  let r := b.ordered.foldl (fun r e => (issuedAs e.eff).foldl (fun r e' => r.pendEff c b e.idx e') r) r
  let r := (r.modCtx c (fun x => x.retire b)).consume c b
  let r := r.count c none 0x03 1
  let r := (trapsOf b).foldl (fun r f => r.raiseAsync c f) r
  let r := if wantsFix b then r.fixPartition (r.st.ctx c).part 2 else r
  r.dropStrays c

/-! ### The end of a task (R75) -/

/-- The task of a context ends: faults that still wait escalate (R373). Log 75, DEDUCED: halt in a handler escalates what is still queued. -/
def Run.endTask (r : Run s0) (c : Nat) : Run s0 :=
  let left := (r.st.ctx c).asyncs
  let r := (r.discardAll c).unpin c (fun _ => true)
  let r := r.modCtx c (fun x => { x with
    mode := .ended
    next := none
    resume := .none
    under := .none
    stack := []
    spill := 0
    latch := none
    held := []
    asyncs := []
    pendBit := false
    hndl := false
    safePoint := false })
  let r := r.dropStrays c
  left.reverse.foldl (fun r f => r.escalate c f .none) r

/-! ### The exit's own effect -/

/-- The drive of a `wdrive` starts, or stops at once on a descriptor that cannot be read (R261, R263). -/
def Run.beginDrive (r : Run s0) (c : Nat) (b : BlockRun) (i : Nat) (head : Word64) (desc : Except (Nat × Nat) (List Byte)) (resume : Word64)
    (after : BitVec 56 × NestRec) : Run s0 :=
  match desc with
  | .ok d => r.startDrive c b i head d resume after
  | .error e =>
    let r := r.startDrive c b i head (List.replicate 64 0) resume after
    match (r.st.ctx c).drive with
    | some d => r.chainFault c d e.1 e.2 255 0
    | none => r

/-- What a `wdrive` of the run takes with it: its descriptor as copied at the commit. -/
def driveDesc (s : State) (c : Nat) (b : BlockRun) (i : Nat) (desc : Word64) : Except (Nat × Nat) (List Byte) := descCopy s c b i desc.toNat 64

/-- The offset of the `wdrive` at an index. -/
def wdriveOff (s : State) (c : Nat) (b : BlockRun) (i : Nat) : BitVec 24 :=
  match s.instrAt c b i with
  | some (.wdrive _ off) => off
  | _ => 0

/-- A commit whose effects are done ends with the effect of its exit; `postpone` says that a fault is about to be delivered, which a `halt` waits for (R373). -/
def Run.exitEffect (r : Run s0) (c : Nat) (b : BlockRun) (i : Nat) (k : ExitKind) (desc : Except (Nat × Nat) (List Byte)) (resume : Word64) (postpone : Bool) : Run s0 :=
  match k with
  | .halt => if postpone then r else r.endTask c
  | .handlerReturn =>
    let (r, ends) := r.handlerReturn c
    if ends then r.endTask c
    else
      match (r.st.ctx c).drive with
      | some d => r.go c d
      | none => r
  | .wdrive head _ =>
    match tagAfter b with
    | .ok after => r.beginDrive c b i head desc resume after
    | .error _ => r
  | _ => r

/-! ### `INSTANCE_COMMIT` -/

/-- The S flag of the block that a context begins next, where it is placed. -/
def State.nextSafe (s : State) (c : Nat) : Bool :=
  let x := s.ctx c
  match x.runs, x.next with
  | y :: _, _ => ((s.placedOf c y).map (fun p => p.safe)).getD false
  | [], some n => ((s.copyFor c n).map (fun p => p.safe)).getD false
  | [], none => false

/-- The commit ends at a safe point (R380). -/
def State.safeAfter (s : State) (c : Nat) (b : BlockRun) : Bool := wantsSafe b || !(s.ctx c).detLaunch || s.nextSafe c

/-- The run's exit was a handler return. -/
def BlockRun.returns (b : BlockRun) : Bool := b.exit.any (fun e => e.2 == .handlerReturn)

/-- A drain stops the context at a safe point, or at a handler return (R388). -/
def Run.stopIfDraining (r : Run s0) (c : Nat) (b : BlockRun) : Run s0 :=
  let x := r.st.ctx c
  if x.mode = .running ∧ x.drive = none ∧ (r.st.safeAfter c b = true ∨ (r.st.draining x.part = true ∧ b.returns = true)) then
    if r.st.draining x.part then r.stopHere c else r.modCtx c (fun x => { x with safePoint := x.runs.isEmpty })
  else r

/-- An async fault is delivered at the commit of a run (R373, R378). Log 24, DEDUCED: async faults wait for the handler's return; held accesses do not wait inside a handler. -/
def deliversAt (x : Ctx) (b : BlockRun) (k : ExitKind) : Bool :=
  !x.hndl && (!x.asyncs.isEmpty || !(trapsOf b).isEmpty) && (match k with
    | .wdrive _ _ => false
    | _ => true)

/-- `INSTANCE_COMMIT` (R67): all effects of the oldest run take place, and then a waiting async fault is delivered. -/
def execInstanceCommit (c : Nat) (s : State) : Host.Outcome State Fault Refusal :=
  let r := Run.start s
  match s.committing c with
  | none => .next r.st
  | some (b, i, k) =>
    let desc : Except (Nat × Nat) (List Byte) := match k with
      | .wdrive _ d => driveDesc s c b i d
      | _ => .ok []
    let resume := branchTarget b (wdriveOff s c b i)
    let due := deliversAt (s.ctx c) b k
    let r := (r.commitEffects c b).exitEffect c b i k desc resume due
    if due then
      match (r.st.ctx c).asyncs with
      | [] => .next (r.stopIfDraining c b).st
      | f :: _ =>
        let latch := if k = .halt then .endOfTask else (r.st.ctx c).latchHere
        let (r, p) := r.planDelivery c f
        match p with
        | .wait => .next ((Run.start s).planDelivery c f).1.st
        | p => .next ((r.deliverQueued c latch p).stopIfDraining c b).st
    else .next (r.stopIfDraining c b).st

/-! ### `DECISION_ARRIVE` (R83) -/

/-- A decision enters the latch of a context. -/
def execDecisionArrive (c : Nat) (s : State) : Host.Outcome State Fault Refusal :=
  let r := Run.start s
  let x := s.ctx c
  match x.latch, x.held with
  | none, d :: l => .next (r.modCtx c (fun x => { x with latch := some d, held := l })).st
  | _, _ => .next r.st

end Sys2Proof.Machine
end

