-- ==== Sys2Proof/Machine/Steps.lean ====
section
/-! DEFINITION. The swap of a step group (R128, R130, R131, R307), the timeouts of step groups and barriers (R131, R134), and the migration of a row (R306, R307). -/

namespace Sys2Proof.Machine

open Sys2Proof

variable {s0 : State}

/-! ### Settling an element (R128) -/

/-- Whether store `x` of a member precedes its store `y`. -/
def precedes (x y : Contribution) : Bool :=
  if x.op = 0 then decide (x.seq < y.seq) || (x.seq == y.seq && y.ancest.getLsbD x.idx)
  else if y.op = x.op then x.rows && decide (x.order < y.order)
  else y.after.contains (x.op - 1)

/-- The stores after which no other of the list comes. -/
def lastOnes (l : List Contribution) : List Contribution :=
  match l.filter (fun x => l.all (fun y => !precedes x y)) with
  | [] => l
  | m => m

/-- Every two of a member's stores are ordered. -/
def allOrdered : List Contribution → Bool
  | [] => true
  | x :: l => l.all (fun y => precedes x y || precedes y x) && allOrdered l

/-- The store that PRIO takes from unordered ones: the greatest key of R18, then the greatest node number. -/
def greatest (l : List Contribution) : Option Contribution :=
  l.foldl (fun m x => match m with
    | none => some x
    | some y => if y.tagKey < x.tagKey ∨ (y.tagKey = x.tagKey ∧ y.node ≤ x.node) then some x else some y) none

/-- The lowest rank among stores. -/
def lowestRank (l : List Contribution) : Nat := l.foldl (fun m x => min m x.rank) ((l.head?.map (·.rank)).getD 0)

/-- The next value of an element that ISUM and XSUM seed with `old`; `none` when FAULT reports a collision. -/
def settle (width rule old : Nat) (l : List Contribution) : Option Nat :=
  match rule with
  | 0 =>
    let mine := l.filter (fun x => x.rank == lowestRank l)
    some (((greatest (lastOnes mine)).map (·.value)).getD old)
  | 1 => some ((l.foldl (fun v x => v + x.value) old) % 2 ^ (8 * width))
  | 2 =>
    let f : FloatFmt := if width = 2 then .bf16 else .f32
    some (xsRound f (l.foldl (fun t x => (xsAdd t (f.read x.value)).1) (xsAdd XsLane.zero (f.read old)).1)).bits
  | _ =>
    if l.all (fun x => x.rank == lowestRank l) && allOrdered l then some (((greatest (lastOnes l)).map (·.value)).getD old) else none

/-! ### `STEP_SWAP` (R130) -/

/-- The group of a number may swap: every member has arrived, those on other devices too (R299). -/
def StepGroup.swaps (g : StepGroup) : Bool := g.conf && !g.failed && !g.members.isEmpty && g.members.all (fun m => g.arrived.contains m) && (g.gkey == 0 || g.remote)

/-- The team rank on this device of a global rank (R299). -/
def StepGroup.localRank (g : StepGroup) (rank : Nat) : Option Nat := if g.base ≤ rank ∧ g.members.contains (rank - g.base) = true then some (rank - g.base) else none

/-- The members are released: their arrivals at the group end. -/
def Run.releaseStep (r : Run s0) (g : StepGroup) (sg : Nat) : Run s0 :=
  g.members.foldl (fun r m =>
    match r.st.memberCtx g.launch g.node m with
    | some c => r.modCtx c (fun x => { x with arrivals := x.arrivals.filter (· != (0, sg)) })
    | none => r) r

/-- The fault of a planed collision (R131). -/
def collisionFault (g : StepGroup) (va : Nat) : FaultRec := { FaultRec.of 0x10 0x00 with vaddr := va, auxn := g.phase.toNat }

/-- The bytes of a row that a migration copied take the value their old home has settled on (R307). -/
def Run.forwardRow (r : Run s0) (g : StepGroup) (key n : Nat) (bs : List Byte) : Run s0 :=
  g.copies.foldl (fun r e =>
    if e.1 ≤ key ∧ key + n ≤ e.1 + e.2.2 ∧ e.1 ≠ e.2.1 then r.write (e.2.1 + (key - e.1)) bs else r) r

/-- The element at `key` settled: its next value becomes present, or the members that stored to it are told of the collision. -/
def Run.settleElement (r : Run s0) (a : Agent) (g : StepGroup) (key : Nat) : Run s0 :=
  let l := g.next.filter (fun x => x.key == key)
  match l with
  | [] => r
  | x :: _ =>
    match settle x.width x.rule x.seed l with
    | some v => ((r.write key (leBytes x.width v)).wroteLines a .main x.va key x.width).forwardRow g key x.width (leBytes x.width v)
    | none => r

/-- The collisions of a phase: each element's address with the members that stored to it. -/
def collisions (g : StepGroup) : List (Nat × List Nat) :=
  ((g.next.map (·.key)).eraseDups).filterMap (fun key =>
    let l := g.next.filter (fun x => x.key == key)
    match l with
    | [] => none
    | x :: _ => if (settle x.width x.rule x.seed l).isNone then some (x.va, (l.map (·.rank)).eraseDups) else none)

/-- The regions that a partition's launches bind to a step group. -/
def State.regionsOf (s : State) (part sg : Nat) : List (Nat × Region) :=
  s.launches.flatMap (fun l => if l.accepted && s.groupPart (l.q / 64) == some part then (l.regions.filter (fun g => g.sg == sg)).map (fun g => (l.q / 64, g)) else [])

/-- A party of the device itself in a partition: no context. -/
def partyOf (s : State) (part grp : Nat) : Agent := ⟨640, ((s.coresOf part).head?).getD 0, part, grp, 0, 0, 0⟩

/-- Directory entries that wait for the swap of a group become active; one back at its map address is freed (R307). -/
def Run.activateRows (r : Run s0) (part sg : Nat) (g : StepGroup) : Run s0 :=
  let s := r.st
  let ours := fun (e : Nat × DirEntry) => decide (e.2.st = 1) && (s.diesOf part).contains e.1
    && (s.regionsOf part sg).any (fun x => decide (x.2.base ≤ e.2.dst ∧ e.2.dst < x.2.base + 65536 * x.2.size))
  let home := fun (e : Nat × DirEntry) => (s.regionsOf part sg).any (fun x =>
    match s.keyOf (partyOf s part x.1) .main e.2.dst with
    | some k => g.copies.any (fun y => y.1 == k && y.2.1 == k)
    | none => false)
  r.put (.directory ((s.directory.filter (fun e => !(ours e && home e))).map (fun e => if ours e then (e.1, { e.2 with st := 2 }) else e)))

/-- `STEP_SWAP` (R130, R131, R307). -/
def execStepSwap (part sg : Nat) (s : State) : Host.Outcome State Fault Refusal :=
  let r := Run.start s
  let g := s.group part sg
  if g.swaps then
    let bad := collisions g
    let a := partyOf s part (((s.launches.find? (fun l => l.id == g.launch)).map (fun l => l.q / 64)).getD 1024)
    let r := ((g.next.map (·.key)).eraseDups).foldl (fun r k => r.settleElement a g k) r
    let r := r.activateRows part sg g
    let r := r.put (.group (groupKey part sg) { g with arrived := [], phase := g.phase + 1, next := [], copies := [], first := 0, seen := false, remote := false })
    let r := r.releaseStep g sg
    .next (bad.foldl (fun r e => e.2.foldl (fun r m =>
      match (g.localRank m).bind (r.st.memberCtx g.launch g.node) with
      | some c => r.raiseAsync c (collisionFault g e.1)
      | none => r) r) r).st
  else .next r.st

/-! ### Timeouts -/

/-- The first arrival of the phase is STEPTMO old (R131). Log 10, DESIGN CHOICE: a timeout takes place once the clock is found past its limit, before what is not overdue. -/
def State.stepOverdue (s : State) (part sg : Nat) : Bool :=
  let g := s.group part sg
  g.conf && !g.failed && (!g.arrived.isEmpty || g.seen) && !g.swaps && !s.timersStopped part && !s.nodeSaved g.launch g.node && decide (g.first + clocksOf (s.steptmo part) ≤ s.clk)

/-- A step group fails (R131, R299): the next plane is cleared, the arrived members are told, and the group stays failed. -/
def Run.failGroup (r : Run s0) (part sg : Nat) : Run s0 :=
  let g := r.st.group part sg
  let r := r.put (.group (groupKey part sg) { g with arrived := [], next := [], failed := true, first := 0, seen := false, remote := false })
  g.arrived.foldl (fun r m =>
    match r.st.memberCtx g.launch g.node m with
    | some c => (r.modCtx c (fun x => { x with arrivals := x.arrivals.filter (· != (0, sg)) })).raiseAsync c (stepFault g sg)
    | none => r) r

/-- `STEP_TIMEOUT` (R131). -/
def execStepTimeout (part sg : Nat) (s : State) : Host.Outcome State Fault Refusal :=
  let r := Run.start s
  .next (if s.stepOverdue part sg then r.failGroup part sg else r).st

/-! ### The other devices of a step group (R299) -/

/-- The groups of a key that may still see an arrival of the other devices. -/
def State.awaiting (s : State) (gkey : Nat) (all : Bool) : List Nat :=
  (SMap.keys s.groups).filter (fun k => let g := SMap.get s.groups StepGroup.reset k; g.conf && g.gkey == gkey && !(if all then g.remote else g.seen))

/-- The groups of a key that another device can fail. -/
def State.failable (s : State) (gkey : Nat) : List Nat :=
  (SMap.keys s.groups).filter (fun k => let g := SMap.get s.groups StepGroup.reset k; g.conf && g.gkey == gkey && !g.failed)

/-- Members on other devices have arrived: STEPTMO runs from the first arrival that this device sees. -/
def Run.arriveFar (r : Run s0) (gkey : Nat) (all : Bool) : Run s0 :=
  (r.st.awaiting gkey all).foldl (fun r k =>
    let g := SMap.get r.st.groups StepGroup.reset k
    r.put (.group k { g with seen := true, remote := all || g.remote, first := if g.arrived.isEmpty && !g.seen then r.st.clk else g.first })) r

/-- The barrier of a cluster. -/
def State.barrierOf (s : State) (clus n : Nat) : Barrier := SMap.get s.barriers Barrier.reset (clus * 32 + n)

/-- The first arrival of the generation is STEPTMO old (R134). -/
def State.barrierOverdue (s : State) (clus n : Nat) : Bool :=
  let x := s.barrierOf clus n
  let part := (s.partOf clus).getD 0
  !x.arrived.isEmpty && !s.timersStopped part && decide (x.first + clocksOf (s.steptmo part) ≤ s.clk)

/-- The `bwait` nodes of a context that wait on a barrier send an E token. Log 73, DEDUCED: bwait waits only with its operands present. -/
def Run.denyBwaits (r : Run s0) (c n : Nat) : Run s0 :=
  let s := r.st
  r.modCtx c (fun x => { x with runs := x.runs.map (fun b =>
    { b with denied := (List.range (((s.placedOf c b).map (fun p => p.words.length)).getD 0)).filterMap (fun i =>
        match s.instrAt c b i with
        | some (.bwait g m t0) => if m.toNat = n ∧ b.fired.contains i = false ∧ b.operands i (shape (.bwait g m t0)) = true then some (i, 0x11, 0x02) else none
        | _ => none) ++ b.denied }) })

/-- The fault of a barrier that times out (R134, R370): the ranks missing are those of the members in the cluster that have not arrived (log 59). -/
def barrierFault (s : State) (clus b : Nat) : FaultRec :=
  let x := s.barrierOf clus b
  let miss := ((x.arrived.head?.map (fun c => let y := s.ctx c
    (SMap.keys s.ctxs).filter (fun d => let z := s.ctx d; d / 16 == clus && z.mode != .free && z.launch == y.launch && z.pass == y.pass && !x.arrived.contains d))).getD []).map (fun d => (s.ctx d).rank)
  let (map, hi) := missingMap miss
  { FaultRec.of 0x11 0x02 with auxid := b, auxn := x.gen.toNat, map := map, rflags := if hi then rfMapHi else 0, miss := miss }

/-- `BARRIER_TIMEOUT` (R134). -/
def execBarrierTimeout (clus b : Nat) (s : State) : Host.Outcome State Fault Refusal :=
  let r := Run.start s
  let x := s.barrierOf clus b
  if s.barrierOverdue clus b then
    let r := r.put (.barrier (clus * 32 + b) { x with arrived := [], first := 0 })
    .next (x.arrived.foldl (fun r c =>
      let r := r.denyBwaits c b
      (r.modCtx c (fun y => { y with arrivals := y.arrivals.filter (· != (1, b)) })).raiseAsync c (barrierFault s clus b)) r).st
  else .next r.st

/-! ### `ROW_MIGRATION` (R304, R306, R307) -/

/-- The step group and the queue group of a planed region that holds both the row at `src` and its new place `dst`: R306 lets a row move only so. -/
def State.migration (s : State) (part : Nat) (src dst : Word64) (len : Nat) : Option (Nat × Nat) :=
  (List.range 64).findSome? (fun sg => ((s.regionsOf part sg).find? (fun x => (s.group part sg).conf && !x.2.die && x.2.rule != 4
    && decide (x.2.base ≤ src.toNat ∧ src.toNat + len ≤ x.2.base + 65536 * x.2.size ∧ x.2.base ≤ dst.toNat ∧ dst.toNat + len ≤ x.2.base + 65536 * x.2.size))).map
    (fun x => (sg, x.1)))

/-- The units of 64 bytes of a row: offsets and lengths. -/
def rowUnits (len : Nat) : List (Nat × Nat) := (List.range (ceilDiv len 64)).map (fun i => (64 * i, min 64 (len - 64 * i)))

/-- Where the units of a row stand and go, with their lengths. -/
def State.rowCopies (s : State) (a : Agent) (src dst : Word64) (len : Nat) : List (Nat × Nat × Nat) :=
  (rowUnits len).filterMap (fun u => match s.keyOf a .main (src.toNat + u.1), s.keyOf a .main (dst.toNat + u.1) with
    | some k, some l => some (k, l, u.2)
    | _, _ => none)

/-- The entry of a row in the directory of a die. -/
def rowOf (e : Nat × DirEntry) (table row : Nat) : Bool := e.2.table == table && e.2.row == row

/-- A directory of the partition has no room for one more row. -/
def State.directoryFull (s : State) (part table row : Nat) : Bool :=
  (s.diesOf part).any (fun d => decide (4096 ≤ (s.directory.filter (fun e => e.1 == d && !rowOf e table row)).length))

/-- The firmware sends row `row` of a table to `dst`: the entry is PEND in every die of the partition, and the row's present plane is copied. It takes place only where
R306 lets it: both addresses in one planed region of a configured group. The bytes of the row are `len` at its map address `src`. Log 72, DESIGN CHOICE: a row's migration is one event at the firmware's choice. -/
def execRowMigration (part table row : Nat) (src dst : Word64) (len : Nat) (s : State) : Host.Outcome State Fault Refusal :=
  let r := Run.start s
  match s.migration part src dst len with
  | none => .next r.st
  | some (sg, grp) =>
    let a := partyOf s part grp
    let units := rowUnits len
    let placed := s.rowCopies a src dst len
    if src.toNat % 64 ≠ 0 ∨ dst.toNat % 64 ≠ 0 ∨ placed.length ≠ units.length ∨ table = 0 ∨ 65536 ≤ table ∨ s.directoryFull part table row = true then .next r.st
    else
      let r := r.put (.directory ((s.diesOf part).map (fun d => (d, (⟨table, row, 1, dst.toNat⟩ : DirEntry)))
        ++ s.directory.filter (fun e => !((s.diesOf part).contains e.1 && rowOf e table row))))
      let r := (placed.zip units).foldl (fun r e => (r.write e.1.2.1 (r.st.bytes e.1.1 e.1.2.2)).wroteLines a .main (dst.toNat + e.2.1) e.1.2.1 e.1.2.2) r
      let g := r.st.group part sg
      .next (r.put (.group (groupKey part sg) { g with copies := g.copies ++ placed })).st

end Sys2Proof.Machine
end

