-- ==== Sys2Proof/Machine/Moves.lean ====
section
/-! DEFINITION. The events of translation: parks resolved (R317, R318), invalidations (R315), and slab moves (R324 to R326). -/

namespace Sys2Proof.Machine

open Sys2Proof

variable {s0 : State}

/-! ### Parks -/

/-- The waiters that the test names leave the pending-translation tables. -/
def Run.purge (r : Run s0) (dead : Waiter → Bool) : Run s0 :=
  (SMap.keys r.st.ptt).foldl (fun r k =>
    let p := SMap.get r.st.ptt Park.free k
    let ws := p.ws.filter (fun w => !dead w)
    r.put (.ptt k (if ws.isEmpty then Park.free else { p with ws := ws }))) r

/-- `PARKRES_REPLAY` (R317): the parked accesses of entry `e` walk again. -/
def execParkresReplay (die e : Nat) (s : State) : Host.Outcome State Fault Refusal :=
  let r := Run.start s
  .next (if e < 512 ∧ (s.park die e).live = true then r.replay (pttKey die e) else r).st

/-- `PARKRES_FAIL` (R317): the parked accesses of entry `e` receive the not-present fault. -/
def execParkresFail (die e : Nat) (s : State) : Host.Outcome State Fault Refusal :=
  let r := Run.start s
  .next (if e < 512 ∧ (s.park die e).live = true then r.failPark (pttKey die e) 0x0A 0x02 else r).st

/-- A park has not been resolved within PARKTMO (R318). -/
def State.parkOverdue (s : State) (die e : Nat) : Bool :=
  let p := s.park die e
  decide (e < 512) && p.live && decide (p.since + clocksOf (s.parktmo die p.part) ≤ s.clk)

/-- `PARK_TIMEOUT` (R318). -/
def execParkTimeout (die e : Nat) (s : State) : Host.Outcome State Fault Refusal :=
  let r := Run.start s
  .next (if s.parkOverdue die e then r.failPark (pttKey die e) 0x0A 0x01 else r).st

/-! ### Invalidations (R315) -/

/-- TINVCTL of a die as it reads when an invalidation is complete. -/
def Run.tinvDone (r : Run s0) (die asid sz all : Nat) : Run s0 :=
  r.setDcb die 0x081008 (BitVec.ofNat 64 (asid % 2 ^ 16 * 2 ^ 48 + sz % 4 * 256 + all))

/-- `TINV_PAGE` (R315): the page that the die's TINVVA names, of one size and address space, leaves every buffer of the package. Log 78, DESIGN CHOICE: TINVCTL's invalidation completes at once. -/
def execTinvPage (die asid sz : Nat) (s : State) : Host.Outcome State Fault Refusal :=
  let va := bitsOf (s.dcbAt die 0x081000).toNat 12 44 * 4096
  let k := pageBits (sz % 4)
  let r := (Run.start s).invalidate (fun e => e.asid == asid && e.page * 4096 / 2 ^ k == va / 2 ^ k)
  .next (r.tinvDone die asid sz 0).st

/-- `TINV_ASID` (R315): every page of one address space. -/
def execTinvAsid (die asid : Nat) (s : State) : Host.Outcome State Fault Refusal :=
  let r := (Run.start s).invalidate (fun e => e.asid == asid)
  .next (r.tinvDone die asid 0 4).st

/-- `TINV_ALL` (R315): every page of every address space. -/
def execTinvAll (die : Nat) (s : State) : Host.Outcome State Fault Refusal :=
  let r := (Run.start s).invalidate (fun _ => true)
  .next (r.tinvDone die 0 0 6).st

/-! ### Slab moves (R324 to R326) -/

def fwdOld (n : Nat) : Nat := 0x082000 + 0x20 * n
def fwdNew (n : Nat) : Nat := 0x082008 + 0x20 * n
def fwdWm (n : Nat) : Nat := 0x082010 + 0x20 * n

/-- A forwarding pair of a die: its ranges, address space, watermark, state, and whether it is active and runs the move. -/
structure Forward where
  en    : Bool
  st    : Nat
  mover : Bool
  old   : Nat
  log2  : Nat
  new   : Nat
  asid  : Nat
  wm    : Nat
  deriving DecidableEq, Repr

def State.fwd (s : State) (die n : Nat) : Forward :=
  let o := (s.dcbAt die (fwdOld n)).toNat
  let w := (s.dcbAt die (fwdWm n)).toNat
  ⟨o / 2 ^ 63 == 1, bitsOf o 61 2, bitsOf o 60 1 == 1, bitsOf o 12 44 * 4096, o % 64, bitsOf (s.dcbAt die (fwdNew n)).toNat 12 44 * 4096, w / 2 ^ 48, bitsOf w 12 29 * 4096⟩

/-- FWDOLD of a pair. -/
def Forward.word (f : Forward) : Word64 :=
  BitVec.ofNat 64 ((if f.en then 2 ^ 63 else 0) + f.st * 2 ^ 61 + (if f.mover then 2 ^ 60 else 0) + f.old + f.log2)

/-- Two ranges of bytes overlap. -/
def overlap (a n b m : Nat) : Bool := decide (a < b + m) && decide (b < a + n)

/-- The pair is one that the firmware refuses (R324): out of range or unaligned, or its ranges overlap each other, a planed region, or another active pair. -/
def Forward.refused (s : State) (die n : Nat) (f : Forward) : Bool :=
  let l := 2 ^ f.log2
  let hits := fun (b m : Nat) => overlap f.old l b m || overlap f.new (2 * l) b m
  decide (f.log2 < 12) || decide (40 < f.log2) || f.new % (2 * l) != 0 || f.old % max 65536 l != 0 || decide (2 ^ 56 < f.old + l) || decide (2 ^ 56 < f.new + 2 * l)
    || overlap f.old l f.new (2 * l)
    || s.launches.any (fun x => x.accepted && s.asidOf (x.q / 64) == f.asid && x.regions.any (fun g => g.rule != 4 && !g.die && hits g.base (65536 * g.size)))
    || (List.range 16).any (fun m => let g := s.fwd die m; m != n && g.en && g.asid == f.asid && (hits g.old (2 ^ g.log2) || hits g.new (2 * 2 ^ g.log2)))

/-- `SLAB_MOVE_START` (R324, R326): FWDOLD of pair `n` is written with EN and MOVER. -/
def execSlabMoveStart (die n : Nat) (v : Word64) (s : State) : Host.Outcome State Fault Refusal :=
  let r := Run.start s
  let f := s.fwd die n
  let g : Forward := { f with en := v.getLsbD 63, mover := v.getLsbD 60, old := bitsOf v.toNat 12 44 * 4096, log2 := v.toNat % 64, st := 1 }
  if 16 ≤ n ∨ g.en = false ∨ g.mover = false ∨ Forward.refused s die n g = true then .next r.st
  else .next (r.setDcb die (fwdOld n) g.word).st

/-- The dies that hold the same active pair. -/
def State.sharers (s : State) (n : Nat) (f : Forward) : List Nat :=
  (List.range 4).filter (fun d => let g := s.fwd d n; g.en && g.old == f.old && g.new == f.new && g.log2 == f.log2 && g.asid == f.asid)

/-- Where the mover finds an address of an address space, without forwarding: a page that is not present parks it (R316). -/
def moverAt (s : State) (root : Word64) (asid va : Nat) (need : Need) : Xl :=
  match walk s root va with
  | .leaf l _ => permitted s l asid va need
  | .missing => .park
  | .malformed => .fault 0x0A 0x04
  | .noRoot => .fault 0x0A 0x03

/-- A fault of the copy stops the move at its watermark; the firmware has the record with the failing unit. Log 77, DESIGN CHOICE: how a slab move fails. -/
def Run.moveFails (r : Run s0) (die n : Nat) (f : Forward) (cls code va : Nat) : Run s0 :=
  let r := (r.st.sharers n f).foldl (fun r d => r.setDcb d (fwdOld n) { r.st.fwd d n with en := false, st := 0 }.word) r
  r.put (.escalated (SMap.set r.st.escalated (FaultRec.of 0 0) (2048 + die * 16 + n) { FaultRec.of cls code with vaddr := va }))

/-- The next unit of a move is due: the mover does not wait on a page. -/
def State.moveDue (s : State) (die n : Nat) : Bool := let f := s.fwd die n; f.en && f.mover && f.st == 1 && !s.movers.contains (die * 16 + n, none)

/-- The mover of a pair waits no longer. -/
def Run.dropMover (r : Run s0) (die n : Nat) : Run s0 :=
  let r := r.put (.movers (r.st.movers.filter (fun e => e.1 != die * 16 + n)))
  r.purge (fun w => w == .mover die n)

/-- The mover waits on a page; with its table full it tries again. -/
def Run.parkMover (r : Run s0) (a : Agent) (die n va : Nat) (kind : BitVec 5) : Run s0 :=
  match r.parkOn die a.grp va a.part kind (.mover die n) with
  | some r => r.put (.movers (r.st.movers ++ [(die * 16 + n, none)]))
  | none => r

/-- The move is complete, and the firmware is notified (R326). -/
def Run.moveDone (r : Run s0) (die n : Nat) (f : Forward) : Run s0 :=
  (r.setDcb die (fwdOld n) { f with st := 2 }.word).put (.messages (r.st.messages ++ [⟨0, 0, 2 ^ 22 + die * 16 + n, []⟩]))

/-- The watermark of a pair set on every die. -/
def Run.setMark (r : Run s0) (n : Nat) (f : Forward) (wm : Nat) : Run s0 :=
  (r.st.sharers n f).foldl (fun r d => r.setDcb d (fwdWm n) (BitVec.ofNat 64 (f.asid * 2 ^ 48 + wm))) r

/-- `SLAB_MOVE_UNIT` (R326): the unit at the watermark is copied whole, and the watermark passes it; after the last one the move is done. -/
def execSlabMoveUnit (die n : Nat) (s : State) : Host.Outcome State Fault Refusal :=
  let r := Run.start s
  let f := s.fwd die n
  if s.moveDue die n then
    match (s.movers.find? (fun e => e.1 == die * 16 + n)).bind Prod.snd with
    | some e => .next ((r.dropMover die n).moveFails die n f e.1 e.2 (f.old + f.wm)).st
    | none =>
    if 2 ^ f.log2 ≤ f.wm then .next (r.moveDone die n f).st
    else
      let grp := ((List.range 1024).find? (fun g => (s.rootOf g).getLsbD 0 && s.asidOf g == f.asid)).getD 1024
      let a : Agent := ⟨640, 40 * die, (s.groupPart grp).getD 0, grp, 0, 0, 0⟩
      match moverAt s (s.rootOf grp) f.asid (f.old + f.wm) .r, moverAt s (s.rootOf grp) f.asid (f.new + f.wm) .w with
      | .fault c q, _ => .next (r.moveFails die n f c q (f.old + f.wm)).st
      | .park, _ => .next (r.parkMover a die n (f.old + f.wm) kindRead).st
      | .phys _ _, .fault c q => .next (r.moveFails die n f c q (f.new + f.wm)).st
      | .phys _ _, .park => .next (r.parkMover a die n (f.new + f.wm) kindWrite).st
      | .phys src _, .phys dst leaf =>
        match s.poisonAt (mainKey src) 4096 with
        | some e => .next (r.moveFails die n f e.1 e.2 (f.old + f.wm)).st
        | none =>
          let bs := s.bytes (mainKey src) 4096
          match (if leafS leaf then r.ownFrameAt a (f.new + f.wm) dst else some (r, dst)) with
          | none => .next (r.moveFails die n f 0x08 0x02 (f.new + f.wm)).st
          | some (r, dst) =>
            let r := ((r.write (mainKey dst) bs).codeLines (leafC leaf) (mainKey dst) 4096).setMark n f (f.wm + 4096)
            if 2 ^ f.log2 ≤ f.wm + 4096 then .next (r.moveDone die n f).st else .next r.st
  else .next r.st

/-- `FWD_DISABLE` (R326): EN is written 0, and the old range translates by its own entries again. -/
def execFwdDisable (die n : Nat) (s : State) : Host.Outcome State Fault Refusal :=
  let r := Run.start s
  .next (if n < 16 then (r.dropMover die n).setDcb die (fwdOld n) { s.fwd die n with en := false, st := 0 }.word else r).st

end Sys2Proof.Machine
end

