-- ==== Sys2Proof/Machine/Compress.lean ====
section
/-! DEFINITION. Line compression: code tables, learning and the freeing of a generation (R308 to R310); the patrol scrubber and the bad-frame list (R291). -/

namespace Sys2Proof.Machine

open Sys2Proof

variable {s0 : State}

/-! ### Code tables (R308, R309) -/

/-- The code lengths leave every value a code word of its own. -/
def kraftOk (l : List Nat) : Bool := decide ((l.map (fun n => if n = 0 then 0 else 2 ^ (15 - n))).sum ≤ 2 ^ 15)

/-- The lengths that a learning phase ends in: the choice is the device's own (R309). Log 6, DESIGN CHOICE: learned code lengths, the damaged sector and the outcome of power-good are free values. -/
def learnedLens (n : Nat) : List Nat :=
  let l := (List.range 256).map (fun v => Config.codeLength n v % 16)
  if kraftOk l then l else List.replicate 256 8

/-- CMPLIVE of a generation: the lines of the die coded in it (R310). -/
def State.liveLines (s : State) (die g : Nat) : Nat := (s.lines.filter (fun e => e.1 / 2 ^ 28 % 4 == die && markGen e.2 == some g)).length

/-- The byte values that have a code, in ascending order of length and value (R308). -/
def codeOrder (lens : List Nat) : List (Nat × Nat) :=
  (List.range 15).flatMap (fun n => ((List.range 256).filter (fun v => lens.getD v 0 == n + 1)).map (fun v => (v, n + 1)))

/-- The canonical codes (R308): value, length and code. The first code is zero, each next one is the one before plus 1, shifted left where the length grows. -/
def canonicalCodes (lens : List Nat) : List (Nat × Nat × Nat) :=
  ((codeOrder lens).foldl (fun (acc : List (Nat × Nat × Nat) × Option (Nat × Nat)) e =>
    let code := match acc.2 with
      | none => 0
      | some (len, code) => (code + 1) * 2 ^ (e.2 - len)
    (acc.1 ++ [(e.1, e.2, code)], some (e.2, code))) ([], none)).1

/-- The bits of a coded line as the DRAM holds them (R308): the codes of its bytes in ascending address, most significant bit first, then zeros to whole sectors. -/
def codedLine (lens : List Nat) (bytes : List Byte) : Option (List Bool) :=
  (codedSectors lens bytes).map (fun n =>
    let table := canonicalCodes lens
    let bits := bytes.flatMap (fun b => match table.find? (fun e => e.1 == b.toNat) with
      | some (_, len, code) => (List.range len).map (fun i => code.testBit (len - 1 - i))
      | none => [])
    bits ++ List.replicate (512 * n - bits.length) false)

/-! ### Learning (R309, R310) -/

def State.cmpPhase (s : State) (die : Nat) : Nat := SMap.get s.learned 0 (2 * die + 1)
def State.cmpLines (s : State) (die : Nat) : Nat := SMap.get s.learned 0 (2 * die)

/-- SWEEPREQ set or cleared. -/
def Run.setSweep (r : Run s0) (die : Nat) (b : Bool) : Run s0 :=
  let w := cmpCtl r.st die
  r.setDcb die 0x082400 (BitVec.ofNat 64 (w - bitsOf w 2 1 * 4 + (if b then 4 else 0)))

def Run.setPhase (r : Run s0) (die phase : Nat) : Run s0 := (r.put (.learned (2 * die) 0)).put (.learned (2 * die + 1) phase)

/-- Enough lines have been counted in this learning phase. -/
def State.learns (s : State) (die : Nat) : Bool :=
  s.cmpPhase die == 0 && decide (2 ^ 16 ≤ s.cmpLines die / 2 ^ bitsOf (cmpCtl s die) 4 4) && cmpGen s die % 16 != 15

/-- `CODE_TABLE_INSTALL` (R309): the next free generation takes the learned code and becomes current. -/
def execCodeTableInstall (die : Nat) (s : State) : Host.Outcome State Fault Refusal :=
  let r := Run.start s
  if s.learns die then
    let w := cmpGen s die
    let res := w % 16
    let cur := bitsOf w 6 2
    let g := if res = 0 then 0 else ((List.range 4).map (fun i => (cur + 1 + i) % 4)).find? (fun i => !res.testBit i) |>.getD 0
    let oldest := if res = 0 then g else bitsOf w 4 2
    let r := (r.put (.codeLens (lensKey die g) (learnedLens r.choice))).chose
    .next ((r.setDcb die 0x082408 (BitVec.ofNat 64 (g * 64 + oldest * 16 + (res ||| 2 ^ g)))).setPhase die 1).st
  else .next r.st

/-- A new learning phase is due: it begins, or waits with SWEEPREQ while four generations are resident. -/
def Run.relearn (r : Run s0) (die : Nat) : Run s0 :=
  if r.st.cmpPhase die = 2 then r
  else if cmpGen r.st die % 16 = 15 then (r.setSweep die true).setPhase die 2
  else r.setPhase die 0

/-- RESAMPLE × 2^16 further lines have been written. -/
def State.resamples (s : State) (die : Nat) : Bool :=
  let n := bitsOf (cmpCtl s die) 8 32
  s.cmpPhase die == 1 && n != 0 && decide (n * 2 ^ 16 ≤ s.cmpLines die)

/-- `CMP_RELEARN` (R310). -/
def execCmpRelearn (die : Nat) (s : State) : Host.Outcome State Fault Refusal := .next ((Run.start s).relearn die).st

/-- The oldest generation holds no line, and learning waits for it. -/
def State.frees (s : State) (die : Nat) : Bool := s.cmpPhase die == 2 && s.liveLines die (bitsOf (cmpGen s die) 4 2) == 0

/-- `CMP_GEN_FREE` (R309): the oldest generation is freed, OLDEST advances, and learning begins. -/
def execCmpGenFree (die : Nat) (s : State) : Host.Outcome State Fault Refusal :=
  let r := Run.start s
  if s.frees die then
    let w := cmpGen s die
    let old := bitsOf w 4 2
    let w' := w - old * 16 + (old + 1) % 4 * 16 - (if (w % 16).testBit old then 2 ^ old else 0)
    .next (((r.setDcb die 0x082408 (BitVec.ofNat 64 w')).setSweep die false).setPhase die 0).st
  else .next r.st

/-! ### Patrol scrub (R291) -/

/-- Arithmetic clocks of 24 hours. -/
def oneDay : Nat := 86400 * 1000000 * 2000

/-- A frame joins the bad-frame list. -/
def Run.listBad (r : Run s0) (frame : Nat) : Run s0 :=
  let r := if r.st.badFrames.contains frame then r else r.put (.badFrames (r.st.badFrames ++ [frame]))
  let x := r.st.frameOf frame
  if x.st = 0 then r.put (.frame frame { x with st := 2 }) else r

/-- A corrected error of a frame (R291): sixteen within 24 hours list it. -/
def Run.corrects (r : Run s0) (frame : Nat) : Run s0 :=
  let clk := r.st.clk
  let l := (SMap.get r.st.corrected [] frame ++ [clk]).filter (fun t => decide (clk < t + oneDay))
  let r := r.put (.corrected frame l)
  if 16 ≤ l.length then r.listBad frame else r

/-- `PATROL_SCRUB`: an uncorrectable error leaves one 32-byte sector of the frame poisoned and lists the frame; a corrected one is counted, and sixteen within 24 hours
list it. Log 91, DESIGN CHOICE: corrected errors are counted in a sliding day. -/
def execPatrolScrub (frame : Nat) (uncorrectable : Bool) (s : State) : Host.Outcome State Fault Refusal :=
  let r := Run.start s
  if 2 ^ 28 ≤ frame ∨ framesPerDie ≤ frame % 2 ^ 26 then .next r.st
  else if uncorrectable then
    let k := (mainKey (frame * 4096)) / 8 + (Config.freeWord r.choice).toNat % 128 * 4
    let r := (List.range 4).foldl (fun r i => r.put (.poison (k + i) (0x0F, 0x02))) r.chose
    .next (r.listBad frame).st
  else .next ((r.corrects frame).countDie (frame / 2 ^ 26) 0x48 1).st

end Sys2Proof.Machine
end

