-- ==== Sys2Proof/Machine/Verify.lean ====
section
/-! DEFINITION. The load verifier (R47, R85 to R91, R175, R223, R246, R284, R379): the first rejection of an image, in ascending address and then instruction index. -/

namespace Sys2Proof.Machine

open Sys2Proof

/-! ### The blocks of an image -/

/-- A block of an image: its offset, its TYPE and its bytes. -/
structure IBlock where
  off   : Nat
  typ   : Nat
  bytes : List Byte
  deriving DecidableEq, Repr

/-- Bytes of the block that a header begins. -/
def blockLength (h : Nat) : Nat :=
  match hdrType h with
  | 0 | 3 => codeLength (hdrNinst h)
  | 1 => poolLength (hdrNinst h)
  | 2 => 64 * (bitsOf h 14 14 + 2)
  | _ => 64 + 64 * (h % 65536)

/-- A rejection: the offset of the block, the instruction index plus 1 (0 for a check of the block as a whole), and the verify code. -/
abbrev Reject := Nat × Nat × Nat

/-- The blocks of an image from an offset on, and what stops the walk (R47). Log 80, DEDUCED: readings of the load verifier's whole-image checks. -/
def imageBlocks : Nat → Nat → List Byte → List IBlock × List Reject
  | 0, _, _ => ([], [])
  | n + 1, off, bs =>
    if bs.isEmpty then ([], [])
    else
      let h := fieldAt bs 0 4
      if 5 ≤ hdrType h then ([], [(off, 0, 0x05)])
      else
        let len := blockLength h
        let b : IBlock := ⟨off, hdrType h, bs.take len⟩
        if bs.length < len then ([b], [(off, 0, 0x0C)])
        else
          let (l, e) := imageBlocks n (off + len) (bs.drop len)
          (b :: l, e)

/-- A code block as the checks see it. `next'` is the offset of the next sequential block, `pool` the entries of its literal pool. -/
structure VBlock where
  off   : Nat
  head  : Nat
  words : List Word32
  is    : List (Option Instr)
  pool  : Option (List Word64)
  next' : Nat
  det   : Bool
  deriving DecidableEq, Repr

/-- The block of a type at an offset. -/
def typeAt (bs : List IBlock) (off : Nat) : Option Nat := (bs.find? (fun b => b.off == off)).map (·.typ)

/-- A code block of an image; `d` is the flag of the load. -/
def vblockOf (bs : List IBlock) (d : Bool) (b : IBlock) : VBlock :=
  let h := fieldAt b.bytes 0 4
  let ws := wordsOf ((b.bytes.drop 4).take (4 * hdrNinst h))
  let after := b.off + b.bytes.length
  let pool := bs.find? (fun p => p.off == after && p.typ == 1)
  { off := b.off
    head := h
    words := ws
    is := ws.map (fun w => (decode w).toOption)
    pool := pool.map (fun p => (quadsOf (p.bytes.drop 8)).take (hdrNinst (fieldAt p.bytes 0 4)))
    next' := after + (pool.map (fun p => p.bytes.length)).getD 0
    det := d || hdrD h }

/-- The static exit of an instruction of a block, as an offset (R72). -/
def staticExit (b : VBlock) (i : Instr) : Option Int :=
  match i with
  | .br _ off | .call _ off | .wdrive _ off => some ((b.off : Int) + 64 * off.toInt)
  | .brn _ => some b.next'
  | _ => none

/-! ### The checks of one code block -/

/-- What may stand behind a `merge` of a deterministic block (R91). -/
def mergeConsumer : Instr → Bool
  | .combAdd _ _ _ _ | .combMin _ _ _ _ | .combMax _ _ _ _ | .combMinn _ _ _ _ | .combMaxn _ _ _ _ | .combAnd _ _ _ _ | .combOr _ _ _ _ | .combXor _ _ _ _
  | .atomAdd _ _ _ _ | .atomEsum _ _ _ _ | .atomAnd _ _ _ _ | .atomOr _ _ _ _ | .atomXor _ _ _ _ | .atomMin _ _ _ _ | .atomMax _ _ _ _
  | .atomMinn _ _ _ _ | .atomMaxn _ _ _ _ | .eaddF32 _ _ _ | .eaddBf16 _ _ _ | .redXs _ _ | .join _ _ _ | .joinOr _ _ _ => true
  | _ => false

/-- A `mov` or a further `merge`: the trace of R91 goes on through it. -/
def mergeVia : Instr → Bool
  | .mov _ _ _ | .merge _ _ => true
  | _ => false

/-- The result of a `decide` goes to slot G of an output node with GT 11 (R85). -/
def decideRouted (is : List (Option Instr)) (i : Nat) : Bool :=
  (edges is i).any (fun e => match is[e.1]? with
    | some (some j) => outputArc j e.2
    | _ => false)

/-- A node of major 0x3C that R223 asks an output node of: one that is no output node itself, `scmp` and `sget` aside. -/
def softNode : Instr → Bool
  | .stopk _ _ _ | .smix _ _ _ | .shid _ _ _ | .semb _ _ _ | .sembProj _ _ _ | .scollArgmax _ _ _ | .scollSample _ _ _ _ | .scollConf _ _ _ | .srpl _ _ _ => true
  | _ => false

/-- The codes that instruction `i` of a block is rejected with. Log 127, DESIGN CHOICE: `join.or` counts as a `join` behind an `eadd` (R175). -/
def instrCodes (bs : List IBlock) (b : VBlock) (i : Nat) : List Nat :=
  let loop := hdrL b.head
  match decode (b.words.getD i 0) with
  | .error c => [c]
  | .ok j =>
    let exit := match staticExit b j with
      | some t => failIf (decide (t < 0) || typeAt bs t.toNat != some 0) 0x06
      | none => 0
    let own := match j with
      | .iter _ _ _ => failIf (!loop) 0x0D
      | .nest _ _ | .unnest _ => failIf loop 0x0D
      | .lit _ k _ => failIf ((b.pool.map (fun p => decide (p.length ≤ k.toNat))).getD true) 0x0B
      | .rdsr _ .cycle _ | .perf _ _ => failIf b.det 0x11
      | .merge _ _ => failIf (b.det && reaches b.is (fun x _ => !mergeConsumer x && !mergeVia x) mergeVia 129 [i] [i]) 0x0F
      | .eaddF32 _ _ _ | .eaddBf16 _ _ _ => failIf (!reachesArc b.is i (fun x => match x with
          | .join _ _ _ | .joinOr _ _ _ => true
          | _ => false)) 0x13
      | .decide _ _ _ | .decideRgn _ _ _ => failIf (!decideRouted b.is i) 0x10
      | j => failIf (softNode j && !reachesOutput b.is i) 0x15
    [exit, own, failIf ((targetsOf j).any (badTarget b.is)) 0x04, failIf (systemUnrouted b.is i) 0x19].filter (· != 0)

/-- The codes that a code block is rejected with as a whole. -/
def blockCodes (bs : List IBlock) (b : VBlock) (bytes : List Byte) : List Nat :=
  let n := hdrNinst b.head
  let pool := typeAt bs (b.off + bytes.length) == some 1
  [failIf (chkOf ((bytes.drop 4).take (4 * n)) != hdrChk b.head) 0x07,
    failIf (b.is.all Option.isSome && outputsOf b.is != hdrNout b.head) 0x08,
    failIf (bitsOf b.head 9 3 != 0 || (bytes.drop (4 + 4 * n)).any (· != 0)) 0x09,
    failIf (pool && typeAt bs b.next' == some 1) 0x0A].filter (· != 0)

/-! ### Other blocks -/

/-- A literal pool or a parameter pool whose CHK does not match (R34, R35), or padding that is not zero. Log 126, DESIGN CHOICE: in a block that is no code block, every header field
and byte that R34 to R36 have zero counts as padding. -/
def poolCodes (b : IBlock) : List Nat :=
  let h := fieldAt b.bytes 0 4
  let n := hdrNinst h
  if b.typ = 1 then
    [failIf (chkOf ((b.bytes.drop 8).take (8 * n)) != hdrChk h) 0x07,
      failIf (bitsOf h 8 13 != 0 || fieldAt b.bytes 4 4 != 0 || (b.bytes.drop (8 + 8 * n)).any (· != 0)) 0x09].filter (· != 0)
  else
    [failIf (chkOf (b.bytes.drop 64) != hdrChk h) 0x07, failIf (bitsOf h 8 6 != 0 || ((b.bytes.take 64).drop 4).any (· != 0)) 0x09].filter (· != 0)

/-- A mask program that fails a check of R246. Code 0x05 is about the documents of a request, of which a load has none (log 80). -/
def maskBad (b : IBlock) : Bool :=
  let h := fieldAt b.bytes 0 4
  let n := hdrNinst h
  let code := (b.bytes.drop 4).take (4 * n)
  decide (16 < n) || chkOf code != hdrChk h || (mkCode true 0 (wordsOf code)).isSome

/-- The codes of a TYPE 3 block (R36, R47, R246): a CHK that does not match is a finding of R47 as well as one of R246. Log 126, DESIGN CHOICE: what is padding. -/
def maskCodes (b : IBlock) : List Nat :=
  let h := fieldAt b.bytes 0 4
  let n := hdrNinst h
  [failIf (chkOf ((b.bytes.drop 4).take (4 * n)) != hdrChk h) 0x07, failIf (bitsOf h 8 13 != 0 || (b.bytes.drop (4 + 4 * n)).any (· != 0)) 0x09,
    failIf (maskBad b) 0x16].filter (· != 0)

/-- The records of a CB4 payload fill it, at most 128 of them (R269 check 7). -/
def recordsFill (bs : List Byte) : Nat → Nat → Bool
  | 0, off => off == bs.length
  | n + 1, off => off == bs.length || (let next := off + cb4Length (fieldAt bs off 4); decide (next ≤ bs.length) && recordsFill bs n next)

/-- A weight block that fails a check of R284. `image` is the address of the image. -/
def weightBad (bs : List IBlock) (image : Nat) (b : IBlock) : Bool :=
  match parseHeader (quadsOf (b.bytes.take 64)) with
  | .error _ => true
  | .ok i =>
    match weightOf i with
    | none => true
    | some (wop, h) =>
      let lands := fun (va : Nat) => decide (image ≤ va % 2 ^ 56) && typeAt bs (va % 2 ^ 56 - image) == some 4
      (headerFault wop h).isSome || (wop == 1 && !recordsFill (b.bytes.drop 64) 128 0) || (match linkKind h with
        | 0 => typeAt bs (b.off + b.bytes.length) != some 4
        | 1 => !lands h.link.toNat
        | 2 => (List.range (h.link.toNat % 16 + 1)).any (fun e => let v := fieldAt b.bytes (64 + 8 * e) 8; v / 2 ^ 62 == 1 && !lands v)
        | _ => false)

/-! ### Configuration fit (R89) -/

/-- What reaches slot `sl` of node `i` directly from a `lit` or `movi`. -/
def constantAt (b : VBlock) (i : Nat) (sl : Slot) : Option Word64 :=
  (List.range b.is.length).findSome? (fun k =>
    if (edges b.is k).contains (i, sl) then
      match b.is[k]? with
      | some (some (.movi _ v _)) => some (v.signExtend 64)
      | some (some (.lit _ j _)) => b.pool.bind (fun p => p[j.toNat]?)
      | _ => none
    else none)

/-- The places that a `cfgld` fills, when it names `c` blocks of the image in `brn` order. -/
def pinned (vs : List VBlock) (image : Nat) : Nat → Nat → Nat → Nat → Option (List (Nat × Nat))
  | 0, _, _, _ => some []
  | c + 1, at', k, j =>
    if at' < image then none
    else
      match vs.find? (fun v => v.off == at' - image) with
      | none => none
      | some v => (pinned vs image c (image + v.next') k (j + 1)).map ((k, j) :: ·)

/-- The nodes of a block that break R89. -/
def cfgBad (vs : List VBlock) (image : Nat) (b : VBlock) : List Nat :=
  ((List.range b.is.length).foldl (fun (acc : List (Nat × Nat) × List Nat) i =>
    match (b.is[i]? : Option (Option Instr)) with
    | some (some (Instr.cfgld _ _)) =>
      match constantAt b i .a, constantAt b i .b with
      | some a, some w =>
        let j := bitsOf w.toNat 2 4
        let c := bitsOf w.toNat 6 4 + 1
        match (if 16 < j + c then none else pinned vs image c a.toNat (w.toNat % 4) j) with
        | some ps => if ps.any (fun p => acc.1.contains p) then (acc.1, acc.2 ++ [i]) else (acc.1 ++ ps, acc.2)
        | none => (acc.1, acc.2 ++ [i])
      | _, _ => acc
    | _ => acc) ([], [])).2

/-! ### Nest discipline (R90) -/

/-- A nest record relative to the entry of a path: levels popped below it, then levels pushed. -/
abbrev Depth := Nat × NestRec

/-- The depth that a block leaves, `none` where a gate decides it or a pop finds nothing; and whether that is a breach. `known` says that the entry has depth 0. -/
def depthAfter (b : VBlock) (known : Bool) (d : Depth) : Option Depth × Bool :=
  b.is.foldl (fun (acc : Option Depth × Bool) i =>
    match acc.1, i with
    | some (p, w), some (.nest g c) =>
      if g != .none then (none, acc.2) else (some (p, w ++ [c]), acc.2 || decide (56 < NestRec.used (w ++ [c])) || decide (8 < w.length + 1))
    | some (p, w), some (.unnest g) =>
      if g != .none then (none, acc.2)
      else if w.isEmpty then (if known then (none, true) else (some (p + 1, w), acc.2))
      else (some (p, w.dropLast), acc.2)
    | _, _ => acc) (some d, false)

/-- A block entered at a depth breaks R90 by itself: an L block at depth 0, or an `itag` above the depth. -/
def depthBad (b : VBlock) (d : Depth) : Bool :=
  (hdrL b.head && d.2.isEmpty) || b.is.any (fun i => match i with
    | some (.itag _ l _) => decide (d.2.length ≤ l.toNat)
    | _ => false)

/-- Static successors of a block: the targets of its exits, and for a call its return (R90); `inner` leaves called blocks out. -/
def nextOf (b : VBlock) (inner : Bool) : List Nat :=
  b.is.flatMap (fun i => match i with
    | some (.call g off) => (if inner then [] else ((staticExit b (.call g off)).map (·.toNat)).toList) ++ [b.next']
    | some (.calli _) => [b.next']
    | some j => ((staticExit b j).map (·.toNat)).toList
    | none => [])

/-- The offsets of blocks that breach R90 on paths from `todo`; `seen` holds the depth at which each block was entered. With `inner` the paths are those of a called
block to its `ret`. -/
def nestWalk (vs : List VBlock) (known inner : Bool) : Nat → List (Nat × Depth) → List (Nat × Depth) → List Nat → List (Nat × Depth) × List Nat
  | 0, _, seen, bad => (seen, bad)
  | n + 1, todo, seen, bad =>
    match todo with
    | [] => (seen, bad)
    | (o, d) :: rest =>
      match vs.find? (fun v => v.off == o), seen.find? (fun e => e.1 == o) with
      | none, _ => nestWalk vs known inner n rest seen bad
      | some _, some e => nestWalk vs known inner n rest seen (if e.2 = d then bad else o :: bad)
      | some b, none =>
        let (out, breach) := depthAfter b known d
        let rets := b.is.any (fun i => match i with
          | some (.ret _) => true
          | _ => false)
        let wrong : Bool := breach || (known && depthBad b d) || (inner && rets && out.any (fun e => e != (0, [])))
        let more := match out with
          | some e => (nextOf b inner).map (fun t => (t, e))
          | none => []
        nestWalk vs known inner n (more ++ rest) ((o, d) :: seen) (if wrong then o :: bad else bad)

/-- The offsets of the blocks that breach R90. The blocks that no static edge enters begin at depth 0, and all paths from them are compared, unless the image has exits whose targets are computed: then its
depth is not known, and only what follows from it is compared. -/
def nestBad (vs : List VBlock) : List Nat :=
  let dynamic := vs.any (fun v => v.is.any (fun i => match i with
    | some (.bri _) | some (.calli _) | some (.brnDec _) => true
    | _ => false))
  let entered := fun (o : Nat) => vs.any (fun v => v.off != o && (nextOf v false).contains o)
  let fuel := 258 * (vs.length + 1)
  let walkFrom := fun (known inner : Bool) (acc : List (Nat × Depth) × List Nat) (o : Nat) =>
    let (seen, bad) := nestWalk vs known inner fuel [(o, (0, []))] [] []
    (seen ++ acc.1, bad ++ acc.2)
  let roots := (vs.map (·.off)).filter (fun o => !entered o)
  let acc := if dynamic then roots.foldl (walkFrom false false) ([], []) else nestWalk vs true false fuel (roots.map (fun o => (o, (0, [])))) [] []
  let acc := (vs.map (·.off)).foldl (fun acc o => if acc.1.any (fun e => e.1 == o) then acc else walkFrom false false acc o) acc
  let called := vs.flatMap (fun v => v.is.filterMap (fun i => match i with
    | some (.call g off) => (staticExit v (.call g off)).map (·.toNat)
    | _ => none))
  (called.eraseDups.foldl (walkFrom false true) acc).2

/-! ### The verdict -/

/-- Every rejection of an image. -/
def rejections (image : Nat) (d : Bool) (bytes : List Byte) : List Reject :=
  let (bs, stop) := imageBlocks (bytes.length / 64 + 1) 0 bytes
  let vs := (bs.filter (fun b => b.typ == 0)).map (vblockOf bs d)
  let code := (bs.filter (fun b => b.typ == 0)).flatMap (fun b =>
    let v := vblockOf bs d b
    (blockCodes bs v b.bytes).map (fun c => (b.off, 0, c)) ++ (List.range v.words.length).flatMap (fun i => (instrCodes bs v i).map (fun c => (b.off, i + 1, c))))
  let other := bs.flatMap (fun b =>
    (match b.typ with
      | 0 => []
      | 1 | 2 => poolCodes b
      | 3 => maskCodes b
      | _ => if weightBad bs image b then [0x17] else []).map (fun c => (b.off, 0, c)))
  stop ++ code ++ other ++ vs.flatMap (fun v => (cfgBad vs image v).map (fun i => (v.off, i + 1, 0x0E))) ++ (nestBad vs).map (fun o => (o, 0, 0x0D))

/-- The verify code of the first rejection, or 0 (R47, R87). Log 79, DESIGN CHOICE: which of several findings of an image is reported. -/
def verifyImage (image : Nat) (d : Bool) (bytes : List Byte) : Nat :=
  let before := fun (x y : Reject) => decide (x.1 < y.1) || (x.1 == y.1 && (decide (x.2.1 < y.2.1) || (x.2.1 == y.2.1 && decide (x.2.2 ≤ y.2.2))))
  match (rejections image d bytes).foldl (fun (m : Option Reject) x => match m with
      | none => some x
      | some y => if before y x then some y else some x) none with
  | some x => x.2.2
  | none => 0

/-- The offset names a code block of the image (R359 code 0x35). -/
def isEntry (bytes : List Byte) (off : Nat) : Bool := typeAt (imageBlocks (bytes.length / 64 + 1) 0 bytes).1 off == some 0

end Sys2Proof.Machine
end

