-- ==== Sys2Proof/Machine/Launch.lean ====
section
/-! DEFINITION. Work queues (R349 to R351), the launch record and the checks of its acceptance (R352 to R354, R359), the load of an image (R353, R88), planed-region
entries (R293, R294), tree descriptors (R341, R342) and the completion record (R355, R356). -/

namespace Sys2Proof.Machine

open Sys2Proof

variable {s0 : State}

/-! ### Queue registers (R349) -/

/-- Register `k` of a queue, 0 QBASE, 1 QCTL, 2 QHEAD, 3 QTAIL. -/
def State.queueReg (s : State) (q k : Nat) : Nat := (s.dcbAt (q / 16384) (0x20 * (q % 16384) + 8 * k)).toNat
def Run.setQueueReg (r : Run s0) (q k v : Nat) : Run s0 := r.setDcb (q / 16384) (0x20 * (q % 16384) + 8 * k) (BitVec.ofNat 64 v)

def State.queueBase (s : State) (q : Nat) : Nat := bitsOf (s.queueReg q 0) 8 48 * 256
def State.queueState (s : State) (q : Nat) : Nat := bitsOf (s.queueReg q 1) 17 2
def State.queueCap (s : State) (q : Nat) : Nat := bitsOf (s.queueReg q 1) 12 2
def State.queueInHost (s : State) (q : Nat) : Bool := (s.queueReg q 1).testBit 8
def State.queueSize (s : State) (q : Nat) : Nat := 2 ^ bitsOf (s.queueReg q 1) 0 5
def State.queueHead' (s : State) (q : Nat) : Nat := s.queueReg q 2 % 2 ^ 32
def State.queueTail (s : State) (q : Nat) : Nat := s.queueReg q 3 % 2 ^ 32

/-- STATE and ERR of a queue. -/
def Run.setQueueState (r : Run s0) (q st err : Nat) : Run s0 :=
  let w := r.st.queueReg q 1
  r.setQueueReg q 1 (w % 2 ^ 17 + st * 2 ^ 17 + err * 2 ^ 24)

/-- A queue that is idle or active stalls on an overflow, and one that is idle with records to read is active (R350, R351). -/
def Run.settleQueue (r : Run s0) (q : Nat) : Run s0 :=
  let s := r.st
  let n := (s.queueTail q + 2 ^ 32 - s.queueHead' q) % 2 ^ 32
  if s.queueState q = 1 ∨ s.queueState q = 2 then
    if s.queueSize q < n then r.setQueueState q 3 1
    else if s.queueState q = 1 ∧ n ≠ 0 then r.setQueueState q 2 0
    else r
  else r

/-- The graph engine of a queue's die as the party of an access. -/
def State.queueParty (s : State) (q : Nat) : Agent := ⟨640, q / 16384 * 40, (s.groupPart (q / 64)).getD 0, q / 64, 0, 0, 0⟩

/-- The address of record `i` of a queue. -/
def State.recordAt (s : State) (q i : Nat) : Nat := s.queueBase q + 256 * (i % s.queueSize q)

/-- The 256 bytes of record `i` of a queue as they stand, as far as its pages are present. -/
def State.recordBytes (s : State) (q i : Nat) : List Byte :=
  (List.range 4).flatMap (fun j =>
    let va := s.recordAt q i + 64 * j
    match (if s.queueInHost q then some (hostKey va) else s.keyOf (s.queueParty q) .main va) with
    | some k => s.bytes k 64
    | none => [])

/-- The key of what `State.covered` holds of a record. -/
def coverKey (q i : Nat) : Nat := q * 2 ^ 32 + i % 2 ^ 32

/-- The records that a write of QTAIL covers anew are those that host software has written (R350): the last of those between HEAD and the new TAIL. One that overflows the ring covers none. -/
def Run.coverRecords (r : Run s0) (q old new : Nat) : Run s0 :=
  let n := (new + 2 ^ 32 - r.st.queueHead' q) % 2 ^ 32
  let fresh := if r.st.queueSize q < n then 0 else min ((new + 2 ^ 32 - old) % 2 ^ 32) n
  (List.range fresh).foldl (fun r i =>
    let k := new + 2 ^ 32 - fresh + i
    r.put (.covered (coverKey q k) (r.st.recordBytes q (k % 2 ^ 32)))) r

/-- `QTAIL_WRITE` (R350). Log 81, DESIGN CHOICE: when a queue's overflow and states are settled. -/
def execQtailWrite (q : Nat) (v : Word64) (s : State) : Host.Outcome State Fault Refusal :=
  let r := Run.start s
  let n := v.toNat % 2 ^ 32
  .next (if q < 65536 then ((r.coverRecords q (s.queueTail q) n).setQueueReg q 3 n).settleQueue q else r).st

/-- The read of a queue's ring that has parked is given up. -/
def Run.dropRing (r : Run s0) (q : Nat) : Run s0 :=
  let r := ((r.put (.ringParked (r.st.ringParked.filter (· != q)))).put (.ringDenied (r.st.ringDenied.filter (· != q)))).put (.ringGot q [])
  (SMap.keys r.st.ptt).foldl (fun r k =>
    let p := SMap.get r.st.ptt Park.free k
    r.put (.ptt k { p with ws := p.ws.filter (fun w => w != .ring q) })) r

/-- A queue goes to state 0 (R351). -/
def Run.disableQueue (r : Run s0) (q : Nat) : Run s0 :=
  let w := r.st.queueReg q 1
  (r.setQueueReg q 1 (w % 2 ^ 16)).dropRing q

/-- `QCTL_WRITE` (R349, R351). -/
def execQctlWrite (q : Nat) (v : Word64) (s : State) : Host.Outcome State Fault Refusal :=
  let r := Run.start s
  let w := v.toNat
  let fields := w % 32 + bitsOf w 8 1 * 256 + bitsOf w 12 2 * 4096
  let st := s.queueState q
  if 65536 ≤ q ∨ (st = 2 ∧ w.testBit 16 = true) then .next r.st
  else if !w.testBit 16 then .next ((r.setQueueReg q 1 fields).disableQueue q).st
  else
    let st' := if st = 0 ∧ (s.groupPart (q / 64)).isSome = true then 1 else st
    .next ((r.setQueueReg q 1 (fields + 2 ^ 16 + st' * 2 ^ 17 + bitsOf (s.queueReg q 1) 24 8 * 2 ^ 24)).settleQueue q).st

/-! ### The launch record (R352) -/

def recImage (b : List Byte) : Nat := fieldAt b 0 8
def recImgLen (b : List Byte) : Nat := fieldAt b 8 4
def recNodes (b : List Byte) : Nat := fieldAt b 16 8
def recNnode (b : List Byte) : Nat := fieldAt b 24 2
def recPart (b : List Byte) : Nat := fieldAt b 26 1
def recFlags (b : List Byte) : Nat := fieldAt b 27 1
def recD (b : List Byte) : Bool := (recFlags b).testBit 2
def recOrd (b : List Byte) : Bool := (recFlags b).testBit 3
def recLoad (b : List Byte) : Bool := (recFlags b).testBit 4
def recParam (b : List Byte) : Nat := fieldAt b 32 8
def recRegions (b : List Byte) : Nat := fieldAt b 56 8
def recNreg (b : List Byte) : Nat := fieldAt b 64 1
def recNtree (b : List Byte) : Nat := fieldAt b 65 1
def recTrees (b : List Byte) : Nat := fieldAt b 72 8
def recCplAddr (b : List Byte) : Nat := fieldAt b 88 8
def recCplSp (b : List Byte) : Nat := fieldAt b 96 1
def recMsgVec (b : List Byte) : Nat := fieldAt b 100 4
def recFaultArea (b : List Byte) : Nat := fieldAt b 112 8

/-- Bytes `lo` to `hi` are zero. -/
def zeroed (b : List Byte) (lo hi : Nat) : Bool := ((b.drop lo).take (hi - lo)).all (fun x => x == 0)

/-- Check 1 of R354: reserved bytes zero, fields in range, PART the queue's partition; with LOAD the fields of R353 zero. -/
def recordOk (part : Option Nat) (b : List Byte) : Bool :=
  let common := decide (1 ≤ recImgLen b ∧ recImgLen b ≤ 2 ^ 24) && recImage b % 64 == 0 && decide (recPart b < 40) && part == some (recPart b)
    && decide (recFlags b < 32) && (recCplSp b == 3 || recCplSp b == 4) && recCplAddr b % 64 == 0
    && [(12, 16), (28, 32), (52, 56), (66, 72), (97, 100), (120, 256)].all (fun e => zeroed b e.1 e.2)
  if recLoad b then common && recFlags b &&& 0xB == 0 && zeroed b 16 26 && zeroed b 28 88
  else common && decide (1 ≤ recNnode b) && recNodes b % 64 == 0 && decide (fieldAt b 48 4 ≤ 2 ^ 20) && decide (recNreg b ≤ 64) && decide (recNtree b ≤ 64)
    && recRegions b % 32 == 0 && recFaultArea b % 256 == 0

def recPri (b : List Byte) : Nat := recFlags b % 4

/-- PRI above PCAP is lowered to PCAP (R354). -/
def lowerPri (b : List Byte) (cap : Nat) : List Byte := b.set 27 (BitVec.ofNat 8 (recFlags b - recPri b + min (recPri b) cap))

/-! ### The reads of acceptance (R354) -/

def Run.modLaunch (r : Run s0) (id : Nat) (f : Launch → Launch) : Run s0 :=
  r.put (.launches (r.st.launches.map (fun l => if l.id == id then f l else l)))

/-- A check of acceptance fails: the launch runs nothing. Log 86, DESIGN CHOICE: where a launch with a bad completion address is reported. -/
def Run.refuseLaunch (r : Run s0) (l : Launch) (cls code : Nat) : Run s0 :=
  r.modLaunch l.id (fun l => { l with accepted := false, denied := none, at' := r.st.clk, cls := cls, code := code, ending := true })

/-- A read of acceptance waits on a parked page; the launch tries again when it is resolved. -/
def Run.parkLaunch (r : Run s0) (l : Launch) (va : Nat) : Run s0 :=
  let a := r.st.queueParty l.q
  match r.parkOn a.die a.grp va a.part kindRead (.accept l.id) with
  | some r => r.modLaunch l.id (fun l => { l with parked := true })
  | none => r

/-- `n` bytes at a main address. -/
def Run.accRead (r : Run s0) (l : Launch) (va n : Nat) (k : Run s0 → List Byte → Run s0) : Run s0 :=
  if n = 0 then k r []
  else if 2 ^ 56 < va + n then r.refuseLaunch l 0x08 0x00
  else
    let (r, g) := r.readBytes (r.st.queueParty l.q) .main va n .r []
    match g with
    | .bytes bs => k r bs
    | .park v => r.parkLaunch l v
    | .fault c q _ => r.refuseLaunch l c q

/-- A page of an image: its physical address, found by a walk that needs no permission of the leaf but its address space. -/
def imagePage (s : State) (grp va : Nat) : Except (Option (Nat × Nat)) Nat :=
  match walk s (s.rootOf grp) va with
  | .noRoot => .error (some (0x0A, 0x03))
  | .missing => .error none
  | .malformed => .error (some (0x0A, 0x04))
  | .leaf w _ =>
    if leafAsid w ≠ 0 ∧ leafAsid w ≠ s.asidOf grp then .error (some (0x09, 0x05)) else .ok (leafFrame w + va % 2 ^ pageBits (leafSize w))

/-- The physical addresses of the pages of an image. -/
def Run.imagePages (r : Run s0) (l : Launch) (k : Run s0 → List Nat → Run s0) : List Nat → List Nat → Run s0
  | [], pas => k r pas.reverse
  | va :: vas, pas =>
    if 2 ^ 56 ≤ va then r.refuseLaunch l 0x08 0x00
    else
      match imagePage r.st (l.q / 64) va with
      | .ok pa => r.imagePages l k vas (pa :: pas)
      | .error none => r.parkLaunch l va
      | .error (some e) => r.refuseLaunch l e.1 e.2

/-- The image of a launch: the physical addresses of its pages and its bytes. Log 82, DESIGN CHOICE: reading an image needs no permission bit. -/
def Run.readImage (r : Run s0) (l : Launch) (k : Run s0 → List Nat → List Byte → Run s0) : Run s0 :=
  let va := recImage l.rec'
  let n := 64 * recImgLen l.rec'
  r.imagePages l (fun r pas =>
    let parts := (pagesOf va n).zip pas |>.map (fun e => (mainKey (e.2 / 4096 * 4096 + (max e.1 va) % 4096), min (e.1 + 4096) (va + n) - max e.1 va))
    match parts.findSome? (fun p => r.st.poisonAt p.1 p.2) with
    | some e => r.refuseLaunch l e.1 e.2
    | none => k r pas (parts.flatMap (fun p => r.st.bytes p.1 p.2))) (pagesOf va n) []

/-! ### Loading an image (R353, R88) -/

/-- The grant of a verified image to the frames of its pages. -/
def Run.grantImage (r : Run s0) (pas : List Nat) (d : Bool) : Run s0 :=
  pas.foldl (fun r pa => let x := r.st.frameOf (pa / 4096); r.put (.frame (pa / 4096) { x with vx := true, vd := d || x.vd })) r

/-- A load: the image is verified, and with no rejection its frames are granted execution. Log 83, DEDUCED: D loads. -/
def Run.loadImage (r : Run s0) (l : Launch) (pas : List Nat) (bytes : List Byte) : Run s0 :=
  let b := l.rec'
  match verifyImage (recImage b) (recD b) bytes with
  | 0 =>
    let asid := r.st.asidOf (l.q / 64)
    let same := fun (x : Loaded) => x.asid == asid && x.image == recImage b && x.len == 64 * recImgLen b
    let d := recD b || r.st.loads.any (fun x => same x && x.d)
    let r := (r.grantImage pas (recD b)).put (.loads (⟨asid, recImage b, 64 * recImgLen b, d⟩ :: r.st.loads.filter (fun x => !same x)))
    r.modLaunch l.id (fun l => { l with accepted := true, started := true, denied := none, at' := r.st.clk })
  | c => r.refuseLaunch l 0x15 c

/-- The image has passed a load that serves the launch, and its frames still hold the grant (R88, R353). -/
def imageLoaded (s : State) (l : Launch) (pas : List Nat) : Bool :=
  let b := l.rec'
  s.loads.any (fun x => x.asid == s.asidOf (l.q / 64) && x.image == recImage b && x.len == 64 * recImgLen b && (x.d || !recD b))
    && pas.all (fun pa => let f := s.frameOf (pa / 4096); f.vx && (f.vd || !recD b))

/-! ### The node table (R357, R359) -/

def nodeAt (table : List Byte) (n : Nat) : List Byte := (table.drop (64 * n)).take 64

/-- Code 0x31. -/
def nodeFieldsBad (cores : Nat) (b : List Byte) : Bool :=
  let kind := fieldAt b 0 1
  let team := fieldAt b 2 2
  decide (4 < kind) || decide (1 < fieldAt b 1 1) || fieldAt b 8 4 % 2 != 0 || decide (1024 < fieldAt b 12 2)
    || (if kind = 3 then decide (3 < fieldAt b 23 1) else fieldAt b 23 1 != 0)
    || (if kind = 0 then team == 0 || decide (cores < team) || decide (4 < fieldAt b 20 1)
        else team != 0 || fieldAt b 4 4 != 0 || decide (cores ≤ fieldAt b 21 2))

/-- A node as R357 lays it out, with its successors. -/
def nodeOf (b : List Byte) (succs : List Nat) : GNode where
  kind := fieldAt b 0 1
  spawn := fieldAt b 1 1 == 1
  team := fieldAt b 2 2
  entry := fieldAt b 4 4
  succs := succs
  dep := fieldAt b 14 2
  barmask := fieldAt b 16 4
  accn := fieldAt b 20 1
  unit := fieldAt b 21 2
  gmode := fieldAt b 23 1
  opnd := (List.range 4).map (fun i => BitVec.ofNat 64 (fieldAt b (24 + 8 * i) 8))
  desc := BitVec.ofNat 64 (fieldAt b 56 8)
  st := if fieldAt b 1 1 = 1 then .held else if fieldAt b 14 2 = 0 then .ready else .wait
  cls := 0
  code := 0

/-- How many lists name a node. -/
def timesNamed (ns : List GNode) (n : Nat) : Nat := (ns.map (fun x => x.succs.count n)).sum

/-- The nodes left when every node that no node left names is taken away, again and again. -/
def cycleOf (ns : List GNode) : Nat → List Nat → List Nat
  | 0, left => left
  | k + 1, left => cycleOf ns k (left.filter (fun n => left.any (fun m => ((ns[m]?).map (·.succs)).any (fun l => l.contains n))))

/-- Codes 0x32 to 0x37 (R359). `entry` says that an offset names a TYPE 0 block of the image. Log 84, DEDUCED: fields of a node that its kind does not use are not checked. -/
def graphCode (ns : List GNode) (entry : Nat → Bool) : Option Nat :=
  let n := ns.length
  let named := fun (i : Nat) => timesNamed ns i
  if ns.any (fun x => x.succs.any (fun m => decide (n ≤ m)) || x.succs.eraseDups.length != x.succs.length) then some 0x32
  else if (List.range n).any (fun i => (ns[i]?).any (fun x => x.dep != named i)) then some 0x33
  else if !(cycleOf ns n (List.range n)).isEmpty then some 0x34
  else if ns.any (fun x => x.kind == 0 && !entry x.entry) then some 0x35
  else if (List.range n).any (fun i => (ns[i]?).any (fun x => x.spawn && (x.dep != 0 || !x.succs.isEmpty || named i != 0))) then some 0x36
  else if ns.all (fun x => x.spawn || !x.succs.isEmpty) then some 0x37
  else none

/-- The successor lists, node after node. -/
def Run.readSuccs (r : Run s0) (l : Launch) (table : List Byte) (k : Run s0 → List GNode → Run s0) : List Nat → List GNode → Run s0
  | [], ns => k r ns.reverse
  | i :: is, ns =>
    let b := nodeAt table i
    r.accRead l (recNodes l.rec' + fieldAt b 8 4) (2 * fieldAt b 12 2) (fun r bs =>
      r.readSuccs l table k is (nodeOf b ((List.range (fieldAt b 12 2)).map (fun j => fieldAt bs (2 * j) 2)) :: ns))

/-- Check 4 of R354. -/
def Run.readGraph (r : Run s0) (l : Launch) (image : List Byte) (k : Run s0 → List GNode → Run s0) : Run s0 :=
  let n := recNnode l.rec'
  r.accRead l (recNodes l.rec') (64 * n) (fun r table =>
    if (List.range n).any (fun i => nodeFieldsBad (r.st.coresOf (recPart l.rec')).length (nodeAt table i)) then r.refuseLaunch l 0x08 0x31
    else r.readSuccs l table (fun r ns =>
      match graphCode ns (isEntry image) with
      | some c => r.refuseLaunch l 0x08 c
      | none => k r ns) (List.range n) [])

/-! ### Planed regions (R293, R294) -/

/-- Code 0x20. -/
def regionFieldsBad (b : List Byte) : Bool :=
  let base := fieldAt b 0 8
  let size := fieldAt b 8 4
  let sp := fieldAt b 12 1
  let w := fieldAt b 13 1
  let rule := fieldAt b 14 1
  decide (63 < fieldAt b 15 1) || !zeroed b 20 32
    || (if rule = 4 then base != 0 || size != 0 || sp != 0 || w != 0
        else decide (4 < rule) || base % 65536 != 0 || size == 0 || decide (2 ^ 20 < size) || !(sp == 2 || sp == 3) || !([1, 2, 4, 8].contains w)
          || (rule == 2 && w != 2 && w != 4) || decide (2 ^ 56 < base + 65536 * size))

/-- An entry as R293 lays it out. -/
def regionOf (b : List Byte) : Region where
  base := fieldAt b 0 8
  size := fieldAt b 8 4
  die := fieldAt b 12 1 == 2
  width := fieldAt b 13 1
  rule := fieldAt b 14 1
  sg := fieldAt b 15 1
  gkey := fieldAt b 16 4

def regionsMeet (g h : Region) : Bool :=
  g.rule != 4 && h.rule != 4 && g.die == h.die && decide (g.base < h.base + 65536 * h.size) && decide (h.base < g.base + 65536 * g.size)

/-- Two of the regions of a list overlap. -/
def anyMeet : List Region → Bool
  | [] => false
  | g :: gs => gs.any (regionsMeet g) || anyMeet gs

/-- The accepted launches of a partition. -/
def State.launchesOf (s : State) (part : Nat) : List Launch := s.launches.filter (fun l => l.accepted && s.groupPart (l.q / 64) == some part)

/-- Frames that are free on a partition's dies and in no launch's pool (R294, R321). -/
def State.freeCount (s : State) (part : Nat) : Nat :=
  let dies := s.diesOf part
  dies.length * framesPerDie - (((SMap.keys s.frames).filter (fun f => (s.frameOf f).st != 0) ++ s.badFrames ++ s.pooled).eraseDups.filter (fun f => dies.contains (f / 2 ^ 26))).length

/-- Frames of next-plane storage that regions need: as much as their size (R294). -/
def planeCount (gs : List Region) : Nat := (gs.map (fun g => 16 * g.size)).sum

/-- The first failing check of R294. Log 85, DEDUCED: readings of the region and tree checks of acceptance. -/
def regionCode (s : State) (l : Launch) (bs : List (List Byte)) : Option Nat :=
  let part := recPart l.rec'
  let gs := bs.map regionOf
  let others := (s.launchesOf part).filter (fun y => y.id != l.id && y.started)
  if bs.any regionFieldsBad then some 0x20
  else if anyMeet gs || gs.any (fun g => others.any (fun y => (g.die || s.asidOf (y.q / 64) == s.asidOf (l.q / 64)) && y.regions.any (regionsMeet g))) then some 0x21
  else if gs.any (fun g => g.rule != 4 && g.die && (s.diesOf part).any (fun d =>
    decide (g.base < (s.window d part).1) || decide ((s.window d part).2 < g.base + 65536 * g.size))) then some 0x22
  else if s.freeCount part < planeCount gs then some 0x23
  else none

/-! ### Tree descriptors (R341, R342) -/

def treeNnode (d : List Byte) : Nat := fieldAt d 2 1
def treeLen (d : List Byte) : Nat := fieldAt d 4 2
def treeDrank (d : List Byte) : Nat := fieldAt d 6 1
def treeNode (d : List Byte) : Nat := fieldAt d 7 1
def treeRaddr (d : List Byte) : Nat := fieldAt d 8 4
def treeStride (d : List Byte) : Nat := fieldAt d 12 4
def treeParent (d : List Byte) (j : Nat) : Nat := fieldAt d (65 + 32 * j) 1
def treeNchild (d : List Byte) (j : Nat) : Nat := fieldAt d (64 + 32 * j) 1
/-- The children of node `j` as they stand. -/
def treeWords (d : List Byte) (j : Nat) : List Nat := (List.range (treeNchild d j)).map (fun c => fieldAt d (80 + 32 * j + 2 * c) 2)
/-- The children of node `j`: `true` for the leaf of a rank. -/
def treeChildren (d : List Byte) (j : Nat) : List (Bool × Nat) := (treeWords d j).map (fun w => (w.testBit 15, w % 256))

/-- A node reaches the root within `k` steps. -/
def climbs (d : List Byte) : Nat → Nat → Bool
  | 0, j => treeParent d j == 0xFF
  | k + 1, j => treeParent d j == 0xFF || climbs d k (treeParent d j)

/-- A descriptor passes the checks of R342 that look at it alone. -/
def treeOk (ns : List GNode) (d : List Byte) : Bool :=
  let n := treeNnode d
  let js := List.range n
  let kids := js.flatMap (treeChildren d)
  let ranks := (kids.filter (·.1)).map (·.2)
  let team := match ns[treeNode d]? with
    | some x => if x.kind = 0 then x.team else 0
    | none => 0
  decide (fieldAt d 0 1 < 64) && decide (fieldAt d 1 1 < 2) && decide (1 ≤ n ∧ n ≤ 32) && decide (1 ≤ fieldAt d 3 1) && [64, 128, 192, 256].contains (treeLen d)
    && decide (treeDrank d < team) && treeRaddr d % 64 == 0 && treeStride d % 64 == 0 && decide (treeLen d + 64 ≤ treeStride d)
    && decide (treeRaddr d + fieldAt d 3 1 * treeStride d ≤ coreLimit) && zeroed d 24 64
    && js.all (fun j => decide (1 ≤ treeNchild d j ∧ treeNchild d j ≤ 8) && zeroed d (66 + 32 * j) (80 + 32 * j)
        && (treeWords d j).all (fun w => w / 256 % 128 == 0 && (w.testBit 15 || decide (w % 256 < n)))
        && (treeParent d j == 0xFF || decide (treeParent d j < n)))
    && (js.filter (fun j => treeParent d j == 0xFF)).length == 1
    && js.all (fun j => kids.count (false, j) == (if treeParent d j = 0xFF then 0 else 1)
        && (treeParent d j == 0xFF || (treeChildren d (treeParent d j)).contains (false, j)) && climbs d n j)
    && ranks.length == team && (List.range team).all (fun r => ranks.contains r)

/-- The tree descriptors of a launch, one after the other. -/
def Run.readTrees (r : Run s0) (l : Launch) (ns : List GNode) (k : Run s0 → List (List Byte) → Run s0) : List Nat → List (List Byte) → Run s0
  | [], ds => k r ds.reverse
  | i :: is, ds =>
    r.accRead l (recTrees l.rec' + 8 * i) 8 (fun r a =>
      let at' := leNat a
      if at' % 64 ≠ 0 then r.refuseLaunch l 0x08 0x04
      else r.accRead l at' 64 (fun r h => r.accRead l (at' + 64) (32 * min 32 (treeNnode h)) (fun r t =>
        let d := h ++ t
        if treeOk ns d && ds.all (fun e => fieldAt e 0 1 != fieldAt d 0 1) then r.readTrees l ns k is (d :: ds) else r.refuseLaunch l 0x08 0x04)))

/-! ### Acceptance (R354) -/

/-- Check 3: the parameter pool (R35), wherever PARAM points; fields of its header that have to be zero are ignored (R3). Log 125, DESIGN CHOICE: the alignment and the TYPE
of a parameter pool, and when it is read. -/
def Run.readPool (r : Run s0) (l : Launch) (k : Run s0 → List Byte → Run s0) : Run s0 :=
  let va := recParam l.rec'
  if va = 0 then k r []
  else r.accRead l va 64 (fun r h =>
    let w := fieldAt h 0 4
    if hdrType w ≠ 2 then r.refuseLaunch l 0x03 0x03
    else r.accRead l (va + 64) (64 * (bitsOf w 14 14 + 1)) (fun r bs => if chkOf bs = hdrChk w then k r bs else r.refuseLaunch l 0x03 0x03))

/-- The sum of the team sizes of the core nodes (R322). -/
def teamSum (ns : List GNode) : Nat := (ns.map (fun n => if n.kind = 0 then n.team else 0)).sum

/-- The nodes that are READY at acceptance begin a pass each. -/
def Run.firstPasses (r : Run s0) (id : Nat) (ns : List GNode) : Run s0 :=
  (List.range ns.length).foldl (fun r i =>
    if (ns[i]?).any (fun n => n.st == .ready) then
      let r := r.put .named
      r.modLaunch id (fun l => { l with work := l.work ++ [⟨r.st.uid, i, .ready, r.st.clk, 0, [], [], []⟩] })
    else r) r

/-- The partition of a launch. -/
def Launch.part (l : Launch) : Nat := recPart l.rec'

/-- The frame pool of a launch may be taken (R322). -/
def State.poolFree (s : State) (l : Launch) : Bool := l.frwin == 0 || l.frames.length == l.frpool || (freeFrames s (s.diesOf l.part) s.pooled l.frpool).length == l.frpool

/-- A launch takes its frame pool, when it has none yet and the free list holds it: the FRPOOL lowest-numbered frames (R322). -/
def Run.takePool (r : Run s0) (id : Nat) : Run s0 :=
  match r.st.launches.find? (fun l => l.id == id) with
  | none => r
  | some l =>
    if l.frwin = 0 ∨ l.frames.length = l.frpool then r
    else
      let pool := freeFrames r.st (r.st.diesOf l.part) r.st.pooled l.frpool
      if pool.length = l.frpool then r.modLaunch id (fun l => { l with frames := pool }) else r

/-- `n` free frames of a partition for next-plane storage (R294). Which they are the spec leaves open: they follow a free place on each die. -/
def planeFrames (s : State) (part n : Nat) : List Nat :=
  let spoiled := SMap.keys s.frames ++ s.badFrames ++ s.pooled
  let span := min (n + spoiled.length) framesPerDie
  let all := (s.diesOf part).flatMap (fun d => (List.range span).map (fun i => d * 2 ^ 26 + (Config.planeStart n + i) % framesPerDie))
  (all.filter (fun f => s.frameFree f && !s.pooled.contains f)).take n

/-- The launch reserves the next-plane storage of its regions. -/
def Run.reservePlanes (r : Run s0) (id part n : Nat) : Run s0 :=
  if n = 0 then r else r.modLaunch id (fun l => { l with planes := planeFrames r.st part n })

/-- The launch has passed every check: it takes its frame pool, when it can, and its next-plane storage (R294, R322). Its `param` space is the pool as acceptance read it (log 125, DESIGN CHOICE). -/
def Run.acceptLaunch (r : Run s0) (l : Launch) (pool : List Byte) (ns : List GNode) (gs : List Region) (ts : List (List Byte)) : Run s0 :=
  (r.modLaunch l.id (fun l => { l with rec' := lowerPri l.rec' (r.st.queueCap l.q), accepted := true, denied := none, at' := r.st.clk, pool := pool, nodes := ns, regions := gs, trees := ts })).takePool l.id
    |>.reservePlanes l.id l.part (planeCount gs) |>.firstPasses l.id ns

/-- The checks of acceptance, in the order of R354; a read whose park has failed fails the launch. -/
def Run.checkLaunch (r : Run s0) (l : Launch) : Run s0 :=
  let b := l.rec'
  if l.denied.isSome then r.refuseLaunch l (l.denied.getD (0, 0)).1 (l.denied.getD (0, 0)).2
  else if !recordOk (r.st.groupPart (l.q / 64)) b then r.refuseLaunch l 0x08 0x30
  else if recLoad b then r.readImage l (fun r pas image => r.loadImage l pas image)
  else r.readImage l (fun r pas image =>
    if !imageLoaded r.st l pas then r.refuseLaunch l 0x15 0x18
    else r.readPool l (fun r pool => r.readGraph l image (fun r ns =>
      r.accRead l (recRegions b) (32 * recNreg b) (fun r rb =>
        let es := (List.range (recNreg b)).map (fun i => (rb.drop (32 * i)).take 32)
        match regionCode r.st l es with
        | some c => r.refuseLaunch l 0x08 c
        | none => r.readTrees l ns (fun r ts =>
            if fieldAt b 80 4 < fieldAt b 84 4 * teamSum ns then r.refuseLaunch l 0x08 0x03
            else r.acceptLaunch l pool ns (es.map regionOf) ts) (List.range (recNtree b)) []))))

/-! ### Reading the ring (R350) -/

/-- A record just read, before its checks. -/
def newLaunch (id q : Nat) (b : List Byte) : Launch where
  id := id
  q := q
  rec' := b
  accepted := false
  parked := false
  denied := none
  pool := []
  nodes := []
  regions := []
  trees := []
  frames := []
  planes := []
  windows := []
  started := false
  work := []
  spawns := 0
  ndisp := 0
  ndrop := 0
  at' := 0
  fnode := none
  cls := 0
  code := 0
  ending := false
  released := []

/-- The record is read: HEAD advances, and the launch is checked. -/
def Run.takeRecord (r : Run s0) (q : Nat) (b : List Byte) : Run s0 :=
  let r := r.setQueueReg q 2 ((r.st.queueHead' q + 1) % 2 ^ 32)
  let r := if r.st.queueHead' q = r.st.queueTail q then r.setQueueState q 1 0 else r
  let r := r.put .named
  let l := newLaunch r.st.uid q b
  (r.put (.launches (r.st.launches ++ [l]))).checkLaunch l

/-- The next 64 bytes of a record have been read; with the last the record is taken. One that is no longer what it was when the write of QTAIL that covers it came has undefined contents. -/
def Run.recordPiece (r : Run s0) (q : Nat) (b : List Byte) : Run s0 :=
  let got := SMap.get r.st.ringGot [] q ++ b
  if got.length < 256 then r.put (.ringGot q got)
  else
    let k := coverKey q (r.st.queueHead' q)
    let old := SMap.get r.st.covered [] k
    let r := (r.dropRing q).put (.covered k [])
    if old.length = 256 ∧ old ≠ got then r.chose.takeRecord q ((List.range 256).map (Config.freeByte r.choice)) else r.takeRecord q got

/-- The read of the next 64 bytes of the next record of a queue, as one event (R350). -/
def Run.readRing (r : Run s0) (q : Nat) : Run s0 :=
  let a := r.st.recordAt q (r.st.queueHead' q) + (SMap.get r.st.ringGot [] q).length
  let stall := fun (r : Run s0) => (r.setQueueState q 3 2).dropRing q
  if r.st.ringDenied.contains q then stall r
  else if r.st.queueInHost q then
    if Config.hostRejects a false r.choice then stall r.chose else r.chose.recordPiece q (r.st.bytes (hostKey a) 64)
  else if 2 ^ 56 < a + 64 then stall r
  else
    let p := r.st.queueParty q
    let (r, g) := r.readBytes p .main a 64 .r []
    match g with
    | .bytes b => r.recordPiece q b
    | .fault _ _ _ => stall r
    | .park v =>
      match r.parkOn p.die p.grp v p.part kindRead (.ring q) with
      | some r => r.put (.ringParked (q :: r.st.ringParked))
      | none => r

/-- The launch of a queue whose acceptance is still to be decided. -/
def State.undecided (s : State) (q : Nat) : Option Launch := s.launches.find? (fun l => l.q == q && !l.accepted && !l.ending)

/-- A drain or freeze of the partition of a queue is under way. -/
def State.queueHeld (s : State) (q : Nat) : Bool :=
  match s.groupPart (q / 64) with
  | some p => s.drains.any (fun d => d.part == p) || s.fixed.contains p || s.fixed.contains 40
  | none => true

/-- The graph engine may go on with a queue. -/
def State.queueReads (s : State) (q : Nat) : Bool :=
  !s.queueHeld q && (match s.undecided q with
    | some l => !l.parked
    | none => s.queueState q == 2 && s.queueHead' q != s.queueTail q && !s.ringParked.contains q)

/-- `LAUNCH_RECORD_READ` (R350, R354): the next record of a queue is read and checked; one whose checks wait on a page is checked again. -/
def execLaunchRecordRead (q : Nat) (s : State) : Host.Outcome State Fault Refusal :=
  let r := Run.start s
  if s.queueReads q then
    match s.undecided q with
    | some l => .next (r.checkLaunch l).st
    | none => .next (r.readRing q).st
  else .next r.st

/-! ### The completion record (R355, R356) -/

/-- The 64 bytes of a completion record. -/
def completionRecord (s : State) (l : Launch) : List Byte :=
  (l.rec'.drop 104).take 8 ++ leBytes 1 l.cls ++ leBytes 1 l.code ++ leBytes 2 (l.fnode.getD 0xFFFF) ++ leBytes 4 l.ndisp ++ leBytes 4 l.ndrop ++ leBytes 4 0
    ++ leBytes 8 (s.clk - l.at') ++ List.replicate 32 0

/-- The launch is over: its frames that were never used are free again, its groups and trees are gone, and its next planes are discarded (R295, R322, R365). -/
def Run.closeLaunch (r : Run s0) (l : Launch) : Run s0 :=
  let r := (SMap.keys r.st.groups).foldl (fun r k =>
    if (SMap.get r.st.groups StepGroup.reset k).launch = l.id then r.put (.group k StepGroup.reset) else r) r
  let r := r.put (.shelf (r.st.shelf.filter (fun e => e.2.launch != l.id)))
  let r := r.put (.trees (r.st.trees.filter (fun t => t.launch != l.id)))
  r.put (.launches (r.st.launches.filter (fun y => y.id != l.id)))

/-- The record stands: the message of R356 is sent, and the launch is over. A launch fault escalates, with the completion record as its record (R377). -/
def Run.completed (r : Run s0) (l : Launch) : Run s0 :=
  let body := if l.cls = 0 then [] else completionRecord r.st l
  let r := if recMsgVec l.rec' = 0 ∧ l.cls = 0 then r else r.put (.messages (r.st.messages ++ [⟨recMsgVec l.rec', l.id, 0, body⟩]))
  r.closeLaunch l

/-- The record cannot be written: it goes to host software with the failing write's fault and the launch's vector. -/
def Run.unrecorded (r : Run s0) (l : Launch) (cls code : Nat) : Run s0 :=
  let f : FaultRec := { FaultRec.of cls code with vaddr := recCplAddr l.rec' }
  (r.put (.messages (r.st.messages ++ [⟨recMsgVec l.rec', l.id, 0, completionRecord r.st l ++ f.bytes 0⟩]))).closeLaunch l

/-- A launch completes (R355, R356, R365, R368). Log 113, DESIGN CHOICE: a device's own write to a shared page takes the lowest free frame. -/
def Run.completeLaunch (r : Run s0) (l : Launch) : Run s0 :=
  let b := l.rec'
  let va := recCplAddr b
  let bs := completionRecord r.st l
  if l.denied.isSome then r.unrecorded l (l.denied.getD (0, 0)).1 (l.denied.getD (0, 0)).2
  else if recCplSp b = 4 then
    if Config.hostRejects va true r.choice then r.chose.unrecorded l 0x09 0x02 else (r.chose.write (hostKey va) bs).completed l
  else if recCplSp b ≠ 3 ∨ va % 64 ≠ 0 then r.unrecorded l 0x08 0x30
  else
    let p := { r.st.queueParty l.q with launch := if l.frwin = 0 then l.id else 0 }
    match fireCheck r.st p .main va 64 true .store with
    | some e => r.unrecorded l e.1 e.2
    | none =>
      let (r, x) := r.writePieces p .main va bs noIssuer
      match x with
      | .done => r.completed l
      | .home _ _ => r
      | .fault c q _ => r.unrecorded l c q
      | .park v =>
        match r.parkOn p.die p.grp v p.part kindWrite (.completion l.id) with
        | some r => r.modLaunch l.id (fun l => { l with parked := true })
        | none => r

end Sys2Proof.Machine
end

