-- ==== Sys2Proof/Machine/Graph.lean ====
section
/-! DEFINITION. The graph engine: the ready pool and placement (R360 to R362), dispatch (R363, R295, R343, R21), the end of a node and of a launch (R364 to R368). -/

namespace Sys2Proof.Machine

open Sys2Proof

variable {s0 : State}

/-! ### Passes -/

def Launch.pass (l : Launch) (uid : Nat) : Option Pass := l.work.find? (fun p => p.uid == uid)
def Launch.nodeOf (l : Launch) (p : Pass) : Option GNode := l.nodes[p.node]?

def Run.modPass (r : Run s0) (id uid : Nat) (f : Pass → Pass) : Run s0 :=
  r.modLaunch id (fun l => { l with work := l.work.map (fun p => if p.uid == uid then f p else p) })

/-- Every pass of the package with its launch. -/
def State.passes (s : State) : List (Launch × Pass) := s.launches.flatMap (fun l => l.work.map (fun p => (l, p)))

/-- An operation of a pass itself: a staged copy, or the work of an engine node. -/
def State.passOps (s : State) (p : Pass) : List EngOp := s.ops.filter (fun o => o.c == 640 && o.iid == p.uid)

/-- The partition takes no dispatch: a drain or freeze is under way, or a fix. -/
def State.partHeld (s : State) (part : Nat) : Bool := s.drains.any (fun d => d.part == part) || s.fixed.contains part || s.fixed.contains 40

/-! ### Starting a launch (R294, R322, R354) -/

/-- A waiting launch may start: its order, its region entries and its frame pool allow it. -/
def State.startable (s : State) (l : Launch) : Bool :=
  l.accepted && !l.started && !l.ending
    && (!recOrd l.rec' || s.launches.all (fun y => !(y.q == l.q && decide (y.id < l.id))))
    && decide (l.regions.length + ((s.launchesOf l.part).map (fun y => if y.started then y.regions.length else 0)).sum ≤ 64)
    && s.poolFree l

/-- The launch starts, with its pool. -/
def Run.startLaunch (r : Run s0) (l : Launch) : Run s0 := (r.takePool l.id).modLaunch l.id (fun l => { l with started := true })

def Run.startLaunches (r : Run s0) (part : Nat) : Run s0 :=
  (r.st.launchesOf part).foldl (fun r l => if r.st.startable l then r.startLaunch l else r) r

/-! ### Free resources (R361, R362) -/

/-- A context that no task has and no pass reserves. -/
def State.ctxFree (s : State) (c : Nat) : Bool :=
  let x := s.ctx c
  x.mode == .free && x.pend.isEmpty && s.passes.all (fun e => !e.2.live.contains c)

/-- The free physical accumulators of a core, as core * 4 + number. -/
def State.freeAccs (s : State) (core : Nat) : List Nat :=
  ((List.range 4).map (fun a => core * 4 + a)).filter (fun a => s.passes.all (fun e => !e.2.accs.contains a))

/-- The context and the accumulators that a core gives a member. -/
def State.seat (s : State) (core accn : Nat) : Option (Nat × List Nat) :=
  match (coreCtxs (core * 4)).find? s.ctxFree with
  | none => none
  | some c => if s.inService (core / 4) && decide (accn ≤ (s.freeAccs core).length) then some (c, (s.freeAccs core).take accn) else none

/-- The barriers of a mask in the clusters of a team, as cluster * 32 + number. -/
def barsOf (mask : Nat) (team : List Nat) : List Nat :=
  ((team.map (fun c => c / 16)).eraseDups).flatMap (fun k => ((List.range 32).filter (fun b => mask.testBit b)).map (fun b => k * 32 + b))

/-- A barrier is disarmed, and no other pass has it. -/
def State.barrierFree (s : State) (uid k : Nat) : Bool := !(s.barrierOf (k / 32) (k % 32)).armed && s.passes.all (fun e => e.2.uid == uid || !e.2.bars.contains k)

/-- The step groups that a core task of the launch configures are free (R295). -/
def State.groupsFree (s : State) (l : Launch) : Bool :=
  l.regions.all (fun g => !(s.group l.part g.sg).conf && (s.launchesOf l.part).all (fun y =>
    !(y.regions.any (fun h => h.sg == g.sg)) || y.work.all (fun p => p.st != .stage || !((y.nodeOf p).any (fun n => n.kind == 0)))))

/-! ### Binding trees (R343) -/

/-- The leaves below node `j` of a descriptor, within a number of levels. -/
def leavesBelow (d : List Byte) : Nat → Nat → List Nat
  | 0, _ => []
  | k + 1, j => (treeChildren d j).flatMap (fun e => if e.1 then [e.2] else leavesBelow d k e.2)

/-- The router of a node: that of the cluster of its lowest-ranked leaf when its leaves lie on one die, else that die's link router. -/
def routerOf (d : List Byte) (team : List Nat) (j : Nat) : Nat :=
  let ranks := leavesBelow d (treeNnode d) j
  let low := ranks.foldl min (ranks.headD 0)
  let dieOf := fun (r : Nat) => team.getD r 0 / 160
  if ranks.all (fun r => dieOf r == dieOf low) then team.getD low 0 / 16 else 40 + dieOf low

/-- A descriptor bound to the contexts of a team, in rank order. -/
def bindTree (l node : Nat) (team : List Nat) (d : List Byte) : Tree where
  launch := l
  node := node
  ident := fieldAt d 0 1
  xs := fieldAt d 1 1 == 1
  len := treeLen d
  rslots := fieldAt d 3 1
  drank := treeDrank d
  raddr := treeRaddr d
  rstride := treeStride d
  cdone := BitVec.ofNat 64 (fieldAt d 16 8)
  nodes := (List.range (treeNnode d)).map (fun j =>
    ⟨0, routerOf d team j, if treeParent d j = 0xFF then none else some (treeParent d j), treeChildren d j, (treeChildren d j).map (fun _ => [])⟩)
  sent := []
  marks := []
  dropped := []
  failed := false

/-- The trees of a node of the launch, bound to a team. -/
def Launch.treesFor (l : Launch) (node : Nat) (team : List Nat) : List Tree :=
  (l.trees.filter (fun d => treeNode d == node)).map (bindTree l.id node team)

/-- The routers have room for the trees, the partition has no more than 64 (R1), and no other pass of the node has them. Log 129, DESIGN CHOICE: a node whose trees would be more than the
partition's 64 waits to be placed. Log 88, DESIGN CHOICE: passes of one node take its trees one after the other. -/
def State.treesFit (s : State) (l : Launch) (node : Nat) (team : List Nat) : Bool :=
  let new := (l.treesFor node team).flatMap (fun t => t.nodes.map (·.router))
  let old := s.trees.flatMap (fun t => t.nodes.map (·.router))
  (new.isEmpty || s.trees.all (fun t => !(t.launch == l.id && t.node == node)))
    && decide ((l.treesFor node team).length + (s.trees.filter (fun t => s.partOfLaunch t.launch == l.part)).length ≤ 64)
    && new.all (fun k => decide (new.count k + old.count k ≤ (if k < 40 then 256 else 1024)))

/-! ### Placement (R362, R363) -/

def insertNat (x : Nat) : List Nat → List Nat
  | [] => [x]
  | y :: r => if x ≤ y then x :: y :: r else y :: insertNat x r

def sortNat (l : List Nat) : List Nat := l.foldr insertNat []

/-- The core of an engine node (R357). -/
def State.unitCore (s : State) (l : Launch) (n : GNode) : Nat := (s.coresOf l.part).getD n.unit 0

/-- The logical accumulators that the request block of an attention node names. -/
def State.unitAccs (s : State) (l : Launch) (n : GNode) : List Nat :=
  if n.desc.toNat + 128 ≤ coreLimit then accSetOf (s.bytes (coreKey (s.unitCore l n) n.desc.toNat) 128) else []

/-- The contexts and the accumulators of a pass that can be placed now. -/
def State.placement (s : State) (l : Launch) (p : Pass) : Option (List Nat × List Nat) :=
  match l.nodeOf p with
  | none => none
  | some n =>
    if !l.started || l.ending || p.st != .ready then none
    else if n.kind = 0 then
      let seats := ((s.coresOf l.part).filterMap (fun k => s.seat k n.accn)).take n.team
      let team := if p.live.isEmpty then seats.map Prod.fst else sortNat p.live
      let accs := if p.live.isEmpty then seats.flatMap Prod.snd else p.accs
      if team.length = n.team && (barsOf n.barmask team).all (s.barrierFree p.uid) && s.groupsFree l && s.treesFit l p.node team then some (team, accs) else none
    else if !s.inService (s.unitCore l n / 4) then none
    else if n.kind = 4 then
      let need := (s.unitAccs l n).length
      let accs := sortNat (p.accs ++ s.freeAccs (s.unitCore l n))
      if need ≤ accs.length then some ([], accs.take need) else none
    else some ([], [])

/-- An operation that the graph engine issues for a pass. -/
def passOp (s : State) (l : Launch) (p : Pass) (core : Nat) (cmd : Cmd) (desc : List Byte) (denied : Option (Nat × Nat)) (grant : Word64) : EngOp where
  id := s.uid
  ticket := 0
  c := 640
  core := core
  launch := l.id
  node := p.node
  part := l.part
  grp := l.q / 64
  rank := 0
  iid := p.uid
  seq := 0
  blk := 0
  tag := 0
  widths := []
  idx := 0
  nodeNo := 0
  ancest := 0
  after := []
  cmd := cmd
  waited := true
  t0 := .none
  t1 := .none
  shapes := []
  desc := desc
  phase := 0
  row := 0
  drops := 0
  failmap := 0
  parked := false
  denied := denied
  attn := none
  data := []
  wrote := 0
  sent := 0
  failed := none
  at' := 0
  grant := grant

def Run.addOp (r : Run s0) (o : EngOp) : Run s0 := r.put (.ops (r.st.ops ++ [o]))

/-- The operand copies of a placed core node: one for each member cluster, all by the streamer of the rank 0 core (R363). -/
def Run.stageOperands (r : Run s0) (l : Launch) (p : Pass) (team : List Nat) (opnd : List Word64) : Run s0 :=
  let core := team.headD 0 / 4
  (opnd.filter (· != 0)).foldl (fun r va =>
    ((team.map (fun c => c / 16)).eraseDups).foldl (fun r k =>
      let mask := ((team.filter (fun c => c / 16 == k)).map (fun c => 2 ^ (c / 4 % 4))).sum
      let r := r.put .named
      r.addOp (passOp r.st l p core ⟨.copy, va.setWidth 512, .scalar, BitVec.ofNat 512 mask, .scalar, BitVec.ofNat 512 (k + 1)⟩ [] none 0)) r) r

/-- A pass is placed: READY to STAGE (R360, R363). -/
def Run.placePass (r : Run s0) (l : Launch) (p : Pass) (team accs : List Nat) : Run s0 :=
  let r := r.modPass l.id p.uid (fun p => { p with st := .stage, live := team, accs := accs, bars := barsOf (((l.nodeOf p).map (·.barmask)).getD 0) team })
  match l.nodeOf p with
  | none => r
  | some n =>
    if n.kind = 0 then (r.put (.trees (r.st.trees ++ l.treesFor p.node team))).stageOperands l p team n.opnd else r

/-! ### The ready pool (R361) -/

/-- Arithmetic clocks of 10 ms. -/
def tenMs : Nat := clocksOf 10000

/-- The READY passes of a launch in the order of service: nodes by the time they have waited, or by number when D = 1, then spawned passes in spawn order. -/
def Launch.ready (l : Launch) : List Pass :=
  let ps := l.work.filter (fun p => p.st == .ready)
  let spawned := fun (p : Pass) => (l.nodeOf p).any (fun n => n.spawn)
  let plain := ps.filter (fun p => !spawned p)
  (if recD l.rec' then (sortNat (plain.map (·.node))).flatMap (fun n => plain.filter (fun p => p.node == n)) else plain) ++ ps.filter spawned

/-- Effective priority. -/
def Launch.priority (l : Launch) (p : Pass) : Nat := min 3 (recPri l.rec' + p.boost)

/-- The READY passes of a queue at a priority, oldest launch first. -/
def State.queueReady (s : State) (part q pri : Nat) : List (Nat × Nat) :=
  ((s.launchesOf part).filter (fun l => l.q == q && !l.ending)).flatMap (fun l => (l.ready.filter (fun p => l.priority p == pri)).map (fun p => (l.id, p.uid)))

def State.launch? (s : State) (id : Nat) : Option Launch := s.launches.find? (fun l => l.id == id)

/-- A pass by its launch and number. -/
def State.pass? (s : State) (e : Nat × Nat) : Option (Launch × Pass) := (s.launch? e.1).bind (fun l => (l.pass e.2).map (fun p => (l, p)))

def State.placeable (s : State) (e : Nat × Nat) : Option (Launch × Pass × List Nat × List Nat) :=
  (s.pass? e).bind (fun x => (s.placement x.1 x.2).map (fun y => (x.1, x.2, y.1, y.2)))

/-- The cost of a pass. -/
def Launch.cost (l : Launch) (p : Pass) : Nat :=
  match l.nodeOf p with
  | some n => if n.kind = 0 then n.team else 1
  | none => 1

/-- One visit of a queue: passes that can be placed are, while its deficit covers them. -/
def Run.visitQueue (r : Run s0) (part q pri : Nat) : Run s0 :=
  let r := r.put (.drr q (SMap.get r.st.drr 0 q + 16))
  let (r, _) := (r.st.queueReady part q pri).foldl (fun (acc : Run s0 × Bool) e =>
    if acc.2 then acc
    else
      match acc.1.st.placeable e with
      | none => acc
      | some (l, p, team, accs) =>
        let have' := SMap.get acc.1.st.drr 0 q
        if have' < l.cost p then (acc.1, true)
        else (((acc.1.placePass l p team accs).put (.drr q (have' - l.cost p))).put (.lastQ part (q + 1)), false)) (r, false)
  if (r.st.queueReady part q pri).isEmpty then r.put (.drr q 0) else r

/-- The queues of a partition with READY passes at a priority, ascending from the one after the last served. -/
def State.queuesAt (s : State) (part pri : Nat) : List Nat :=
  let qs := sortNat (((s.launchesOf part).map (·.q)).eraseDups.filter (fun q => !(s.queueReady part q pri).isEmpty))
  let next := SMap.get s.lastQ 0 part
  qs.filter (fun q => decide (next ≤ q)) ++ qs.filter (fun q => decide (q < next))

/-- The highest priority at which a pass of the partition can be placed. -/
def State.servedAt (s : State) (part : Nat) : Option Nat :=
  [3, 2, 1, 0].find? (fun pri => (s.queuesAt part pri).any (fun q => (s.queueReady part q pri).any (fun e => (s.placeable e).isSome)))

/-! ### Reservation after 10 ms (R361) -/

/-- The pass has waited 10 ms and does not hold all it needs. -/
def State.reserves (s : State) (l : Launch) (p : Pass) : Bool :=
  l.started && !l.ending && p.st == .ready && decide (p.readyAt + tenMs ≤ s.clk)
    && (match l.nodeOf p with
      | some n => if n.kind = 0 then decide (p.live.length < n.team) || (barsOf n.barmask p.live).any (fun b => !p.bars.contains b) else n.kind == 4 && decide (p.accs.length < (s.unitAccs l n).length)
      | none => false)

/-- What has come free and the pass now reserves: contexts, accumulators, and the barriers of its clusters. -/
def State.reservation (s : State) (l : Launch) (p : Pass) : List Nat × List Nat × List Nat :=
  match l.nodeOf p with
  | none => ([], [], [])
  | some n =>
    if n.kind = 0 then
      let mine := p.live.map (fun c => c / 4)
      let seats := (((s.coresOf l.part).filter (fun k => !mine.contains k)).filterMap (fun k => s.seat k n.accn)).take (n.team - p.live.length)
      let cs := seats.map Prod.fst
      (cs, seats.flatMap Prod.snd, (barsOf n.barmask (p.live ++ cs)).filter (fun b => !p.bars.contains b && s.barrierFree p.uid b))
    else ([], (s.freeAccs (s.unitCore l n)).take ((s.unitAccs l n).length - p.accs.length), [])

/-- The passes of a partition that reserve, the longest waiting first. -/
def State.reserving (s : State) (part : Nat) : List (Nat × Nat) :=
  let es := (s.launchesOf part).flatMap (fun l => (l.work.filter (s.reserves l)).map (fun p => (p.readyAt, l.id, p.uid)))
  ((sortNat (es.map (·.1)).eraseDups).flatMap (fun t => es.filter (fun e => e.1 == t))).map (·.2)

def Run.reserveAll (r : Run s0) (part : Nat) : Run s0 :=
  (r.st.reserving part).foldl (fun r e =>
    match r.st.pass? e with
    | none => r
    | some (l, p) =>
      let (cs, accs, bars) := r.st.reservation l p
      if (cs, accs, bars) = ([], [], []) then r else r.modPass l.id p.uid (fun p => { p with live := p.live ++ cs, accs := p.accs ++ accs, bars := p.bars ++ bars })) r

/-! ### `NODE_PLACE` and `READY_PRIORITY_PROMOTE` (R361) -/

/-- A READY pass has waited another 10 ms. -/
def State.promotes (s : State) (l uid : Nat) : Bool :=
  (s.pass? (l, uid)).any (fun e => e.2.st == .ready && decide (e.2.boost < 3) && decide (e.2.readyAt + tenMs * (e.2.boost + 1) ≤ s.clk))

/-- `READY_PRIORITY_PROMOTE`. -/
def execReadyPriorityPromote (l node : Nat) (s : State) : Host.Outcome State Fault Refusal :=
  let r := Run.start s
  .next (if s.promotes l node then r.modPass l node (fun p => { p with boost := p.boost + 1 }) else r).st

/-- The ready pool of a partition can be served: a launch can start, a pass can be placed, or one that has waited can reserve what is free. -/
def State.places (s : State) (part : Nat) : Bool :=
  !s.partHeld part && (s.launchesOf part).all (fun l => l.work.all (fun p => !s.promotes l.id p.uid))
    && ((s.launchesOf part).any s.startable || (s.servedAt part).isSome || (s.reserving part).any (fun e =>
      (s.pass? e).any (fun x => s.reservation x.1 x.2 != ([], [], []))))

/-- `NODE_PLACE`: launches start, passes reserve, and one round of the deficit round-robin is served. Log 87, DESIGN CHOICE: the order in which passes are placed. -/
def execNodePlace (part : Nat) (s : State) : Host.Outcome State Fault Refusal :=
  let r := Run.start s
  if s.places part then
    let r := (r.startLaunches part).reserveAll part
    match r.st.servedAt part with
    | none => .next r.st
    | some pri => .next ((r.st.queuesAt part pri).foldl (fun r q => r.visitQueue part q pri) r).st
  else .next r.st

/-! ### `NODE_DISPATCH` (R363) -/

/-- Every staged copy of the pass has delivered `vis`. -/
def State.dispatches (s : State) (l uid : Nat) : Bool :=
  (s.pass? (l, uid)).any (fun e => e.2.st == .stage && !e.1.ending && !s.partHeld e.1.part && (s.passOps e.2).isEmpty)

/-- The barriers of a node are armed in the clusters of its team. -/
def Run.armBarriers (r : Run s0) (mask : Nat) (team : List Nat) : Run s0 :=
  ((team.map (fun c => c / 16)).eraseDups).foldl (fun r k =>
    ((List.range 32).filter (fun b => mask.testBit b)).foldl (fun r b =>
      r.put (.barrier (k * 32 + b) { r.st.barrierOf k b with armed := true, expect := (team.filter (fun c => c / 16 == k)).length, arrived := [], first := 0 })) r) r

/-- The key under which a launch shares a step group with other devices, or 0 (R299). -/
def Launch.gkeyOf (l : Launch) (sg : Nat) : Nat := (((l.regions.filter (fun g => g.sg == sg)).map (·.gkey)).find? (· != 0)).getD 0

/-- A step group of a launch as it was left, for its number to be configured again; what another launch left under the number is put on the shelf (R295). -/
def Run.unshelve (r : Run s0) (l : Launch) (sg : Nat) : Run s0 × StepGroup :=
  let key := groupKey l.part sg
  let old := r.st.group l.part sg
  if old.launch = l.id then (r, old)
  else
    let mine := fun (e : Nat × StepGroup) => e.1 == key && e.2.launch == l.id
    (r.put (.shelf (r.st.shelf.filter (fun e => !mine e) ++ (if old = StepGroup.reset then [] else [(key, old)]))),
      ((r.st.shelf.find? mine).map Prod.snd).getD StepGroup.reset)

/-- The step groups of a launch are configured for a core task (R295, R299). -/
def Run.configureGroups (r : Run s0) (l : Launch) (node team : Nat) : Run s0 :=
  ((l.regions.map (·.sg)).eraseDups).foldl (fun r sg =>
    let (r, g) := r.unshelve l sg
    let gkey := l.gkeyOf sg
    r.put (.group (groupKey l.part sg) { g with
      conf := true
      launch := l.id
      node := node
      members := List.range team
      arrived := []
      first := 0
      failed := false
      gkey := gkey
      base := if gkey = 0 then 0 else Config.rankBase r.st.devnum gkey
      seen := false
      remote := false })) r

/-- ACCMAP for logical accumulators and the physical ones they map to (R23). -/
def accmapOf (logical accs : List Nat) : Word64 :=
  BitVec.ofNat 64 ((logical.zip accs).map (fun e => 2 ^ e.1 + e.2 % 4 * 2 ^ (8 + 2 * e.1))).sum

/-- FAULTPTR of a rank (R371). -/
def faultptrOf (l : Launch) (node rank : Nat) : Nat := if recFaultArea l.rec' = 0 then 0 else recFaultArea l.rec' + 256 * windowIndex l node rank

/-- A member context takes its dispatch values and begins ENTRY (R21, R27, R363). -/
def Run.startMember (r : Run s0) (l : Launch) (p : Pass) (n : GNode) (rank c : Nat) : Run s0 :=
  let accs := p.accs.filter (fun a => a / 4 == c / 4)
  let r := accs.foldl (fun r a => r.modCore (c / 4) (fun k => (k.clearAcc (a % 4)).setPoison (a % 4) false)) r
  let d := recD l.rec'
  r.setCtx c { Ctx.reset with
    mode := .running
    launch := l.id
    node := p.node
    pass := p.uid
    rank := rank
    tsize := n.team
    part := l.part
    grp := l.q / 64
    detLaunch := d
    modeReg := if d then 1 else 0
    accmap := accmapOf (List.range n.accn) accs
    handler := r.st.htab l.part
    faultptr := BitVec.ofNat 64 (faultptrOf l p.node rank)
    next := some ⟨BitVec.ofNat 64 (recImage l.rec' + n.entry), .dispatch, 0, [], 0, [], 0, 255, none⟩ }

/-- A core node starts. -/
def Run.startTeam (r : Run s0) (l : Launch) (p : Pass) (n : GNode) : Run s0 :=
  let r := (r.armBarriers n.barmask p.live).configureGroups l p.node n.team
  (List.range p.live.length).foldl (fun r i => r.startMember l p n i (p.live.getD i 0)) r

/-- The bytes of a descriptor in the store of core UNIT, or the failing check (R359). -/
def unitDesc (s : State) (core va : Nat) : Except (Nat × Nat) (List Byte) :=
  if coreLimit < va + 128 then .error (0x08, 0x00)
  else if va % 64 ≠ 0 then .error (0x07, 0x00)
  else
    match s.poisonAt (coreKey core va) 128 with
    | some e => .error e
    | none => .ok (s.bytes (coreKey core va) 128)

/-- An engine node starts. Log 89, DEDUCED: copy nodes with MCMASK and staged operands. -/
def Run.startEngine (r : Run s0) (l : Launch) (p : Pass) (n : GNode) : Run s0 :=
  let core := r.st.unitCore l n
  let r := r.put .named
  let cmd := fun (k : CmdKind) => (⟨k, n.desc.setWidth 512, .scalar, 0, .scalar, 0⟩ : Cmd)
  let (d, bad) : List Byte × Option (Nat × Nat) := match unitDesc r.st core n.desc.toNat with
    | .ok d => (d, none)
    | .error e => ([], some e)
  match n.kind with
  | 1 => r.addOp (passOp r.st l p core (cmd .copy) [] none 0)
  | 2 => r.addOp (passOp r.st l p core (cmd .xform) [] none 0)
  | 3 => r.addOp (passOp r.st l p core (cmd (.gather (BitVec.ofNat 2 n.gmode))) d bad 0)
  | _ =>
    let o := passOp r.st l p core (cmd .attn) d bad (accmapOf (accSetOf d) p.accs)
    p.accs.foldl (fun r a => r.enqueue core (a % 4) (.attention o.id)) (r.addOp o)

/-- `NODE_DISPATCH`. -/
def execNodeDispatch (l node : Nat) (s : State) : Host.Outcome State Fault Refusal :=
  let r := Run.start s
  match s.dispatches l node, s.pass? (l, node) with
  | true, some (y, p) =>
    match y.nodeOf p with
    | none => .next r.st
    | some n =>
      let r := (r.modPass l node (fun p => { p with st := .run })).modLaunch l (fun y => { y with ndisp := y.ndisp + 1 })
      .next (if n.kind = 0 then r.startTeam y p n else r.startEngine y p n).st
  | _, _ => .next r.st

/-! ### `NODE_END` (R364, R365, R366, R368) -/

/-- The writes and the commands of a pass's contexts are done. Log 98, DESIGN CHOICE: the firmware's policy is a free choice. Log 105, DEDUCED: a node with an unfinished step does not end. -/
def State.quiet (s : State) (p : Pass) : Bool :=
  (s.passOps p).isEmpty && p.live.all (fun c => (s.ctx c).pend.isEmpty && s.ops.all (fun o => o.c != c))

/-- No packet is in flight in a tree of the pass's node (R348). -/
def State.treesQuiet (s : State) (l : Launch) (p : Pass) : Bool :=
  s.trees.all (fun t => !(t.launch == l.id && t.node == p.node) || t.failed || t.nodes.all (fun n => n.slots.all List.isEmpty))

/-- The pass has come to its end: no task of it waits for a swap that its last `step` asked for (R295), and its trees have delivered (R348). -/
def State.passEnds (s : State) (l : Launch) (p : Pass) : Bool :=
  s.quiet p && (match p.st with
    | .run => s.treesQuiet l p && p.live.all (fun c => (s.ctx c).mode == .ended && !(SMap.keys s.escalated).contains c && (s.ctx c).arrivals.all (fun a => a.1 != 0))
    | .failed => p.live.all (fun c => (s.ctx c).mode == .free)
    | .stage => l.ending
    | _ => false)

/-- The launch has come to its end. -/
def State.launchEnds (s : State) (l : Launch) : Bool :=
  !l.parked && l.work.all (fun p => p.st == .ready) && s.ops.all (fun o => o.launch != l.id)
    && (l.ending || (l.accepted && l.started && l.spawns == 0 && l.nodes.all (fun n => n.spawn || !n.succs.isEmpty || n.st == .done)))

/-- What a pass held goes free: contexts, accumulators, barriers, step groups, trees. -/
def Run.releasePass (r : Run s0) (l : Launch) (p : Pass) : Run s0 :=
  let mask := ((l.nodeOf p).map (·.barmask)).getD 0
  let r := if p.st = .stage then r else
    ((p.live.map (fun c => c / 16)).eraseDups).foldl (fun r k => ((List.range 32).filter (fun b => mask.testBit b)).foldl (fun r b =>
      r.put (.barrier (k * 32 + b) { r.st.barrierOf k b with armed := false, expect := 0, arrived := [], first := 0 })) r) r
  let r := if p.st = .stage then r else (SMap.keys r.st.groups).foldl (fun r k =>
    let g := SMap.get r.st.groups StepGroup.reset k
    if g.conf ∧ g.launch = l.id ∧ g.node = p.node then r.put (.group k { g with conf := false, members := [], arrived := [], first := 0, failed := false, seen := false, remote := false }) else r) r
  let r := r.put (.trees (r.st.trees.filter (fun t => !(t.launch == l.id && t.node == p.node))))
  let r := if p.st = .stage then r else p.live.foldl (fun r c => r.setCtx c Ctx.reset) r
  r.modLaunch l.id (fun y => { y with work := y.work.filter (fun e => e.uid != p.uid) })

/-- A counter falls; at 0 the node is READY (R360, R364). -/
def Run.countDown (r : Run s0) (id n : Nat) : Run s0 :=
  let r := r.modLaunch id (fun l => { l with nodes := l.nodes.mapIdx (fun i x => if i = n then { x with dep := x.dep - 1 } else x) })
  match (r.st.launch? id).bind (fun l => l.nodes[n]?) with
  | none => r
  | some x =>
    if x.dep = 0 ∧ x.st = .wait then
      let r := r.put .named
      r.modLaunch id (fun l => { l with
        nodes := l.nodes.mapIdx (fun i y => if i = n then { y with st := .ready } else y)
        work := l.work ++ [⟨r.st.uid, n, .ready, r.st.clk, 0, [], [], []⟩] })
    else r

/-- A pass ends: the node is DONE, and its successors' counters fall in list order. Log 132, DESIGN CHOICE: the end-of-stream token at a task's sinks has no receiver and is no state. -/
def Run.endPass (r : Run s0) (l : Launch) (p : Pass) : Run s0 :=
  let r := r.releasePass l p
  match l.nodeOf p with
  | none => r
  | some n =>
    if n.spawn then r.modLaunch l.id (fun y => { y with spawns := y.spawns - 1 })
    else if p.st = .run then
      let r := r.modLaunch l.id (fun y => { y with nodes := y.nodes.mapIdx (fun i x => if i = p.node ∧ x.st = .ready then { x with st := .done } else x) })
      n.succs.foldl (fun r m => r.countDown l.id m) r
    else r

/-- `NODE_END`: a pass of a launch ends, or with no pass of that number the launch itself. -/
def execNodeEnd (l node : Nat) (s : State) : Host.Outcome State Fault Refusal :=
  let r := Run.start s
  match s.launch? l with
  | none => .next r.st
  | some y =>
    match y.pass node with
    | some p => .next (if s.passEnds y p then r.endPass y p else r).st
    | none => .next (if s.launchEnds y then r.completeLaunch y else r).st

end Sys2Proof.Machine
end

