-- ==== Sys2Proof/Machine/System.lean ====
section
/-! DEFINITION. System instructions (R27, R28, R378, R393). -/

namespace Sys2Proof.Machine

open Sys2Proof

variable {s0 : State}

/-- `nop`. -/
def execNop (g : Gate) (t0 : Target) (s : State) : Host.Outcome State Fault Refusal := fireNode (.nop g t0) (fun _ => NodeOut.of (control true)) s

/-- `trap`: the software-trap fault, async at the commit. -/
def execTrap (g : Gate) (c : BitVec 8) (t0 : Target) (s : State) : Host.Outcome State Fault Refusal :=
  fireNode (.trap g c t0) (fun _ => { NodeOut.of (control true) with effs := [.trap 0x16 c.toNat] }) s

/-- `brk`: the breakpoint fault, async at the commit. -/
def execBrk (g : Gate) (c : BitVec 8) (t0 : Target) (s : State) : Host.Outcome State Fault Refusal :=
  fireNode (.brk g c t0) (fun _ => { NodeOut.of (control true) with effs := [.trap 0x17 c.toNat] }) s

/-- `rdsr`: the register as R64 gives it. -/
def execRdsr (g : Gate) (r : SysReg) (t0 : Target) (s : State) : Host.Outcome State Fault Refusal :=
  fireNode (.rdsr g r t0) (fun f => NodeOut.of (scalar (readSys s f.c f.x f.b.det r))) s

/-- `wrsr`: a read-only register raises the illegal-instruction fault (R27). Log 103, DEDUCED: wrsr to a read-only register faults when it fires. -/
def execWrsr (g : Gate) (r : SysReg) (s : State) : Host.Outcome State Fault Refusal :=
  fireNode (.wrsr g r) (fun f => if SysReg.writable r then { effs := [.wrsr r f.a.word], outs := 1 } else f.fault 0x01 0x01) s

/-- `flags`: FLAGS as older runs leave it; the bits of the mask are cleared at the commit. -/
def execFlags (g : Gate) (m : BitVec 7) (t0 : Target) (s : State) : Host.Outcome State Fault Refusal :=
  fireNode (.flags g m t0) (fun f => { NodeOut.of (scalar f.x.flags) with effs := [.flagsClear m] }) s

/-- The DCB offset of the counter that PERFSEL selects (R393). Log 32, DESIGN CHOICE: counters of timed sources read as free values. -/
def perfCounter (c index : Nat) : Option Nat :=
  if index < 16 then some (coreCounter (c / 4 % 40) index) else if index < 48 then some (dieCounter (index - 16)) else none

/-- A counter as it reads: one that counts clocks or waits has a value the spec leaves to timing. -/
def Run.readCounter (r : Run s0) (die off : Nat) : Run s0 × Word64 :=
  if timedSource ((r.st.dcbAt die (off + 8)).toNat % 256) then (r.chose, Config.freeWord r.choice &&& 0x8000FFFFFFFFFFFF) else (r, r.st.dcbAt die off)

/-- `perf` (R378, R393). -/
def execPerf (g : Gate) (t0 : Target) (s : State) : Host.Outcome State Fault Refusal :=
  fireWith (.perf g t0) (fun r f =>
    match perfCounter f.c (f.x.perfsel.toNat % 64) with
    | none => (r, NodeOut.of (scalar 0))
    | some off =>
      let (r, v) := r.readCounter (f.c / 160) off
      (r, NodeOut.of (scalar v))) s

/-- `safe`: the commit of its run ends at a safe point (R380). -/
def execSafe (g : Gate) (t0 : Target) (s : State) : Host.Outcome State Fault Refusal :=
  fireNode (.safe g t0) (fun _ => { NodeOut.of (control true) with effs := [.safe] }) s

/-- `fixreq`: a fix of the partition at the commit (R390). -/
def execFixreq (g : Gate) (t0 : Target) (s : State) : Host.Outcome State Fault Refusal :=
  fireNode (.fixreq g t0) (fun _ => { NodeOut.of (control true) with effs := [.fixreq] }) s

end Sys2Proof.Machine
end

