-- ==== Sys2Proof/Machine/Host.lean ====
section
/-! DEFINITION. What reaches the package from outside and from its firmware: the registers (R395), partitions (R288, R399, R400), the host's windows (R394 to R396), peer
accesses (R402, R403), dispositions of escalated faults (R377, R399), the fix (R390), counter thresholds (R391), recovery and attestation (R406 to R409), bring-up,
power and heat (R410, R411). -/

namespace Sys2Proof.Machine

open Sys2Proof

variable {s0 : State}

/-! ### Registers without behaviour of their own (R395) -/

/-- A nonzero value clamped to a range (R395). -/
def clampTo (lo hi v : Nat) : Nat := if v = 0 then 0 else max lo (min hi v)

/-- What a register keeps of a written value; `none` for an offset that is not listed, or whose write has behaviour of its own. -/
def kept (die off v : Nat) : Option Nat :=
  if off < 0x080000 then (if off % 0x20 = 0 then some (bitsOf v 8 48 * 256) else none)
  else if off % 8 ≠ 0 then none
  else if off < 0x080800 then some (bitsOf v 48 16 * 2 ^ 48 + bitsOf v 20 20 * 2 ^ 20 + v % 2)
  else if off = 0x081000 then some (bitsOf v 12 44 * 4096)
  else if off = 0x081008 then (if v % 2 = 0 then some (bitsOf v 48 16 * 2 ^ 48 + bitsOf v 8 2 * 256 + bitsOf v 1 2 * 2) else none)
  else if 0x081100 ≤ off ∧ off < 0x081240 then some (clampTo 10 1000000 (v % 2 ^ 32))
  else if 0x081600 ≤ off ∧ off < 0x081740 then some (clampTo 10 1000000 (v % 2 ^ 32))
  else if 0x081A00 ≤ off ∧ off < 0x081B40 then some (clampTo 1 100000 (v % 2 ^ 32))
  else if 0x081E00 ≤ off ∧ off < 0x081F40 then some (bitsOf v 6 50 * 64)
  else if 0x082000 ≤ off ∧ off < 0x082200 then
    (match off % 0x20 with
    | 8 => some (bitsOf v 12 44 * 4096)
    | 16 => some (bitsOf v 48 16 * 2 ^ 48 + bitsOf v 12 29 * 4096)
    | _ => none)
  else if off = 0x082510 then (if die = 0 then some (v % 8192) else none)
  else if off = 0x082518 then (if die = 0 then some (v % 4096) else none)
  else if 0x082F00 ≤ off ∧ off < 0x083040 then some (v / 2 ^ 63 % 2 * 2 ^ 63 + bitsOf v 12 44 * 4096)
  else if (0x090000 ≤ off ∧ off < 0x095000) ∨ (0x098000 ≤ off ∧ off < 0x098400) then
    (match off % 0x20 with
    | 0 => some (v / 2 ^ 63 % 2 * 2 ^ 63 + v % 2 ^ 48)
    | 8 => some (bitsOf v 30 2 * 2 ^ 30 + bitsOf v 12 11 * 4096 + v % 256)
    | 16 => some (v % 2 ^ 48)
    | _ => none)
  else if 0x0A0000 ≤ off ∧ off < 0x0B0000 then (if die = 0 then some (v / 2 ^ 63 % 2 * 2 ^ 63 + v % 16) else none)
  else if 0x0B0000 ≤ off ∧ off < 0x0B1000 then
    (if die = 0 then some (if off % 16 = 0 then bitsOf v 32 16 * 2 ^ 32 + bitsOf v 24 4 * 2 ^ 24 + bitsOf v 16 8 * 2 ^ 16 + v % 8192 else 0) else none)
  else none

/-- An escalation of a context of the partition is to be settled by an FDISP write in a die: it holds the context stopped, or its record is with the host (R377, R399). -/
def State.disposable (s : State) (die part c : Nat) : Bool :=
  let x := s.ctx c
  decide (c / 160 = die) && x.part == part && (x.mode == .stopped || (x.mode == .ended && s.withHost.contains c)) && (SMap.keys s.escalated).contains c

/-- The mark of a counter after a write of EVCNT or EVTHR. -/
def Run.remark (r : Run s0) (die off : Nat) : Run s0 :=
  if off < 0x090000 ∨ 0x0A0000 ≤ off then r
  else
    let base := off / 0x20 * 0x20
    let past := decide ((r.st.dcbAt die (base + 16)).toNat ≤ (r.st.dcbAt die base).toNat % 2 ^ 48)
    let mark := (r.st.dcbAt die (markOff off)).toNat
    if off % 0x20 = 16 then r.setDcb die (markOff off) (if past then 2 else 0)
    else if off % 0x20 = 0 ∧ mark = 2 ∧ past = false then r.setDcb die (markOff off) 0
    else r

/-- The writable registers of the MSG window (R409): what they keep. -/
def msgKept (off v : Nat) : Option Nat :=
  if off = 8 then some (bitsOf v 12 45 * 4096)
  else if off = 16 then some v
  else if 0x100 ≤ off ∧ off < 0x130 ∧ off % 8 = 0 then some v
  else none

/-- A write of a register. `die` 4 stands for the MSG window, which is all that the device serves in recovery (R406). CMPCTL, FIXCTL, PRECTL, FDISP and FWDOLD keep their
plain fields; what a write of them starts is an event of its own. -/
def Run.writeReg (r : Run s0) (die off : Nat) (v : Word64) : Run s0 :=
  let n := v.toNat
  if die = 4 then
    match msgKept off n with
    | some x => r.put (.msgWin off (BitVec.ofNat 64 x))
    | none => r
  else if 4 < die ∨ r.st.inFirmware = true then r
  else
    let old := (r.st.dcbAt die off).toNat
    match kept die off n with
    | some x => (r.setDcb die off (BitVec.ofNat 64 x)).remark die off
    | none =>
      if off = 0x082400 then
        let r := r.setDcb die off (BitVec.ofNat 64 (bitsOf n 4 36 * 16 + bitsOf old 2 1 * 4 + n % 2))
        if n.testBit 1 then r.relearn die else r
      else if off = 0x082500 ∧ die = 0 ∧ n &&& 0xD = 0 then
        r.setDcb die off (BitVec.ofNat 64 (bitsOf n 12 45 * 4096 + bitsOf n 10 1 * 1024 + bitsOf n 4 6 * 16 + bitsOf old 1 1 * 2))
      else if 0x081800 ≤ off ∧ off < 0x081940 ∧ off % 8 = 0 ∧ n.testBit 1 = false ∧ old.testBit 1 = false then
        r.setDcb die off (BitVec.ofNat 64 (bitsOf n 12 44 * 4096 + bitsOf n 8 2 * 256 + bitsOf old 2 2 * 4))
      else if 0x081C00 ≤ off ∧ off < 0x081D40 ∧ off % 8 = 0 ∧ n.testBit 17 = false ∧ r.st.disposable die ((off - 0x081C00) / 8) (4 * bitsOf n 8 8 + n % 4) = true then
        r.setDcb die off (BitVec.ofNat 64 (bitsOf n 16 1 * 2 ^ 16 + bitsOf n 8 8 * 256 + n % 4))
      else if 0x082000 ≤ off ∧ off < 0x082200 ∧ off % 0x20 = 0 ∧ (n / 2 ^ 63 % 2 = 0 ∨ bitsOf n 60 1 = 0) then
        let m := (off - 0x082000) / 0x20
        let f : Forward := { r.st.fwd die m with en := n / 2 ^ 63 % 2 == 1, st := 0, mover := bitsOf n 60 1 == 1, old := bitsOf n 12 44 * 4096, log2 := n % 64 }
        if f.en && Forward.refused r.st die m f then r else (r.dropMover die m).setDcb die off f.word
      else r

/-- `REG_WRITE` (R395). -/
def execRegWrite (die off : Nat) (v : Word64) (s : State) : Host.Outcome State Fault Refusal := .next ((Run.start s).writeReg die off v).st

/-! ### Reading registers (R395, R316, R409) -/

/-- A pending-translation table entry as it reads. -/
def parkBytes (s : State) (die e : Nat) : List Byte :=
  let p := s.park die e
  if p.live then
    leBytes 8 p.va ++ leBytes 2 p.asid ++ leBytes 1 p.kinds.toNat ++ leBytes 1 1 ++ leBytes 4 p.ws.length ++ leBytes 4 ((s.clk - p.since) / clocksOf 1) ++ leBytes 1 p.part
      ++ List.replicate 11 0
  else List.replicate 32 0

/-- The offset is one that R395 lists for the die. -/
def listed (die off : Nat) : Bool :=
  off % 8 == 0 && (decide (off < 0x080800) || [0x081000, 0x081008, 0x081010].contains off
    || [0x081100, 0x081400, 0x081600, 0x081800, 0x081A00, 0x081C00, 0x081E00, 0x082F00].any (fun b => decide (b ≤ off ∧ off < b + 0x140))
    || (decide (0x082000 ≤ off ∧ off < 0x082200) && off % 0x20 != 0x18) || decide (0x082400 ≤ off ∧ off < 0x082430)
    || (die == 0 && [0x082500, 0x082508, 0x082510, 0x082518].contains off) || decide (0x082600 ≤ off ∧ off < 0x082650) || decide (0x082700 ≤ off ∧ off < 0x082F00)
    || decide (0x084000 ≤ off ∧ off < 0x088000)
    || (off % 0x20 != 0x18 && (decide (0x090000 ≤ off ∧ off < 0x095000) || decide (0x098000 ≤ off ∧ off < 0x098400)))
    || (die == 0 && (decide (0x0A0000 ≤ off ∧ off < 0x0B1000))))

/-- A register as it reads: defaults for the timeouts, the power cap in its range, live counts, pending translations. -/
def Run.readReg (r : Run s0) (die off : Nat) : Run s0 × Word64 :=
  let s := r.st
  let w := (s.dcbAt die off).toNat
  let p := fun (base : Nat) => (off - base) / 8
  let inside := fun (base : Nat) => decide (base ≤ off ∧ off < base + 0x140)
  if !listed die off then (r, 0)
  else if inside 0x081100 then (r, BitVec.ofNat 64 (s.parktmo die (p 0x081100)))
  else if inside 0x081600 then (r, BitVec.ofNat 64 (if w = 0 then 10000 else w))
  else if inside 0x081A00 then (r, BitVec.ofNat 64 (if w = 0 then 100 else w))
  else if 0x082600 ≤ off ∧ off < 0x082650 then (r, BitVec.ofNat 64 (if bitsOf w 16 8 = 0 then w + 2 ^ 16 else w))
  else if off = 0x082518 then (r, BitVec.ofNat 64 (if w = 0 ∨ 2800 < w then 2800 else max 500 w))
  else if 0x082410 ≤ off ∧ off < 0x082430 then (r, BitVec.ofNat 64 (s.liveLines die ((off - 0x082410) / 8)))
  else if 0x084000 ≤ off ∧ off < 0x088000 then
    (r, BitVec.ofNat 64 (fieldAt (parkBytes s die ((off - 0x084000) / 32)) (off % 32) 8))
  else if 0x090000 ≤ off ∧ off < 0x0A0000 ∧ off % 0x20 = 0 then r.readCounter die off
  else (r, s.dcbAt die off)

/-- The MSG window as it reads (R409). -/
def msgRead (s : State) (off : Nat) : Word64 :=
  if off = 0x000 ∨ off = 0x008 ∨ off = 0x010 ∨ (0x200 ≤ off ∧ off < 0x300) then SMap.get s.msgWin 0 off
  else if 0x400 ≤ off ∧ off < 0xC00 then BitVec.ofNat 64 (fieldAt (Config.certificate.take 2048 ++ List.replicate 2048 0) (off - 0x400) 8)
  else if off = 0xC00 then BitVec.ofNat 64 (min 2048 Config.certificate.length)
  else 0

/-! ### The host's windows (R394, R396) -/

/-- Bytes of a die's main memory (R289). -/
def populatedSize : Nat := 192000000000

/-- The physical address is populated (R289). -/
def populated (pa : Nat) : Bool := decide (pa < 2 ^ 40) && decide (pa % 2 ^ 38 < populatedSize)

/-- `HOST_MEM_READ`: 8 bytes of MEM at an address below 2^40; of DCB from 2^40 on, and of MSG from 2^40 + 2^23 on. What it gives goes to `State.hostReads`. -/
def execHostMemRead (pa : Nat) (s : State) : Host.Outcome State Fault Refusal :=
  let r := Run.start s
  let (r, v) : Run s × Word64 :=
    if pa < 2 ^ 40 then
      (r, if s.inFirmware then 0 else BitVec.ofNat 64 (leNat ((List.range 8).map (fun i => if populated (pa + i) then s.byte (mainKey (pa + i)) else 0))))
    else if pa < 2 ^ 40 + 2 ^ 23 then (if s.inFirmware then (r, 0) else r.readReg ((pa - 2 ^ 40) / 2 ^ 21) ((pa - 2 ^ 40) % 2 ^ 21))
    else (r, msgRead s (pa - 2 ^ 40 - 2 ^ 23))
  .next (r.put (.hostReads (r.st.hostReads ++ [(pa, v)]))).st

/-- A host write reaches the frames of its bytes: a grant is withdrawn (R88), and a free frame is the host's from now on (R320). Log 92, DESIGN CHOICE: corners of the partition registers and of MEM writes. -/
def Run.hostTouches (r : Run s0) (pa n : Nat) : Run s0 :=
  (List.range ((pa + n - 1) / 4096 + 1 - pa / 4096)).foldl (fun r i =>
    let f := pa / 4096 + i
    let x := r.st.frameOf f
    r.put (.frame f { x with st := if x.st = 0 then 3 else x.st, vx := false, vd := false })) r

/-- The part from `lo` up to `hi` of a host write at `pa`. -/
def Run.hostPart (r : Run s0) (pa : Nat) (bytes : List Byte) (lo hi : Nat) : Run s0 :=
  if lo < hi then
    (((r.write (mainKey lo) ((bytes.drop (lo - pa)).take (hi - lo))).codeLines false (mainKey lo) (hi - lo)).hostTouches lo (hi - lo))
  else r

/-- `HOST_MEM_WRITE`: `own` is a store of the host processor to its own memory; else a write through the MEM window, of which unpopulated bytes are dropped. -/
def execHostMemWrite (own : Bool) (pa : Nat) (bytes : List Byte) (s : State) : Host.Outcome State Fault Refusal :=
  let r := Run.start s
  if bytes.isEmpty then .next r.st
  else if own then .next (if pa + bytes.length ≤ 2 ^ 57 then r.write (hostKey pa) bytes else r).st
  else if s.inFirmware then .next r.st
  else .next ((List.range 4).foldl (fun r d => r.hostPart pa bytes (max pa (d * 2 ^ 38)) (min (pa + bytes.length) (d * 2 ^ 38 + populatedSize))) r).st

/-! ### Scrubs (R287, R400) -/

/-- The context that a waiter belongs to. -/
def waiterCtx : Waiter → Option Nat
  | .node c _ _ | .pend c _ | .fetch c | .helm c | .drive c => some c
  | _ => none

/-- A cluster scrubbed (R400 step 2). -/
def Run.scrubCluster (r : Run s0) (k : Nat) : Run s0 :=
  let gone := r.st.ops.filter (fun o => o.core / 4 == k)
  let inStores := fun (key : Nat) => (decide (key < clusKey 0 0) && key / 2 ^ 22 / 4 == k) || decide (clusKey k 0 ≤ key ∧ key < clusKey (k + 1) 0)
  let r := r.purge (fun w => (waiterCtx w).any (fun c => c / 16 == k) || gone.any (fun o => w == .op o.id))
  let r := r.put (.ops (r.st.ops.filter (fun o => o.core / 4 != k)))
  let r := r.put (.readers (r.st.readers.filter (fun e => e.c / 16 != k && !inStores (16 * e.granule))))
  let r := r.put (.claims (r.st.claims.filter (fun e => !inStores (16 * e.1))))
  let r := (List.range 16).foldl (fun r i => r.setCtx (16 * k + i) Ctx.reset) r
  let r := (List.range 4).foldl (fun r i => (r.put (.core (4 * k + i) Core.reset)).put (.clear (coreKey (4 * k + i) 0) (coreKey (4 * k + i + 1) 0))) r
  let r := r.put (.clear (clusKey k 0) (clusKey (k + 1) 0))
  let r := r.put (.escalated (r.st.escalated.filter (fun e => !(decide (e.1 % 4096 < 2048 ∧ e.1 % 1024 < 640) && e.1 % 1024 / 16 == k))))
  let r := r.put (.withHost (r.st.withHost.filter (fun c => c / 16 != k)))
  (List.range 32).foldl (fun r b => r.put (.barrier (32 * k + b) Barrier.reset)) r

/-- The die-store slices of a partition are zeroed and its windows cleared (R400 step 3). -/
def Run.clearWindows (r : Run s0) (part : Nat) : Run s0 :=
  (List.range 4).foldl (fun r d =>
    let w := r.st.window d part
    ((r.put (.clear (dieKey d w.1) (dieKey d w.2))).put (.readers (r.st.readers.filter (fun e => !decide (dieKey d w.1 ≤ 16 * e.granule ∧ 16 * e.granule < dieKey d w.2))))).setDcb
      d (0x081400 + 8 * part) 0) r

/-- The frames in use by a partition are zeroed and freed (R400 step 4). -/
def Run.freeFramesOf (r : Run s0) (part : Nat) : Run s0 :=
  (SMap.keys r.st.frames).foldl (fun r f =>
    let x := r.st.frameOf f
    if x.st = 1 ∧ x.part.toNat = part then r.freeFrame f else r) r

/-! ### Partitions (R288, R399, R400) -/

/-- QGPART of a group written. -/
def Run.setGroupPart (r : Run s0) (g : Nat) (w : Nat) : Run s0 := r.setDcb (g / 256) (0x082700 + 8 * (g % 256)) (BitVec.ofNat 64 w)

/-- Every queue of a group goes to state 0. -/
def Run.disableGroup (r : Run s0) (g : Nat) : Run s0 := (List.range 64).foldl (fun r i => if r.st.queueReg (64 * g + i) 1 = 0 then r else r.disableQueue (64 * g + i)) r

/-- A launch of the partition has been read and is not complete. -/
def State.busyPart (s : State) (part : Nat) : Bool := s.launches.any (fun l => s.groupPart (l.q / 64) == some part)

/-- A reassignment of a cluster from its old partition (R400). -/
def Run.reassign (r : Run s0) (k : Nat) (old : Option Nat) : Run s0 :=
  let r := match old with
    | none => r
    | some p =>
      if (r.st.clustersOf p).isEmpty then
        (List.range 1024).foldl (fun r g =>
          if r.st.groupPart g = some p then (r.setGroupPart g ((r.st.dcbAt (g / 256) (0x082700 + 8 * (g % 256))).toNat % 64)).disableGroup g else r) r
      else r
  let r := r.scrubCluster k
  match old with
  | none => r
  | some p =>
    let r := r.clearWindows p
    if (r.st.clustersOf p).isEmpty then r.freeFramesOf p else r

/-- `PARTCL_WRITE` (R399, R400). -/
def execPartclWrite (die k : Nat) (v : Word64) (s : State) : Host.Outcome State Fault Refusal :=
  let r := Run.start s
  let c := 10 * die + k
  let w := v.toNat
  let old := (s.partcl c).toNat
  let new := bitsOf w 16 8 * 2 ^ 16 + bitsOf w 8 2 * 256 + w % 64
  let moves := bitsOf new 8 1 != bitsOf old 8 1 || new % 64 != old % 64
  if 4 ≤ die ∨ 10 ≤ k ∨ 40 ≤ w % 64 ∨ s.inFirmware = true then .next r.st
  else if moves && ((s.partOf c).any s.busyPart || (old.testBit 9 && new.testBit 8)) then .next r.st
  else
    let r := r.setDcb die (0x082600 + 8 * k) (BitVec.ofNat 64 new)
    .next (if moves then r.reassign c (s.partOf c) else r).st

/-- `QGPART_WRITE` (R400). -/
def execQgpartWrite (q : Nat) (v : Word64) (s : State) : Host.Outcome State Fault Refusal :=
  let r := Run.start s
  let new := v.toNat &&& 0x13F
  let old := (s.dcbAt (q / 256) (0x082700 + 8 * (q % 256))).toNat
  if 1024 ≤ q ∨ 40 ≤ new % 64 ∨ new = old ∨ s.launches.any (fun l => l.q / 64 == q) = true ∨ s.inFirmware = true then .next r.st
  else .next ((r.disableGroup q).setGroupPart q new).st

/-- `DSWIN_WRITE` (R288): refused past slice 45, or when a slice would lie in two windows. -/
def execDswinWrite (die part : Nat) (v : Word64) (s : State) : Host.Outcome State Fault Refusal :=
  let r := Run.start s
  let b := v.toNat % 64
  let n := bitsOf v.toNat 8 6
  let hits := fun (p : Nat) => p != part && (let w := (s.dcbAt die (0x081400 + 8 * p)).toNat; decide (b < w % 64 + bitsOf w 8 6 ∧ w % 64 < b + n) && n != 0 && bitsOf w 8 6 != 0)
  if 4 ≤ die ∨ 40 ≤ part ∨ 45 < b ∨ 46 < b + n ∨ (List.range 40).any hits = true ∨ s.inFirmware = true then .next r.st
  else .next (r.setDcb die (0x081400 + 8 * part) (BitVec.ofNat 64 (n * 256 + b))).st

/-! ### Dispositions of escalated faults (R377, R399) -/

/-- The stopped context goes on at its latch; a handler keeps what it returns to. -/
def Run.resumeStopped (r : Run s0) (c : Nat) : Run s0 :=
  let r := r.settleFault c
  let x := r.st.ctx c
  if x.mode = .stopped then
    let ends := x.resume = .endOfTask
    let r := r.modCtx c (fun x => { x.resumeLatch with mode := .running, pendAt := r.st.clk, resume := x.under, under := .none })
    if ends then r.endTask c
    else
      match (r.st.ctx c).drive with
      | some d => r.go c d
      | none => r
  else r

/-- The task fails with the class and code of its escalated fault, which makes the node FAILED (R368). -/
def Run.failStopped (r : Run s0) (c : Nat) : Run s0 :=
  let f := SMap.get r.st.escalated (FaultRec.of 0 0) c
  let x := r.st.ctx c
  (r.settleFault c).failNode x.launch x.node f.cls f.code

/-- `FIRMWARE_POLICY_RESUME` (R377): the firmware settles an escalated fault itself. -/
def execFirmwarePolicyResume (c : Nat) (resume : Bool) (s : State) : Host.Outcome State Fault Refusal :=
  let r := Run.start s
  if (SMap.keys s.escalated).contains c ∧ c < 640 then .next (if resume then r.resumeStopped c else r.failStopped c).st else .next r.st

/-- What goes to the host with an escalated record: the record, its operand record, the full list of missing ranks where MAPHI is set (R370), and the record of the helm's own
failing access (R371). Log 136, DESIGN CHOICE: how these follow one another. -/
def escalatedBytes (f : FaultRec) (also : Option FaultRec) : List Byte :=
  f.bytes 0 ++ f.oprec.take 192 ++ (if f.rflags / rfMapHi % 2 = 1 then f.miss.flatMap (fun k => leBytes 4 k) else []) ++ ((also.map (fun g => g.bytes 0)).getD [])

/-- The firmware passes the record of a context to host software, with the vector of its launch; the context stays stopped until an FDISP write (R377). -/
def execPassToHost (c : Nat) (s : State) : Host.Outcome State Fault Refusal :=
  let x := s.ctx c
  if (SMap.keys s.escalated).contains c ∧ (x.mode = .stopped ∨ x.mode = .ended) ∧ s.withHost.contains c = false then
    let vec := ((s.launch? x.launch).map (fun l => recMsgVec l.rec')).getD 0
    let body := escalatedBytes (SMap.get s.escalated (FaultRec.of 0 0) c) ((s.escalated.find? (fun e => e.1 == alsoKey c)).map Prod.snd)
    .next (((Run.start s).put (.messages (s.messages ++ [⟨vec, x.launch, (ctxidWord s c x).toNat, body⟩]))).put (.withHost (c :: s.withHost))).st
  else .next s

/-- `FDISP_WRITE` (R399): with GO, the disposition of a context that an escalation holds stopped. A write that names another context is ignored. -/
def execFdispWrite (die part : Nat) (v : Word64) (s : State) : Host.Outcome State Fault Refusal :=
  let w := v.toNat
  let core := bitsOf w 8 8
  let c := 4 * core + w % 4
  if 4 ≤ die ∨ 40 ≤ part ∨ s.inFirmware = true ∨ s.disposable die part c = false then .next s
  else
    let r := (Run.start s).setDcb die (0x081C00 + 8 * part) (BitVec.ofNat 64 (bitsOf w 16 1 * 2 ^ 16 + core * 256 + w % 4))
    if w.testBit 17 then .next (if w.testBit 16 then r.resumeStopped c else r.failStopped c).st else .next r.st

/-! ### Peer accesses (R402, R403) -/

/-- The peer-access entry that admits a source pair: its flags and its queue group. -/
def peerEntry (s : State) (dev part : Nat) : Option (Nat × Nat) :=
  (List.range 256).findSome? (fun e =>
    let w := (s.dcbAt 0 (0x0B0000 + 16 * e)).toNat
    if bitsOf w 24 1 = 1 ∧ w % 8192 = dev ∧ bitsOf w 16 8 = part then some (bitsOf w 24 4, bitsOf w 32 10) else none)

def Run.reply (r : Run s0) (a : PeerReq) (bytes : List Byte) (cls code : Nat) : Run s0 :=
  r.put (.replies (r.st.replies ++ [⟨a.srcDev, a.srcPart, a.va.toNat, bytes, cls, code⟩]))

/-- The access waits on a parked page. -/
def Run.parkPeer (r : Run s0) (a : PeerReq) (p : Agent) (va : Nat) (kind : BitVec 5) : Run s0 :=
  let r := r.put .named
  let id := r.st.uid
  match r.parkOn p.die p.grp va p.part kind (.peer id) with
  | some r => r.put (.peers (r.st.peers ++ [⟨id, a, true⟩]))
  | none => r.put (.peers (r.st.peers ++ [⟨id, a, false⟩]))

/-- An access of a peer performed here, or turned away. Log 97, DEDUCED: which die translates a peer access. -/
def Run.peerAccess (r : Run s0) (a : PeerReq) : Run s0 :=
  match peerEntry r.st a.srcDev a.srcPart with
  | none => r.reply a [] 0x09 0x05
  | some (flags, grp) =>
    let p : Agent := ⟨641, grp / 256 * 40, (r.st.groupPart grp).getD 0, grp, 0, 0, 0⟩
    let va := a.va.toNat
    let atomic := fun (r : Run s0) (n : Nat) (f : Nat → Nat) =>
      if !flags.testBit 3 then r.reply a [] 0x09 0x02
      else
        match fireCheck r.st p .main va n true .atomic with
        | some e => r.reply a [] e.1 e.2
        | none =>
          let (r, l) := r.locate p .main va .rw
          let place : Option (Run s0 × Nat) := match l with
            | .key k => some (r, k)
            | .shared k v => (r.ownFrame p v (k - mainKey 0)).map (fun e => (e.1, mainKey e.2))
            | _ => none
          match place, l with
          | some (r, k), _ =>
            let old := r.st.num k n
            ((r.write k (leBytes n (f old))).wroteLines p .main va k n).reply a (leBytes n old) 0 0
          | none, .park => r.parkPeer a p va (kindRead ||| kindWrite)
          | none, .fault c q => r.reply a [] c q
          | none, _ => r.reply a [] 0x08 0x02
    match a.kind with
    | .read n =>
      if !flags.testBit 1 then r.reply a [] 0x09 0x01
      else
        match fireCheck r.st p .main va n false .load with
        | some e => r.reply a [] e.1 e.2
        | none =>
          let (r, g) := r.readBytes p .main va n .r []
          match g with
          | .bytes bs => r.reply a bs 0 0
          | .park v => r.parkPeer a p v kindRead
          | .fault c q _ => r.reply a [] c q
    | .write bs =>
      if !flags.testBit 2 then r.reply a [] 0x09 0x02
      else
        match fireCheck r.st p .main va bs.length false .store with
        | some e => r.reply a [] e.1 e.2
        | none =>
          let (r, x) := r.writePieces p .main va bs noIssuer
          match x with
          | .done => r.reply a [] 0 0
          | .park v => r.parkPeer a p v kindWrite
          | .home _ _ => r.reply a [] 0x08 0x02
          | .fault c q _ => r.reply a [] c q
    | .atom op wd b => atomic r wd.bytes (fun old => (atomNew op wd old b).1)
    | .cas wd b => atomic r wd.bytes (fun old => casNew wd old b)

/-- `PEER_ACCESS`. -/
def execPeerAccess (a : PeerReq) (s : State) : Host.Outcome State Fault Refusal := .next (if s.inFirmware then Run.start s else (Run.start s).peerAccess a).st

/-- A peer access whose park is resolved is tried again (R317). -/
def Run.retryPeer (r : Run s0) (id : Nat) : Run s0 :=
  match r.st.peers.find? (fun e => e.id == id) with
  | some e => if e.parked then r else (r.put (.peers (r.st.peers.filter (fun y => y.id != id)))).peerAccess e.req
  | none => r

/-! ### The fix (R390) -/

/-- The scope that FIXCTL names: a partition, or 40 for the package. -/
def fixScope (v : Nat) : Nat := if v.testBit 10 then 40 else bitsOf v 4 6

/-- The scope of the fix under way. -/
def State.fixing (s : State) : Nat := s.fixed.headD (fixScope s.fixctl)

/-- `FIX_GO`: FIXCTL is written with GO. -/
def execFixGo (v : Word64) (s : State) : Host.Outcome State Fault Refusal :=
  let r := Run.start s
  let n := v.toNat
  if s.fixed.isEmpty = false ∨ s.inFirmware = true then .next r.st
  else .next ((r.setDcb 0 0x082500 (BitVec.ofNat 64 (bitsOf n 12 45 * 4096 + bitsOf n 10 1 * 1024 + bitsOf n 4 6 * 16))).takeFix (fixScope n) 1).st

/-- A fix is under way whose read-out is not complete. -/
def State.readsOut (s : State) : Bool := !s.fixed.isEmpty && !s.fixctl.testBit 1

/-- Bytes of the read-out of a scope: the header, then the stores of its clusters and its die-store slices. -/
def readoutSize (s : State) (scope : Nat) : Nat :=
  let parts := if scope = 40 then List.range 40 else [scope]
  let ks := if scope = 40 then 40 else (s.clustersOf scope).length
  4096 + ks * (4 * 0x300000 + 0x800000) + (parts.flatMap (fun p => (List.range 4).map (fun d => (s.window d p).2 - (s.window d p).1))).sum

/-- `FIX_READOUT_DONE`: the buffer holds the read-out, whose bytes the spec does not lay out, and DONE is set. Log 7, DESIGN CHOICE: read-out bytes of a fix and the class and code of a KILL are free values; CONT and KILL act only when DONE. -/
def execFixReadoutDone (s : State) : Host.Outcome State Fault Refusal :=
  let r := Run.start s
  if s.readsOut then
    let n := r.choice
    let r := (r.write (hostKey (bitsOf s.fixctl 12 45 * 4096)) ((List.range (readoutSize s s.fixing)).map (Config.freeByte n))).chose
    .next (r.setDcb 0 0x082500 (BitVec.ofNat 64 (s.fixctl ||| 2))).st
  else .next r.st

/-- The timers of a partition go on with the time they had when they stopped (R383, R389, R390): `n` clocks ago those of its contexts and granules, `m` clocks ago those of its step groups,
barriers and trees. Log 101, DEDUCED: what a restore keeps. -/
def Run.shiftTimers (r : Run s0) (p n m : Nat) : Run s0 :=
  let s := r.st
  let ours := fun (l : Nat) => s.partOfLaunch l == p
  let r := (SMap.keys s.ctxs).foldl (fun r c => if (s.ctx c).part = p then r.modCtx c (fun x => { x with pendAt := x.pendAt + n }) else r) r
  let r := r.put (.readers (s.readers.map (fun e => if (s.ctx e.c).part = p then { e with since := e.since + n } else e)))
  let r := (SMap.keys s.groups).foldl (fun r k =>
    let g := SMap.get s.groups StepGroup.reset k
    if ours g.launch then r.put (.group k { g with first := g.first + m }) else r) r
  let r := r.put (.shelf (s.shelf.map (fun e => if ours e.2.launch then (e.1, { e.2 with first := e.2.first + m }) else e)))
  let r := (SMap.keys s.barriers).foldl (fun r k =>
    let b := SMap.get s.barriers Barrier.reset k
    if s.partOf (k / 32) = some p then r.put (.barrier k { b with first := b.first + m }) else r) r
  r.put (.trees (s.trees.map (fun t => if ours t.launch then
    { t with nodes := t.nodes.map (fun y => { y with slots := y.slots.map (fun q => q.map (fun e => { e with at' := e.at' + m })) }) } else t)))

/-- The clocks of a partition start again after a fix, `n` clocks after they stopped, as if no time had passed: its parks, drains, passes and its launches' ELAPSED go on with the
time they had, and so does CYCLE. -/
def Run.restartClocks (r : Run s0) (p n : Nat) : Run s0 :=
  let r := r.shiftTimers p n n
  let s := r.st
  let r := (SMap.keys s.ptt).foldl (fun r k =>
    let e := SMap.get s.ptt Park.free k
    if e.part = p then r.put (.ptt k { e with since := e.since + n }) else r) r
  let r := r.put (.drains (s.drains.map (fun d => if d.part = p then { d with since := d.since + n, frozenAt := d.frozenAt + n } else d)))
  let r := r.put (.saved (s.saved.map (fun v => if v.part = p then { v with since := v.since + n } else v)))
  let r := r.put (.launches (s.launches.map (fun l => if l.part = p then
    { l with at' := l.at' + n, work := l.work.map (fun q => { q with readyAt := q.readyAt + n }) } else l)))
  r.put (.stoppedFor p (SMap.get s.stoppedFor 0 p + n))

/-- A fix of a partition under way comes to its end. While the package is stopped no clock advances. -/
def Run.endFix (r : Run s0) : Run s0 :=
  let p := r.st.fixing
  let r := if p < 40 ∧ r.st.fixed.isEmpty = false then r.restartClocks p (r.st.clk - SMap.get r.st.fixedAt 0 p) else r
  r.put (.fixed [])

/-- `FIX_CONT`: the clocks of the scope start again, once the read-out is complete. -/
def execFixCont (s : State) : Host.Outcome State Fault Refusal :=
  let r := Run.start s
  if s.fixctl.testBit 1 then .next (r.endFix.setDcb 0 0x082500 (BitVec.ofNat 64 (s.fixctl - 2))).st else .next r.st

/-- A launch in the scope of a KILL fails: its running nodes, and itself. -/
def Run.killLaunch (r : Run s0) (l : Launch) (cls code : Nat) : Run s0 :=
  let r := l.work.foldl (fun r p => if p.st = .stage ∨ p.st = .run then r.failNode l.id p.node cls code else r) r
  let r := r.modLaunch l.id (fun l => { l with work := l.work.filter (fun p => p.st != .held) })
  r.modLaunch l.id (fun l => if l.ending then l else { l with ending := true, cls := cls, code := code })

/-- `FIX_KILL`: every launch in scope fails with the fault of the cause, whose class and code the spec gives for cause 3 alone; the scope is scrubbed and starts again. -/
def execFixKill (s : State) : Host.Outcome State Fault Refusal :=
  let r := Run.start s
  let scope := s.fixing
  if s.fixed.isEmpty = false ∧ s.fixctl.testBit 1 then
    let w := Config.freeWord r.choice
    let e := s.fixFault.getD (w.toNat % 256, w.toNat / 256 % 256)
    let parts := if scope = 40 then List.range 40 else [scope]
    let r := (s.launches.filter (fun l => (s.groupPart (l.q / 64)).any parts.contains)).foldl (fun r l => r.killLaunch l e.1 e.2) r.chose
    let r := ((List.range 40).filter (fun k => scope == 40 || s.partOf k == some scope)).foldl Run.scrubCluster r
    .next (r.endFix.setDcb 0 0x082500 (BitVec.ofNat 64 (s.fixctl - 2))).st
  else .next r.st

/-! ### Counter thresholds (R391) -/

/-- The partition of a counter: that of its core's cluster, or the lowest of its die. -/
def State.counterPart (s : State) (die off : Nat) : Option Nat :=
  if off < 0x098000 then s.partOf ((40 * die + (off - 0x090000) / 0x200) / 4) else (List.range 40).find? (fun p => (s.diesOf p).contains die)

/-- The counter at a register key has a threshold that VALUE has reached and that is not yet taken. One whose value the spec leaves to timing may reach it at any time. Log 94, DESIGN CHOICE: when a counter reaches its threshold. -/
def State.thresholdDue (s : State) (k : Nat) : Bool :=
  let die := k / 2 ^ 21
  let off := k % 2 ^ 21
  let thr := (s.dcbAt die (off + 16)).toNat
  thr != 0 && s.dcbAt die (markOff off) != 1 && (timedSource ((s.dcbAt die (off + 8)).toNat % 256)
    || (s.dcbAt die (markOff off) == 0 && decide (thr ≤ (s.dcbAt die off).toNat % 2 ^ 48)))

/-- `EVCNT_THRESHOLD` (R391): ACT is taken once. -/
def execEvcntThreshold (k : Nat) (s : State) : Host.Outcome State Fault Refusal :=
  let r := Run.start s
  let die := k / 2 ^ 21
  let off := k % 2 ^ 21
  if s.thresholdDue k then
    let r := r.setDcb die (markOff off) 1
    match bitsOf (s.dcbAt die (off + 8)).toNat 30 2 with
    | 1 =>
      match s.counterPart die off with
      | some p => .next (r.fixPartition p 4).st
      | none => .next r.st
    | 2 => .next (r.put (.messages (r.st.messages ++ [⟨0, 0, k, []⟩]))).st
    | _ => .next r.st
  else .next r.st

/-! ### Recovery and attestation (R406 to R409) -/

/-- RCVSTAT. -/
def Run.setRcv (r : Run s0) (state reason : Nat) : Run s0 := r.put (.msgWin 0 (BitVec.ofNat 64 (reason * 256 + state)))

/-- The device starts with firmware that runs. -/
def Run.reboot (r : Run s0) : Run s0 := ((r.put .wipe).put (.inFirmware false)).setRcv 0 0

/-- The version of an image body (R409). -/
def imageVersion (body : List Byte) : Nat := fieldAt body 8 4

/-- `RCVGO` (R406, R409): the image is read over the link and verified; one that verifies, and is not
below the rollback counter, is stored, may raise the counter, and the device reboots into it. Log 96, DESIGN CHOICE: what a device in recovery answers. -/
def execRcvgo (s : State) : Host.Outcome State Fault Refusal :=
  let r := Run.start s
  let a := (SMap.get s.msgWin 0 8).toNat
  let n := (SMap.get s.msgWin 0 16).toNat
  if n % 64 ≠ 0 ∨ n < 4096 ∨ 2 ^ 26 < n then .next (r.setRcv 3 4).st
  else if Config.hostRejects a false r.choice then .next (r.chose.setRcv 3 3).st
  else
    let b := s.bytes (hostKey a) n
    let body := b.take (n - 96)
    if Config.imageSigned body (b.drop (n - 96)) = false then .next (r.chose.setRcv 3 1).st
    else if imageVersion body < s.rollback then .next (r.chose.setRcv 3 2).st
    else
      let r := (r.chose.put (.firmware b)).put (.rollback (if fieldAt body 12 1 % 2 = 1 then imageVersion body else s.rollback))
      .next r.reboot.st

/-- The bytes that attestation digests: every DSWIN, PARTCL and QGPART of every die, in die order and offset order (R408). -/
def partitionBytes (s : State) : List Byte :=
  (List.range 4).flatMap (fun d =>
    ((List.range 40).map (fun p => 0x081400 + 8 * p) ++ (List.range 10).map (fun k => 0x082600 + 8 * k) ++ (List.range 256).map (fun g => 0x082700 + 8 * g)).flatMap
      (fun off => leBytes 8 ((Run.start s).readReg d off).2.toNat))

/-- `n` bytes of a value, padded with zeros. -/
def exactly (n : Nat) (bs : List Byte) : List Byte := (bs ++ List.replicate n 0).take n

/-- The SHA-384 digest of the body of the firmware image that runs (R406, R408). -/
def firmwareDigest (s : State) : List Byte :=
  match s.firmware with
  | some b => Config.sha384 (b.take (b.length - 96))
  | none => Config.firmwareDigest

/-- The report of R408. -/
def attestation (s : State) : List Byte :=
  let nonce := (List.range 6).flatMap (fun i => leBytes 8 (SMap.get s.msgWin 0 (0x100 + 8 * i)).toNat)
  let body := leBytes 4 1 ++ leBytes 4 Config.verifierVersion.toNat ++ leBytes 8 Config.serial.toNat ++ exactly 48 (firmwareDigest s) ++ nonce
    ++ exactly 48 (Config.sha384 (partitionBytes s))
  body ++ exactly 96 (Config.signature body)

/-- `ATTGO` (R408). -/
def execAttgo (s : State) : Host.Outcome State Fault Refusal :=
  let rep := attestation s
  .next ((List.range 32).foldl (fun (r : Run s) i => r.put (.msgWin (0x200 + 8 * i) (BitVec.ofNat 64 (fieldAt rep (8 * i) 8)))) (Run.start s)).st

/-! ### Errors of the stores, and what the firmware does with the channels' counters (R286, R291, R305) -/

/-- An error in 8 bytes of a store or of main (R286, R291): one that is corrected is counted; one that is not leaves poison, in main over its 32-byte sector. -/
def Run.eccError (r : Run s0) (unit : Nat) (fixed : Bool) : Run s0 :=
  let key := 8 * unit
  if key < clusKey 0 0 then if fixed then r.countCore (key / 2 ^ 22) 0x2A 1 else r.put (.poison unit (0x0F, 0x01))
  else if key < mainKey 0 then if fixed then r else r.put (.poison unit (0x0F, 0x01))
  else if populated (key - mainKey 0) then
    if fixed then r.corrects ((key - mainKey 0) / 4096) else (List.range 4).foldl (fun r i => r.put (.poison (unit / 4 * 4 + i) (0x0F, 0x02))) r
  else r

/-- The matching store, the overflow area or the configuration of a context has failed: a task there has the async fault, and the partition manager takes its cluster out of service
(R369, R401). -/
def Run.coreFails (r : Run s0) (c : Nat) : Run s0 :=
  let k := c / 16
  let off := 0x082600 + 8 * (k % 10)
  let r := if (r.st.ctx c).mode = .running ∨ (r.st.ctx c).mode = .stopped then r.raiseAsync c (FaultRec.of 0x0F 0x03) else r
  r.setDcb (k / 10) off (r.st.dcbAt (k / 10) off ||| 0x200)

/-- The firmware reads and clears the counters of a channel (R305). Log 120, DESIGN CHOICE: when it does so, and that nothing else reads them. -/
def Run.clearChannel (r : Run s0) (ch : Nat) : Run s0 := ((List.range 66).foldl (fun r i => r.put (.chCount (channelKey ch i) 0)) r).put (.hotRing ch [])

/-- What has come from outside may take effect. -/
def State.comes (s : State) (x : Outside) : Bool :=
  match x with
  | .ecc _ _ | .clearCounters _ => true
  | .coreFails c => decide (c < 640)
  | .stepArrives gkey all => !(s.awaiting gkey all).isEmpty
  | .stepFails gkey => !(s.failable gkey).isEmpty

/-- What has come from outside takes effect: of the list, the first that may. Log 137, DESIGN CHOICE: errors of the stores, the other devices of a step group and the firmware's
clearing of counters come as a list of the state's own. -/
def Run.takeOutside (r : Run s0) : Run s0 :=
  match r.st.outside.find? r.st.comes with
  | none => r
  | some x =>
    let r := r.put (.outside (r.st.outside.erase x))
    match x with
    | .ecc unit fixed => r.eccError unit fixed
    | .coreFails c => r.coreFails c
    | .stepArrives gkey all => r.arriveFar gkey all
    | .stepFails gkey => (r.st.failable gkey).foldl (fun r k => r.failGroup (k / 64) (k % 64)) r
    | .clearCounters ch => r.clearChannel ch

/-! ### Bring-up, power and heat (R21, R410, R411) -/

/-- `POWER_GOOD` (R410): everything is scrubbed; firmware that does not verify leaves the device in recovery (R406). -/
def execPowerGood (s : State) : Host.Outcome State Fault Refusal :=
  let r := Run.start s
  let w := (Config.freeWord r.choice).toNat
  let r := r.chose
  .next (if w % 2 = 0 then r.reboot else ((r.put .wipe).put (.inFirmware true)).setRcv 1 (1 + w / 2 % 2)).st

/-- `PACKAGE_RESET` (R21, R287). Log 95, DEDUCED: package reset zeroes DRAM. -/
def execPackageReset (s : State) : Host.Outcome State Fault Refusal := .next ((Run.start s).put .wipe).st

/-- `THERMAL_THROTTLE` (R411): the clock slows, which changes timing only. Log 111, DESIGN CHOICE: heat and power are inputs that change timing only. -/
def execThermalThrottle (s : State) : Host.Outcome State Fault Refusal := .next ((Run.start s).put (.throttle (s.throttle + 1))).st

/-- `POWER_THROTTLE` (R411): the arithmetic clock is lowered by 100 MHz. -/
def execPowerThrottle (s : State) : Host.Outcome State Fault Refusal := .next ((Run.start s).put (.throttle (s.throttle + 1))).st

/-- `THERMAL_FIX` (R411, R390): a package fix of cause 5, which a fix of a partition gives way to; with BUF 0 nothing is read out and DONE reads 1 at once. -/
def execThermalFix (s : State) : Host.Outcome State Fault Refusal :=
  let r := Run.start s
  .next ((if s.fixed.contains 40 then r else r.endFix).takeFix 40 5).st

end Sys2Proof.Machine
end

