-- ==== Sys2Proof/Machine/Integer.lean ====
section
/-! DEFINITION. Integer and address instructions (R93 to R103). -/

namespace Sys2Proof.Machine

open Sys2Proof

/-! ### Results (R94 to R102), on the low `w` bits of the operands -/

/-- The low bits of an operand at a width (R94). -/
def lowBits (w : Width) (x : Word64) : Nat := x.toNat % 2 ^ w.bits

/-- The signed reading of an operand at a width (R94). -/
def signedBits (w : Width) (x : Word64) : Int := signedOf w.bits x.toNat

/-- A signed value at a width, zero-extended to 64 bits (R94). -/
def wrapInt (w : Width) (v : Int) : Word64 := BitVec.ofNat 64 (v % (2 ^ w.bits : Nat)).toNat

/-- An unsigned value at a width, zero-extended (R94). -/
def wrapNat (w : Width) (v : Nat) : Word64 := BitVec.ofNat 64 (v % 2 ^ w.bits)

def addOf (w : Width) (a b : Word64) : Word64 := wrapNat w (lowBits w a + lowBits w b)
def subOf (w : Width) (a b : Word64) : Word64 := wrapNat w (lowBits w a + 2 ^ w.bits - lowBits w b)
def mulOf (w : Width) (a b : Word64) : Word64 := wrapNat w (lowBits w a * lowBits w b)
/-- The upper half of the exact signed product (R95). -/
def mulhOf (w : Width) (a b : Word64) : Word64 := wrapInt w ((signedBits w a * signedBits w b) / (2 ^ w.bits : Nat))
def mulhnOf (w : Width) (a b : Word64) : Word64 := wrapNat w (lowBits w a * lowBits w b / 2 ^ w.bits)

/-- Division (R96): the result and whether DZ is set. -/
def divOf (w : Width) (a b : Word64) : Word64 × FlagSet :=
  if signedBits w b = 0 then (0, flagDZ) else (wrapInt w ((signedBits w a).tdiv (signedBits w b)), 0)
def divnOf (w : Width) (a b : Word64) : Word64 × FlagSet := if lowBits w b = 0 then (0, flagDZ) else (wrapNat w (lowBits w a / lowBits w b), 0)
/-- The remainder takes the sign of the dividend (R96). -/
def remOf (w : Width) (a b : Word64) : Word64 × FlagSet :=
  if signedBits w b = 0 then (wrapInt w (signedBits w a), flagDZ) else (wrapInt w ((signedBits w a).tmod (signedBits w b)), 0)
def remnOf (w : Width) (a b : Word64) : Word64 × FlagSet :=
  if lowBits w b = 0 then (wrapNat w (lowBits w a), flagDZ) else (wrapNat w (lowBits w a % lowBits w b), 0)

def andOf (w : Width) (a b : Word64) : Word64 := wrapNat w (a &&& b).toNat
def orOf (w : Width) (a b : Word64) : Word64 := wrapNat w (a ||| b).toNat
def xorOf (w : Width) (a b : Word64) : Word64 := wrapNat w (a ^^^ b).toNat
def andnOf (w : Width) (a b : Word64) : Word64 := wrapNat w (a &&& ~~~b).toNat

/-- Shifts take their count from all 64 bits of B (R97). -/
def shlOf (w : Width) (a b : Word64) : Word64 := if w.bits ≤ b.toNat then 0 else wrapNat w (lowBits w a * 2 ^ b.toNat)
def shrOf (w : Width) (a b : Word64) : Word64 := if w.bits ≤ b.toNat then 0 else wrapNat w (lowBits w a / 2 ^ b.toNat)
def sraOf (w : Width) (a b : Word64) : Word64 := wrapInt w (signedBits w a / (2 ^ min b.toNat (w.bits - 1) : Nat))
def rotlOf (w : Width) (a b : Word64) : Word64 :=
  wrapNat w (lowBits w a * 2 ^ (b.toNat % w.bits) + lowBits w a / 2 ^ (w.bits - b.toNat % w.bits))

def minOf (w : Width) (a b : Word64) : Word64 := wrapNat w (if signedBits w a ≤ signedBits w b then lowBits w a else lowBits w b)
def maxOf (w : Width) (a b : Word64) : Word64 := wrapNat w (if signedBits w b ≤ signedBits w a then lowBits w a else lowBits w b)
def minnOf (w : Width) (a b : Word64) : Word64 := wrapNat w (if lowBits w a ≤ lowBits w b then lowBits w a else lowBits w b)
def maxnOf (w : Width) (a b : Word64) : Word64 := wrapNat w (if lowBits w b ≤ lowBits w a then lowBits w a else lowBits w b)

/-- Leading zeros counted from the top bit of the width (R98). -/
def clzOf (w : Width) (a : Word64) : Word64 := wrapNat .w64 (if lowBits w a = 0 then w.bits else w.bits - 1 - Nat.log2 (lowBits w a))
def ctzOf (w : Width) (a : Word64) : Word64 := wrapNat .w64 (((List.range w.bits).find? (fun i => (lowBits w a).testBit i)).getD w.bits)
def popcOf (w : Width) (a : Word64) : Word64 := wrapNat .w64 ((List.range w.bits).filter (fun i => (lowBits w a).testBit i)).length
/-- `sext` keeps all 64 bits (R98). -/
def sextOf (w : Width) (a : Word64) : Word64 := BitVec.ofInt 64 (signedBits w a)
def zextOf (w : Width) (a : Word64) : Word64 := wrapNat w (lowBits w a)

/-- Bit fields (R99). -/
def bfxOf (w : Width) (p : Nat) (a : Word64) : Word64 := wrapNat w (a.toNat / 2 ^ p)
def bfiOf (w : Width) (p : Nat) (a b : Word64) : Word64 :=
  BitVec.ofNat 64 (a.toNat - a.toNat / 2 ^ p % 2 ^ w.bits * 2 ^ p + lowBits w b * 2 ^ p)

/-- `lea` (R100). -/
def leaOf (sh : Nat) (a b : Word64) : Word64 := a + b <<< sh

/-- The value in place of B of a signed immediate (R102). -/
def immOf (v : BitVec 10) : Word64 := v.signExtend 64
/-- The value of an unsigned immediate or a count (R102). -/
def immNat (v : BitVec 10) : Word64 := v.setWidth 64

def eqOf (w : Width) (a b : Word64) : Bool := decide (lowBits w a = lowBits w b)
def ltOf (w : Width) (a b : Word64) : Bool := decide (signedBits w a < signedBits w b)
def leOf (w : Width) (a b : Word64) : Bool := decide (signedBits w a ≤ signedBits w b)
def ltnOf (w : Width) (a b : Word64) : Bool := decide (lowBits w a < lowBits w b)
def lenOf (w : Width) (a b : Word64) : Bool := decide (lowBits w a ≤ lowBits w b)

/-! ### Meanings -/

/-- A node whose result is a scalar of its operands. -/
def scalarNode (ins : Instr) (f : Word64 → Word64 → Word64 × FlagSet) (s : State) : Host.Outcome State Fault Refusal :=
  fireNode ins (fun x => let (v, fl) := f x.a.word x.b'.word; NodeOut.of (scalar v) fl) s

/-- A node whose result is the outcome of a comparison. -/
def compareNode (ins : Instr) (f : Word64 → Word64 → Bool) (s : State) : Host.Outcome State Fault Refusal :=
  fireNode ins (fun x => NodeOut.of (control (f x.a.word x.b'.word))) s


/-- `add` (R95). -/
def execAdd (w : Width) (g : Gate) (t0 t1 : Target) (s : State) : Host.Outcome State Fault Refusal := scalarNode (.add w g t0 t1) (fun a b => (addOf w a b, 0)) s

/-- `sub` (R95). -/
def execSub (w : Width) (g : Gate) (t0 t1 : Target) (s : State) : Host.Outcome State Fault Refusal := scalarNode (.sub w g t0 t1) (fun a b => (subOf w a b, 0)) s

/-- `mul` (R95). -/
def execMul (w : Width) (g : Gate) (t0 t1 : Target) (s : State) : Host.Outcome State Fault Refusal := scalarNode (.mul w g t0 t1) (fun a b => (mulOf w a b, 0)) s

/-- `mulh` (R95). -/
def execMulh (w : Width) (g : Gate) (t0 t1 : Target) (s : State) : Host.Outcome State Fault Refusal := scalarNode (.mulh w g t0 t1) (fun a b => (mulhOf w a b, 0)) s

/-- `mulhn` (R95). -/
def execMulhn (w : Width) (g : Gate) (t0 t1 : Target) (s : State) : Host.Outcome State Fault Refusal := scalarNode (.mulhn w g t0 t1) (fun a b => (mulhnOf w a b, 0)) s

/-- `div` (R95). -/
def execDiv (w : Width) (g : Gate) (t0 t1 : Target) (s : State) : Host.Outcome State Fault Refusal := scalarNode (.div w g t0 t1) (fun a b => divOf w a b) s

/-- `divn` (R95). -/
def execDivn (w : Width) (g : Gate) (t0 t1 : Target) (s : State) : Host.Outcome State Fault Refusal := scalarNode (.divn w g t0 t1) (fun a b => divnOf w a b) s

/-- `rem` (R95). -/
def execRem (w : Width) (g : Gate) (t0 t1 : Target) (s : State) : Host.Outcome State Fault Refusal := scalarNode (.rem w g t0 t1) (fun a b => remOf w a b) s

/-- `remn` (R95). -/
def execRemn (w : Width) (g : Gate) (t0 t1 : Target) (s : State) : Host.Outcome State Fault Refusal := scalarNode (.remn w g t0 t1) (fun a b => remnOf w a b) s

/-- `and` (R95). -/
def execAnd (w : Width) (g : Gate) (t0 t1 : Target) (s : State) : Host.Outcome State Fault Refusal := scalarNode (.and w g t0 t1) (fun a b => (andOf w a b, 0)) s

/-- `or` (R95). -/
def execOr (w : Width) (g : Gate) (t0 t1 : Target) (s : State) : Host.Outcome State Fault Refusal := scalarNode (.or w g t0 t1) (fun a b => (orOf w a b, 0)) s

/-- `xor` (R95). -/
def execXor (w : Width) (g : Gate) (t0 t1 : Target) (s : State) : Host.Outcome State Fault Refusal := scalarNode (.xor w g t0 t1) (fun a b => (xorOf w a b, 0)) s

/-- `andn` (R95). -/
def execAndn (w : Width) (g : Gate) (t0 t1 : Target) (s : State) : Host.Outcome State Fault Refusal := scalarNode (.andn w g t0 t1) (fun a b => (andnOf w a b, 0)) s

/-- `shl` (R95). -/
def execShl (w : Width) (g : Gate) (t0 t1 : Target) (s : State) : Host.Outcome State Fault Refusal := scalarNode (.shl w g t0 t1) (fun a b => (shlOf w a b, 0)) s

/-- `shr` (R95). -/
def execShr (w : Width) (g : Gate) (t0 t1 : Target) (s : State) : Host.Outcome State Fault Refusal := scalarNode (.shr w g t0 t1) (fun a b => (shrOf w a b, 0)) s

/-- `sra` (R95). -/
def execSra (w : Width) (g : Gate) (t0 t1 : Target) (s : State) : Host.Outcome State Fault Refusal := scalarNode (.sra w g t0 t1) (fun a b => (sraOf w a b, 0)) s

/-- `rotl` (R95). -/
def execRotl (w : Width) (g : Gate) (t0 t1 : Target) (s : State) : Host.Outcome State Fault Refusal := scalarNode (.rotl w g t0 t1) (fun a b => (rotlOf w a b, 0)) s

/-- `min` (R95). -/
def execMin (w : Width) (g : Gate) (t0 t1 : Target) (s : State) : Host.Outcome State Fault Refusal := scalarNode (.min w g t0 t1) (fun a b => (minOf w a b, 0)) s

/-- `max` (R95). -/
def execMax (w : Width) (g : Gate) (t0 t1 : Target) (s : State) : Host.Outcome State Fault Refusal := scalarNode (.max w g t0 t1) (fun a b => (maxOf w a b, 0)) s

/-- `minn` (R95). -/
def execMinn (w : Width) (g : Gate) (t0 t1 : Target) (s : State) : Host.Outcome State Fault Refusal := scalarNode (.minn w g t0 t1) (fun a b => (minnOf w a b, 0)) s

/-- `maxn` (R95). -/
def execMaxn (w : Width) (g : Gate) (t0 t1 : Target) (s : State) : Host.Outcome State Fault Refusal := scalarNode (.maxn w g t0 t1) (fun a b => (maxnOf w a b, 0)) s

/-- `clz` (R98). -/
def execClz (w : Width) (g : Gate) (t0 t1 : Target) (s : State) : Host.Outcome State Fault Refusal := scalarNode (.clz w g t0 t1) (fun a _ => (clzOf w a, 0)) s

/-- `ctz` (R98). -/
def execCtz (w : Width) (g : Gate) (t0 t1 : Target) (s : State) : Host.Outcome State Fault Refusal := scalarNode (.ctz w g t0 t1) (fun a _ => (ctzOf w a, 0)) s

/-- `popc` (R98). -/
def execPopc (w : Width) (g : Gate) (t0 t1 : Target) (s : State) : Host.Outcome State Fault Refusal := scalarNode (.popc w g t0 t1) (fun a _ => (popcOf w a, 0)) s

/-- `sext` (R98). -/
def execSext (w : Width) (g : Gate) (t0 t1 : Target) (s : State) : Host.Outcome State Fault Refusal := scalarNode (.sext w g t0 t1) (fun a _ => (sextOf w a, 0)) s

/-- `zext` (R98). -/
def execZext (w : Width) (g : Gate) (t0 t1 : Target) (s : State) : Host.Outcome State Fault Refusal := scalarNode (.zext w g t0 t1) (fun a _ => (zextOf w a, 0)) s

/-- `bfx` (R99). -/
def execBfx (w : Width) (g : Gate) (p : BitVec 6) (t0 : Target) (s : State) : Host.Outcome State Fault Refusal := scalarNode (.bfx w g p t0) (fun a _ => (bfxOf w p.toNat a, 0)) s

/-- `bfi` (R99). -/
def execBfi (w : Width) (g : Gate) (p : BitVec 6) (t0 : Target) (s : State) : Host.Outcome State Fault Refusal := scalarNode (.bfi w g p t0) (fun a b => (bfiOf w p.toNat a b, 0)) s

/-- `lea` (R100). -/
def execLea (g : Gate) (sh : BitVec 3) (t0 : Target) (s : State) : Host.Outcome State Fault Refusal := scalarNode (.lea g sh t0) (fun a b => (leaOf sh.toNat a b, 0)) s

/-- `cmp` (R101). -/
def execCmpEq (w : Width) (g : Gate) (t0 t1 : Target) (s : State) : Host.Outcome State Fault Refusal := compareNode (.cmpEq w g t0 t1) (fun a b => eqOf w a b) s

/-- `cmp` (R101). -/
def execCmpNe (w : Width) (g : Gate) (t0 t1 : Target) (s : State) : Host.Outcome State Fault Refusal := compareNode (.cmpNe w g t0 t1) (fun a b => !eqOf w a b) s

/-- `cmp` (R101). -/
def execCmpLt (w : Width) (g : Gate) (t0 t1 : Target) (s : State) : Host.Outcome State Fault Refusal := compareNode (.cmpLt w g t0 t1) (fun a b => ltOf w a b) s

/-- `cmp` (R101). -/
def execCmpLe (w : Width) (g : Gate) (t0 t1 : Target) (s : State) : Host.Outcome State Fault Refusal := compareNode (.cmpLe w g t0 t1) (fun a b => leOf w a b) s

/-- `cmp` (R101). -/
def execCmpLtn (w : Width) (g : Gate) (t0 t1 : Target) (s : State) : Host.Outcome State Fault Refusal := compareNode (.cmpLtn w g t0 t1) (fun a b => ltnOf w a b) s

/-- `cmp` (R101). -/
def execCmpLen (w : Width) (g : Gate) (t0 t1 : Target) (s : State) : Host.Outcome State Fault Refusal := compareNode (.cmpLen w g t0 t1) (fun a b => lenOf w a b) s

/-- `addi` (R102). -/
def execAddi (w : Width) (g : Gate) (v : BitVec 10) (t0 : Target) (s : State) : Host.Outcome State Fault Refusal := scalarNode (.addi w g v t0) (fun a _ => (addOf w a (immOf v), 0)) s

/-- `andi` (R102). -/
def execAndi (w : Width) (g : Gate) (v : BitVec 10) (t0 : Target) (s : State) : Host.Outcome State Fault Refusal := scalarNode (.andi w g v t0) (fun a _ => (andOf w a (immOf v), 0)) s

/-- `ori` (R102). -/
def execOri (w : Width) (g : Gate) (v : BitVec 10) (t0 : Target) (s : State) : Host.Outcome State Fault Refusal := scalarNode (.ori w g v t0) (fun a _ => (orOf w a (immOf v), 0)) s

/-- `xori` (R102). -/
def execXori (w : Width) (g : Gate) (v : BitVec 10) (t0 : Target) (s : State) : Host.Outcome State Fault Refusal := scalarNode (.xori w g v t0) (fun a _ => (xorOf w a (immOf v), 0)) s

/-- `shli` (R102). -/
def execShli (w : Width) (g : Gate) (v : BitVec 10) (t0 : Target) (s : State) : Host.Outcome State Fault Refusal := scalarNode (.shli w g v t0) (fun a _ => (shlOf w a (immNat v), 0)) s

/-- `shri` (R102). -/
def execShri (w : Width) (g : Gate) (v : BitVec 10) (t0 : Target) (s : State) : Host.Outcome State Fault Refusal := scalarNode (.shri w g v t0) (fun a _ => (shrOf w a (immNat v), 0)) s

/-- `srai` (R102). -/
def execSrai (w : Width) (g : Gate) (v : BitVec 10) (t0 : Target) (s : State) : Host.Outcome State Fault Refusal := scalarNode (.srai w g v t0) (fun a _ => (sraOf w a (immNat v), 0)) s

/-- `muli` (R102). -/
def execMuli (w : Width) (g : Gate) (v : BitVec 10) (t0 : Target) (s : State) : Host.Outcome State Fault Refusal := scalarNode (.muli w g v t0) (fun a _ => (mulOf w a (immOf v), 0)) s

/-- `cmpi` (R102). -/
def execCmpiEq (w : Width) (g : Gate) (v : BitVec 10) (t0 : Target) (s : State) : Host.Outcome State Fault Refusal := compareNode (.cmpiEq w g v t0) (fun a _ => eqOf w a (immOf v)) s

/-- `cmpi` (R102). -/
def execCmpiNe (w : Width) (g : Gate) (v : BitVec 10) (t0 : Target) (s : State) : Host.Outcome State Fault Refusal := compareNode (.cmpiNe w g v t0) (fun a _ => !eqOf w a (immOf v)) s

/-- `cmpi` (R102). -/
def execCmpiLt (w : Width) (g : Gate) (v : BitVec 10) (t0 : Target) (s : State) : Host.Outcome State Fault Refusal := compareNode (.cmpiLt w g v t0) (fun a _ => ltOf w a (immOf v)) s

/-- `cmpi` (R102). -/
def execCmpiLe (w : Width) (g : Gate) (v : BitVec 10) (t0 : Target) (s : State) : Host.Outcome State Fault Refusal := compareNode (.cmpiLe w g v t0) (fun a _ => leOf w a (immOf v)) s

/-- `cmpi` (R102). -/
def execCmpiLtn (w : Width) (g : Gate) (v : BitVec 10) (t0 : Target) (s : State) : Host.Outcome State Fault Refusal := compareNode (.cmpiLtn w g v t0) (fun a _ => decide (lowBits w a < v.toNat)) s

/-- `cmpi` (R102). -/
def execCmpiLen (w : Width) (g : Gate) (v : BitVec 10) (t0 : Target) (s : State) : Host.Outcome State Fault Refusal := compareNode (.cmpiLen w g v t0) (fun a _ => decide (lowBits w a ≤ v.toNat)) s

end Sys2Proof.Machine
end

