-- ==== Sys2Proof/Machine/Area.lean ====
section
/-! DEFINITION. What a drain saves (R384 to R386), the bytes of a save area, and what such bytes stand for. Log 100, DESIGN CHOICE: the places within the records of an area that the
spec does not give. -/

namespace Sys2Proof.Machine

open Sys2Proof

variable {s0 : State}

/-! ### What is saved -/

/-- The contexts of a partition that are not free. -/
def State.livesIn (s : State) (p : Nat) : List Nat := (s.liveCtxs).filter (fun c => (s.ctx c).part == p && (s.ctx c).mode != .free)

/-- A store as a save area holds it: the bytes that are not zero, the full granules and the poisoned units from key `lo` up to `hi`. -/
def State.storeBytes (s : State) (lo hi : Nat) : List (Nat × Byte) := (s.mem.filter (fun e => decide (lo ≤ e.1 ∧ e.1 < hi))).map (fun e => (e.1 - lo, e.2))
def State.storeFull (s : State) (lo hi : Nat) : List Nat := ((SMap.keys s.full).filter (fun g => decide (lo ≤ 16 * g ∧ 16 * g < hi))).map (fun g => g - lo / 16)
def State.storePoison (s : State) (lo hi : Nat) : List (Nat × (Nat × Nat)) := (s.poison.filter (fun e => decide (lo ≤ 8 * e.1 ∧ 8 * e.1 < hi))).map (fun e => (e.1 - lo / 8, e.2))

def saveCore (s : State) (k : Nat) : SavedCore :=
  let x := s.core k
  let lo := coreKey k 0
  let hi := coreKey k coreLimit
  ⟨k, x.td, x.acc, x.poisoned, s.storeBytes lo hi, s.storeFull lo hi, s.storePoison lo hi⟩

def saveClus (s : State) (k : Nat) : SavedStore :=
  let lo := clusKey k 0
  let hi := clusKey (k + 1) 0
  ⟨k, (List.range 32).map (fun b => (b, s.barrierOf k b)), 0, hi - lo, s.storeBytes lo hi, s.storeFull lo hi, s.storePoison lo hi⟩

def saveWindow (s : State) (p d : Nat) : SavedStore :=
  let w := s.window d p
  let lo := dieKey d w.1
  let hi := dieKey d w.2
  ⟨d, [], w.1, w.2 - w.1, s.storeBytes lo hi, s.storeFull lo hi, s.storePoison lo hi⟩

/-- The directory: contexts by launch, node and rank (R384). -/
def State.directoryOf (s : State) (p : Nat) : List (Nat × Ctx) :=
  let key := fun (x : Ctx) => (x.launch * 2 ^ 16 + x.node) * 2 ^ 32 + x.rank
  let xs := s.livesIn p
  ((sortNat (xs.map (fun c => key (s.ctx c))).eraseDups).flatMap (fun k => xs.filter (fun c => key (s.ctx c) == k))).map (fun (c : Nat) => (c, s.ctx c))

/-- A saved context keeps nothing of the machine it ran on. -/
def Ctx.lifted (x : Ctx) : Ctx := { x with drive := x.drive.map (fun d => { d with parked := false, denied := none }), safePoint := false }

/-- What a drain of the partition saves; DIGEST and LENGTH are of its bytes. -/
def State.toSave (s : State) (p since : Nat) : Saved where
  kind := 1
  part := p
  since := since
  len := 0
  digest := 0
  ctxs := (s.directoryOf p).map (fun e => (e.1, e.2.lifted))
  cores := (s.coresOf p).map (saveCore s)
  clus := (s.clustersOf p).map (saveClus s)
  windows := (s.diesOf p).map (saveWindow s p)
  groups := ((List.range 64).map (fun k => (k, s.group p k))).filter (fun e => e.2.conf && (s.directoryOf p).any (fun y => y.2.launch == e.2.launch))
  trees := s.trees.filter (fun t => s.partOfLaunch t.launch == p)
  ops := s.ops.filter (fun o => o.part == p)

/-! ### Writing bytes -/

/-- Eight bytes for each word. -/
def wordsBytes (ws : List Word64) : List Byte := ws.flatMap (fun w => leBytes 8 w.toNat)

/-- The next multiple of a page. -/
def pageUp (n : Nat) : Nat := ceilDiv n 4096 * 4096

/-- A mask of `n` bytes with a set of bits. -/
def maskBytes (n : Nat) (l : List Nat) : List Byte := (List.range n).map (fun i => BitVec.ofNat 8 ((List.range 8).map (fun b => if l.contains (8 * i + b) then 2 ^ b else 0)).sum)

/-- The set of bits of `n` mask bytes. -/
def maskOf (bs : List Byte) (n : Nat) : List Nat := (List.range (8 * n)).filter (fun i => (bs.getD (i / 8) 0).getLsbD (i % 8))

/-- The number of a token kind. -/
def kindNo : Kind → Nat
  | .scalar => 0
  | .vector => 1
  | .handle => 2
  | .control => 3

def kindOfNo (n : Nat) : Kind :=
  match n with
  | 1 => .vector
  | 2 => .handle
  | 3 => .control
  | _ => .scalar

def slotNo : Slot → Nat
  | .a => 1
  | .b => 2
  | .g => 3

/-- A latched token: kind, flags, slot and index, the tag under which it waits, and 8 bytes of it, or 64 of a vector. -/
def tokenBytes (tag : Nat) (t : Arrived) : List Byte :=
  [BitVec.ofNat 8 (kindNo t.tok.kind), BitVec.ofNat 8 (t.tok.s.toNat + 2 * t.tok.e.toNat + 4 * t.tok.n.toNat), BitVec.ofNat 8 (slotNo t.slot), BitVec.ofNat 8 t.idx]
    ++ leBytes 8 tag ++ leBytes (if t.tok.kind = .vector then 64 else 8) t.tok.data.toNat

/-- `n` latched tokens, and what follows them. -/
def tokensOf (n : Nat) (bs : List Byte) : List Arrived × List Byte :=
  match n with
  | 0 => ([], bs)
  | m + 1 =>
    let kind := kindOfNo (fieldAt bs 0 1)
    let f := fieldAt bs 1 1
    let size := if kind = .vector then 64 else 8
    let t : Arrived := ⟨fieldAt bs 3 1, (slotOfCode (fieldAt bs 2 1)).getD .a, ⟨kind, BitVec.ofNat 512 (fieldAt bs 12 size), f.testBit 0, f.testBit 1, f.testBit 2⟩⟩
    let (l, rest) := tokensOf m (bs.drop (12 + size))
    (t :: l, rest)

/-! ### Context images (R385) -/

/-- The logical accumulators that a context is granted. -/
def Ctx.grants (x : Ctx) : List Nat := (List.range 4).filter x.granted

/-- The size of a context image. -/
def imageSize (x : Ctx) : Nat := 0x4000 + 0x10000 * x.grants.length

/-- SFLAGS. -/
def saveFlags (x : Ctx) : Nat :=
  (if x.hndl then 1 else 0) + (if x.wdrv then 2 else 0) + (if x.pendBit then 4 else 0) + (if x.latch.isSome then 8 else 0)

/-- The block that a stopped context begins next. -/
def Ctx.stopAt (x : Ctx) : Succ := x.next.getD ⟨0, .dispatch, 0, [], 0, [], 0, 255, none⟩

/-- The drive that a context runs, or that its resume latch holds. -/
def Ctx.savedDrive (x : Ctx) : Option Drive :=
  match x.drive, x.resume with
  | some d, _ => some d
  | none, .drive d => some d
  | _, _ => none

/-- The resume latch and the latched tokens: the latch's kind, its tokens, the stack depth at handler entry and the commit sequence, its block, NEST and nest record; then the
tokens of the stop block, and those of the latch. -/
def latchBytes (x : Ctx) : List Byte :=
  let stop := x.stopAt
  let (kind, addr, nest, widths, toks) : Nat × Word64 × BitVec 56 × NestRec × List Arrived := match x.resume with
    | .none => (0, 0, 0, [], [])
    | .block addr nest widths toks => (1, addr, nest, widths, toks)
    | .endOfTask => (2, 0, 0, [], [])
    | .drive d => (3, d.blk, d.nest, d.widths, [])
  exactly 0x100 (leBytes 1 kind ++ leBytes 1 toks.length ++ leBytes 2 x.hDepth ++ leBytes 4 x.seq ++ leBytes 8 addr.toNat ++ leBytes 8 nest.toNat ++ leBytes 8 (NestRec.word widths).toNat
    ++ stop.toks.flatMap (tokenBytes stop.nest.toNat) ++ toks.flatMap (tokenBytes nest.toNat))

/-- The decision latch, and the drive: its state, its descriptor copy and the chain codebook. -/
def driveBytes (x : Ctx) : List Byte :=
  exactly 0x100 ((match x.latch with
    | some d => leBytes 1 1 ++ leBytes 1 d.1 ++ leBytes 6 d.2
    | none => leBytes 8 0)
    ++ leBytes 32 (match x.drive, x.resume with
      | none, .drive d => d.book
      | _, _ => x.codebook).toNat
    ++ (match x.savedDrive with
      | none => []
      | some d => leBytes 1 1 ++ leBytes 1 (d.dropDone.toNat + 2 * d.leaving.toNat + 4 * d.value.isSome.toNat) ++ leBytes 1 d.idx ++ leBytes 1 d.frame.toNat ++ leBytes 4 d.tile
          ++ leBytes 4 d.count ++ leBytes 4 d.ticket ++ leBytes 8 d.blk.toNat ++ leBytes 8 d.resume.toNat ++ leBytes 8 d.nest.toNat ++ leBytes 8 (NestRec.word d.widths).toNat
          ++ leBytes 8 d.after.1.toNat ++ leBytes 8 (NestRec.word d.after.2).toNat ++ leBytes 8 d.cdone.toNat ++ leBytes 8 d.wblk.toNat ++ leBytes 8 d.seq
          ++ leBytes 8 (d.value.getD 0).toNat ++ exactly 64 d.desc))

/-- Entries of the reissue list: a drive's ticket with its copied records, and each attention request's ticket with the address of its block. -/
def reissueBytes (x : Ctx) (ops : List EngOp) : List Byte :=
  let drive := match x.savedDrive with
    | none => []
    | some d => exactly 128 (leBytes 4 2 ++ leBytes 4 d.ticket) ++ (List.range 16).flatMap (fun j => leBytes 32 (SMap.get d.recs 0 j).toNat)
  drive ++ ops.flatMap (fun o => exactly 128 (leBytes 4 1 ++ leBytes 4 o.ticket ++ leBytes 8 (o.cmd.a.toNat % 2 ^ 64) ++ leBytes 8 o.tag.toNat ++ leBytes 8 o.blk.toNat ++ leBytes 4 o.idx
    ++ leBytes 4 o.nodeNo ++ leBytes 8 o.seq ++ leBytes 8 (NestRec.word o.widths).toNat))

/-- A context image (R385). -/
def ctxImage (x : Ctx) (acc : SMap Word32) (ops : List EngOp) : List Byte :=
  let stop := x.stopAt
  exactly 0x100 (leBytes 4 1 ++ leBytes 4 x.rank ++ leBytes 4 x.tsize ++ leBytes 2 x.node ++ leBytes 1 (x.grants.map (2 ^ ·)).sum ++ leBytes 1 (saveFlags x)
      ++ leBytes 8 stop.addr.toNat ++ leBytes 8 stop.nest.toNat ++ leBytes 8 (NestRec.word stop.widths).toNat ++ leBytes 4 x.ticket.toNat ++ leBytes 4 x.spill
      ++ leBytes 8 x.rspill.toNat ++ leBytes 1 x.stack.length ++ leBytes 1 stop.toks.length)
    ++ wordsBytes ((List.range 64).map x.reg)
    ++ exactly 0x40 (maskBytes 8 ((List.range 64).filter x.isFull))
    ++ exactly 0xC0 (wordsBytes ([x.flags, x.modeReg, x.dropcnt, x.tilefull, x.tilepart, x.tileempty] ++ (List.range 4).map x.key
        ++ (List.range 4).map (fun i => (x.counter i).setWidth 64) ++ (List.range 4).map (fun i => (x.counter i).extractLsb' 64 64) ++ [x.perfsel, x.lastclass.setWidth 64]))
    ++ exactly 0x400 (x.stack.flatMap (fun e => e.bytes.take 32))
    ++ (List.range 16).flatMap (fun i => leBytes 128 (x.softReg i).toNat)
    ++ (List.range 8).flatMap (fun i => (List.range 16).flatMap (fun j => xsCell (x.lane i j)))
    ++ latchBytes x ++ driveBytes x
    ++ exactly 0x200 (x.asyncs.flatMap (fun f => f.bytes 0))
    ++ exactly 0x800 (reissueBytes x ops)
    ++ List.replicate 0x400 0
    ++ x.grants.flatMap (fun a => (List.range 16384).flatMap (fun i => leBytes 4 (SMap.get acc 0 (x.physical a * 16384 + i)).toNat))

/-! ### Store images (R386) -/

/-- The 64 KiB chunks of a store that hold a nonzero byte or a full granule: its USED map. -/
def usedMap (bytes : List (Nat × Byte)) (full : List Nat) : List Nat := (bytes.map (fun (e : Nat × Byte) => e.1 / 65536) ++ full.map (fun g => g / 4096)).eraseDups

/-- A store image: its bytes and the bitmap of its granules, then `k` bytes of USED map, which a die window has none of. -/
def storeImage (size k : Nat) (bytes : List (Nat × Byte)) (full : List Nat) : List Byte :=
  exactly (pageUp (size + size / 128 + k)) ((List.range size).map (fun i => ((bytes.find? (fun e => e.1 == i)).map Prod.snd).getD 0) ++ maskBytes (size / 128) full ++ maskBytes k (usedMap bytes full))

/-- The bytes of a store image that are not zero, and its full granules. -/
def storeOfImage (size : Nat) (img : List Byte) : List (Nat × Byte) × List Nat :=
  (((List.range size).zip img).filter (fun e => e.2 != 0), maskOf ((img.drop size).take (size / 128)) (size / 128))

/-! ### Core, cluster and partition records (R384) -/

/-- The number of a context within its saved core: its place there in directory order. -/
def Saved.seat (v : Saved) (c : Nat) : Nat := c / 4 * 4 + (((v.ctxs.filter (fun e => e.1 / 4 == c / 4)).map Prod.fst).idxOf c)

/-- A core record: shape records, the ACCMAPs of its images, the poison mask, the core, its cluster and its store image. -/
def coreRecord (v : Saved) (k : SavedCore) (at' : Nat) : List Byte :=
  exactly 1024 ((List.range 16).flatMap (fun i => leBytes 32 (SMap.get k.td 0 i).toNat)
    ++ exactly 32 ((v.ctxs.filter (fun e => e.1 / 4 == k.orig)).flatMap (fun e => leBytes 8 e.2.accmap.toNat))
    ++ leBytes 8 (((List.range 4).filter (fun a => SMap.get k.poisoned false a)).map (2 ^ ·)).sum ++ leBytes 4 k.orig ++ leBytes 4 (k.orig / 4) ++ leBytes 8 at')

/-- A cluster record: the cluster, its store image, and seven bytes of each barrier: ARMED and EXPECT, GEN, the contexts that have arrived, whose images give their ranks, and the
microseconds since the first of them. -/
def clusRecord (v : Saved) (k : SavedStore) (at' : Nat) : List Byte :=
  exactly 256 (leBytes 8 k.orig ++ leBytes 8 at' ++ k.barriers.flatMap (fun b =>
    leBytes 1 (b.2.armed.toNat * 128 + b.2.expect % 32) ++ leBytes 1 b.2.gen.toNat ++ leBytes 2 ((b.2.arrived.map (fun c => 2 ^ (v.seat c % 16))).sum)
      ++ leBytes 3 (if b.2.arrived.isEmpty then 0 else min (2 ^ 24 - 1) ((v.since - b.2.first) / clocksOf 1))))

/-- LTAG of a launch. -/
def State.ltag (s : State) (id : Nat) : Nat := ((s.launches.find? (fun l => l.id == id)).map (fun l => fieldAt l.rec' 104 8)).getD 0

/-- A step group in 64 bytes. -/
def groupBytes (s : State) (since : Nat) (g : StepGroup) : List Byte :=
  exactly 64 (leBytes 2 (g.conf.toNat + 2 * g.failed.toNat + 4 * g.seen.toNat + 8 * g.remote.toNat) ++ leBytes 2 g.node ++ leBytes 4 g.phase.toNat ++ leBytes 8 (s.ltag g.launch)
    ++ leBytes 4 g.gkey ++ leBytes 4 (if g.arrived.isEmpty && !g.seen then 0 else (since - g.first) / clocksOf 1) ++ maskBytes 20 g.members ++ maskBytes 20 g.arrived)

/-- A region entry as R293 lays it out. -/
def regionBytes (g : Region) : List Byte :=
  exactly 32 (leBytes 8 g.base ++ leBytes 4 g.size ++ leBytes 1 (if g.rule = 4 then 0 else if g.die then 2 else 3) ++ leBytes 1 g.width ++ leBytes 1 g.rule ++ leBytes 1 g.sg ++ leBytes 4 g.gkey)

/-- A held packet of a tree. -/
def packetBytes (p : Packet) : List Byte :=
  leBytes 4 p.round ++ leBytes 2 p.count ++ leBytes 1 (p.s.toNat + 2 * p.inc.toNat + 4 * p.err.toNat) ++ leBytes 1 p.miss.length ++ p.miss.flatMap (fun k => leBytes 2 k)
    ++ leBytes 2 p.els.length ++ p.els.flatMap xsCell ++ leBytes 2 p.f32.length ++ p.f32.flatMap (fun w => leBytes 4 w.toNat)

/-- The binding of a tree with its held packets. -/
def treeBytes (s : State) (t : Tree) : List Byte :=
  leBytes 8 (s.ltag t.launch) ++ leBytes 2 t.node ++ leBytes 1 t.ident ++ leBytes 1 t.nodes.length ++ leBytes 4 t.drank
    ++ t.nodes.flatMap (fun n => leBytes 4 n.round ++ leBytes 1 n.slots.length ++ n.slots.flatMap (fun q => leBytes 1 q.length ++ q.flatMap packetBytes))

/-- The partition record: each die's window with the place of its image, the step groups, the region entries, and the trees as far as they find room. -/
def partRecord (s : State) (v : Saved) (images : List Nat) : List Byte :=
  let window := fun (d : Nat) => match (v.windows.zip images).find? (fun e => e.1.orig == d) with
    | some e => leBytes 4 (e.1.base / 2 ^ 20) ++ leBytes 4 (e.1.size / 2 ^ 20) ++ leBytes 8 e.2
    | none => leBytes 16 0
  let group := fun (k : Nat) => ((v.groups.find? (fun e => e.1 == k)).map Prod.snd).getD StepGroup.reset
  let regions := (s.launches.filter (fun l => v.ctxs.any (fun e => e.2.launch == l.id))).flatMap (·.regions)
  exactly 16384 ((List.range 4).flatMap window ++ (List.range 64).flatMap (fun k => groupBytes s v.since (group k)) ++ exactly 2048 (regions.flatMap regionBytes)
    ++ leBytes 4 v.trees.length ++ v.trees.flatMap (treeBytes s))

/-! ### The area -/

/-- Where the store images of an area begin, and where each of them stands. -/
def Saved.imagesAt (v : Saved) : Nat := 0x6000 + pageUp (1024 * v.cores.length + 256 * v.clus.length + 16384 + (v.ctxs.map (fun e => imageSize e.2)).sum)
def placesFrom (at' : Nat) (sizes : List Nat) : List Nat := sizes.mapIdx (fun i _ => at' + (sizes.take i).sum)

/-- The size of a store image. -/
def imageLength (size k : Nat) : Nat := pageUp (size + size / 128 + k)

/-- Everything after the header: core, cluster and partition records, context images, store images. -/
def saveBody (s : State) (v : Saved) : List Byte :=
  let sizes := v.cores.map (fun _ => imageLength coreLimit 16) ++ v.clus.map (fun k => imageLength k.size 16) ++ v.windows.map (fun k => imageLength k.size 0)
  let at' := placesFrom v.imagesAt sizes
  let nc := v.cores.length
  let front := (v.cores.zip at').flatMap (fun e => coreRecord v e.1 e.2) ++ (v.clus.zip (at'.drop nc)).flatMap (fun e => clusRecord v e.1 e.2)
    ++ partRecord s v (at'.drop (nc + v.clus.length))
    ++ v.ctxs.flatMap (fun e => ctxImage e.2 (((v.cores.find? (fun k => k.orig == e.1 / 4)).map (·.acc)).getD []) (v.ops.filter (fun o => o.c == e.1)))
  exactly (v.imagesAt - 0x6000) front ++ v.cores.flatMap (fun k => storeImage coreLimit 16 k.bytes k.full) ++ v.clus.flatMap (fun k => storeImage k.size 16 k.bytes k.full)
    ++ v.windows.flatMap (fun k => storeImage k.size 0 k.bytes k.full)

/-- The area header (R384). -/
def saveHeader (s : State) (v : Saved) : List Byte :=
  let base := 0x6000 + 1024 * v.cores.length + 256 * v.clus.length + 16384
  let entry := fun (i : Nat) (e : Nat × Ctx) =>
    leBytes 8 (s.ltag e.2.launch) ++ leBytes 2 e.2.node ++ leBytes 2 0 ++ leBytes 4 e.2.rank ++ leBytes 8 (base + ((v.ctxs.take i).map (fun e => imageSize e.2)).sum) ++ leBytes 2 (e.1 / 4)
      ++ leBytes 6 0
  exactly 0x6000 (leBytes 4 1 ++ leBytes 1 v.kind ++ leBytes 3 0 ++ leBytes 4 v.ctxs.length ++ leBytes 4 v.cores.length ++ leBytes 4 v.clus.length ++ leBytes 4 0
    ++ leBytes 8 v.len ++ leBytes 8 v.digest.toNat ++ leBytes 24 0 ++ (v.ctxs.mapIdx entry).flatten)

/-! ### What the bytes of an area stand for -/

/-- The resume latch of an image, with what the drive region holds where the latch is a drive. -/
def latchOf (img : List Byte) (d : Option Drive) : Latch :=
  let l := img.drop 0x3000
  match fieldAt l 0 1, d with
  | 1, _ =>
    let toks := (tokensOf (fieldAt l 1 1) (tokensOf (fieldAt img 57 1) (l.drop 32)).2).1
    .block (BitVec.ofNat 64 (fieldAt l 8 8)) (BitVec.ofNat 56 (fieldAt l 16 8)) (nestOfWord (BitVec.ofNat 64 (fieldAt l 24 8))) toks
  | 2, _ => .endOfTask
  | 3, some d => .drive d
  | _, _ => .none

/-- The drive of an image. -/
def driveOf (img : List Byte) (id : Nat) : Option Drive :=
  let b := (img.drop 0x3128).take 0xD8
  let list := img.drop 0x3400
  if fieldAt b 0 1 = 0 then none
  else
    let f := fieldAt b 1 1
    let word := fun (k : Nat) => BitVec.ofNat 64 (fieldAt b (16 + 8 * k) 8)
    some {
      id := id
      desc := (b.drop 96).take 64
      recs := (List.range 16).foldl (fun m j => SMap.set m 0 j (BitVec.ofNat 256 (fieldAt list (128 + 32 * j) 32))) []
      blk := word 0
      tile := fieldAt b 4 4
      head := false
      hdr := []
      offs := none
      value := if f.testBit 2 then some (word 9) else none
      resume := word 1
      frame := BitVec.ofNat 8 (fieldAt b 3 1)
      nest := (word 2).setWidth 56
      widths := nestOfWord (word 3)
      after := ((word 4).setWidth 56, nestOfWord (word 5))
      seq := (word 8).toNat
      wblk := word 7
      idx := fieldAt b 2 1
      ticket := fieldAt b 12 4
      cdone := word 6
      dropDone := f.testBit 0
      count := fieldAt b 8 4
      leaving := f.testBit 1
      parked := false
      denied := none
      at' := 0
      fault := none
      book := BitVec.ofNat 256 (fieldAt img 0x3108 32) }

/-- A fault record of its 64 bytes (R370); its operand record and its list of ranks are not in an image. -/
def recordOf (b : List Byte) : FaultRec where
  cls := fieldAt b 0 1
  code := fieldAt b 1 1
  icls := fieldAt b 2 1
  icode := fieldAt b 3 1
  idx := fieldAt b 4 1
  auxid := fieldAt b 5 1
  rflags := fieldAt b 6 1
  blk := BitVec.ofNat 64 (fieldAt b 8 8)
  tag := BitVec.ofNat 64 (fieldAt b 16 8)
  ticket := fieldAt b 24 4
  auxn := fieldAt b 28 4
  vaddr := fieldAt b 40 8
  map := fieldAt b 48 16
  oprec := []

/-- The context of an image of a member of a launch. -/
def ctxOfImage (s : State) (l : Launch) (pass : Nat) (accmap : Word64) (img : List Byte) : Ctx :=
  let word := fun (off : Nat) => BitVec.ofNat 64 (fieldAt img off 8)
  let sf := fieldAt img 15 1
  let node := fieldAt img 12 2
  let rank := fieldAt img 4 4
  let full := maskOf ((img.drop 0x300).take 8) 8
  let d := driveOf img s.uid
  let wdrv := sf.testBit 1
  { Ctx.reset with
    mode := .running
    launch := l.id
    node := node
    pass := pass
    rank := rank
    tsize := fieldAt img 8 4
    grp := l.q / 64
    detLaunch := recD l.rec'
    g := (List.range 64).foldl (fun m i => SMap.set m 0 i (word (0x100 + 8 * i))) []
    gEmpty := ((List.range 64).filter (fun i => !full.contains i)).foldl (fun m i => SMap.set m 0 i (s.uid + 1)) []
    flags := word 0x340
    modeReg := word 0x348
    accmap := accmap
    nest := BitVec.ofNat 56 (fieldAt img 24 8)
    widths := nestOfWord (word 32)
    faultptr := BitVec.ofNat 64 (faultptrOf l node rank)
    rspill := word 48
    rndkey := (List.range 4).foldl (fun m i => SMap.set m 0 i (word (0x370 + 8 * i))) []
    rndctr := (List.range 4).foldl (fun m i => SMap.set m 0 i (word (0x3B0 + 8 * i) ++ word (0x390 + 8 * i))) []
    dropcnt := word 0x350
    tilefull := word 0x358
    tilepart := word 0x360
    tileempty := word 0x368
    perfsel := word 0x3D0
    lastclass := BitVec.ofNat 8 (fieldAt img 0x3D8 1)
    pendBit := sf.testBit 2
    hndl := sf.testBit 0
    wdrv := wdrv
    soft := (List.range 16).foldl (fun m i => SMap.set m 0 i (BitVec.ofNat 1024 (fieldAt img (0x800 + 128 * i) 128))) []
    xs := (List.range 128).foldl (fun m i => SMap.set m XsLane.zero i (xsOfCell ((img.drop (0x1000 + 64 * i)).take 64))) []
    stack := (List.range (min 32 (fieldAt img 56 1))).map (fun i => ⟨word (0x400 + 32 * i), BitVec.ofNat 56 (fieldAt img (0x408 + 32 * i) 8), nestOfWord (word (0x410 + 32 * i))⟩)
    spill := fieldAt img 44 4
    latch := if sf.testBit 3 then some (fieldAt img 0x3101 1, fieldAt img 0x3102 6) else none
    ticket := BitVec.ofNat 32 (fieldAt img 40 4)
    codebook := BitVec.ofNat 256 (fieldAt img 0x3108 32)
    seq := fieldAt img 0x3004 4
    next := if wdrv then none else some ⟨word 16, .other, BitVec.ofNat 56 (fieldAt img 24 8), nestOfWord (word 32), 0, (tokensOf (fieldAt img 57 1) (img.drop 0x3020)).1, 0, 255, none⟩
    drive := if wdrv then d else none
    resume := latchOf img d
    asyncs := ((List.range 8).map (fun i => recordOf ((img.drop (0x3200 + 64 * i)).take 64))).filter (fun f => f.cls != 0)
    hDepth := fieldAt img 0x3002 2 }

/-- The attention requests of an image, to be issued again: the block of each is read anew where it lies. -/
def requestsOf (s : State) (c : Nat) (x : Ctx) (store img : List Byte) : List EngOp :=
  ((List.range 16).filter (fun i => fieldAt img (0x3400 + 128 * i) 4 == 1 && !(x.savedDrive.isSome && decide (0 < i ∧ i < 5)))).map (fun i =>
    let e := (img.drop (0x3400 + 128 * i)).take 128
    let at' := fieldAt e 8 8
    { id := s.uid + 1 + c * 16 + i
      ticket := fieldAt e 4 4
      c := c
      core := c / 4
      launch := x.launch
      node := x.node
      part := x.part
      grp := x.grp
      rank := x.rank
      iid := 0
      seq := fieldAt e 40 8
      blk := BitVec.ofNat 64 (fieldAt e 24 8)
      tag := BitVec.ofNat 64 (fieldAt e 16 8)
      widths := nestOfWord (BitVec.ofNat 64 (fieldAt e 48 8))
      idx := fieldAt e 32 4
      nodeNo := fieldAt e 36 4
      ancest := 0
      after := []
      cmd := ⟨.attn, BitVec.ofNat 512 at', .scalar, 0, .scalar, 0⟩
      waited := false
      t0 := .none
      t1 := .none
      shapes := []
      desc := (store.drop at').take 128
      phase := 0
      row := 0
      drops := 0
      failmap := 0
      parked := false
      denied := none
      attn := none
      data := []
      wrote := 0
      sent := 0
      failed := none
      at' := 0
      grant := x.accmap })

/-- Entry `i` of the directory of an area: LTAG, NODE, RANK, the place of the image and the core. -/
def dirEntry (all : List Byte) (i : Nat) : Nat × Nat × Nat × Nat × Nat :=
  let e := 64 + 32 * i
  (fieldAt all e 8, fieldAt all (e + 8) 2, fieldAt all (e + 12) 4, fieldAt all (e + 16) 8, fieldAt all (e + 24) 2)

/-- The launch of an image and the pass it belongs to: of the passes of its node that a drain holds, the one for the images of its rank that came before it. -/
def State.passFor (s : State) (all : List Byte) (i : Nat) : Option (Launch × Pass) :=
  let (ltag, node, rank, _, _) := dirEntry all i
  let before := ((List.range i).filter (fun j => let (t, n, k, _, _) := dirEntry all j; t == ltag && n == node && k == rank)).length
  (s.passes.filter (fun e => e.2.st == .held && e.2.node == node && fieldAt e.1.rec' 104 8 == ltag))[before]?

/-- The core records of an area: the record itself, with the accumulators of its images. -/
def coreOfArea (all : List Byte) (nctx i : Nat) : SavedCore :=
  let r := (all.drop (0x6000 + 1024 * i)).take 1024
  let orig := fieldAt r 552 4
  let img := (all.drop (fieldAt r 560 8)).take (imageLength coreLimit 16)
  let (bytes, full) := storeOfImage coreLimit img
  let mine := (List.range nctx).filter (fun j => (dirEntry all j).2.2.2.2 == orig)
  let acc := ((mine.mapIdx (fun k j => (k, j))).flatMap (fun e =>
    let x : Ctx := { Ctx.reset with accmap := BitVec.ofNat 64 (fieldAt r (512 + 8 * e.1) 8) }
    (x.grants.mapIdx (fun k a => (k, a))).map (fun g => (x.physical g.2, (dirEntry all e.2).2.2.2.1 + 0x4000 + 0x10000 * g.1)))).foldl (fun m g =>
      (List.range 16384).foldl (fun (m : SMap Word32) n => SMap.set m 0 (g.1 * 16384 + n) (BitVec.ofNat 32 (fieldAt all (g.2 + 4 * n) 4))) m) []
  ⟨orig, (List.range 16).foldl (fun m j => SMap.set m 0 j (BitVec.ofNat 256 (fieldAt r (32 * j) 32))) [], acc,
    (List.range 4).foldl (fun m a => SMap.set m false a ((fieldAt r 544 8).testBit a)) [], bytes, full, []⟩

/-- A cluster record of an area. -/
def clusOfArea (all : List Byte) (clk ncore i : Nat) : SavedStore :=
  let r := (all.drop (0x6000 + 1024 * ncore + 256 * i)).take 256
  let orig := fieldAt r 0 8
  let (bytes, full) := storeOfImage 0x800000 ((all.drop (fieldAt r 8 8)).take (imageLength 0x800000 16))
  let barrier := fun (b : Nat) =>
    let e := (r.drop (16 + 7 * b)).take 7
    (b, (⟨(fieldAt e 0 1).testBit 7, fieldAt e 0 1 % 32, (maskOf (e.drop 2) 2).map (fun k => 16 * orig + k), BitVec.ofNat 8 (fieldAt e 1 1), clk - fieldAt e 4 3 * clocksOf 1⟩ : Barrier))
  ⟨orig, (List.range 32).map barrier, 0, 0x800000, bytes, full, []⟩

/-- A die window of an area's partition record. -/
def windowOfArea (all rec' : List Byte) (d : Nat) : Option SavedStore :=
  let base := fieldAt rec' (16 * d) 4 * 2 ^ 20
  let size := fieldAt rec' (16 * d + 4) 4 * 2 ^ 20
  let at' := fieldAt rec' (16 * d + 8) 8
  if at' = 0 then none
  else
    let (bytes, full) := storeOfImage size ((all.drop at').take (imageLength size 0))
    some ⟨d, [], base, size, bytes, full, []⟩

/-- A step group of an area's partition record. -/
def groupOfArea (s : State) (rec' : List Byte) (k : Nat) : StepGroup :=
  let b := (rec'.drop (64 + 64 * k)).take 64
  let f := fieldAt b 0 2
  let gkey := fieldAt b 16 4
  { StepGroup.reset with
    conf := f.testBit 0
    failed := f.testBit 1
    seen := f.testBit 2
    remote := f.testBit 3
    launch := ((s.launches.find? (fun l => l.accepted && fieldAt l.rec' 104 8 == fieldAt b 8 8)).map (·.id)).getD 0
    node := fieldAt b 2 2
    phase := BitVec.ofNat 32 (fieldAt b 4 4)
    gkey := gkey
    base := if gkey = 0 then 0 else Config.rankBase s.devnum gkey
    first := s.clk - fieldAt b 20 4 * clocksOf 1
    members := maskOf (b.drop 24) 20
    arrived := maskOf (b.drop 44) 20 }

/-- What the bytes of a drain's area stand for, when every image's launch holds a pass for it. Trees with packets are known only to the device that saved them. -/
def areaOf (s : State) (all : List Byte) : Option Saved :=
  let nctx := fieldAt all 8 4
  let ncore := fieldAt all 12 4
  let nclus := fieldAt all 16 4
  let rec' := (all.drop (0x6000 + 1024 * ncore + 256 * nclus)).take 16384
  let places := (List.range nctx).map (s.passFor all)
  if fieldAt all 4 1 ≠ 1 ∨ places.any Option.isNone = true ∨ fieldAt rec' 6208 4 ≠ 0 then none
  else
    let cores := (List.range ncore).map (coreOfArea all nctx)
    let coreNo := fun (orig : Nat) => ((List.range ncore).find? (fun i => fieldAt all (0x6000 + 1024 * i + 552) 4 == orig)).getD 0
    let seats := (List.range nctx).map (fun i => let o := (dirEntry all i).2.2.2.2; (o, ((List.range i).filter (fun j => (dirEntry all j).2.2.2.2 == o)).length))
    let imgs := (List.range nctx).map (fun i => (all.drop (dirEntry all i).2.2.2.1).take 0x4000)
    let ctxs := (List.range nctx).filterMap (fun i => match (places.getD i none), seats[i]? with
      | some e, some (o, k) => some (4 * o + k, { ctxOfImage s e.1 e.2.uid (BitVec.ofNat 64 (fieldAt all (0x6000 + 1024 * coreNo o + 512 + 8 * k) 8)) (imgs.getD i []) with part := e.1.part })
      | _, _ => none)
    let ops := (ctxs.zip imgs).flatMap (fun e =>
      requestsOf s e.1.1 e.1.2 ((all.drop (fieldAt all (0x6000 + 1024 * coreNo (e.1.1 / 4) + 560) 8)).take coreLimit) e.2)
    some {
      kind := 1
      part := ((places.headD none).map (fun e => e.1.part)).getD 0
      since := s.clk
      len := fieldAt all 24 8
      digest := BitVec.ofNat 64 (fieldAt all 32 8)
      ctxs := ctxs
      cores := cores
      clus := (List.range nclus).map (clusOfArea all s.clk ncore)
      windows := (List.range 4).filterMap (windowOfArea all rec')
      groups := ((List.range 64).map (fun k => (k, groupOfArea s rec' k))).filter (fun e => e.2.conf)
      trees := []
      ops := ops }

end Sys2Proof.Machine
end

