-- ==== Sys2Proof/Machine/Preempt.lean ====
section
/-! DEFINITION. Pre-emption (R380 to R389, R404): drains and freezes to a save area, and restores from one. -/

namespace Sys2Proof.Machine

open Sys2Proof

variable {s0 : State}

/-! ### PRECTL (R381) -/

def prectlOff (p : Nat) : Nat := 0x081800 + 8 * p

def State.prectl (s : State) (p : Nat) : Nat := (s.dcbAt (s.homeDie p) (prectlOff p)).toNat

/-- GO is written with an operation. -/
def Run.startOp (r : Run s0) (p : Nat) (v : Word64) (op : Nat) : Run s0 :=
  r.setDcb (r.st.homeDie p) (prectlOff p) (BitVec.ofNat 64 (bitsOf v.toNat 12 44 * 4096 + op * 256 + 2))

/-- The operation is complete. -/
def Run.endOp (r : Run s0) (p result : Nat) : Run s0 :=
  let v := r.st.prectl p
  r.setDcb (r.st.homeDie p) (prectlOff p) (BitVec.ofNat 64 (bitsOf v 12 44 * 4096 + bitsOf v 8 2 * 256 + result * 4))

/-- PRECTL of a partition takes an operation: the partition has clusters, and no operation runs. Log 102, DESIGN CHOICE: results of pre-emption operations. -/
def State.opTaken (s : State) (p : Nat) : Bool := decide (p < 40) && !s.inFirmware && !(s.clustersOf p).isEmpty && !(s.prectl p).testBit 1

/-- The party in whose address space the save area lies: queue group 0 of the partition. -/
def savingParty (s : State) (p : Nat) : Option Agent :=
  ((List.range 1024).find? (fun g => s.groupPart g == some p)).map (partyOf s p)

/-- `PRECTL_DRAIN` (R382 step 1). -/
def execPrectlDrain (p : Nat) (v : Word64) (s : State) : Host.Outcome State Fault Refusal :=
  let r := Run.start s
  if s.opTaken p ∧ s.drains.all (fun d => d.part != p) = true then
    .next ((r.startOp p v 1).put (.drains (s.drains ++ [⟨p, bitsOf v.toNat 12 44 * 4096, s.clk, [], false, false, none, 0⟩]))).st
  else .next r.st

/-! ### Step 5: nothing is in flight -/

/-- The drive of a context stands at a tile boundary, or its switch waits (R282). -/
def State.driveRests (s : State) (c : Nat) : Bool :=
  match (s.ctx c).drive with
  | none => false
  | some d => !d.leaving && d.fault.isNone && !(s.readers.any (fun e => e.c == c && e.drive && (e.answer.isSome || e.failed)))

/-- A context has come to its stop point, and all that it committed is performed. -/
def State.ctxRests (s : State) (c : Nat) : Bool :=
  let x := s.ctx c
  let still := x.pend.isEmpty && !x.helmParked && !(SMap.keys s.escalated).contains c
  match x.mode with
  | .free => x.pend.isEmpty
  | .ended => still
  | .running => still && x.runs.isEmpty && (s.atStop c || s.driveRests c)
  | .stopped => false

/-- An attention request that a drain stops: not yet accepted, or at its checkpoint (R260). -/
def EngOp.rests (o : EngOp) : Bool := o.cmd.kind == .attn && (o.phase == 0 || o.phase == 4)

/-- The partition holds no token, buffer entry or partial accumulator in flight (R382 step 5). Log 99, DESIGN CHOICE: what keeps a drain from completing. -/
def State.drained (s : State) (p : Nat) : Bool :=
  s.draining p && !s.stoppedPart p && (s.liveCtxs.filter (fun c => (s.ctx c).part == p)).all s.ctxRests && s.ops.all (fun o => o.part != p || o.rests)

/-- A save area written. What it stands for is kept under its DIGEST. -/
def Run.writeArea (r : Run s0) (p save : Nat) (v : Saved) (body : List Byte) : Run s0 × Perf :=
  match savingParty r.st p with
  | none => (r, .fault 0x09 0x05 save)
  | some a =>
    let v := { v with len := 0x6000 + body.length, digest := rx64 (quadsOf body) }
    let (r, x) := r.writePieces a .main save (saveHeader r.st v ++ body) noIssuer
    match x with
    | .done => (r.put (.saved (v :: r.st.saved.filter (fun w => w.digest != v.digest || w.len != v.len))), .done)
    | x => (r, x)

/-- One drain or freeze of a partition changed. -/
def Run.modDrain (r : Run s0) (p : Nat) (f : DrainState → DrainState) : Run s0 := r.put (.drains (r.st.drains.map (fun d => if d.part = p then f d else d)))

/-- The writer of a save area waits on a page (R316); with the table full it tries again. -/
def Run.parkArea (r : Run s0) (p va : Nat) : Run s0 :=
  match savingParty r.st p with
  | none => r
  | some a =>
    match r.parkOn a.die a.grp va p kindWrite (.area p) with
    | some r => r.modDrain p (fun d => { d with parked := true })
    | none => r

/-! ### Steps 6 and 7 -/

/-- The copy of the area that BUDDY asks for (R404). -/
def Run.copyToBuddy (r : Run s0) (p save len : Nat) : Run s0 × Perf :=
  let w := (r.st.dcbAt (r.st.homeDie p) (0x082F00 + 8 * p)).toNat
  if w / 2 ^ 63 = 0 then (r, .done)
  else
    match savingParty r.st p with
    | none => (r, .fault 0x09 0x05 save)
    | some a =>
      let (r, g) := r.readBytes a .main save len .r []
      match g with
      | .bytes bs =>
        let dev := bitsOf w 43 13
        if dev = r.st.devnum then r.writePieces a .main (w % 2 ^ 43) bs noIssuer
        else r.writePieces a .peer (dev * 2 ^ 51 + w % 2 ^ 43) bs noIssuer
      | .park v => (r, .park v)
      | .fault c q v => (r, .fault c q v)

/-- The partition's contexts become free; its passes wait for a restore. -/
def Run.freePartition (r : Run s0) (p : Nat) (v : Saved) : Run s0 :=
  let gone := v.ctxs.map Prod.fst
  let r := r.purge (fun w => (waiterCtx w).any gone.contains || v.ops.any (fun o => w == .op o.id))
  let r := r.put (.readers (r.st.readers.filter (fun e => !gone.contains e.c)))
  let r := r.put (.ops (r.st.ops.filter (fun o => o.part != p)))
  let r := (r.st.coresOf p).foldl (fun r k => r.modCore k (fun x => { x with queues := [] })) r
  let r := gone.foldl (fun r c => (r.unpin c (fun _ => true)).setCtx c Ctx.reset) r
  let r := (r.st.clustersOf p).foldl (fun r k => (List.range 32).foldl (fun r b => r.put (.barrier (32 * k + b) { r.st.barrierOf k b with armed := false, expect := 0, arrived := [], first := 0 })) r) r
  let r := r.put (.trees (r.st.trees.filter (fun t => !v.trees.contains t)))
  r.put (.launches (r.st.launches.map (fun l => { l with work := l.work.map (fun q =>
    if (q.st = .run ∨ q.st = .failed) ∧ (q.live.any gone.contains ∨ v.ops.any (fun o => o.c == 640 && o.iid == q.uid)) then { q with st := .held, live := [], accs := [], bars := [] } else q) })))

/-- The area of a drain could not be written: the partition stays stopped. -/
def Run.drainFails (r : Run s0) (p : Nat) : Run s0 :=
  let clk := r.st.clk
  (r.modDrain p (fun d => { d with frozen := true, frozenAt := clk, denied := none })).endOp p 3

/-- The drain is complete: the partition's contexts are free. -/
def Run.drainDone (r : Run s0) (p : Nat) (v : Saved) (result : Nat) : Run s0 :=
  let r := r.freePartition p v
  (r.put (.drains (r.st.drains.filter (fun e => e.part != p)))).endOp p result

/-- Steps 6 and 7 of a drain (R382, R404): the area is written and copied, waiting where a page is not present. -/
def Run.saveDrained (r : Run s0) (p : Nat) (d : DrainState) : Run s0 :=
  let r := (r.st.livesIn p).foldl Run.dropStrays r
  let v := r.st.toSave p d.since
  let body := saveBody r.st v
  let (r, x) := r.writeArea p d.save v body
  match x with
  | .done =>
    let (r, y) := r.copyToBuddy p d.save (0x6000 + body.length)
    match y with
    | .done => r.drainDone p v 1
    | .park va => r.parkArea p va
    | _ => r.drainDone p v 3
  | .park va => r.parkArea p va
  | _ => r.drainFails p

/-! ### Freezes (R382, R389) -/

/-- The state of a frozen partition is shifted out; the spec gives the chain neither length nor layout. -/
def Run.saveFrozen (r : Run s0) (p : Nat) (d : DrainState) : Run s0 :=
  let n := r.choice
  let body := (List.range (8 * (Config.freeWord n).toNat)).map (Config.freeByte n)
  let (r, x) := r.chose.writeArea p d.save ⟨2, p, d.since, 0, 0, [], [], [], [], [], [], []⟩ body
  match x with
  | .done => r.endOp p 2
  | .park va => r.parkArea p va
  | _ => r.endOp p 3

/-- The partition's clocks stop, and its state is shifted out. -/
def Run.freeze (r : Run s0) (p save : Nat) : Run s0 :=
  let s := r.st
  let old := s.drains.find? (fun d => d.part == p)
  let d : DrainState := ⟨p, save, (old.map (·.since)).getD s.clk, (old.map (·.stopped)).getD [], true, false, none, s.clk⟩
  (r.put (.drains (s.drains.filter (fun d => d.part != p) ++ [d]))).saveFrozen p d

/-- The save area of a partition is still to be written: step 5 of a drain is reached, or a freeze waited for a page. -/
def State.saves (s : State) (p : Nat) : Bool :=
  s.drains.any (fun d => d.part == p && !d.parked && (if d.frozen then (s.prectl p).testBit 1 else s.drained p))

/-- `DRAIN_COMPLETE` (R382 steps 6 and 7, R404). -/
def execDrainComplete (p : Nat) (s : State) : Host.Outcome State Fault Refusal :=
  let r := Run.start s
  match s.saves p, s.drains.find? (fun d => d.part == p) with
  | true, some d => .next (if d.denied.isSome then r.drainFails p else if d.frozen then r.saveFrozen p d else r.saveDrained p d).st
  | _, _ => .next r.st

/-- A drain has not come to step 5 within 200 µs. -/
def State.drainOverdue (s : State) (p : Nat) : Bool := s.drains.any (fun d => d.part == p && !d.frozen && decide (d.since + clocksOf 200 ≤ s.clk)) && !s.drained p && !s.stoppedPart p

/-- `DRAIN_TIMEOUT` (R382). -/
def execDrainTimeout (p : Nat) (s : State) : Host.Outcome State Fault Refusal :=
  let r := Run.start s
  match s.drainOverdue p, s.drains.find? (fun d => d.part == p) with
  | true, some d => .next (r.freeze p d.save).st
  | _, _ => .next r.st

/-- `PRECTL_FREEZE` (R389). -/
def execPrectlFreeze (p : Nat) (v : Word64) (s : State) : Host.Outcome State Fault Refusal :=
  let r := Run.start s
  if s.opTaken p then .next ((r.startOp p v 2).freeze p (bitsOf v.toNat 12 44 * 4096)).st else .next r.st

/-! ### Restoring a drain (R387) -/

/-- The partition is idle: no context, operation, barrier or drain of it stands. -/
def State.idlePart (s : State) (p : Nat) : Bool :=
  (s.coresOf p).all (fun k => (coreCtxs (4 * k)).all s.ctxFree) && s.ops.all (fun o => o.part != p) && s.drains.all (fun d => d.part != p)
    && (s.clustersOf p).all (fun k => (List.range 32).all (fun b => !(s.barrierOf k b).armed))

/-- What a restore has placed so far: core records by their numbers, contexts, clusters, and the physical accumulators taken. -/
structure Placing where
  cores : List (SavedCore × Nat)
  ctxs  : List (Nat × Nat)
  clus  : List (Nat × Nat)
  accs  : List (Nat × List Nat)
  deriving DecidableEq, Repr

def SavedCore.used (k : SavedCore) : List Nat := usedMap k.bytes k.full
def SavedStore.used (k : SavedStore) : List Nat := usedMap k.bytes k.full

/-- The records that a core has been given. -/
def Placing.on (t : Placing) (core : Nat) : List SavedCore := (t.cores.filter (fun e => e.2 == core)).map Prod.fst

/-- A core qualifies for a record. -/
def Placing.fits (t : Placing) (s : State) (v : Saved) (k : SavedCore) (core : Nat) : Bool :=
  let mine := v.ctxs.filter (fun e => e.1 / 4 == k.orig)
  let taken := t.ctxs.map Prod.snd
  let accs := (s.freeAccs core).filter (fun a => t.accs.all (fun e => !e.2.contains a))
  let held := (v.clus.find? (fun u => u.orig == k.orig / 4)).any (fun u => !u.used.isEmpty)
  decide (mine.length ≤ ((coreCtxs (4 * core)).filter (fun c => s.ctxFree c && !taken.contains c)).length)
    && decide ((mine.map (fun e => e.2.grants.length)).sum ≤ accs.length)
    && (t.on core).all (fun y => y.td == k.td && y.used.all (fun u => !k.used.contains u))
    && (!held || (match t.clus.find? (fun e => e.1 == k.orig / 4) with
      | some e => e.2 == core / 4
      | none => true))

/-- The images of a record on a core: the lowest free contexts and accumulators, in directory order. -/
def Placing.seatAll (t : Placing) (s : State) (v : Saved) (k : SavedCore) (core : Nat) : Placing :=
  let t := { t with cores := t.cores ++ [(k, core)], clus := if t.clus.any (fun e => e.1 == k.orig / 4) then t.clus else t.clus ++ [(k.orig / 4, core / 4)] }
  (v.ctxs.filter (fun e => e.1 / 4 == k.orig)).foldl (fun t e =>
    let c := ((coreCtxs (4 * core)).find? (fun c => s.ctxFree c && t.ctxs.all (fun y => y.2 != c))).getD 640
    let accs := ((s.freeAccs core).filter (fun a => t.accs.all (fun y => !y.2.contains a))).take e.2.grants.length
    { t with ctxs := t.ctxs ++ [(e.1, c)], accs := t.accs ++ [(e.1, accs)] }) t

/-- The images that a core has been given. -/
def Placing.load (t : Placing) (core : Nat) : Nat := (t.ctxs.filter (fun e => e.2 / 4 == core)).length

/-- A record goes to the qualifying core with the fewest images, the lowest-numbered among equals. -/
def Placing.put (s : State) (v : Saved) (p : Nat) (t : Option Placing) (k : SavedCore) : Option Placing :=
  t.bind (fun t =>
    let cs := (s.coresOf p).filter (t.fits s v k)
    (cs.foldl (fun (m : Option Nat) c => match m with
      | none => some c
      | some b => if t.load c < t.load b then some c else some b) none).map (t.seatAll s v k))

/-- A cluster record goes where its cores went. -/
def Placing.clusOf (t : Placing) (k : Nat) : Nat := ((t.clus.find? (fun e => e.1 == k)).map Prod.snd).getD 40

/-- The new number of a context; one that was not saved keeps its own. -/
def Placing.ctxOf (t : Placing) (c : Nat) : Nat := ((t.ctxs.find? (fun e => e.1 == c)).map Prod.snd).getD c

/-- The new number of a core. -/
def Placing.coreOf (t : Placing) (k : Nat) : Nat := ((t.cores.find? (fun e => e.1.orig == k)).map Prod.snd).getD k

/-- ACCMAP of a restored context: its logical accumulators on its new physical ones. -/
def Placing.accmap (t : Placing) (c : Nat) (x : Ctx) : Word64 := accmapOf x.grants (((t.accs.find? (fun e => e.1 == c)).map Prod.snd).getD [])

/-- The passes that the saved contexts and requests belong to, each with its launch. -/
def State.passesOf (s : State) (v : Saved) : List (Launch × Pass) :=
  s.passes.filter (fun e => e.2.st == .held && (v.ctxs.any (fun y => y.2.pass == e.2.uid) || v.ops.any (fun o => o.c == 640 && o.iid == e.2.uid)))

/-- The members of a saved pass by their new numbers, in rank order. -/
def Placing.team (t : Placing) (v : Saved) (uid : Nat) : List Nat :=
  let mine := v.ctxs.filter (fun e => e.2.pass == uid)
  ((sortNat (mine.map (fun e => e.2.rank))).filterMap (fun k => mine.find? (fun e => e.2.rank == k))).map (fun e => t.ctxOf e.1)

/-- A barrier with arrivals needs all its members in one cluster, and none besides. -/
def Placing.barriersFit (t : Placing) (s : State) (v : Saved) : Bool :=
  let bars := fun (e : Launch × Pass) => ((e.1.nodeOf e.2).map (·.barmask)).getD 0
  let ps := s.passesOf v
  ps.all (fun e => v.clus.all (fun u => u.barriers.all (fun b =>
    let old := (v.ctxs.filter (fun y => y.2.pass == e.2.uid && y.1 / 16 == u.orig)).map (fun y => t.ctxOf y.1)
    !(bars e).testBit b.1 || b.2.arrived.isEmpty || old.isEmpty
      || (old.all (fun c => c / 16 == (old.headD 0) / 16) && (t.team v e.2.uid).all (fun c => c / 16 != (old.headD 0) / 16 || old.contains c)))))
    && ps.all (fun e => ps.all (fun y => e.2.uid == y.2.uid || (List.range 32).all (fun b => !((bars e).testBit b && (bars y).testBit b)
      || (t.team v e.2.uid).all (fun c => (t.team v y.2.uid).all (fun d => c / 16 != d / 16)))))

/-- A die-store window fits its target, or holds nothing. -/
def windowFits (s : State) (p : Nat) (u : SavedStore) : Bool :=
  let w := s.window u.orig p
  (u.bytes.isEmpty && u.full.isEmpty) || (w.1 == u.base && decide (u.size ≤ w.2 - w.1))

/-- The router of each node of a saved tree over its new team (R343). -/
def rebind (l : Launch) (t : Tree) (team : List Nat) : Tree :=
  match (l.trees.filter (fun d => treeNode d == t.node)).find? (fun d => fieldAt d 0 1 == t.ident) with
  | some d => { t with nodes := t.nodes.mapIdx (fun j n => { n with router := routerOf d team j }) }
  | none => t

/-- The placement of a save area in a partition, when every check and every placement holds. -/
def placeSaved (s : State) (v : Saved) (p : Nat) : Option Placing :=
  (v.cores.foldl (Placing.put s v p) (some ⟨[], [], [], []⟩)).bind (fun t =>
    let groups := fun (k : Nat) => let g := SMap.get s.groups StepGroup.reset (groupKey v.part k); if g.conf && v.ctxs.any (fun e => e.2.launch == g.launch) then some g else none
    let clash := v.clus.any (fun a => v.clus.any (fun b => a.orig != b.orig && t.clusOf a.orig == t.clusOf b.orig && a.used.any b.used.contains))
    let ok := t.barriersFit s v && v.windows.all (windowFits s p) && !clash
      && (s.passesOf v).all (fun e => s.treesFit e.1 e.2.node (t.team v e.2.uid))
      && v.ctxs.all (fun e => s.passes.any (fun y => y.2.st == .held && y.2.uid == e.2.pass && y.1.id == e.2.launch))
      && (p == v.part || (List.range 64).all (fun k => (groups k).isNone || !(s.group p k).conf))
    if ok then some t else none)

/-- A store image written at a key. -/
def Run.fillStore (r : Run s0) (lo : Nat) (bytes : List (Nat × Byte)) (full : List Nat) (poison : List (Nat × (Nat × Nat))) : Run s0 :=
  let r := bytes.foldl (fun r e => r.put (.byte (lo + e.1) e.2)) r
  let r := full.foldl (fun r g => r.put (.full (lo / 16 + g) true)) r
  poison.foldl (fun r e => r.put (.poison (lo / 8 + e.1) e.2)) r

/-- An operation with its context and core renumbered. -/
def Placing.op (t : Placing) (p : Nat) (o : EngOp) : EngOp := { o with c := t.ctxOf o.c, core := t.coreOf o.core, part := p }

/-- The cores, clusters and windows of a save area are written. -/
def Run.restoreStores (r : Run s0) (p : Nat) (v : Saved) (t : Placing) : Run s0 :=
  let r := ((t.cores.map Prod.snd).eraseDups).foldl (fun r k => r.put (.clear (coreKey k 0) (coreKey k coreLimit))) r
  let r := t.cores.foldl (fun r e =>
    (r.modCore e.2 (fun x => { x with td := e.1.td })).fillStore (coreKey e.2 0) e.1.bytes e.1.full e.1.poison) r
  let r := ((v.clus.map (fun u => t.clusOf u.orig)).eraseDups).foldl (fun r k => r.put (.clear (clusKey k 0) (clusKey (k + 1) 0))) r
  let r := v.clus.foldl (fun r u => r.fillStore (clusKey (t.clusOf u.orig) 0) u.bytes u.full u.poison) r
  v.windows.foldl (fun r u =>
    if u.bytes.isEmpty && u.full.isEmpty then r
    else (r.put (.clear (dieKey u.orig u.base) (dieKey u.orig (u.base + u.size)))).fillStore (dieKey u.orig (r.st.window u.orig p).1) u.bytes u.full u.poison) r

/-- A context takes its image. -/
def Run.restoreCtx (r : Run s0) (p : Nat) (v : Saved) (t : Placing) (old : Nat) (x : Ctx) : Run s0 :=
  let c := t.ctxOf old
  let map := t.accmap old x
  let x' := { x with accmap := map, part := p, handler := r.st.htab p, pendAt := r.st.clk }
  let r := match v.cores.find? (fun k => k.orig == old / 4) with
    | none => r
    | some k => x.grants.foldl (fun r a => r.modCore (c / 4) (fun y =>
        let y := y.clearAcc (x'.physical a)
        let y := (List.range 16384).foldl (fun (y : Core) i => { y with acc := SMap.set y.acc 0 (x'.physical a * 16384 + i) (SMap.get k.acc 0 (x.physical a * 16384 + i)) }) y
        y.setPoison (x'.physical a) (SMap.get k.poisoned false (x.physical a)))) r
  r.setCtx c x'

/-- The barriers of the restored passes are armed with their members in each cluster, and keep their generation and their arrivals. -/
def Run.restoreBarriers (r : Run s0) (v : Saved) (t : Placing) (shift : Nat) : Run s0 :=
  (r.st.passesOf v).foldl (fun r e =>
    let team := t.team v e.2.uid
    let mask := ((e.1.nodeOf e.2).map (·.barmask)).getD 0
    v.clus.foldl (fun r u => u.barriers.foldl (fun r b =>
      let k := t.clusOf u.orig
      let here := team.filter (fun c => c / 16 == k)
      if mask.testBit b.1 ∧ here ≠ [] then
        let fresh := !(r.st.barrierOf k b.1).armed
        let arrived := b.2.arrived.map t.ctxOf
        if fresh ∨ arrived ≠ [] then
          r.put (.barrier (32 * k + b.1) ⟨true, here.length, arrived.filter here.contains, b.2.gen, if arrived.isEmpty then 0 else b.2.first + shift⟩)
        else r
      else r) r) (r.armBarriers mask team)) r

/-- The trees are bound to the new contexts, with the packets they hold. -/
def Run.restoreTrees (r : Run s0) (p : Nat) (v : Saved) (t : Placing) (shift : Nat) : Run s0 :=
  v.trees.foldl (fun r y =>
    match (r.st.passesOf v).find? (fun e => e.1.id == y.launch && e.2.node == y.node) with
    | none => r
    | some e =>
      let y := rebind e.1 y (t.team v e.2.uid)
      let packet := fun (q : Packet) => { q with c := t.ctxOf q.c, at' := q.at' + shift }
      r.put (.trees (r.st.trees ++ [{ y with
        marks := y.marks.map (fun m => (m.1, t.op p m.2))
        nodes := y.nodes.map (fun n => { n with slots := n.slots.map (fun q => q.map packet) }) }]))) r

/-- The step groups that wait on the shelf for a launch go with it to another partition. -/
def Run.moveShelf (r : Run s0) (src dst : Nat) (ours : Nat → Bool) (ctx : Nat → Nat) : Run s0 :=
  r.put (.shelf (r.st.shelf.map (fun e =>
    if ours e.2.launch then (if e.1 / 64 = src then groupKey dst (e.1 % 64) else e.1, { e.2 with next := e.2.next.map (fun x => { x with c := ctx x.c }) }) else e)))

/-- Step groups of the saved launches go on with the time they had, in the target partition; one that this device does not hold is as the area has it. -/
def Run.restoreGroups (r : Run s0) (p : Nat) (v : Saved) (t : Placing) (shift : Nat) : Run s0 :=
  (List.range 64).foldl (fun r k =>
    let g := r.st.group v.part k
    if g.conf ∧ v.ctxs.any (fun e => e.2.launch == g.launch) = true then
      let g := { g with first := g.first + shift, next := g.next.map (fun e => { e with c := t.ctxOf e.c }) }
      let r := if p = v.part then r else r.put (.group (groupKey v.part k) StepGroup.reset)
      r.put (.group (groupKey p k) g)
    else
      match v.groups.find? (fun e => e.1 == k) with
      | some e => r.put (.group (groupKey p k) { e.2 with first := e.2.first + shift, next := [], copies := [] })
      | none => r) (r.moveShelf v.part p (fun id => v.ctxs.any (fun e => e.2.launch == id)) t.ctxOf)

/-- The passes go on in the partition, and the launches with them. -/
def Run.restorePasses (r : Run s0) (p : Nat) (v : Saved) (t : Placing) : Run s0 :=
  let mine := (r.st.passesOf v).map (fun e => e.2.uid)
  let accsOf := fun (team : List Nat) => (t.ctxs.filter (fun e => team.contains e.2)).flatMap (fun e => ((t.accs.find? (fun y => y.1 == e.1)).map Prod.snd).getD [])
  r.put (.launches (r.st.launches.map (fun l =>
    if l.work.any (fun q => mine.contains q.uid) then
      { l with
        rec' := l.rec'.set 26 (BitVec.ofNat 8 p)
        work := l.work.map (fun q =>
          if mine.contains q.uid then
            let team := t.team v q.uid
            { q with st := if (l.nodes[q.node]?).any (fun n => n.st == .failed) then .failed else .run, live := team, accs := accsOf team, bars := barsOf (((l.nodes[q.node]?).map (·.barmask)).getD 0) team }
          else q) }
    else l)))

/-- The attention requests are issued again under their tickets (R260); one read from an area takes a number of its own and empties the register that it will fill. A request of an engine node takes free accumulators of its core. -/
def Run.reissue (r : Run s0) (p : Nat) (v : Saved) (t : Placing) : Run s0 :=
  v.ops.foldl (fun r o =>
    let set := accSetOf o.desc
    let y := t.op p o
    let accs := if o.c < 640 then [] else ((r.st.freeAccs y.core).filter (fun a => t.accs.all (fun e => !e.2.contains a))).take set.length
    let grant := if o.c < 640 then (r.st.ctx y.c).accmap else accmapOf set accs
    let fresh := decide (r.st.uid < o.id)
    let r := if fresh then r.put .named else r
    let y := { y with id := if fresh then r.st.uid else o.id, phase := 0, attn := none, parked := false, denied := none, wrote := 0, data := [], grant := grant }
    let r := r.addOp y
    let r := if fresh then r.claimRegs y ((completionWords .attn y.desc).map Prod.snd) else r
    let r := if o.c < 640 then r else r.put (.launches (r.st.launches.map (fun l => { l with work := l.work.map (fun q => if q.uid = o.iid then { q with accs := accs } else q) })))
    set.foldl (fun r a => if y.grant.getLsbD a then r.enqueue y.core (y.physical a) (.attention y.id) else r) r) r

/-- A drained save area restored. -/
def Run.restoreDrain (r : Run s0) (p : Nat) (v : Saved) (t : Placing) : Run s0 :=
  let shift := r.st.clk - v.since
  let r := r.restoreStores p v t
  let r := v.ctxs.foldl (fun r e => r.restoreCtx p v t e.1 e.2) r
  let r := (r.restoreBarriers v t shift).restoreTrees p v t shift
  let r := r.restoreGroups p v t shift
  (r.restorePasses p v t).reissue p v t

/-! ### Restoring a freeze (R387, R389) -/

/-- Two partitions have the same number of clusters on each die. -/
def sameShape (s : State) (p q : Nat) : Bool :=
  (List.range 4).all (fun d => ((s.clustersOf p).filter (fun k => k / 10 == d)).length == ((s.clustersOf q).filter (fun k => k / 10 == d)).length)

/-- The frozen partition moves, cluster by cluster, to another of the same shape. The stores stay in place. -/
def Run.moveFrozen (r : Run s0) (src dst : Nat) : Run s0 :=
  let pairs := (r.st.clustersOf src).zip (r.st.clustersOf dst)
  let clus := fun (k : Nat) => ((pairs.find? (fun e => e.1 == k)).map Prod.snd).getD k
  let core := fun (k : Nat) => 4 * clus (k / 4) + k % 4
  let ctx := fun (c : Nat) => if c < 640 then 4 * core (c / 4) + c % 4 else c
  let key := fun (k : Nat) => if k < clusKey 0 0 then coreKey (core (k / 2 ^ 22)) (k % 2 ^ 22) else if k < dieKey 0 0 then clusKey (clus ((k - clusKey 0 0) / 2 ^ 23)) (k % 2 ^ 23) else k
  let op := fun (o : EngOp) => if o.part = src then { o with c := ctx o.c, core := core o.core, part := dst } else o
  let waiter := fun (w : Waiter) => match w with
    | .node c i j => Waiter.node (ctx c) i j
    | .pend c i => .pend (ctx c) i
    | .fetch c => .fetch (ctx c)
    | .helm c => .helm (ctx c)
    | .drive c => .drive (ctx c)
    | w => w
  let s := r.st
  let r := pairs.foldl (fun r e =>
    let r := (List.range 16).foldl (fun r i =>
      (r.setCtx (16 * e.2 + i) { s.ctx (16 * e.1 + i) with part := dst, handler := s.htab dst }).setCtx (16 * e.1 + i) Ctx.reset) r
    let r := (List.range 4).foldl (fun r i =>
      let x := s.core (4 * e.1 + i)
      (r.put (.core (4 * e.2 + i) { x with placed := x.placed.map (fun b => { b with pin := b.pin.map ctx }) })).put (.core (4 * e.1 + i) Core.reset)) r
    (List.range 32).foldl (fun r b =>
      let x := s.barrierOf e.1 b
      (r.put (.barrier (32 * e.2 + b) { x with arrived := x.arrived.map ctx })).put (.barrier (32 * e.1 + b) { x with armed := false, expect := 0, arrived := [], first := 0 })) r) r
  let r := r.put (.ops (s.ops.map op))
  let r := r.put (.readers (s.readers.map (fun e => if (s.ctx e.c).part = src then { e with c := ctx e.c, key := key e.key, granule := key (16 * e.granule) / 16 } else e)))
  let r := (SMap.keys s.ptt).foldl (fun r k =>
    let e := SMap.get s.ptt Park.free k
    if e.part = src then r.put (.ptt k { e with part := dst, ws := e.ws.map waiter }) else r) r
  let r := r.put (.home (s.home.map (fun h => { h with c := ctx h.c, by' := waiter h.by' })))
  let r := r.put (.trees (s.trees.map (fun t => if s.partOfLaunch t.launch = src then
    { t with
      marks := t.marks.map (fun m => (m.1, op m.2))
      nodes := t.nodes.map (fun n => { n with
        router := if n.router < 40 then clus n.router else n.router
        slots := n.slots.map (fun q => q.map (fun e => { e with c := ctx e.c })) }) } else t)))
  let record := fun (k : Nat) => if k % 4096 < 640 then k - k % 4096 + ctx (k % 4096) else if 1024 ≤ k % 4096 ∧ k % 4096 < 1664 then k - k % 4096 + 1024 + ctx (k % 4096 - 1024) else k
  let r := r.put (.escalated (s.escalated.foldl (fun m e => SMap.set m (FaultRec.of 0 0) (record e.1) e.2) []))
  let r := r.put (.withHost (s.withHost.map ctx))
  let r := r.moveShelf src dst (fun id => s.partOfLaunch id == src) ctx
  let r := (List.range 64).foldl (fun r k =>
    let g := s.group src k
    if g.conf then
      (r.put (.group (groupKey src k) StepGroup.reset)).put (.group (groupKey dst k) { g with next := g.next.map (fun e => { e with c := ctx e.c }) })
    else r) r
  r.put (.launches (s.launches.map (fun l => if l.part = src then
    { l with
      rec' := l.rec'.set 26 (BitVec.ofNat 8 dst)
      work := l.work.map (fun q => { q with
        live := q.live.map ctx
        accs := q.accs.map (fun a => 4 * core (a / 4) + a % 4)
        bars := q.bars.map (fun b => 32 * clus (b / 32) + b % 32) }) } else l)))

/-- The clocks of a frozen partition start again, each unit where it stopped; requests that a drain had stopped go on. -/
def Run.thaw (r : Run s0) (src dst : Nat) (v : Saved) : Run s0 :=
  let at' := ((r.st.drains.find? (fun d => d.part == src)).map (·.frozenAt)).getD r.st.clk
  let r := if src = dst then r else r.moveFrozen src dst
  let r := r.put (.drains (r.st.drains.filter (fun d => d.part != src)))
  let r := r.put (.ops (r.st.ops.map (fun o => if o.part = dst ∧ (o.phase = 4 ∨ o.phase = 5) ∧ o.cmd.kind = .attn then { o with phase := 1 } else o)))
  r.shiftTimers dst (r.st.clk - at') (r.st.clk - v.since)

/-- A frozen partition's area may be restored onto a partition: the frozen one itself, or an idle one of the same shape whose step groups are free. -/
def State.thaws (s : State) (v : Saved) (p : Nat) : Bool :=
  s.drains.any (fun d => d.part == v.part && d.frozen) && (p == v.part || (s.idlePart p && sameShape s v.part p && (List.range 64).all (fun k => !(s.group p k).conf)))

/-! ### `PRECTL_RESTORE` -/

/-- What the area at an address stands for, when IVER, LENGTH and DIGEST agree with its bytes: the very area that this device saved under them, or what the bytes of another say. Log 138,
DESIGN CHOICE: an area whose bytes cannot be read does not restore. -/
def Run.savedAt (r : Run s0) (p save : Nat) : Run s0 × Option Saved :=
  match savingParty r.st p with
  | none => (r, none)
  | some a =>
    let (r, h) := r.readBytes a .main save 0x6000 .r []
    match h with
    | .bytes h =>
      let n := fieldAt h 24 8
      if fieldAt h 0 4 ≠ 1 ∨ n < 0x6000 then (r, none)
      else
        let (r, b) := r.readBytes a .main (save + 0x6000) (n - 0x6000) .r []
        match b with
        | .bytes b =>
          let d := rx64 (quadsOf b)
          if d.toNat ≠ fieldAt h 32 8 then (r, none)
          else
            match r.st.saved.find? (fun v => v.digest == d && v.len == n && (saveHeader r.st v).take (64 + 32 * v.ctxs.length) == h.take (64 + 32 * v.ctxs.length)) with
            | some v => (r, some v)
            | none => (r, areaOf r.st (h ++ b))
        | _ => (r, none)
    | _ => (r, none)

/-- `PRECTL_RESTORE` (R387): a failing check or placement restores nothing. -/
def execPrectlRestore (p : Nat) (v : Word64) (s : State) : Host.Outcome State Fault Refusal :=
  let r := Run.start s
  if s.opTaken p then
    let (r, found) := (r.startOp p v 3).savedAt p (bitsOf v.toNat 12 44 * 4096)
    match found with
    | none => .next (r.endOp p 3).st
    | some u =>
      let used := fun {s0 : State} (r : Run s0) => r.put (.saved (r.st.saved.filter (fun w => w != u)))
      if u.kind = 2 then
        .next (if r.st.thaws u p then ((used (r.thaw u.part p u)).endOp p 0) else r.endOp p 3).st
      else if r.st.idlePart p then
        match placeSaved r.st u p with
        | some t => .next ((used (r.restoreDrain p u t)).endOp p 0).st
        | none => .next (r.endOp p 3).st
      else .next (r.endOp p 3).st
  else .next r.st

end Sys2Proof.Machine
end

