-- ==== Sys2Proof/Machine/Dispatch.lean ====
section
/-! DEFINITION. The one table from instructions to their meanings. -/

namespace Sys2Proof.Machine

open Sys2Proof

def exec (i : Instr) (s : State) : Host.Outcome State Fault Refusal :=
  match i with
  | .br g off => Sys2Proof.Machine.execBr g off s
  | .call g off => Sys2Proof.Machine.execCall g off s
  | .wdrive g off => Sys2Proof.Machine.execWdrive g off s
  | .brn g => Sys2Proof.Machine.execBrn g s
  | .brnDec g => Sys2Proof.Machine.execBrnDec g s
  | .bri g => Sys2Proof.Machine.execBri g s
  | .calli g => Sys2Proof.Machine.execCalli g s
  | .ret g => Sys2Proof.Machine.execRet g s
  | .iter g t0 t1 => Sys2Proof.Machine.execIter g t0 t1 s
  | .halt g => Sys2Proof.Machine.execHalt g s
  | .mov g t0 t1 => Sys2Proof.Machine.execMov g t0 t1 s
  | .null g t0 t1 => Sys2Proof.Machine.execNull g t0 t1 s
  | .steer t0 t1 => Sys2Proof.Machine.execSteer t0 t1 s
  | .select t0 t1 => Sys2Proof.Machine.execSelect t0 t1 s
  | .merge t0 t1 => Sys2Proof.Machine.execMerge t0 t1 s
  | .join g n t0 => Sys2Proof.Machine.execJoin g n t0 s
  | .joinOr g n t0 => Sys2Proof.Machine.execJoinOr g n t0 s
  | .ctl g t0 t1 => Sys2Proof.Machine.execCtl g t0 t1 s
  | .ctlNz g t0 t1 => Sys2Proof.Machine.execCtlNz g t0 t1 s
  | .movi g v t0 => Sys2Proof.Machine.execMovi g v t0 s
  | .lit g j t0 => Sys2Proof.Machine.execLit g j t0 s
  | .read g r t0 => Sys2Proof.Machine.execRead g r t0 s
  | .readT g r t0 => Sys2Proof.Machine.execReadT g r t0 s
  | .write g r => Sys2Proof.Machine.execWrite g r s
  | .itag g l t0 => Sys2Proof.Machine.execItag g l t0 s
  | .nest g c => Sys2Proof.Machine.execNest g c s
  | .unnest g => Sys2Proof.Machine.execUnnest g s
  | .cfgld g t0 => Sys2Proof.Machine.execCfgld g t0 s
  | .decide g t0 t1 => Sys2Proof.Machine.execDecide g t0 t1 s
  | .decideRgn g t0 t1 => Sys2Proof.Machine.execDecideRgn g t0 t1 s
  | .add w g t0 t1 => Sys2Proof.Machine.execAdd w g t0 t1 s
  | .sub w g t0 t1 => Sys2Proof.Machine.execSub w g t0 t1 s
  | .mul w g t0 t1 => Sys2Proof.Machine.execMul w g t0 t1 s
  | .mulh w g t0 t1 => Sys2Proof.Machine.execMulh w g t0 t1 s
  | .mulhn w g t0 t1 => Sys2Proof.Machine.execMulhn w g t0 t1 s
  | .div w g t0 t1 => Sys2Proof.Machine.execDiv w g t0 t1 s
  | .divn w g t0 t1 => Sys2Proof.Machine.execDivn w g t0 t1 s
  | .rem w g t0 t1 => Sys2Proof.Machine.execRem w g t0 t1 s
  | .remn w g t0 t1 => Sys2Proof.Machine.execRemn w g t0 t1 s
  | .and w g t0 t1 => Sys2Proof.Machine.execAnd w g t0 t1 s
  | .or w g t0 t1 => Sys2Proof.Machine.execOr w g t0 t1 s
  | .xor w g t0 t1 => Sys2Proof.Machine.execXor w g t0 t1 s
  | .andn w g t0 t1 => Sys2Proof.Machine.execAndn w g t0 t1 s
  | .shl w g t0 t1 => Sys2Proof.Machine.execShl w g t0 t1 s
  | .shr w g t0 t1 => Sys2Proof.Machine.execShr w g t0 t1 s
  | .sra w g t0 t1 => Sys2Proof.Machine.execSra w g t0 t1 s
  | .rotl w g t0 t1 => Sys2Proof.Machine.execRotl w g t0 t1 s
  | .min w g t0 t1 => Sys2Proof.Machine.execMin w g t0 t1 s
  | .max w g t0 t1 => Sys2Proof.Machine.execMax w g t0 t1 s
  | .minn w g t0 t1 => Sys2Proof.Machine.execMinn w g t0 t1 s
  | .maxn w g t0 t1 => Sys2Proof.Machine.execMaxn w g t0 t1 s
  | .clz w g t0 t1 => Sys2Proof.Machine.execClz w g t0 t1 s
  | .ctz w g t0 t1 => Sys2Proof.Machine.execCtz w g t0 t1 s
  | .popc w g t0 t1 => Sys2Proof.Machine.execPopc w g t0 t1 s
  | .sext w g t0 t1 => Sys2Proof.Machine.execSext w g t0 t1 s
  | .zext w g t0 t1 => Sys2Proof.Machine.execZext w g t0 t1 s
  | .bfx w g p t0 => Sys2Proof.Machine.execBfx w g p t0 s
  | .bfi w g p t0 => Sys2Proof.Machine.execBfi w g p t0 s
  | .lea g sh t0 => Sys2Proof.Machine.execLea g sh t0 s
  | .cmpEq w g t0 t1 => Sys2Proof.Machine.execCmpEq w g t0 t1 s
  | .cmpNe w g t0 t1 => Sys2Proof.Machine.execCmpNe w g t0 t1 s
  | .cmpLt w g t0 t1 => Sys2Proof.Machine.execCmpLt w g t0 t1 s
  | .cmpLe w g t0 t1 => Sys2Proof.Machine.execCmpLe w g t0 t1 s
  | .cmpLtn w g t0 t1 => Sys2Proof.Machine.execCmpLtn w g t0 t1 s
  | .cmpLen w g t0 t1 => Sys2Proof.Machine.execCmpLen w g t0 t1 s
  | .addi w g v t0 => Sys2Proof.Machine.execAddi w g v t0 s
  | .andi w g v t0 => Sys2Proof.Machine.execAndi w g v t0 s
  | .ori w g v t0 => Sys2Proof.Machine.execOri w g v t0 s
  | .xori w g v t0 => Sys2Proof.Machine.execXori w g v t0 s
  | .shli w g v t0 => Sys2Proof.Machine.execShli w g v t0 s
  | .shri w g v t0 => Sys2Proof.Machine.execShri w g v t0 s
  | .srai w g v t0 => Sys2Proof.Machine.execSrai w g v t0 s
  | .muli w g v t0 => Sys2Proof.Machine.execMuli w g v t0 s
  | .cmpiEq w g v t0 => Sys2Proof.Machine.execCmpiEq w g v t0 s
  | .cmpiNe w g v t0 => Sys2Proof.Machine.execCmpiNe w g v t0 s
  | .cmpiLt w g v t0 => Sys2Proof.Machine.execCmpiLt w g v t0 s
  | .cmpiLe w g v t0 => Sys2Proof.Machine.execCmpiLe w g v t0 s
  | .cmpiLtn w g v t0 => Sys2Proof.Machine.execCmpiLtn w g v t0 s
  | .cmpiLen w g v t0 => Sys2Proof.Machine.execCmpiLen w g v t0 s
  | .ld sp wd g off t0 => Sys2Proof.Machine.execLd sp wd g off t0 s
  | .ldWait sp wd g off t0 => Sys2Proof.Machine.execLdWait sp wd g off t0 s
  | .ldTake sp wd g off t0 => Sys2Proof.Machine.execLdTake sp wd g off t0 s
  | .lds sp wd fe g off t0 => Sys2Proof.Machine.execLds sp wd fe g off t0 s
  | .ldRaw sp wd fe g off t0 => Sys2Proof.Machine.execLdRaw sp wd fe g off t0 s
  | .st sp wd g off t0 => Sys2Proof.Machine.execSt sp wd g off t0 s
  | .fill sp wd g off t0 => Sys2Proof.Machine.execFill sp wd g off t0 s
  | .empty sp wd g off t0 => Sys2Proof.Machine.execEmpty sp wd g off t0 s
  | .wcvLoad sp wd g off t0 => Sys2Proof.Machine.execWcvLoad sp wd g off t0 s
  | .wcvStore sp wd g off => Sys2Proof.Machine.execWcvStore sp wd g off s
  | .atomAdd sp wd g t0 => Sys2Proof.Machine.execAtomAdd sp wd g t0 s
  | .atomEsum sp wd g t0 => Sys2Proof.Machine.execAtomEsum sp wd g t0 s
  | .atomAnd sp wd g t0 => Sys2Proof.Machine.execAtomAnd sp wd g t0 s
  | .atomOr sp wd g t0 => Sys2Proof.Machine.execAtomOr sp wd g t0 s
  | .atomXor sp wd g t0 => Sys2Proof.Machine.execAtomXor sp wd g t0 s
  | .atomMin sp wd g t0 => Sys2Proof.Machine.execAtomMin sp wd g t0 s
  | .atomMax sp wd g t0 => Sys2Proof.Machine.execAtomMax sp wd g t0 s
  | .atomMinn sp wd g t0 => Sys2Proof.Machine.execAtomMinn sp wd g t0 s
  | .atomMaxn sp wd g t0 => Sys2Proof.Machine.execAtomMaxn sp wd g t0 s
  | .atomFmin sp wd g t0 => Sys2Proof.Machine.execAtomFmin sp wd g t0 s
  | .atomFmax sp wd g t0 => Sys2Proof.Machine.execAtomFmax sp wd g t0 s
  | .atomSwap sp wd g t0 => Sys2Proof.Machine.execAtomSwap sp wd g t0 s
  | .cas sp wd g t0 => Sys2Proof.Machine.execCas sp wd g t0 s
  | .step g n => Sys2Proof.Machine.execStep g n s
  | .barr g n => Sys2Proof.Machine.execBarr g n s
  | .bwait g n t0 => Sys2Proof.Machine.execBwait g n t0 s
  | .fenceCore g t0 => Sys2Proof.Machine.execFenceCore g t0 s
  | .fenceClus g t0 => Sys2Proof.Machine.execFenceClus g t0 s
  | .fenceDie g t0 => Sys2Proof.Machine.execFenceDie g t0 s
  | .fencePkg g t0 => Sys2Proof.Machine.execFencePkg g t0 s
  | .fenceSys g t0 => Sys2Proof.Machine.execFenceSys g t0 s
  | .combAdd g v n t0 => Sys2Proof.Machine.execCombAdd g v n t0 s
  | .combMin g v n t0 => Sys2Proof.Machine.execCombMin g v n t0 s
  | .combMax g v n t0 => Sys2Proof.Machine.execCombMax g v n t0 s
  | .combMinn g v n t0 => Sys2Proof.Machine.execCombMinn g v n t0 s
  | .combMaxn g v n t0 => Sys2Proof.Machine.execCombMaxn g v n t0 s
  | .combAnd g v n t0 => Sys2Proof.Machine.execCombAnd g v n t0 s
  | .combOr g v n t0 => Sys2Proof.Machine.execCombOr g v n t0 s
  | .combXor g v n t0 => Sys2Proof.Machine.execCombXor g v n t0 s
  | .combFadd g v n t0 => Sys2Proof.Machine.execCombFadd g v n t0 s
  | .combFmin g v n t0 => Sys2Proof.Machine.execCombFmin g v n t0 s
  | .combFmax g v n t0 => Sys2Proof.Machine.execCombFmax g v n t0 s
  | .redF32 g t => Sys2Proof.Machine.execRedF32 g t s
  | .redXs g t => Sys2Proof.Machine.execRedXs g t s
  | .vadd f rm g t0 t1 => Sys2Proof.Machine.execVadd f rm g t0 t1 s
  | .vsub f rm g t0 t1 => Sys2Proof.Machine.execVsub f rm g t0 t1 s
  | .vmul f rm g t0 t1 => Sys2Proof.Machine.execVmul f rm g t0 t1 s
  | .vfma f rm t0 t1 => Sys2Proof.Machine.execVfma f rm t0 t1 s
  | .vfms f rm t0 t1 => Sys2Proof.Machine.execVfms f rm t0 t1 s
  | .vmax f g t0 t1 => Sys2Proof.Machine.execVmax f g t0 t1 s
  | .vmin f g t0 t1 => Sys2Proof.Machine.execVmin f g t0 t1 s
  | .vabs f g t0 t1 => Sys2Proof.Machine.execVabs f g t0 t1 s
  | .vneg f g t0 t1 => Sys2Proof.Machine.execVneg f g t0 t1 s
  | .vrcp f rm g t0 t1 => Sys2Proof.Machine.execVrcp f rm g t0 t1 s
  | .vrsq f rm g t0 t1 => Sys2Proof.Machine.execVrsq f rm g t0 t1 s
  | .vsqrt f rm g t0 t1 => Sys2Proof.Machine.execVsqrt f rm g t0 t1 s
  | .vexp2 f rm g t0 t1 => Sys2Proof.Machine.execVexp2 f rm g t0 t1 s
  | .vlog2 f rm g t0 t1 => Sys2Proof.Machine.execVlog2 f rm g t0 t1 s
  | .vtanh f rm g t0 t1 => Sys2Proof.Machine.execVtanh f rm g t0 t1 s
  | .vcmp f c g t0 t1 => Sys2Proof.Machine.execVcmp f c g t0 t1 s
  | .vsel t0 t1 => Sys2Proof.Machine.execVsel t0 t1 s
  | .vbcastW32 g t0 t1 => Sys2Proof.Machine.execVbcastW32 g t0 t1 s
  | .vbcastW16 g t0 t1 => Sys2Proof.Machine.execVbcastW16 g t0 t1 s
  | .vbcastW8 g t0 t1 => Sys2Proof.Machine.execVbcastW8 g t0 t1 s
  | .vpermW32 g t0 t1 => Sys2Proof.Machine.execVpermW32 g t0 t1 s
  | .vpermW16 g t0 t1 => Sys2Proof.Machine.execVpermW16 g t0 t1 s
  | .vpermW8 g t0 t1 => Sys2Proof.Machine.execVpermW8 g t0 t1 s
  | .vextrW32 g l t0 => Sys2Proof.Machine.execVextrW32 g l t0 s
  | .vextrW16 g l t0 => Sys2Proof.Machine.execVextrW16 g l t0 s
  | .vextrW8 g l t0 => Sys2Proof.Machine.execVextrW8 g l t0 s
  | .vinsW32 g l t0 => Sys2Proof.Machine.execVinsW32 g l t0 s
  | .vinsW16 g l t0 => Sys2Proof.Machine.execVinsW16 g l t0 s
  | .vinsW8 g l t0 => Sys2Proof.Machine.execVinsW8 g l t0 s
  | .vrsum f g t0 t1 => Sys2Proof.Machine.execVrsum f g t0 t1 s
  | .vrmax f g t0 t1 => Sys2Proof.Machine.execVrmax f g t0 t1 s
  | .vrmin f g t0 t1 => Sys2Proof.Machine.execVrmin f g t0 t1 s
  | .vamax f g t0 t1 => Sys2Proof.Machine.execVamax f g t0 t1 s
  | .vexpo f g t0 t1 => Sys2Proof.Machine.execVexpo f g t0 t1 s
  | .vexpoSc f g t0 t1 => Sys2Proof.Machine.execVexpoSc f g t0 t1 s
  | .vldexp f g t0 t1 => Sys2Proof.Machine.execVldexp f g t0 t1 s
  | .vcvt g dst src ovf rm t0 => Sys2Proof.Machine.execVcvt g dst src ovf rm t0 s
  | .vscale g e t0 t1 => Sys2Proof.Machine.execVscale g e t0 t1 s
  | .sacc e t0 t1 => Sys2Proof.Machine.execSacc e t0 t1 s
  | .vpack g k t0 => Sys2Proof.Machine.execVpack g k t0 s
  | .vunpackLo g src t0 => Sys2Proof.Machine.execVunpackLo g src t0 s
  | .vunpackHi g src t0 => Sys2Proof.Machine.execVunpackHi g src t0 s
  | .eaddF32 g n t0 => Sys2Proof.Machine.execEaddF32 g n t0 s
  | .eaddBf16 g n t0 => Sys2Proof.Machine.execEaddBf16 g n t0 s
  | .eroundF32 g n t0 => Sys2Proof.Machine.execEroundF32 g n t0 s
  | .eroundBf16 g n t0 => Sys2Proof.Machine.execEroundBf16 g n t0 s
  | .eclr g n => Sys2Proof.Machine.execEclr g n s
  | .mma acc f g t0 t1 => Sys2Proof.Machine.execMma acc f g t0 t1 s
  | .mmaG acc f t0 t1 => Sys2Proof.Machine.execMmaG acc f t0 t1 s
  | .mmaCb acc g t0 t1 => Sys2Proof.Machine.execMmaCb acc g t0 t1 s
  | .accclr acc g t0 => Sys2Proof.Machine.execAccclr acc g t0 s
  | .accrd acc g t0 t1 => Sys2Proof.Machine.execAccrd acc g t0 t1 s
  | .accrdSt acc g t0 => Sys2Proof.Machine.execAccrdSt acc g t0 s
  | .accwr acc g t0 => Sys2Proof.Machine.execAccwr acc g t0 s
  | .tdset g fld m => Sys2Proof.Machine.execTdset g fld m s
  | .copy g t0 t1 => Sys2Proof.Machine.execCopy g t0 t1 s
  | .copyMc g t0 t1 => Sys2Proof.Machine.execCopyMc g t0 t1 s
  | .stage g => Sys2Proof.Machine.execStage g s
  | .xform g t0 => Sys2Proof.Machine.execXform g t0 s
  | .fprint g core t0 t1 => Sys2Proof.Machine.execFprint g core t0 t1 s
  | .dedup g t0 => Sys2Proof.Machine.execDedup g t0 s
  | .gatherRows g t0 t1 => Sys2Proof.Machine.execGatherRows g t0 t1 s
  | .gatherSum g t0 t1 => Sys2Proof.Machine.execGatherSum g t0 t1 s
  | .gatherMean g t0 t1 => Sys2Proof.Machine.execGatherMean g t0 t1 s
  | .gatherWsum g t0 t1 => Sys2Proof.Machine.execGatherWsum g t0 t1 s
  | .scatterAdd g t0 t1 => Sys2Proof.Machine.execScatterAdd g t0 t1 s
  | .scatterMax g t0 t1 => Sys2Proof.Machine.execScatterMax g t0 t1 s
  | .scatterMin g t0 t1 => Sys2Proof.Machine.execScatterMin g t0 t1 s
  | .scatterOvw g t0 t1 => Sys2Proof.Machine.execScatterOvw g t0 t1 s
  | .attn g t0 t1 => Sys2Proof.Machine.execAttn g t0 t1 s
  | .randN64 n g v t0 t1 => Sys2Proof.Machine.execRandN64 n g v t0 t1 s
  | .randF32 n g v t0 t1 => Sys2Proof.Machine.execRandF32 n g v t0 t1 s
  | .rskip n g t0 => Sys2Proof.Machine.execRskip n g t0 s
  | .spawn g => Sys2Proof.Machine.execSpawn g s
  | .alloc g t0 => Sys2Proof.Machine.execAlloc g t0 s
  | .free g => Sys2Proof.Machine.execFree g s
  | .stopk g n t0 => Sys2Proof.Machine.execStopk g n t0 s
  | .smix g n t0 => Sys2Proof.Machine.execSmix g n t0 s
  | .shid g n t0 => Sys2Proof.Machine.execShid g n t0 s
  | .semb g n t0 => Sys2Proof.Machine.execSemb g n t0 s
  | .sembProj g n t0 => Sys2Proof.Machine.execSembProj g n t0 s
  | .scollArgmax g n t0 => Sys2Proof.Machine.execScollArgmax g n t0 s
  | .scollSample g m n t0 => Sys2Proof.Machine.execScollSample g m n t0 s
  | .scollConf g n t0 => Sys2Proof.Machine.execScollConf g n t0 s
  | .slog g r n t0 => Sys2Proof.Machine.execSlog g r n t0 s
  | .scmp g t0 => Sys2Proof.Machine.execScmp g t0 s
  | .srpl g n t0 => Sys2Proof.Machine.execSrpl g n t0 s
  | .sget g fld n t0 => Sys2Proof.Machine.execSget g fld n t0 s
  | .nop g t0 => Sys2Proof.Machine.execNop g t0 s
  | .trap g c t0 => Sys2Proof.Machine.execTrap g c t0 s
  | .brk g c t0 => Sys2Proof.Machine.execBrk g c t0 s
  | .rdsr g r t0 => Sys2Proof.Machine.execRdsr g r t0 s
  | .wrsr g r => Sys2Proof.Machine.execWrsr g r s
  | .flags g m t0 => Sys2Proof.Machine.execFlags g m t0 s
  | .perf g t0 => Sys2Proof.Machine.execPerf g t0 s
  | .safe g t0 => Sys2Proof.Machine.execSafe g t0 s
  | .fixreq g t0 => Sys2Proof.Machine.execFixreq g t0 s
  | .wMac h => Sys2Proof.Machine.execWMac h s
  | .wCb h => Sys2Proof.Machine.execWCb h s
  | .wO4 h => Sys2Proof.Machine.execWO4 h s
  | .wBook h => Sys2Proof.Machine.execWBook h s
  | .wSwitch h => Sys2Proof.Machine.execWSwitch h s
  | .wEmit h => Sys2Proof.Machine.execWEmit h s
  | .wExit h => Sys2Proof.Machine.execWExit h s
  | .instanceBegin c => Sys2Proof.Machine.execInstanceBegin c s
  | .instanceCommit c => Sys2Proof.Machine.execInstanceCommit c s
  | .decisionArrive c => Sys2Proof.Machine.execDecisionArrive c s
  | .stepSwap part sg => Sys2Proof.Machine.execStepSwap part sg s
  | .stepTimeout part sg => Sys2Proof.Machine.execStepTimeout part sg s
  | .barrierTimeout clus b => Sys2Proof.Machine.execBarrierTimeout clus b s
  | .bufferedAccessPerform c k => Sys2Proof.Machine.execBufferedAccessPerform c k s
  | .granuleWaitTimeout k => Sys2Proof.Machine.execGranuleWaitTimeout k s
  | .syncFaultDelivery c => Sys2Proof.Machine.execSyncFaultDelivery c s
  | .asyncDeliveryTimeout c => Sys2Proof.Machine.execAsyncDeliveryTimeout c s
  | .matrixTileStep core acc => Sys2Proof.Machine.execMatrixTileStep core acc s
  | .engineCompletion k => Sys2Proof.Machine.execEngineCompletion k s
  | .attnAccept k => Sys2Proof.Machine.execAttnAccept k s
  | .attnUnit k => Sys2Proof.Machine.execAttnUnit k s
  | .attnResultWrite k => Sys2Proof.Machine.execAttnResultWrite k s
  | .driveExit c => Sys2Proof.Machine.execDriveExit c s
  | .redNodeCombine k node => Sys2Proof.Machine.execRedNodeCombine k node s
  | .redNodeTimeout k node => Sys2Proof.Machine.execRedNodeTimeout k node s
  | .overflowTokenReturn core => Sys2Proof.Machine.execOverflowTokenReturn core s
  | .parkresReplay die e => Sys2Proof.Machine.execParkresReplay die e s
  | .parkresFail die e => Sys2Proof.Machine.execParkresFail die e s
  | .parkTimeout die e => Sys2Proof.Machine.execParkTimeout die e s
  | .tinvPage die asid sz => Sys2Proof.Machine.execTinvPage die asid sz s
  | .tinvAsid die asid => Sys2Proof.Machine.execTinvAsid die asid s
  | .tinvAll die => Sys2Proof.Machine.execTinvAll die s
  | .slabMoveStart die n v => Sys2Proof.Machine.execSlabMoveStart die n v s
  | .slabMoveUnit die n => Sys2Proof.Machine.execSlabMoveUnit die n s
  | .fwdDisable die n => Sys2Proof.Machine.execFwdDisable die n s
  | .homeUnitBatch frame => Sys2Proof.Machine.execHomeUnitBatch frame s
  | .rowMigration part table row src dst len => Sys2Proof.Machine.execRowMigration part table row src dst len s
  | .codeTableInstall die => Sys2Proof.Machine.execCodeTableInstall die s
  | .cmpRelearn die => Sys2Proof.Machine.execCmpRelearn die s
  | .cmpGenFree die => Sys2Proof.Machine.execCmpGenFree die s
  | .patrolScrub frame uncorrectable => Sys2Proof.Machine.execPatrolScrub frame uncorrectable s
  | .evcntThreshold k => Sys2Proof.Machine.execEvcntThreshold k s
  | .fixGo v => Sys2Proof.Machine.execFixGo v s
  | .fixCont => Sys2Proof.Machine.execFixCont s
  | .fixKill => Sys2Proof.Machine.execFixKill s
  | .fixReadoutDone => Sys2Proof.Machine.execFixReadoutDone s
  | .thermalThrottle => Sys2Proof.Machine.execThermalThrottle s
  | .thermalFix => Sys2Proof.Machine.execThermalFix s
  | .powerThrottle => Sys2Proof.Machine.execPowerThrottle s
  | .prectlDrain part v => Sys2Proof.Machine.execPrectlDrain part v s
  | .drainComplete part => Sys2Proof.Machine.execDrainComplete part s
  | .drainTimeout part => Sys2Proof.Machine.execDrainTimeout part s
  | .prectlFreeze part v => Sys2Proof.Machine.execPrectlFreeze part v s
  | .prectlRestore part v => Sys2Proof.Machine.execPrectlRestore part v s
  | .partclWrite die k v => Sys2Proof.Machine.execPartclWrite die k v s
  | .qgpartWrite q v => Sys2Proof.Machine.execQgpartWrite q v s
  | .dswinWrite die part v => Sys2Proof.Machine.execDswinWrite die part v s
  | .fdispWrite die part v => Sys2Proof.Machine.execFdispWrite die part v s
  | .qtailWrite q v => Sys2Proof.Machine.execQtailWrite q v s
  | .qctlWrite q v => Sys2Proof.Machine.execQctlWrite q v s
  | .launchRecordRead q => Sys2Proof.Machine.execLaunchRecordRead q s
  | .nodePlace part => Sys2Proof.Machine.execNodePlace part s
  | .readyPriorityPromote l node => Sys2Proof.Machine.execReadyPriorityPromote l node s
  | .nodeDispatch l node => Sys2Proof.Machine.execNodeDispatch l node s
  | .nodeEnd l node => Sys2Proof.Machine.execNodeEnd l node s
  | .hostMemWrite own pa bytes => Sys2Proof.Machine.execHostMemWrite own pa bytes s
  | .hostMemRead pa => Sys2Proof.Machine.execHostMemRead pa s
  | .peerAccess a => Sys2Proof.Machine.execPeerAccess a s
  | .rcvgo => Sys2Proof.Machine.execRcvgo s
  | .attgo => Sys2Proof.Machine.execAttgo s
  | .powerGood => Sys2Proof.Machine.execPowerGood s
  | .packageReset => Sys2Proof.Machine.execPackageReset s
  | .regWrite die off v => Sys2Proof.Machine.execRegWrite die off v s
  | .firmwarePolicyResume c resume => Sys2Proof.Machine.execFirmwarePolicyResume c resume s

end Sys2Proof.Machine
end

