-- ==== Sys2Proof/Machine/Schedule.lean ====
section
/-! DEFINITION. What may happen next in a state (R17, R18, R20, R317, R414, R415): the nodes that may fire and the one that each PE takes, the events that may take place, the
access from outside that has arrived first; how each takes place; and what passes meanwhile: time, stalls (R337) and turns. -/

namespace Sys2Proof.Machine

open Sys2Proof

/-- An event of the package's own. All but `drive`, `driveAhead` and `peer` are rows of the opcode table, by their own names there. -/
inductive Event where
  | instanceBegin (c : Nat)
  | instanceCommit (c : Nat)
  | decisionArrive (c : Nat)
  | syncFaultDelivery (c : Nat)
  | asyncDeliveryTimeout (c : Nat)
  | bufferedAccessPerform (c k : Nat)
  | granuleWaitTimeout (k : Nat)
  | stepSwap (part sg : Nat)
  | stepTimeout (part sg : Nat)
  | barrierTimeout (clus b : Nat)
  | matrixTileStep (core acc : Nat)
  | engineCompletion (k : Nat)
  | attnAccept (k : Nat)
  | attnUnit (k : Nat)
  | attnResultWrite (k : Nat)
  | drive (c : Nat)
  | driveAhead (c va n : Nat) (head : Bool)
  | driveExit (c : Nat)
  | redNodeCombine (k node : Nat)
  | redNodeTimeout (k node : Nat)
  | overflowTokenReturn (core : Nat)
  | homeUnitBatch (frame : Nat)
  | parkTimeout (die e : Nat)
  | slabMoveUnit (die n : Nat)
  | codeTableInstall (die : Nat)
  | cmpRelearn (die : Nat)
  | cmpGenFree (die : Nat)
  | evcntThreshold (k : Nat)
  | fixReadoutDone
  | drainComplete (part : Nat)
  | drainTimeout (part : Nat)
  | launchRecordRead (q : Nat)
  | nodePlace (part : Nat)
  | readyPriorityPromote (l node : Nat)
  | nodeDispatch (l node : Nat)
  | nodeEnd (l node : Nat)
  | firmwarePolicyResume (c : Nat) (resume : Bool)
  | passToHost (c : Nat)
  | peer (id : Nat)
  deriving DecidableEq, Repr

/-- One thing that may happen next. -/
inductive Act where
  | fire (x : Site)
  | event (e : Event)
  | input
  | outside
  deriving DecidableEq, Repr

/-! ### How they take place -/

/-- An event takes place. -/
def Event.run (e : Event) (s : State) : Host.Outcome State Fault Refusal :=
  match e with
  | .instanceBegin c => execInstanceBegin c s
  | .instanceCommit c => execInstanceCommit c s
  | .decisionArrive c => execDecisionArrive c s
  | .syncFaultDelivery c => execSyncFaultDelivery c s
  | .asyncDeliveryTimeout c => execAsyncDeliveryTimeout c s
  | .bufferedAccessPerform c k => execBufferedAccessPerform c k s
  | .granuleWaitTimeout k => execGranuleWaitTimeout k s
  | .stepSwap p g => execStepSwap p g s
  | .stepTimeout p g => execStepTimeout p g s
  | .barrierTimeout k b => execBarrierTimeout k b s
  | .matrixTileStep k a => execMatrixTileStep k a s
  | .engineCompletion k => execEngineCompletion k s
  | .attnAccept k => execAttnAccept k s
  | .attnUnit k => execAttnUnit k s
  | .attnResultWrite k => execAttnResultWrite k s
  | .drive c =>
    match driveFetch s c with
    | (s, some i) => exec i s
    | (s, none) => .next s
  | .driveAhead c va n head => .next ((Run.start s).readAhead c (va, n, head)).st
  | .driveExit c => execDriveExit c s
  | .redNodeCombine k j => execRedNodeCombine k j s
  | .redNodeTimeout k j => execRedNodeTimeout k j s
  | .overflowTokenReturn k => execOverflowTokenReturn k s
  | .homeUnitBatch f => execHomeUnitBatch f s
  | .parkTimeout d e => execParkTimeout d e s
  | .slabMoveUnit d n => execSlabMoveUnit d n s
  | .codeTableInstall d => execCodeTableInstall d s
  | .cmpRelearn d => execCmpRelearn d s
  | .cmpGenFree d => execCmpGenFree d s
  | .evcntThreshold k => execEvcntThreshold k s
  | .fixReadoutDone => execFixReadoutDone s
  | .drainComplete p => execDrainComplete p s
  | .drainTimeout p => execDrainTimeout p s
  | .launchRecordRead q => execLaunchRecordRead q s
  | .nodePlace p => execNodePlace p s
  | .readyPriorityPromote l n => execReadyPriorityPromote l n s
  | .nodeDispatch l n => execNodeDispatch l n s
  | .nodeEnd l n => execNodeEnd l n s
  | .firmwarePolicyResume c b => execFirmwarePolicyResume c b s
  | .passToHost c => execPassToHost c s
  | .peer id => .next ((Run.start s).retryPeer id).st

/-- An act takes place. Log 116, DESIGN CHOICE: a placed word that does not decode stops the machine; no run places one. -/
def perform (a : Act) (s : State) : Host.Outcome State Fault Refusal :=
  match a with
  | .event e => e.run s
  | .input =>
    match s.inputs with
    | [] => .next s
    | i :: l => exec i ((Upd.inputs l).apply s)
  | .outside => .next (Run.start s).takeOutside.st
  | .fire x =>
    match ((s.ctx x.c).run? x.iid).bind (fun b => s.instrAt x.c b x.idx) with
    | some i => exec i ((Upd.site x).apply s)
    | none => .fault .undecodable

/-! ### Nodes -/

/-- The nodes of a context for which `ok` holds. -/
def State.nodesOf (s : State) (c : Nat) (ok : BlockRun → Nat → Option Instr → Bool) : List Site :=
  let x := s.ctx c
  if x.mode = .running ∧ s.stoppedPart x.part = false then
    x.runs.flatMap (fun b =>
      ((List.range (((s.placedOf c b).map (fun p => p.words.length)).getD 0)).filter (fun i => ok b i (s.instrAt c b i))).map (fun i => ⟨c, b.iid, i⟩))
  else []

/-- A node acts when it is taken now: it does more than wait on a value that is not there yet. -/
def State.ready (s : State) (x : Site) : Bool :=
  match perform (.fire x) s with
  | .next t => (t.ctx x.c).run? x.iid != (s.ctx x.c).run? x.iid || t.ops.length != s.ops.length || t.readers.length != s.readers.length || t.home.length != s.home.length
  | _ => true

/-- Where a node stands on its core: a PE (R19, R44), or 64 + its major for the engine node that holds it. -/
def State.station (s : State) (c : Nat) (b : BlockRun) (i : Nat) : Nat :=
  c / 4 * 128 + (s.peOf c b i).getD (64 + ((s.wordAt c b i).getD 0).toNat / 2 ^ 26)

/-- A ready operation at its station, with what R18 orders it by: in deterministic mode 0, the key and the node number; else how far its context is from its turn, its age, and the
node number. -/
structure Ready where
  site : Site
  at'  : Nat
  det  : Bool
  turn : Nat
  key  : Nat
  node : Nat
  deriving DecidableEq, Repr

/-- When the last operand of a node came, by its place among the tokens of its run. -/
def BlockRun.lastToken (b : BlockRun) (i : Nat) : Nat := b.toks.length - ((b.toks.reverse.findIdx? (fun e => e.idx == i)).getD b.toks.length)

def State.readyAt (s : State) (x : Site) : Option Ready :=
  ((s.ctx x.c).run? x.iid).map (fun b =>
    let k := s.station x.c b x.idx
    let n := nodeNumber b.cfg b.slot x.idx
    if b.det then ⟨x, k, true, 0, Machine.keyOf b.nest b.frame, n⟩
    else ⟨x, k, false, (x.c + 3 - (SMap.get s.turns PeTurn.reset k).ctx) % 4, ((s.ctx x.c).older x.iid).length * 2 ^ 16 + b.lastToken x.idx, n⟩)

/-- The order among the ready operations of a station. Log 104, DEDUCED: the oldest operation outside deterministic mode is that of the oldest run, then the one whose operands came
first; a PE that holds both kinds alternates. -/
def Ready.before (turn : PeTurn) (x y : Ready) : Bool :=
  if x.det != y.det then x.det != turn.det
  else decide (x.turn < y.turn) || (x.turn == y.turn && (decide (x.key < y.key) || (x.key == y.key && decide (x.node ≤ y.node))))

/-- The operations that their stations take next (R18), of those ready. -/
def State.chosen (s : State) (l : List Site) : List Site :=
  let all := l.filterMap s.readyAt
  (all.filter (fun x => all.all (fun y => y.at' != x.at' || x == y || x.before (SMap.get s.turns PeTurn.reset x.at') y))).map (·.site)

/-- The nodes of a context whose operation is ready. Log 62, DESIGN CHOICE: the nodes of the oldest faulting run do not fire, unless it is in deterministic mode. -/
def State.firable (s : State) (c : Nat) : List Site :=
  (s.nodesOf c (fun b i j =>
    match j with
    | none => !b.fired.contains i
    | some j => s.mayFire c (s.ctx c) b i (shape j))).filter s.ready

/-- The nodes that may fire. -/
def State.fires (s : State) : List Site := s.chosen (s.liveCtxs.flatMap s.firable)

/-- The fault of the oldest run of a context is settled: outside deterministic mode at once; in it, when no node of the run is ready, so that two runs report the same node (R92; log 62). -/
def State.faultSettled (s : State) (c : Nat) : Bool :=
  match s.faulting c with
  | some (b, _) => !b.det || (s.firable c).all (fun x => x.iid != b.iid)
  | none => false

/-- The exits that have fired and may name their successor now. -/
def State.exits (s : State) : List Site := (s.liveCtxs.flatMap (fun c => s.nodesOf c (fun b i _ => s.settles c b i))).filter s.ready

/-! ### Events -/

/-- The drive of a context moves; a drain holds it at its tile boundary unless it has a fault to deliver or a value to take (R282). -/
def State.drives (s : State) (c : Nat) : Bool := s.driveMoves c && (!s.draining (s.ctx c).part || !s.driveRests c)

/-- An event that is possible when the test holds. -/
def whenPossible (b : Bool) (e : Event) : List Event := if b then [e] else []

/-- The events of a context. -/
def State.ctxEvents (s : State) (c : Nat) : List Event :=
  let x := s.ctx c
  if s.stoppedPart x.part then []
  else
    whenPossible (s.mayBegin c) (.instanceBegin c) ++ whenPossible (s.committing c).isSome (.instanceCommit c)
      ++ whenPossible (x.latch.isNone && !x.held.isEmpty) (.decisionArrive c)
      ++ whenPossible (s.faultSettled c) (.syncFaultDelivery c) ++ whenPossible (s.asyncOverdue c) (.asyncDeliveryTimeout c)
      ++ (x.pend.filter (s.mayPerform c)).map (fun p => .bufferedAccessPerform c p.id)
      ++ whenPossible (s.drives c) (.drive c)
      ++ (if s.driveMoves c && !s.draining x.part then s.aheadReads c else []).map (fun e => .driveAhead c e.1 e.2.1 e.2.2)
      ++ whenPossible (x.mode == .running && x.drive.any (fun d => d.leaving)) (.driveExit c)

/-- The events of an engine operation. -/
def State.opEvents (s : State) (o : EngOp) : List Event :=
  if s.stoppedPart o.part then []
  else
    whenPossible (s.completes o) (.engineCompletion o.id) ++ whenPossible (s.attnReady o [0] && s.attnAtHead o && !s.draining o.part) (.attnAccept o.id)
      ++ whenPossible (s.attnReady o [1, 3, 5]) (.attnUnit o.id) ++ whenPossible (s.attnReady o [2]) (.attnResultWrite o.id)

/-- The partition of a core. -/
def State.partOfCore (s : State) (core : Nat) : Nat := (s.partOf (core / 4)).getD 40

/-- The events of a core: its accumulator queues and its overflow area. -/
def State.coreEvents (s : State) (core : Nat) : List Event :=
  if s.stoppedPart (s.partOfCore core) then []
  else (List.range 4).flatMap (fun a => whenPossible (s.queueHead core a).isSome (.matrixTileStep core a))

/-- The events of a tree. -/
def State.treeEvents (s : State) (k : Nat) (t : Tree) : List Event :=
  if s.stoppedPart (s.partOfLaunch t.launch) then []
  else (List.range t.nodes.length).flatMap (fun j => whenPossible (t.complete j) (.redNodeCombine k j) ++ whenPossible (s.treeExpired t j) (.redNodeTimeout k j))

/-- The events of the graph engine for a launch. -/
def State.launchEvents (s : State) (l : Launch) : List Event :=
  if s.stoppedPart l.part then []
  else
    l.work.flatMap (fun p => whenPossible (s.promotes l.id p.uid) (.readyPriorityPromote l.id p.uid) ++ whenPossible (s.dispatches l.id p.uid) (.nodeDispatch l.id p.uid)
        ++ whenPossible (s.passEnds l p) (.nodeEnd l.id p.uid))
      ++ whenPossible (s.launchEnds l) (.nodeEnd l.id 0)

/-- The register offsets of each die that are not as reset left them, with their die. -/
def State.setRegs (s : State) : List (Nat × Nat) := (SMap.keys s.dcb).map (fun k => (k / 2 ^ 21, k % 2 ^ 21))

/-- The events of a die control block: queues, slab moves, counter thresholds. -/
def State.regEvents (s : State) : List Event :=
  let regs := s.setRegs
  let queues := (regs.filter (fun e => decide (e.2 < 0x080000))).map (fun e => e.1 * 16384 + e.2 / 32)
  let pairs := (regs.filter (fun e => decide (0x082000 ≤ e.2 ∧ e.2 < 0x082200))).map (fun e => (e.1, (e.2 - 0x082000) / 32))
  let counters := (regs.filter (fun e => e.2 % 32 == 16 && (decide (0x090000 ≤ e.2 ∧ e.2 < 0x095000) || decide (0x098000 ≤ e.2 ∧ e.2 < 0x098400)))).map (fun e => dcbKey e.1 (e.2 - 16))
  ((queues ++ s.launches.map (·.q)).eraseDups.filter s.queueReads).map .launchRecordRead
    ++ (pairs.eraseDups.filter (fun e => s.moveDue e.1 e.2)).map (fun e => .slabMoveUnit e.1 e.2)
    ++ (counters.filter (fun k => s.thresholdDue k && !((s.counterPart (k / 2 ^ 21) (k % 2 ^ 21)).any s.stoppedPart))).map .evcntThreshold

/-- The events of the memories and of translation. -/
def State.memoryEvents (s : State) : List Event :=
  ((List.range s.readers.length).filter (fun k => (s.readers[k]?).any (fun e => s.readerOverdue e && !s.stoppedPart (s.ctx e.c).part))).map .granuleWaitTimeout
    ++ (((s.home.map (·.frame)).eraseDups).filter s.homeServes).map .homeUnitBatch
    ++ ((SMap.keys s.ptt).filter (fun k => s.parkOverdue (k / 512) (k % 512) && !s.stoppedPart (s.park (k / 512) (k % 512)).part)).map (fun k => .parkTimeout (k / 512) (k % 512))
    ++ (List.range 4).flatMap (fun d => whenPossible (s.learns d) (.codeTableInstall d) ++ whenPossible (s.resamples d) (.cmpRelearn d) ++ whenPossible (s.frees d) (.cmpGenFree d))

/-- The events of step groups and barriers. -/
def State.groupEvents (s : State) : List Event :=
  (SMap.keys s.groups).flatMap (fun k =>
      let p := k / 64
      if s.stoppedPart p then [] else whenPossible (s.group p (k % 64)).swaps (.stepSwap p (k % 64)) ++ whenPossible (s.stepOverdue p (k % 64)) (.stepTimeout p (k % 64)))
    ++ (SMap.keys s.barriers).flatMap (fun k => whenPossible (s.barrierOverdue (k / 32) (k % 32)) (.barrierTimeout (k / 32) (k % 32)))

/-- The events of drains, of the firmware and of peers. -/
def State.outerEvents (s : State) : List Event :=
  s.drains.flatMap (fun d => whenPossible (s.saves d.part) (.drainComplete d.part) ++ whenPossible (s.drainOverdue d.part) (.drainTimeout d.part))
    ++ ((SMap.keys s.escalated).filter (fun c => decide (c < 640) && !s.stoppedPart (s.ctx c).part && !s.withHost.contains c)).flatMap (fun c =>
      [.firmwarePolicyResume c true, .firmwarePolicyResume c false] ++ whenPossible ((s.ctx c).mode == .stopped || (s.ctx c).mode == .ended) (.passToHost c))
    ++ (s.peers.filter (fun e => !e.parked)).map (fun e => .peer e.id)

/-- Every event that may take place next. While recovery firmware runs there is none; while a fix holds the package only its read-out goes on (R390, R406). -/
def State.events (s : State) : List Event :=
  if s.inFirmware then []
  else if s.fixed.contains 40 then whenPossible s.readsOut .fixReadoutDone
  else
    s.liveCtxs.flatMap s.ctxEvents ++ (SMap.keys s.cores).flatMap s.coreEvents
      ++ (((s.liveCtxs.map (fun c => c / 4)).eraseDups).filter (fun k => (s.returning k).isSome && !s.stoppedPart (s.partOfCore k))).map .overflowTokenReturn
      ++ s.ops.flatMap s.opEvents ++ s.memoryEvents ++ s.groupEvents ++ (s.trees.mapIdx s.treeEvents).flatten
      ++ ((s.launches.map (fun l => l.part)).eraseDups.filter (fun p => s.places p && !s.stoppedPart p)).map .nodePlace
      ++ s.launches.flatMap s.launchEvents ++ s.regEvents ++ s.outerEvents ++ whenPossible s.readsOut .fixReadoutDone

/-! ### Replays (R317) -/

/-- The waits on a parked page that an act may end. -/
def State.waitersOf (s : State) (a : Act) : List Waiter :=
  match a with
  | .fire x => [.node x.c x.iid x.idx]
  | .event e =>
    match e with
    | .bufferedAccessPerform c k => [.pend c k]
    | .engineCompletion k | .attnAccept k | .attnUnit k | .attnResultWrite k => [.op k]
    | .matrixTileStep k a => ((s.queueHead k a).map (fun o => Waiter.op o.id)).toList
    | .instanceBegin c => [.fetch c]
    | .instanceCommit c | .syncFaultDelivery c | .asyncDeliveryTimeout c => [.helm c]
    | .drive c => [.drive c, .helm c]
    | .launchRecordRead q => .ring q :: (s.launches.filter (fun l => l.q == q)).map (fun l => .accept l.id)
    | .nodeEnd l 0 => [.completion l]
    | .peer id => [.peer id]
    | .drainComplete p => [.area p]
    | .slabMoveUnit d n => [.mover d n]
    | _ => []
  | .input | .outside => []

/-- Of the waiters of one replayed park, only the first that can act does (R317, R319). -/
def State.inLine (s : State) (l : List Act) : List Act :=
  if s.replays.isEmpty then l
  else
    let able := l.flatMap s.waitersOf
    l.filter (fun a => s.replays.all (fun ws =>
      match ws.find? able.contains with
      | none => true
      | some w => (s.waitersOf a).contains w || !(s.waitersOf a).any ws.contains))

/-! ### The acts -/

/-- Something has come from outside that may take effect. -/
def State.outsideComes (s : State) : Bool := !s.inFirmware && !s.fixed.contains 40 && s.outside.any s.comes

/-- Everything that may happen next. -/
def State.acts (s : State) : List Act :=
  s.inLine ((if s.inFirmware then [] else (s.fires ++ s.exits).map .fire) ++ s.events.map .event)
    ++ (if s.inputs.isEmpty then [] else [.input]) ++ (if s.outsideComes then [.outside] else [])

/-- The end of a wait that the rules bound in time (R20, R117, R131, R134, R318, R347, R361, R373, R382). -/
def Event.timed : Event → Bool
  | .asyncDeliveryTimeout _ | .granuleWaitTimeout _ | .stepTimeout _ _ | .barrierTimeout _ _ | .redNodeTimeout _ _ | .parkTimeout _ _ | .drainTimeout _
  | .readyPriorityPromote _ _ => true
  | _ => false

/-- The act does not wait any longer: the time of an event has come and it is not held up, or a station has passed its operation over as often as it may (R20). -/
def State.presses (s : State) (a : Act) : Bool :=
  match a with
  | .event e => e.timed && (match e.run s with
    | .next t => t != s
    | _ => true)
  | .fire x =>
    match (s.ctx x.c).run? x.iid with
    | some b => decide (Config.patience ≤ (SMap.get s.turns PeTurn.reset (s.station x.c b x.idx)).waited)
    | none => false
  | _ => false

/-- The act that takes place, of several that may. Log 4, DESIGN CHOICE: the order of ready operations, events and outside accesses is a free choice, but that waits bounded in time end
when their time has come, and that a station fires its operation after a bounded number of steps. -/
def State.pick (s : State) (l : List Act) : Option Act :=
  let due := l.filter s.presses
  let l := if due.isEmpty then l else due
  l[Config.schedule s.choice % l.length]?

/-! ### What passes meanwhile -/

/-- Why a node does not fire (R17, R337); 0 for one that holds no operand, or that nothing holds. -/
def State.stallReason (s : State) (l : List Act) (x : Site) : Nat :=
  match (s.ctx x.c).run? x.iid with
  | none => 0
  | some b =>
    let i := x.idx
    match s.instrAt x.c b i with
    | none => 0
    | some j =>
      let sh := shape j
      if b.fired.contains i || !(b.toks.any (fun e => e.idx == i) || b.spilled.any (fun e => e.idx == i)) || l.contains (.fire x) then 0
      else if b.parked.contains i then 6
      else if b.spilled.any (fun e => e.idx == i) then 3
      else if !b.operands i sh then 1
      else if !s.roomFor x.c b [sh.t0, sh.t1] then 2
      else if sh.oldest && !(s.ctx x.c).isOldest b.iid then 5
      else if sh.held && s.isHeld x.c (s.ctx x.c) b then 4
      else if b.det && s.ready x then 7
      else 0

/-- A node records `n` clocks for its reason, and its PE counts them. -/
def Run.stall (r : Run s0) (l : List Act) (n : Nat) (x : Site) : Run s0 :=
  let s := r.st
  let q := s.stallReason l x
  match q, (s.ctx x.c).run? x.iid with
  | 0, _ | _, none => r
  | _, some b =>
    let k := 8 * nodeNumber b.cfg b.slot x.idx + q
    (r.modCore (x.c / 4) (fun y => { y with stalls := SMap.set y.stalls 0 k (SMap.get y.stalls 0 k + n) })).count x.c (some (s.station x.c b x.idx % 128)) (0x10 + q) n

/-- The counters that count clocks (R392), by die and offset. The clocks of a stopped partition stand still. -/
def State.clockCounters (s : State) : List (Nat × Nat) :=
  (s.setRegs.filter (fun e => e.2 % 32 == 8 && (s.dcbAt e.1 e.2).toNat % 256 == 1
    && ((decide (0x090000 ≤ e.2 ∧ e.2 < 0x095000) && !s.stoppedPart (s.partOfCore (e.1 * 40 + (e.2 - 0x090000) / 0x200))) || decide (0x098000 ≤ e.2 ∧ e.2 < 0x098400)))).map
    (fun e => (e.1, e.2 - 8))

/-- `n` clocks pass: the counters of clocks, of waits at steps and barriers, and of stalls advance (R337, R392). -/
def Run.pass (r : Run s0) (l : List Act) (n : Nat) : Run s0 :=
  let s := r.st
  let r := r.put (.tick n)
  let r := s.clockCounters.foldl (fun r e => r.advance e.1 e.2 n) r
  s.liveCtxs.foldl (fun r c =>
    let x := s.ctx c
    if s.stoppedPart x.part then r
    else
      let r := if x.arrivals.any (fun a => a.1 == 0) then r.count c none 0x25 n else r
      let r := if x.arrivals.any (fun a => a.1 == 1) then r.count c none 0x26 n else r
      (s.nodesOf c (fun _ _ _ => true)).foldl (fun r y => r.stall l n y) r) r

/-- The stations remember what they fire, and how long they have left an operation waiting. -/
def Run.takeTurns (r : Run s0) (l : List Act) (a : Option Act) : Run s0 :=
  l.foldl (fun r y =>
    match y with
    | .fire x =>
      match (r.st.ctx x.c).run? x.iid with
      | some b =>
        let k := r.st.station x.c b x.idx
        let t := SMap.get r.st.turns PeTurn.reset k
        if b.fired.contains x.idx then r
        else if a = some y then r.put (.turn k { ctx := if b.det then t.ctx else x.c % 4, det := b.det, waited := 0 })
        else r.put (.turn k { t with waited := t.waited + 1 })
      | none => r
    | _ => r) r

/-- What passes as the act `a`, of the acts `l`, takes place: time, unless a fix holds the whole package (R390), stalls, turns, and places in line for a replay. Log 9, DESIGN CHOICE:
latencies are free: the clock advances by a free amount before each act, and never stands still for ever. -/
def State.passed (s : State) (l : List Act) (a : Option Act) : State :=
  let r := (Run.start s).chose
  let r := if s.fixed.contains 40 then r
    else (r.pass l (Config.clocks s.choice + (if s.choice % (Config.patience + 1) = 0 then 1 else 0))).takeTurns l a
  let done := (a.map s.waitersOf).getD []
  (if s.replays.isEmpty then r else r.put (.replays (dropReplays s.replays done.contains))).st

end Sys2Proof.Machine
end

