-- ==== Sys2Proof/Machine/Step.lean ====
section
/-! DEFINITION. One step of the package. -/

namespace Sys2Proof.Machine

open Sys2Proof

/-- One of the acts that may take place does, and time passes; with none, time alone. -/
def step (s : State) : Host.Outcome State Fault Refusal :=
  match s.acts with
  | [] => .next (s.passed [] none)
  | [a] => perform a (s.passed [a] (some a))
  | a :: b :: l =>
    let c := (s.pick (a :: b :: l)).getD a
    perform c (s.passed (a :: b :: l) (some c))

/-! ### Placing a word where the machine fetches it -/

/-- A token that a slot takes: the first of its kinds, with zero data, or for a gate one of true polarity. -/
def probeToken (ks : List Kind) (gate : Bool) : Token := ⟨ks.headD .control, if gate then 1 else 0, false, false, false⟩

/-- The operands of a node, as they stand when it may fire. -/
def probeOperands (sh : Shape) : List Arrived :=
  let at' := fun (b : Bool) (x : Slot) (t : Token) => if b then [(⟨0, x, t⟩ : Arrived)] else []
  at' (!sh.a.isEmpty || sh.merge || sh.count != 0) .a (probeToken sh.a false) ++ at' (!sh.b.isEmpty) .b (probeToken sh.b false)
    ++ at' (sh.gate != .none || !sh.g.isEmpty) .g (probeToken sh.g (sh.gate != .onFalse))

/-- A block of one word that stands placed, and its run with the operands of its one node. -/
def probeBlock (w : Word32) : Placed := ⟨0, 0, 0, 0, [w], none, some 0, false, false, false, 1, none, 0⟩

def probeRun (w : Word32) : BlockRun where
  iid := 0
  addr := 0
  cfg := 0
  slot := 0
  frame := 0
  nest := 0
  widths := []
  det := false
  toks := match decode w with
    | .ok i => probeOperands (shape i)
    | .error _ => []
  counts := []
  fired := []
  ancest := []
  entered := []
  outs := 0
  faults := []
  exit := none
  effs := []
  flags := 0
  carried := []
  undo := ⟨[], 0, 0, none⟩
  begun := false
  parked := []
  denied := []
  spilled := []

/-- A weight-driven drive whose header has been read. -/
def probeDrive (hdr : List Byte) : Drive where
  id := 0
  desc := List.replicate 64 0
  recs := []
  blk := 0
  tile := 0
  head := false
  hdr := hdr
  offs := none
  value := none
  resume := 0
  frame := 0
  nest := 0
  widths := []
  after := (0, [])
  seq := 0
  wblk := 0
  idx := 0
  ticket := 0
  cdone := 0
  dropDone := true
  count := 0
  leaving := false
  parked := false
  denied := none
  at' := 0
  fault := none

/-- The machine with an instruction where it runs next: a word as the one instruction of a placed block of context 0 whose operands have come, a weight header as the
header that the drive of context 0 has read. Nothing else is under way. Log 1, DEDUCED: the manual loads programs from the host; withFetchWord stands for that load, and from State.reset every step only lets time pass. -/
def State.withFetchWord (s : State) (nbits w : Nat) : State :=
  let idle : State := { s with
    inputs := []
    outside := []
    turns := []
    readers := []
    ptt := []
    home := []
    ops := []
    trees := []
    groups := []
    shelf := []
    told := []
    replays := []
    movers := []
    barriers := []
    launches := []
    learned := []
    escalated := []
    withHost := []
    dcb := []
    ringParked := []
    covered := []
    ringGot := []
    drains := []
    fixed := []
    fixFault := none
    stoppedFor := []
    streamed := []
    peers := []
    inFirmware := false }
  if nbits ≤ 32 then
    { idle with
      ctxs := [(0, { Ctx.reset with mode := .running, runs := [probeRun (BitVec.ofNat 32 w)] })]
      cores := [(0, { Core.reset with placed := [probeBlock (BitVec.ofNat 32 w)] })] }
  else { idle with ctxs := [(0, { Ctx.reset with mode := .running, wdrv := true, drive := some (probeDrive (leBytes 64 w)) })], cores := [] }

end Sys2Proof.Machine
end

