-- ==== Sys2Proof/Safety.lean ====
section
/-! DEFINITION. What counts as a safe run, the states that claims are about, and the words they use for the firing of a node. -/

namespace Sys2Proof

open Machine

/-- The outcome goes on. -/
def Goes (o : Host.Outcome Machine.State Machine.Fault Machine.Refusal) : Prop := ∃ t, o = .next t

/-- `n` steps from a state all go on. -/
def SafeFor : Nat → Machine.State → Prop
  | 0, _ => True
  | n + 1, s => ∃ t, Machine.step s = .next t ∧ SafeFor n t

/-! ### Regular states -/

/-- The registers of a context have only the bits that the spec gives a meaning (R28, R27, R393), and its return stack and fault queue keep their bounds (R73, R374). -/
def Bounded (x : Ctx) : Prop :=
  x.flags.toNat < 128 ∧ x.modeReg &&& 0xFFFFFFFFFFFF00FC = 0 ∧ x.rspill.toNat % 64 = 0 ∧ x.perfsel.toNat < 64 ∧ x.stack.length ≤ 32 ∧ x.asyncs.length ≤ 8

/-- Every map of the state is in canonical form, and every context is as `Ctx.norm` leaves it. Every step keeps this. -/
def Regular (s : Machine.State) : Bool :=
  Memory.wf s.mem && SMap.wf false s.full && SMap.wf (0, 0) s.poison && SMap.wf Ctx.reset s.ctxs && s.ctxs.all (fun e => decide (e.2.norm = e.2))
    && SMap.wf Core.reset s.cores && SMap.wf Barrier.reset s.barriers && SMap.wf StepGroup.reset s.groups && SMap.wf Park.free s.ptt && SMap.wf Frame.reset s.frames
    && SMap.wf 0 s.dcb && SMap.wf 0 s.msgWin

/-! ### The firing of a node -/

/-- The node of instruction `i` at the site of `s` may fire (R17, R64, R109, R110), and this is its firing. -/
def Fires (s : Machine.State) (i : Instr) (f : Fire) : Prop :=
  ∃ b, (s.ctx s.site.c).run? s.site.iid = some b ∧ s.mayFire s.site.c (s.ctx s.site.c) b s.site.idx (shape i) = true
    ∧ f = fireOf s.site.c (s.ctx s.site.c) b s.site.idx (shape i)

/-- No flag rule of R12, and no rule of R70 or R71, decides the firing: the node computes or acts. -/
def Acts (s : Machine.State) (i : Instr) (f : Fire) : Prop := Fires s i f ∧ f.rules = none

/-- The state in which the firing has come to `o`: recorded in its block run, and its tokens sent. -/
def fired (s : Machine.State) (i : Instr) (f : Fire) (o : NodeOut) : Machine.State := ((Run.start s).finish f.c f.b.iid f.idx (shape i) o).st

/-- Whenever the node acts, `exec` answers the next state in which its firing has come to `o`. -/
def Yields (i : Instr) (o : Machine.State → Fire → NodeOut) : Prop := ∀ s f, Acts s i f → Machine.exec i s = .next (fired s i f (o s f))

/-- The firing is that of an exit that is the first of its run to fire, every `nest` and `unnest` of the run has fired, and `n` and `w` are the nest and the record that
the run leaves (R63, R65, R66). -/
def Leaves (s : Machine.State) (i : Instr) (f : Fire) (n : BitVec 56) (w : NestRec) : Prop :=
  Acts s i f ∧ f.b.exit = none ∧ f.b.begun = false ∧ s.nestsFired f.c f.b = true ∧ tagAfter f.b = .ok (n, w)

/-- `exec` answers a next state in which the exit has fired as `k`, its successor is settled, and nothing differs but the block runs of its context, what `ch` changes there,
and the event counters. -/
def Exited (s : Machine.State) (i : Instr) (f : Fire) (k : ExitKind) (ch : Ctx → Ctx) : Prop :=
  ∃ t, Machine.exec i s = .next t ∧ t = { s with ctxs := t.ctxs, dcb := t.dcb } ∧ (∀ d, d ≠ f.c → t.ctx d = s.ctx d)
    ∧ t.ctx f.c = { ch (s.ctx f.c) with runs := (t.ctx f.c).runs }
    ∧ ∃ b, (t.ctx f.c).run? f.b.iid = some b ∧ b.exit = some (f.idx, k) ∧ b.begun = true ∧ b.effs = f.b.effs

/-- The states differ in nothing but the block runs of context `c` and the event counters. -/
def SameBut (s t : Machine.State) (c : Nat) : Prop :=
  t = { s with ctxs := t.ctxs, dcb := t.dcb } ∧ (∀ d, d ≠ c → t.ctx d = s.ctx d) ∧ t.ctx c = { s.ctx c with runs := (t.ctx c).runs }

/-- The context stands at the start of its handler block for a fault (R375): none of its runs is left, the latch is filled, HNDL is set, LASTCLASS names the class, and the block
that the table's entry names is next, under NEST zero. -/
def Handling (x : Ctx) (f : FaultRec) (latch : Latch) (blk : Nat) : Prop :=
  x.runs = [] ∧ x.hndl = true ∧ x.lastclass = BitVec.ofNat 8 f.cls ∧ x.resume = latch ∧ x.next = some ⟨BitVec.ofNat 64 blk, .dispatch, 0, [], 0, [], 0, 255, none⟩

/-- The fault has escalated (R377): the context is stopped with its latch in place, none of its runs is left, and the firmware holds the record, under the key `k`. -/
def Escalated (t : Machine.State) (c k : Nat) (f : FaultRec) (latch : Latch) : Prop :=
  (t.ctx c).mode = .stopped ∧ (t.ctx c).runs = [] ∧ (t.ctx c).next = none ∧ (t.ctx c).resume = latch ∧ SMap.get t.escalated (FaultRec.of 0 0) k = f

/-! ### Values -/

/-- The low bits of an operand at a width (R94). -/
abbrev low (w : Width) (x : Word64) : BitVec w.bits := x.setWidth w.bits

/-- A scalar result at a width: zero-extended, with S = 0 (R94). -/
def result (w : Width) (v : BitVec w.bits) (flags : FlagSet := 0) : NodeOut :=
  { t0 := some ⟨.scalar, (v.setWidth 64).setWidth 512, false, false, false⟩, t1 := some ⟨.scalar, (v.setWidth 64).setWidth 512, false, false, false⟩, flags := flags }

/-- A scalar result of 64 bits with S = 0. -/
def result64 (v : Word64) : NodeOut :=
  { t0 := some ⟨.scalar, v.setWidth 512, false, false, false⟩, t1 := some ⟨.scalar, v.setWidth 512, false, false, false⟩ }

/-- The outcome of a comparison as a control token. -/
def outcome (p : Bool) : NodeOut :=
  { t0 := some ⟨.control, if p then 1 else 0, false, false, false⟩, t1 := some ⟨.control, if p then 1 else 0, false, false, false⟩ }

/-- The next arrival of a counting node carries the value `t`, neither null nor error, of a kind that the node takes; no gate stops it and no error has arrived (R78, R125). -/
def Arrives (s : Machine.State) (i : Instr) (f : Fire) (t : Token) : Prop :=
  Fires s i f ∧ (f.b.at' f.idx .a)[(f.b.counting f.idx).seen]? = some t ∧ t.e = false ∧ t.n = false ∧ (shape i).a.contains t.kind = true
    ∧ ((shape i).gate = .none ∨ (f.g.kind = .control ∧ f.g.e = false ∧ f.mismatch = false)) ∧ (f.b.counting f.idx).err = none

/-- A counting node: every arrival but the last is taken into what it holds; the last one sends the combined value (R78, R125). -/
def Counts (i : Instr) (ok : Token → Token → Prop) (op : Option Token → Token → Token × FlagSet) : Prop :=
  ∀ s f t, Arrives s i f t → (∀ h, (f.b.counting f.idx).held = some h → ok h t) →
    let k := f.b.counting f.idx
    let v := op k.held t
    Machine.exec i s = .next (fired s i f (if k.seen + 1 = (shape i).count
      then { t0 := some v.1, t1 := some v.1, flags := v.2, keep := some { k with seen := k.seen + 1, held := some v.1 } }
      else { flags := v.2, keep := some { k with seen := k.seen + 1, held := some v.1 }, done := false }))

/-- The node delivers a vector of `n` elements of `w` bits, zero above them, whose element `j` is `op f j`; its flags are those of the elements (R138, R146). -/
def YieldsLanes (i : Instr) (w n : Nat) (scaled : Fire → Bool) (op : Fire → Nat → Rounded) : Prop :=
  ∃ (v : Fire → Payload) (fl : Fire → FlagSet),
    Yields i (fun _ f => { t0 := some ⟨.vector, v f, scaled f, false, false⟩, t1 := some ⟨.vector, v f, scaled f, false, false⟩, flags := fl f })
    ∧ ∀ f, (∀ j, j < n → elemAt w (v f) j = (op f j).bits % 2 ^ w) ∧ (v f).toNat < 2 ^ (w * n)
      ∧ ∀ k, (fl f).getLsbD k = true ↔ ∃ j, j < n ∧ (op f j).flags.getLsbD k = true

/-- An exact value rounded once into a format, with the flags that the operation raised beside those of the rounding (R146, R157). -/
def roundOnce (f : FloatFmt) (rm : Rm) (v : Ext × FlagSet) : Rounded := ⟨(rnd f rm .default v.1).bits, (rnd f rm .default v.1).flags ||| v.2⟩

/-- The fixed pairwise tree of R164: node `i` of level `k` combines nodes `2i` and `2i + 1` of the level below. -/
def pairTree (op : Nat → Nat → Nat) (x : Nat → Nat) : Nat → Nat → Nat
  | 0, i => x i
  | k + 1, i => op (pairTree op x k (2 * i)) (pairTree op x k (2 * i + 1))

/-! ### Families -/

/-- The instructions of a block whose firing changes nothing but their block run: whatever effect they have stands in it until its commit (R67). -/
def plain : Instr → Bool
  | .mov .. | .null .. | .steer .. | .select .. | .merge .. | .join .. | .joinOr .. | .ctl .. | .ctlNz .. | .movi .. | .lit .. | .read .. | .readT ..
  | .write .. | .itag .. | .nest .. | .unnest .. | .decide .. | .decideRgn .. | .add .. | .sub .. | .mul .. | .mulh .. | .mulhn .. | .div .. | .divn ..
  | .rem .. | .remn .. | .and .. | .or .. | .xor .. | .andn .. | .shl .. | .shr .. | .sra .. | .rotl .. | .min .. | .max .. | .minn .. | .maxn ..
  | .clz .. | .ctz .. | .popc .. | .sext .. | .zext .. | .bfx .. | .bfi .. | .lea .. | .cmpEq .. | .cmpNe .. | .cmpLt .. | .cmpLe .. | .cmpLtn ..
  | .cmpLen .. | .addi .. | .andi .. | .ori .. | .xori .. | .shli .. | .shri .. | .srai .. | .muli .. | .cmpiEq .. | .cmpiNe .. | .cmpiLt .. | .cmpiLe ..
  | .cmpiLtn .. | .cmpiLen .. | .st .. | .fill .. | .empty .. | .wcvStore .. | .step .. | .barr .. | .bwait .. | .fenceCore .. | .fenceClus ..
  | .fenceDie .. | .fencePkg .. | .fenceSys .. | .combAdd .. | .combMin .. | .combMax .. | .combMinn .. | .combMaxn .. | .combAnd .. | .combOr ..
  | .combXor .. | .combFadd .. | .combFmin .. | .combFmax .. | .redF32 .. | .redXs .. | .vadd .. | .vsub .. | .vmul .. | .vfma .. | .vfms .. | .vmax ..
  | .vmin .. | .vabs .. | .vneg .. | .vrcp .. | .vrsq .. | .vsqrt .. | .vexp2 .. | .vlog2 .. | .vtanh .. | .vcmp .. | .vsel .. | .vbcastW32 ..
  | .vbcastW16 .. | .vbcastW8 .. | .vpermW32 .. | .vpermW16 .. | .vpermW8 .. | .vextrW32 .. | .vextrW16 .. | .vextrW8 .. | .vinsW32 .. | .vinsW16 ..
  | .vinsW8 .. | .vrsum .. | .vrmax .. | .vrmin .. | .vamax .. | .vexpo .. | .vexpoSc .. | .vldexp .. | .vcvt .. | .vscale .. | .sacc .. | .vpack ..
  | .vunpackLo .. | .vunpackHi .. | .eaddF32 .. | .eaddBf16 .. | .eroundF32 .. | .eroundBf16 .. | .eclr .. | .randN64 .. | .randF32 .. | .rskip ..
  | .smix .. | .scollArgmax .. | .scollSample .. | .scollConf .. | .slog .. | .sget .. | .nop .. | .trap .. | .brk .. | .rdsr .. | .wrsr .. | .flags ..
  | .safe .. | .fixreq .. => true
  | _ => false

/-- The instructions of a block that fire once, when all their operands are there, and take no exit. -/
def single : Instr → Bool
  | .mov .. | .null .. | .steer .. | .select .. | .ctl .. | .ctlNz .. | .movi .. | .lit .. | .read .. | .readT .. | .write .. | .itag .. | .nest ..
  | .unnest .. | .cfgld .. | .decide .. | .decideRgn .. | .add .. | .sub .. | .mul .. | .mulh .. | .mulhn .. | .div .. | .divn .. | .rem .. | .remn ..
  | .and .. | .or .. | .xor .. | .andn .. | .shl .. | .shr .. | .sra .. | .rotl .. | .min .. | .max .. | .minn .. | .maxn .. | .clz .. | .ctz ..
  | .popc .. | .sext .. | .zext .. | .bfx .. | .bfi .. | .lea .. | .cmpEq .. | .cmpNe .. | .cmpLt .. | .cmpLe .. | .cmpLtn .. | .cmpLen .. | .addi ..
  | .andi .. | .ori .. | .xori .. | .shli .. | .shri .. | .srai .. | .muli .. | .cmpiEq .. | .cmpiNe .. | .cmpiLt .. | .cmpiLe .. | .cmpiLtn ..
  | .cmpiLen .. | .ld .. | .ldWait .. | .ldTake .. | .lds .. | .ldRaw .. | .st .. | .fill .. | .empty .. | .wcvLoad .. | .wcvStore .. | .atomAdd ..
  | .atomEsum .. | .atomAnd .. | .atomOr .. | .atomXor .. | .atomMin .. | .atomMax .. | .atomMinn .. | .atomMaxn .. | .atomFmin .. | .atomFmax ..
  | .atomSwap .. | .cas .. | .step .. | .barr .. | .bwait .. | .fenceCore .. | .fenceClus .. | .fenceDie .. | .fencePkg .. | .fenceSys .. | .redF32 ..
  | .redXs .. | .vadd .. | .vsub .. | .vmul .. | .vfma .. | .vfms .. | .vmax .. | .vmin .. | .vabs .. | .vneg .. | .vrcp .. | .vrsq .. | .vsqrt ..
  | .vexp2 .. | .vlog2 .. | .vtanh .. | .vcmp .. | .vsel .. | .vbcastW32 .. | .vbcastW16 .. | .vbcastW8 .. | .vpermW32 .. | .vpermW16 .. | .vpermW8 ..
  | .vextrW32 .. | .vextrW16 .. | .vextrW8 .. | .vinsW32 .. | .vinsW16 .. | .vinsW8 .. | .vrsum .. | .vrmax .. | .vrmin .. | .vamax .. | .vexpo ..
  | .vexpoSc .. | .vldexp .. | .vcvt .. | .vscale .. | .sacc .. | .vpack .. | .vunpackLo .. | .vunpackHi .. | .eaddF32 .. | .eaddBf16 .. | .eroundF32 ..
  | .eroundBf16 .. | .eclr .. | .mma .. | .mmaG .. | .mmaCb .. | .accclr .. | .accrd .. | .accrdSt .. | .accwr .. | .tdset .. | .copy .. | .copyMc ..
  | .stage .. | .xform .. | .fprint .. | .dedup .. | .gatherRows .. | .gatherSum .. | .gatherMean .. | .gatherWsum .. | .scatterAdd .. | .scatterMax ..
  | .scatterMin .. | .scatterOvw .. | .attn .. | .randN64 .. | .randF32 .. | .rskip .. | .spawn .. | .alloc .. | .free .. | .stopk .. | .smix ..
  | .shid .. | .semb .. | .sembProj .. | .scollArgmax .. | .scollSample .. | .scollConf .. | .slog .. | .scmp .. | .srpl .. | .sget .. | .nop ..
  | .trap .. | .brk .. | .rdsr .. | .wrsr .. | .flags .. | .perf .. | .safe .. | .fixreq .. => true
  | _ => false

/-- The engine commands of majors 0x34 to 0x3A that are issued as their operands stand, each with what it asks of the engines (R180). -/
inductive Command : Instr → CmdKind → Prop where
  | mma (acc : BitVec 2) (f : BitVec 2) (g : Gate) (t0 : Target) (t1 : Target) : Command (.mma acc f g t0 t1) (.mma acc f)
  | mmaG (acc : BitVec 2) (f : BitVec 2) (t0 : Target) (t1 : Target) : Command (.mmaG acc f t0 t1) (.mmaG acc f)
  | mmaCb (acc : BitVec 2) (g : Gate) (t0 : Target) (t1 : Target) : Command (.mmaCb acc g t0 t1) (.mmaCb acc)
  | accclr (acc : BitVec 2) (g : Gate) (t0 : Target) : Command (.accclr acc g t0) (.accclr acc)
  | accrd (acc : BitVec 2) (g : Gate) (t0 : Target) (t1 : Target) : Command (.accrd acc g t0 t1) (.accrd acc)
  | accrdSt (acc : BitVec 2) (g : Gate) (t0 : Target) : Command (.accrdSt acc g t0) (.accrdSt acc)
  | accwr (acc : BitVec 2) (g : Gate) (t0 : Target) : Command (.accwr acc g t0) (.accwr acc)
  | copy (g : Gate) (t0 : Target) (t1 : Target) : Command (.copy g t0 t1) .copy
  | copyMc (g : Gate) (t0 : Target) (t1 : Target) : Command (.copyMc g t0 t1) .copyMc
  | xform (g : Gate) (t0 : Target) : Command (.xform g t0) .xform
  | fprint (g : Gate) (core : Bool) (t0 : Target) (t1 : Target) : Command (.fprint g core t0 t1) (.fprint core)
  | dedup (g : Gate) (t0 : Target) : Command (.dedup g t0) .dedup
  | gatherRows (g : Gate) (t0 : Target) (t1 : Target) : Command (.gatherRows g t0 t1) (.gather 0)
  | gatherSum (g : Gate) (t0 : Target) (t1 : Target) : Command (.gatherSum g t0 t1) (.gather 1)
  | gatherMean (g : Gate) (t0 : Target) (t1 : Target) : Command (.gatherMean g t0 t1) (.gather 2)
  | gatherWsum (g : Gate) (t0 : Target) (t1 : Target) : Command (.gatherWsum g t0 t1) (.gather 3)
  | scatterAdd (g : Gate) (t0 : Target) (t1 : Target) : Command (.scatterAdd g t0 t1) (.scatter 0)
  | scatterMax (g : Gate) (t0 : Target) (t1 : Target) : Command (.scatterMax g t0 t1) (.scatter 1)
  | scatterMin (g : Gate) (t0 : Target) (t1 : Target) : Command (.scatterMin g t0 t1) (.scatter 2)
  | scatterOvw (g : Gate) (t0 : Target) (t1 : Target) : Command (.scatterOvw g t0 t1) (.scatter 3)
  | attn (g : Gate) (t0 : Target) (t1 : Target) : Command (.attn g t0 t1) .attn
  | alloc (g : Gate) (t0 : Target) : Command (.alloc g t0) .alloc
  | spawn (g : Gate) : Command (.spawn g) .spawn
  | free (g : Gate) : Command (.free g) .free

end Sys2Proof
end

