-- ==== Sys2Proof/Certificates/Slice0/Obligations.lean ====
section
/-! DEFINITION. Statements for the provers. -/

open Sys2Proof Sys2Proof.Machine

/-! ### Encodings -/

/-- Decoding the encoding of any well-formed instruction gives it back, with every operand at every value that the encoding admits: one word for an instruction of a
block, the eight 64-bit words of a header for a weight block; an event of the device has no encoding (R37 to R46, R265 to R268). -/
def Obligations.DecodeOfEncodeIsTheInstruction : Prop :=
  ∀ i : Instr, wf i = true → match toWord i, toHeader i with
    | some w, _ => encode i = [w] ∧ decode w = .ok i
    | none, some ws => decodeHeader ws = .ok i
    | none, none => encode i = []

/-- A word that decodes is a word of one well-formed instruction, bit for bit: no reserved bit is passed over, and no two words decode alike (R37, R47). -/
def Obligations.DecodedWordIsItsEncoding : Prop :=
  (∀ (w : Word32) (i : Instr), decode w = .ok i → wf i = true ∧ toWord i = some w)
    ∧ (∀ (v w : Word32) (i : Instr), decode v = .ok i → decode w = .ok i → v = w)
    ∧ (∀ (ws : List Word64) (i : Instr), decodeHeader ws = .ok i → wf i = true ∧ toHeader i = some ws)

/-- Words that the spec writes out, bit by bit, decode to the instructions it gives them: one of each format, and the first of several families. -/
def Obligations.SpecWordsDecode : Prop :=
  (decode 0x24400A81).toOption = some (.read .none 5 (.slot .a 1))
    ∧ (decode 0x44C21287).toOption = some (.divn .w16 .none (.slot .a 7) (.slot .b 9))
    ∧ (decode 0x5CC00E83).toOption = some (.srai .w8 .none 7 (.slot .a 3))
    ∧ (decode 0x06000002).toOption = some (.br .onFalse 2)
    ∧ (decode 0x61A3010A).toOption = some (.ld .main .w32 .arc 0 (.slot .b 10))
    ∧ (decode 0xA06000AD).toOption = some (.vfma .f32 .rne (.slot .a 45) .none)
    ∧ (decode 0xF8400200).toOption = some (.brk .none 1 .none)

/-! ### Steps -/

/-- One of the acts that may take place does, and time passes; with none, time alone passes. Of several, one that no longer waits goes first: a wait whose time has come ends, and a
station that has passed an operation over as often as it may fires it (R20). A node that is chosen runs the instruction that its word in the placed block decodes to, at its site; an
access from outside runs as it stands. Of the ready deterministic operations of a PE the one with the least key, and then the least node number, is chosen (R18). Time, stall counters,
turns and the order of replays are all that passes meanwhile. -/
def Obligations.StepRunsTheDecodedInstruction : Prop :=
  (∀ s : State, s.acts = [] → step s = .next (s.passed [] none))
    ∧ (∀ (s : State) (a : Act), s.acts = [a] → step s = perform a (s.passed [a] (some a)))
    ∧ (∀ s : State, 2 ≤ s.acts.length → ∃ a ∈ s.acts, step s = perform a (s.passed s.acts (some a)) ∧ ((∃ b ∈ s.acts, s.presses b = true) → s.presses a = true))
    ∧ (∀ (s : State) (x : Site) (b : BlockRun) (w : Word32) (i : Instr), (s.ctx x.c).run? x.iid = some b → s.wordAt x.c b x.idx = some w → decode w = .ok i →
        perform (.fire x) s = exec i { s with site := x })
    ∧ (∀ (s : State) (i : Instr) (l : List Instr), s.inputs = i :: l → perform .input s = exec i { s with inputs := l })
    ∧ (∀ (s : State) (l : List Site) (x y : Site) (a b : Ready), x ∈ s.chosen l → y ∈ l → s.readyAt x = some a → s.readyAt y = some b → a.at' = b.at' → a.det = true → b.det = true →
        a.key < b.key ∨ (a.key = b.key ∧ a.node ≤ b.node))
    ∧ (∀ (s : State) (l : List Act) (a : Option Act), ∃ n, let t := s.passed l a
        t = { s with clk := s.clk + n, choice := s.choice + 1, turns := t.turns, replays := t.replays, dcb := t.dcb, cores := t.cores }
        ∧ (Regular s = true → ∀ k, t.core k = { s.core k with stalls := (t.core k).stalls }))

/-- The header that the drive of a context has read decodes to the weight block that runs there (R265, R269).

Every event of the device's own runs the row of the opcode table that it names. -/
def Obligations.EventsRunTheirRows : Prop :=
  (∀ (s : State) (c : Nat) (d : Drive) (i : Instr), (s.ctx c).drive = some d → d.fault = none → (d.head = false ∨ driveDescOk d.desc = true) → d.hdr ≠ [] →
     decodeHeader (quadsOf d.hdr) = .ok i → perform (.event (.drive c)) s = exec i { s with site := ⟨c, 0, 0⟩ })
  ∧
  (∀ s : State,
     (∀ c, perform (.event (.instanceBegin c)) s = exec (.instanceBegin c) s ∧ perform (.event (.instanceCommit c)) s = exec (.instanceCommit c) s
       ∧ perform (.event (.decisionArrive c)) s = exec (.decisionArrive c) s ∧ perform (.event (.syncFaultDelivery c)) s = exec (.syncFaultDelivery c) s
       ∧ perform (.event (.asyncDeliveryTimeout c)) s = exec (.asyncDeliveryTimeout c) s ∧ perform (.event (.driveExit c)) s = exec (.driveExit c) s
       ∧ (∀ k, perform (.event (.bufferedAccessPerform c k)) s = exec (.bufferedAccessPerform c k) s)
       ∧ (∀ b, perform (.event (.firmwarePolicyResume c b)) s = exec (.firmwarePolicyResume c b) s))
     ∧ (∀ k, perform (.event (.granuleWaitTimeout k)) s = exec (.granuleWaitTimeout k) s ∧ perform (.event (.engineCompletion k)) s = exec (.engineCompletion k) s
       ∧ perform (.event (.attnAccept k)) s = exec (.attnAccept k) s ∧ perform (.event (.attnUnit k)) s = exec (.attnUnit k) s
       ∧ perform (.event (.attnResultWrite k)) s = exec (.attnResultWrite k) s ∧ perform (.event (.overflowTokenReturn k)) s = exec (.overflowTokenReturn k) s
       ∧ perform (.event (.homeUnitBatch k)) s = exec (.homeUnitBatch k) s ∧ perform (.event (.codeTableInstall k)) s = exec (.codeTableInstall k) s
       ∧ perform (.event (.cmpRelearn k)) s = exec (.cmpRelearn k) s ∧ perform (.event (.cmpGenFree k)) s = exec (.cmpGenFree k) s
       ∧ perform (.event (.evcntThreshold k)) s = exec (.evcntThreshold k) s ∧ perform (.event (.drainComplete k)) s = exec (.drainComplete k) s
       ∧ perform (.event (.drainTimeout k)) s = exec (.drainTimeout k) s ∧ perform (.event (.launchRecordRead k)) s = exec (.launchRecordRead k) s
       ∧ perform (.event (.nodePlace k)) s = exec (.nodePlace k) s)
     ∧ (∀ k j, perform (.event (.stepSwap k j)) s = exec (.stepSwap k j) s ∧ perform (.event (.stepTimeout k j)) s = exec (.stepTimeout k j) s
       ∧ perform (.event (.barrierTimeout k j)) s = exec (.barrierTimeout k j) s ∧ perform (.event (.matrixTileStep k j)) s = exec (.matrixTileStep k j) s
       ∧ perform (.event (.redNodeCombine k j)) s = exec (.redNodeCombine k j) s ∧ perform (.event (.redNodeTimeout k j)) s = exec (.redNodeTimeout k j) s
       ∧ perform (.event (.parkTimeout k j)) s = exec (.parkTimeout k j) s ∧ perform (.event (.slabMoveUnit k j)) s = exec (.slabMoveUnit k j) s
       ∧ perform (.event (.readyPriorityPromote k j)) s = exec (.readyPriorityPromote k j) s ∧ perform (.event (.nodeDispatch k j)) s = exec (.nodeDispatch k j) s
       ∧ perform (.event (.nodeEnd k j)) s = exec (.nodeEnd k j) s)
     ∧ perform (.event .fixReadoutDone) s = exec .fixReadoutDone s)

/-! ### Invariants -/

/-- Every step keeps the memory in its canonical form. -/
def Obligations.StepKeepsMemoryCanonical : Prop :=
  ∀ s t : State, Memory.wf s.mem = true → step s = .next t → Memory.wf t.mem = true

/-- The memory at reset is in canonical form, and every byte of it reads as zero (R287, R410); that host and peer memory read so is log entry 5.

The state at reset is regular. -/
def Obligations.ResetIsRegular : Prop :=
  (Memory.wf State.reset.mem = true ∧ ∀ k, State.reset.byte k = 0)
  ∧
  (Regular State.reset = true ∧ ∀ c, Bounded (State.reset.ctx c))

/-- Every step keeps the state regular; in a regular state the bits of FLAGS, MODE, RSPILL and PERFSEL that the spec leaves without a meaning read zero, the return stack
holds at most 32 entries and the fault queue at most 8 (R27, R28, R73, R374, R393). -/
def Obligations.StepKeepsRegistersBounded : Prop :=
  ∀ s t : State, Regular s = true → step s = .next t → Regular t = true ∧ ∀ c, Bounded (t.ctx c)

/-- The register files after package reset (R21, R26, R27, R310, R399): every g register 0 and full, soft registers NONE, exact sums 0 with flags clear, streams 0, FLAGS,
STATUS and the counting registers 0; every accumulator element +0.0, every shape record zero, barriers idle, step groups unconfigured; the timeouts read 10,000 and 100. -/
def Obligations.ResetValues : Prop :=
  (∀ c n, (State.reset.ctx c).reg n = 0 ∧ (State.reset.ctx c).isFull n = true ∧ (State.reset.ctx c).softReg n = 0 ∧ (State.reset.ctx c).key n = 0
      ∧ (State.reset.ctx c).counter n = 0 ∧ ∀ j, (State.reset.ctx c).lane n j = ⟨0, false, false, false⟩)
    ∧ (∀ c, (State.reset.ctx c).flags = 0 ∧ statusWord (State.reset.ctx c) false = 0 ∧ (State.reset.ctx c).rspill = 0 ∧ (State.reset.ctx c).dropcnt = 0
      ∧ (State.reset.ctx c).tilefull = 0 ∧ (State.reset.ctx c).tilepart = 0 ∧ (State.reset.ctx c).tileempty = 0 ∧ (State.reset.ctx c).perfsel = 0
      ∧ (State.reset.ctx c).stack = [])
    ∧ (∀ k n, SMap.get (State.reset.core k).acc 0 n = 0 ∧ SMap.get (State.reset.core k).td 0 n = 0)
    ∧ (∀ k n, (State.reset.barrierOf k n).armed = false ∧ (State.reset.barrierOf k n).expect = 0 ∧ (State.reset.barrierOf k n).arrived = []
      ∧ (State.reset.barrierOf k n).gen = 0)
    ∧ (∀ p n, (State.reset.group p n).conf = false ∧ (State.reset.group p n).members = [] ∧ (State.reset.group p n).arrived = [] ∧ (State.reset.group p n).phase = 0)
    ∧ (∀ p, p < 40 → State.reset.steptmo p = 10000 ∧ State.reset.redtmo p = 100)
    ∧ State.reset.clk = 0

/-! ### What a firing leaves -/

/-- The firing of a node whose effects stand in its block run changes no register, no flag, no byte of memory and no other context: what differs after it is the block runs
of its own context, and the event counters (R28, R67, R94, R391). It holds for every instruction of `plain`: tokens, constants, register and tag nodes, integer, vector and
exact-sum nodes, stores, fills, fences, `step`, `barr`, `red`, random, soft-token and system nodes. -/
def Obligations.NodeFrame : Prop :=
  ∀ (i : Instr) (s t : State), plain i = true → Regular s = true → exec i s = .next t → SameBut s t s.site.c ∧ (∀ k, t.byte k = s.byte k)
    ∧ ∀ c n, (t.ctx c).reg n = (s.ctx c).reg n ∧ (t.ctx c).isFull n = (s.ctx c).isFull n

/-- What a firing records in its block run: its effects stand in the run until the commit (R67), its flags are gathered there (R28), its outputs are counted (R61), and a
token to each target with room arrives at the slot that it names (R39, R69). -/
def Obligations.FiringIsRecorded : Prop :=
  ∀ (s : State) (i : Instr) (f : Fire) (o : NodeOut), Regular s = true → Fires s i f → o.wait = false → o.keep = none →
    ∃ b, ((fired s i f o).ctx f.c).run? f.b.iid = some b ∧ b.effs = f.b.effs ++ o.effs.map (fun e => ⟨f.idx, e⟩) ∧ b.flags = f.b.flags ||| o.flags
      ∧ b.outs = f.b.outs + o.outs ∧ (o.done = true → b.fired = f.idx :: f.b.fired)
      ∧ (∀ sl k t u, (shape i).t0 = .slot sl k → (shape i).t1 = .none → o.t0 = some t → s.overflows f.c f.b k.toNat = false → f.b.at' k.toNat sl = u →
          u.length < slotCapacity (((s.instrAt f.c f.b k.toNat).map shape).getD {}) sl → b.at' k.toNat sl = u ++ [t])

/-- A node that may not fire yet leaves the state as it is: it waits, and waiting is never a fault (R17). -/
def Obligations.NodeWaits : Prop :=
  ∀ (i : Instr) (s : State), single i = true → (∀ f, ¬ Fires s i f) → exec i s = .next s

/-- The flag rules, in their order, for every instruction that fires once (R12, R70, R71). A gate token of another kind is the target fault 0x05; a gate of the other polarity
gives a null to each target and no other effect; the first operand with E, in slot order, gives an error token that carries its descriptor, or with a side effect the
error-token consumption fault with its CLASS, CODE and TICKET; a null data operand gives nulls.

A data operand of a kind that its slot does not take is the target fault 0x05 (R71); a vector node, or one that compares scales, whose data operands differ in S is the
scale-mismatch fault (R12 rule 6). -/
def Obligations.FlagRules : Prop :=
  (∀ (i : Instr) (s : State) (f : Fire), single i = true → Fires s i f →
     ((shape i).gate ≠ .none → f.g.kind ≠ .control → exec i s = .next (fired s i f (f.fault 0x04 0x05)))
     ∧ (((shape i).gate ≠ .none → f.g.kind = .control) → ∀ p, (shape i).gate = (if p then .onTrue else .onFalse) → f.g.e = false → (f.g.n = true ∨ f.g.polarity ≠ p) →
         exec i s = .next (fired s i f
           { t0 := some ⟨f.retKind, 0, false, false, true⟩, t1 := some ⟨f.retKind, 0, false, false, true⟩, outs := (shape i).outs }))
     ∧ (((shape i).gate ≠ .none → f.g.kind = .control) → f.mismatch = false → (shape i).passA = false → ∀ t, f.operands.find? (fun t => t.e) = some t →
         ((shape i).side = false → exec i s = .next (fired s i f
             { t0 := some ⟨f.retKind, t.word.setWidth 512, false, true, false⟩, t1 := some ⟨f.retKind, t.word.setWidth 512, false, true, false⟩ }))
         ∧ ((shape i).side = true → exec i s = .next (fired s i f
             { faults := [⟨f.idx, 0x0D, 0x00, descClass t.word, descCode t.word, descTicket t.word, 0, none⟩] })))
     ∧ (((shape i).gate ≠ .none → f.g.kind = .control) → f.mismatch = false → (shape i).passA = false → f.operands.any (fun t => t.e) = false →
         f.dataOperands.any (fun t => t.n) = true → (shape i).ackNull = false → exec i s = .next (fired s i f
           { t0 := some ⟨f.retKind, 0, false, false, true⟩, t1 := some ⟨f.retKind, 0, false, false, true⟩, outs := (shape i).outs })))
  ∧
  (∀ (i : Instr) (s : State) (f : Fire), single i = true → Fires s i f → ((shape i).gate ≠ .none → f.g.kind = .control) → f.mismatch = false →
     f.operands.any (fun t => t.e) = false → f.dataOperands.any (fun t => t.n) = false → f.a.e = false →
     (f.kindsOk = false → exec i s = .next (fired s i f (f.fault 0x04 0x05)))
     ∧ (f.kindsOk = true → (shape i).scaled = true → f.scaleDiffers = true → exec i s = .next (fired s i f (f.fault 0x06 0x00))))

/-! ### Integer instructions -/

/-- Addition, subtraction, products and their upper halves wrap at the width; signed upper halves come from the signed readings (R94, R95).

Bitwise logic, and the signed and unsigned minimum and maximum (R95). -/
def Obligations.ArithmeticAndLogicResults : Prop :=
  (∀ (w : Width) (g : Gate) (t0 t1 : Target),
     Yields (.add w g t0 t1) (fun _ f => result w (low w f.a.word + low w f.b'.word))
     ∧ Yields (.sub w g t0 t1) (fun _ f => result w (low w f.a.word - low w f.b'.word))
     ∧ Yields (.mul w g t0 t1) (fun _ f => result w (low w f.a.word * low w f.b'.word))
     ∧ Yields (.mulh w g t0 t1) (fun _ f => result w (BitVec.ofInt w.bits ((low w f.a.word).toInt * (low w f.b'.word).toInt / 2 ^ w.bits)))
     ∧ Yields (.mulhn w g t0 t1) (fun _ f => result w (BitVec.ofNat w.bits ((low w f.a.word).toNat * (low w f.b'.word).toNat / 2 ^ w.bits))))
  ∧
  (∀ (w : Width) (g : Gate) (t0 t1 : Target),
     Yields (.and w g t0 t1) (fun _ f => result w (low w f.a.word &&& low w f.b'.word))
     ∧ Yields (.or w g t0 t1) (fun _ f => result w (low w f.a.word ||| low w f.b'.word))
     ∧ Yields (.xor w g t0 t1) (fun _ f => result w (low w f.a.word ^^^ low w f.b'.word))
     ∧ Yields (.andn w g t0 t1) (fun _ f => result w (low w f.a.word &&& ~~~(low w f.b'.word)))
     ∧ Yields (.min w g t0 t1) (fun _ f => result w (if (low w f.a.word).sle (low w f.b'.word) then low w f.a.word else low w f.b'.word))
     ∧ Yields (.max w g t0 t1) (fun _ f => result w (if (low w f.b'.word).sle (low w f.a.word) then low w f.a.word else low w f.b'.word))
     ∧ Yields (.minn w g t0 t1) (fun _ f => result w (if low w f.a.word ≤ low w f.b'.word then low w f.a.word else low w f.b'.word))
     ∧ Yields (.maxn w g t0 t1) (fun _ f => result w (if low w f.b'.word ≤ low w f.a.word then low w f.a.word else low w f.b'.word)))

/-- Division truncates toward zero and a remainder takes the sign of the dividend; a division by zero returns the quotient 0, or the dividend as remainder, and sets DZ; the
most negative value divided by −1 returns itself with remainder 0 and no flag (R96). -/
def Obligations.DivisionResults : Prop :=
  ∀ (w : Width) (g : Gate) (t0 t1 : Target),
    Yields (.div w g t0 t1) (fun _ f => if low w f.b'.word = 0 then result w 0 flagDZ
      else result w (BitVec.ofInt w.bits ((low w f.a.word).toInt.tdiv (low w f.b'.word).toInt)))
    ∧ Yields (.rem w g t0 t1) (fun _ f => if low w f.b'.word = 0 then result w (low w f.a.word) flagDZ
      else result w (BitVec.ofInt w.bits ((low w f.a.word).toInt - (low w f.b'.word).toInt * (low w f.a.word).toInt.tdiv (low w f.b'.word).toInt)))
    ∧ Yields (.divn w g t0 t1) (fun _ f => if low w f.b'.word = 0 then result w 0 flagDZ
      else result w (BitVec.ofNat w.bits ((low w f.a.word).toNat / (low w f.b'.word).toNat)))
    ∧ Yields (.remn w g t0 t1) (fun _ f => if low w f.b'.word = 0 then result w (low w f.a.word) flagDZ
      else result w (BitVec.ofNat w.bits ((low w f.a.word).toNat % (low w f.b'.word).toNat)))

/-- Shifts by a register take their count from the whole 64-bit scalar in B: `shl` and `shr` give 0, and `sra` all sign bits, when the count reaches the width; only `rotl`
reduces it (R97). -/
def Obligations.ShiftResults : Prop :=
  ∀ (w : Width) (g : Gate) (t0 t1 : Target),
    Yields (.shl w g t0 t1) (fun _ f => result w (low w f.a.word <<< f.b'.word.toNat))
    ∧ Yields (.shr w g t0 t1) (fun _ f => result w (low w f.a.word >>> f.b'.word.toNat))
    ∧ Yields (.sra w g t0 t1) (fun _ f => result w ((low w f.a.word).sshiftRight f.b'.word.toNat))
    ∧ Yields (.rotl w g t0 t1) (fun _ f => result w ((low w f.a.word).rotateLeft f.b'.word.toNat))

/-- Counts of zero and one bits, extensions, bit fields and `lea` (R98, R99, R100): `clz` and `ctz` of zero give the width, `sext` and `bfi` keep 64 bits, `bfx` takes the field
at its position, and `lea` adds the index scaled by a power of two. -/
def Obligations.BitResults : Prop :=
  ∀ (w : Width) (g : Gate) (t0 t1 : Target),
    (∃ n : Machine.State → Fire → Nat, Yields (.clz w g t0 t1) (fun s f => result64 (BitVec.ofNat 64 (n s f))) ∧ ∀ s f, n s f ≤ w.bits
      ∧ (∀ k, w.bits - n s f ≤ k → (low w f.a.word).getLsbD k = false) ∧ (n s f < w.bits → (low w f.a.word).getLsbD (w.bits - 1 - n s f) = true))
    ∧ (∃ n : Machine.State → Fire → Nat, Yields (.ctz w g t0 t1) (fun s f => result64 (BitVec.ofNat 64 (n s f))) ∧ ∀ s f, n s f ≤ w.bits
      ∧ (∀ k, k < n s f → (low w f.a.word).getLsbD k = false) ∧ (n s f < w.bits → (low w f.a.word).getLsbD (n s f) = true))
    ∧ Yields (.popc w g t0 t1) (fun _ f => result64 (BitVec.ofNat 64 ((List.range w.bits).filter (fun k => (low w f.a.word).getLsbD k)).length))
    ∧ Yields (.sext w g t0 t1) (fun _ f => result64 ((low w f.a.word).signExtend 64))
    ∧ Yields (.zext w g t0 t1) (fun _ f => result64 ((low w f.a.word).setWidth 64))
    ∧ (∀ p : BitVec 6, p.toNat + w.bits ≤ 64 → Yields (.bfx w g p t0) (fun _ f => result w (f.a.word.extractLsb' p.toNat w.bits)))
    ∧ (∀ p : BitVec 6, p.toNat + w.bits ≤ 64 → Yields (.bfi w g p t0) (fun _ f => result64
        ((f.a.word &&& ~~~((BitVec.allOnes w.bits).setWidth 64 <<< p.toNat)) ||| (low w f.b'.word).setWidth 64 <<< p.toNat)))
    ∧ (∀ sh : BitVec 3, Yields (.lea g sh t0) (fun _ f => result64 (f.a.word + f.b'.word * 2 ^ sh.toNat)))

/-- Comparisons deliver a control token whose polarity is the outcome: signed readings without n, unsigned ones with n (R101).

Immediate forms: a signed immediate is extended to 64 bits and its low bits used; a shift count is its immediate; the unsigned comparisons are made at 64 bits against
the zero-extended immediate (R102). -/
def Obligations.CompareAndImmediateResults : Prop :=
  (∀ (w : Width) (g : Gate) (t0 t1 : Target),
     Yields (.cmpEq w g t0 t1) (fun _ f => outcome (decide (low w f.a.word = low w f.b'.word)))
     ∧ Yields (.cmpNe w g t0 t1) (fun _ f => outcome (decide (low w f.a.word ≠ low w f.b'.word)))
     ∧ Yields (.cmpLt w g t0 t1) (fun _ f => outcome (decide ((low w f.a.word).toInt < (low w f.b'.word).toInt)))
     ∧ Yields (.cmpLe w g t0 t1) (fun _ f => outcome (decide ((low w f.a.word).toInt ≤ (low w f.b'.word).toInt)))
     ∧ Yields (.cmpLtn w g t0 t1) (fun _ f => outcome (decide ((low w f.a.word).toNat < (low w f.b'.word).toNat)))
     ∧ Yields (.cmpLen w g t0 t1) (fun _ f => outcome (decide ((low w f.a.word).toNat ≤ (low w f.b'.word).toNat))))
  ∧
  (∀ (w : Width) (g : Gate) (v : BitVec 10) (t0 : Target),
     Yields (.addi w g v t0) (fun _ f => result w (low w f.a.word + low w (v.signExtend 64)))
     ∧ Yields (.andi w g v t0) (fun _ f => result w (low w f.a.word &&& low w (v.signExtend 64)))
     ∧ Yields (.ori w g v t0) (fun _ f => result w (low w f.a.word ||| low w (v.signExtend 64)))
     ∧ Yields (.xori w g v t0) (fun _ f => result w (low w f.a.word ^^^ low w (v.signExtend 64)))
     ∧ Yields (.muli w g v t0) (fun _ f => result w (low w f.a.word * low w (v.signExtend 64)))
     ∧ Yields (.shli w g v t0) (fun _ f => result w (low w f.a.word <<< v.toNat))
     ∧ Yields (.shri w g v t0) (fun _ f => result w (low w f.a.word >>> v.toNat))
     ∧ Yields (.srai w g v t0) (fun _ f => result w ((low w f.a.word).sshiftRight v.toNat))
     ∧ Yields (.cmpiEq w g v t0) (fun _ f => outcome (decide (low w f.a.word = low w (v.signExtend 64))))
     ∧ Yields (.cmpiNe w g v t0) (fun _ f => outcome (decide (low w f.a.word ≠ low w (v.signExtend 64))))
     ∧ Yields (.cmpiLt w g v t0) (fun _ f => outcome (decide ((low w f.a.word).toInt < (low w (v.signExtend 64)).toInt)))
     ∧ Yields (.cmpiLe w g v t0) (fun _ f => outcome (decide ((low w f.a.word).toInt ≤ (low w (v.signExtend 64)).toInt)))
     ∧ Yields (.cmpiLtn w g v t0) (fun _ f => outcome (decide ((low w f.a.word).toNat < v.toNat)))
     ∧ Yields (.cmpiLen w g v t0) (fun _ f => outcome (decide ((low w f.a.word).toNat ≤ v.toNat))))

/-! ### Tokens, registers and tags -/

/-- The token instructions and constants (R76, R79): `mov` passes A with all its marks, `steer` and `select` follow the polarity of G, `ctl.nz` reads the payload by the kind of
A, `lit` takes an entry of the block's pool or marks the run with the space fault. -/
def Obligations.TokenResults : Prop :=
  ∀ (g : Gate) (t0 t1 : Target),
    Yields (.mov g t0 t1) (fun _ f => { t0 := some f.a, t1 := some f.a })
    ∧ Yields (.null g t0 t1) (fun _ f => { t0 := some ⟨f.a.kind, 0, false, false, true⟩, t1 := some ⟨f.a.kind, 0, false, false, true⟩ })
    ∧ Yields (.steer t0 t1) (fun _ f => if f.g.data.getLsbD 0
        then { t0 := some f.a, t1 := some ⟨f.a.kind, 0, false, false, true⟩ } else { t0 := some ⟨f.a.kind, 0, false, false, true⟩, t1 := some f.a })
    ∧ Yields (.select t0 t1) (fun _ f => if f.a.kind ≠ f.b'.kind then { faults := [⟨f.idx, 0x04, 0x05, 0, 0, 0, 0, none⟩] }
        else if f.g.data.getLsbD 0 then { t0 := some f.a, t1 := some f.a } else { t0 := some f.b', t1 := some f.b' })
    ∧ Yields (.ctl g t0 t1) (fun _ _ => outcome true)
    ∧ Yields (.ctlNz g t0 t1) (fun _ f => outcome (match f.a.kind with
        | .scalar => decide (f.a.data.setWidth 64 ≠ 0)
        | .vector => decide (f.a.data ≠ 0)
        | .handle => true
        | .control => f.a.data.getLsbD 0))
    ∧ Yields (.nop g t0) (fun _ _ => outcome true)
    ∧ (∀ v : BitVec 10, Yields (.movi g v t0) (fun _ _ => result64 (v.signExtend 64)))
    ∧ (∀ j : BitVec 7, Yields (.lit g j t0) (fun s f => match ((s.placedOf f.c f.b).bind (·.pool)).bind (fun p => p[j.toNat]?) with
        | some v => result64 v
        | none => { faults := [⟨f.idx, 0x08, 0x00, 0, 0, 0, 0, none⟩] }))

/-- `merge` fires once for each token (R77): a value is sent as it arrives and a null is absorbed, but the second of two nulls sends one null; with tokens in both slots, A goes
first in deterministic mode and otherwise the one that came first.

`join` sends, after its last arrival, the AND of the polarities, and `join.or` their OR (R78). Nulls are counted and not combined: when all arrivals are null the output is
a null. -/
def Obligations.MergeAndJoinCountArrivals : Prop :=
  (∀ (s : State) (f : Fire) (t0 t1 : Target) (sl : Slot) (t : Token), Fires s (.merge t0 t1) f → f.b.tok? f.idx sl = some t →
     let k := f.b.counting f.idx
     (sl = .a ∧ k.seen % 2 = 0 ∧ (f.b.det = true ∨ k.seen / 2 % 2 = 1 ∨ f.b.tok? f.idx .b = none ∨ (f.b.toks.find? (fun e => e.idx == f.idx)).map (·.slot) = some .a)
       ∨ sl = .b ∧ k.seen / 2 % 2 = 0 ∧ (k.seen % 2 = 1 ∨ f.b.tok? f.idx .a = none ∨ (f.b.det = false ∧ (f.b.toks.find? (fun e => e.idx == f.idx)).map (·.slot) = some .b))) →
     let m := k.seen + (if sl = .a then 1 else 2)
     let nulls := k.nulls + (if t.n then 1 else 0)
     let send : Option Token := if t.n = false ∨ nulls = 2 then some t else none
     exec (.merge t0 t1) s = .next (fired s (.merge t0 t1) f { t0 := send, t1 := send, keep := some { k with seen := m, nulls := nulls }, done := m == 3 }))
  ∧
  (∀ (g : Gate) (n : BitVec 7) (t0 : Target),
     Counts (.join g n t0) (fun _ _ => True) (fun h t => (⟨.control, if (h.map Token.polarity).getD true && t.polarity then 1 else 0, false, false, false⟩, 0))
     ∧ Counts (.joinOr g n t0) (fun _ _ => True) (fun h t => (⟨.control, if (h.map Token.polarity).getD false || t.polarity then 1 else 0, false, false, false⟩, 0))
     ∧ (∀ i ∈ [Instr.join g n t0, Instr.joinOr g n t0], ∀ s f t, Fires s i f → g = .none → (f.b.at' f.idx .a)[(f.b.counting f.idx).seen]? = some t → t.e = false → t.n = true →
         (f.b.counting f.idx).seen = n.toNat → (f.b.counting f.idx).held = none → (f.b.counting f.idx).err = none →
         exec i s = .next (fired s i f { t0 := some ⟨.control, 0, false, false, true⟩, t1 := some ⟨.control, 0, false, false, true⟩,
                                         keep := some { f.b.counting f.idx with seen := n.toNat + 1, nulls := (f.b.counting f.idx).nulls + 1 } })))

/-- `comb` combines each arrival with what it holds (R125): `.add` wraps at 64 bits, `.min` and `.max` are signed, `.minn` and `.maxn` unsigned, the logic is bitwise; the float
operations work on bits 31:0; the vector forms act on 16 lanes of 32 bits. Arrivals whose S flags differ raise the scale-mismatch fault. -/
def Obligations.CombCombines : Prop :=
  ∀ (g : Gate) (n : BitVec 7) (t0 : Target),
    (∀ e ∈ ([(Instr.combAdd g false n t0, fun a b => a + b), (.combMin g false n t0, fun a b => if a.sle b then a else b),
        (.combMax g false n t0, fun a b => if b.sle a then a else b), (.combMinn g false n t0, fun a b => if a.ule b then a else b),
        (.combMaxn g false n t0, fun a b => if b.ule a then a else b), (.combAnd g false n t0, fun a b => a &&& b),
        (.combOr g false n t0, fun a b => a ||| b), (.combXor g false n t0, fun a b => a ^^^ b)] : List (Instr × (Word64 → Word64 → Word64))),
      Counts e.1 (fun h t => h.s = t.s) (fun h t => (match h with
        | none => t
        | some h => ⟨.scalar, (e.2 h.word t.word).setWidth 512, h.s, false, false⟩, 0)))
    ∧ (∀ e ∈ [(Instr.combFadd g false n t0, CombOp.fadd), (.combFmin g false n t0, .fmin), (.combFmax g false n t0, .fmax)],
      Counts e.1 (fun h t => h.s = t.s) (fun h t => match h with
        | none => (scalar (t.word &&& 0xFFFFFFFF) t.s, 0)
        | some h => (scalar (BitVec.ofNat 64 (combLane e.2 32 (h.word.toNat % 2 ^ 32) (t.word.toNat % 2 ^ 32)).1) h.s,
            (combLane e.2 32 (h.word.toNat % 2 ^ 32) (t.word.toNat % 2 ^ 32)).2)))
    ∧ (∀ e ∈ [(Instr.combAdd g true n t0, CombOp.add), (.combMin g true n t0, .min), (.combMax g true n t0, .max), (.combMinn g true n t0, .minn), (.combMaxn g true n t0, .maxn),
          (.combAnd g true n t0, .and), (.combOr g true n t0, .or), (.combXor g true n t0, .xor), (.combFadd g true n t0, .fadd), (.combFmin g true n t0, .fmin),
          (.combFmax g true n t0, .fmax)],
      ∃ v : Token → Token → Payload × FlagSet, Counts e.1 (fun h t => h.s = t.s) (fun h t => match h with
          | none => (t, 0)
          | some h => (⟨.vector, (v h t).1, h.s, false, false⟩, (v h t).2))
        ∧ ∀ h t j, j < 16 → elemAt 32 (v h t).1 j = (combLane e.2 32 (elemAt 32 h.data j) (elemAt 32 t.data j)).1 % 2 ^ 32)
    ∧ (∀ h x : Nat, h < 2 ^ 32 → x < 2 ^ 32 →
        (combLane .fadd 32 h x = (let s := addExt .rne (FloatFmt.f32.read h) (FloatFmt.f32.read x); ((rneF32 s.1).bits, (rneF32 s.1).flags ||| s.2)))
        ∧ combLane .add 32 h x = ((h + x) % 2 ^ 32, 0) ∧ combLane .minn 32 h x = (min h x, 0) ∧ combLane .maxn 32 h x = (max h x, 0))
    ∧ (∀ (v : Bool) s f t h, Arrives s (.combAdd g v n t0) f t → (f.b.counting f.idx).held = some h → h.s ≠ t.s →
        exec (.combAdd g v n t0) s = .next (fired s (.combAdd g v n t0) f
          { faults := [⟨f.idx, 0x06, 0x00, 0, 0, 0, 0, none⟩],
            keep := some { f.b.counting f.idx with seen := (f.b.counting f.idx).seen + 1 }, done := (f.b.counting f.idx).seen == n.toNat }))

/-- The register and tag nodes (R22, R80, R81): `read` of a full register gives its value and waits for an empty one, `read.t` of an empty one gives an E token with the
register-empty code, `write` takes effect at the commit, `itag` reads a level of the tag, `nest` and `unnest` act at the commit.

The system nodes (R378, R27, R393, R380, R390): `rdsr` reads a register as older runs leave it, `wrsr` writes at the commit and faults on a read-only register, `flags` reads
FLAGS and clears bits at the commit, `perf` reads the selected counter, and `trap`, `brk`, `safe` and `fixreq` act at the commit. -/
def Obligations.RegisterTagAndSystemNodes : Prop :=
  (∀ (g : Gate) (t0 : Target) (n : BitVec 6),
     (∀ s f, Acts s (.read g n t0) f → f.x.isFull n.toNat = true →
       exec (.read g n t0) s = .next (fired s (.read g n t0) f { result64 (f.x.reg n.toNat) with took := f.x.tookFrom n.toNat }))
     ∧ (∀ s f, Acts s (.read g n t0) f → f.x.isFull n.toNat = false → exec (.read g n t0) s = .next s)
     ∧ (∀ s f, Acts s (.readT g n t0) f → f.x.isFull n.toNat = true →
       exec (.readT g n t0) s = .next (fired s (.readT g n t0) f { result64 (f.x.reg n.toNat) with took := f.x.tookFrom n.toNat }))
     ∧ (∀ s f, Acts s (.readT g n t0) f → f.x.isFull n.toNat = false → exec (.readT g n t0) s = .next (fired s (.readT g n t0) f
         { t0 := some ⟨.scalar, 0x0D01000000000000, false, true, false⟩, t1 := some ⟨.scalar, 0x0D01000000000000, false, true, false⟩ }))
     ∧ Yields (.write g n) (fun _ f => if f.x.isFull n.toNat then { effs := [.gwrite n f.a.word], outs := 1 }
         else { faults := [⟨f.idx, 0x04, 0x04, 0, 0, 0, 0, none⟩] })
     ∧ (∀ l : BitVec 3, Yields (.itag g l t0) (fun _ f => result64 (BitVec.ofNat 64 (levelValue f.b.nest f.b.widths l.toNat))))
     ∧ (∀ c : BitVec 3, Yields (.nest g c) (fun _ _ => { effs := [.nest c] }))
     ∧ Yields (.unnest g) (fun _ _ => { effs := [.unnest] }))
  ∧
  (∀ (g : Gate) (t0 : Target),
     (∀ r : SysReg, Yields (.rdsr g r t0) (fun s f => result64 (readSys s f.c f.x f.b.det r)))
     ∧ (∀ r : SysReg, Yields (.wrsr g r) (fun _ f => if SysReg.writable r then { effs := [.wrsr r f.a.word], outs := 1 }
         else { faults := [⟨f.idx, 0x01, 0x01, 0, 0, 0, 0, none⟩] }))
     ∧ (∀ m : BitVec 7, Yields (.flags g m t0) (fun _ f => { result64 f.x.flags with effs := [.flagsClear m] }))
     ∧ (∀ s f, Acts s (.perf g t0) f →
         (∀ off, perfCounter f.c (f.x.perfsel.toNat % 64) = some off → timedSource ((s.dcbAt (f.c / 160) (off + 8)).toNat % 256) = false →
             exec (.perf g t0) s = .next (fired s (.perf g t0) f (result64 (s.dcbAt (f.c / 160) off))))
         ∧ (∀ off, perfCounter f.c (f.x.perfsel.toNat % 64) = some off → timedSource ((s.dcbAt (f.c / 160) (off + 8)).toNat % 256) = true →
             ∃ v : Word64, v.extractLsb' 48 15 = 0 ∧ exec (.perf g t0) s = .next ((Run.start s).chose.finish f.c f.b.iid f.idx (shape (.perf g t0)) (result64 v)).st)
         ∧ (perfCounter f.c (f.x.perfsel.toNat % 64) = none → exec (.perf g t0) s = .next (fired s (.perf g t0) f (result64 0))))
     ∧ (∀ c : BitVec 8, Yields (.trap g c t0) (fun _ _ => { outcome true with effs := [.trap 0x16 c.toNat] })
         ∧ Yields (.brk g c t0) (fun _ _ => { outcome true with effs := [.trap 0x17 c.toNat] }))
     ∧ Yields (.safe g t0) (fun _ _ => { outcome true with effs := [.safe] })
     ∧ Yields (.fixreq g t0) (fun _ _ => { outcome true with effs := [.fixreq] }))

/-- A decision goes to the issuing context's latch, or to a range of team ranks, at the commit; reserved bits or a range beyond the team mark the run with the space fault
(R83).

`cfgld` of one block (R82): the block fetched from A is placed in the blockslot that B names, pinned to the context, and the node delivers a control token; a range past
blockslot 15 or reserved bits mark the run with the space fault, and a fetch check that fails gives an E token with its class and code. -/
def Obligations.DecisionsAndPinnedBlocks : Prop :=
  (∀ (g : Gate) (t0 t1 : Target),
     Yields (.decide g t0 t1) (fun _ f => if 64 ≤ f.a.word.toNat then { faults := [⟨f.idx, 0x08, 0x00, 0, 0, 0, 0, none⟩] }
       else { outcome true with effs := [.decide (f.a.word.extractLsb' 0 2).toNat (f.a.word.extractLsb' 2 4).toNat 0 0] })
     ∧ Yields (.decideRgn g t0 t1) (fun _ f =>
       if 64 ≤ f.a.word.toNat ∨ 65536 ≤ f.b'.word.toNat ∨ f.x.tsize < (f.b'.word.extractLsb' 0 8).toNat + ((f.b'.word.extractLsb' 8 8).toNat + 1)
       then { faults := [⟨f.idx, 0x08, 0x00, 0, 0, 0, 0, none⟩] }
       else { outcome true with effs := [.decide (f.a.word.extractLsb' 0 2).toNat (f.a.word.extractLsb' 2 4).toNat (f.b'.word.extractLsb' 0 8).toNat
         ((f.b'.word.extractLsb' 8 8).toNat + 1)] }))
  ∧
  (∀ (g : Gate) (t0 : Target) (s : State) (f : Fire), Acts s (.cfgld g t0) f →
     let i : Instr := .cfgld g t0
     let k := (f.b'.word.extractLsb' 0 2).toNat
     let j := (f.b'.word.extractLsb' 2 4).toNat
     let n := (f.b'.word.extractLsb' 6 4).toNat + 1
     ((16 < j + n ∨ 1024 ≤ f.b'.word.toNat) → exec i s = .next (fired s i f { faults := [⟨f.idx, 0x08, 0x00, 0, 0, 0, 0, none⟩] }))
     ∧ (j + n ≤ 16 → f.b'.word.toNat < 1024 → f.a.word.toNat % 64 = 0 → n = 1 → s.slotBars f k j = (false, false) → f.b.denied = [] →
       ∀ r : Run s, ∀ gt, (Run.start s).fetchBlock (s.agent f.c) f.a.word.toNat = (r, gt) →
         (∀ cl co va, gt = .fault cl co va → exec i s = .next (r.finish f.c f.b.iid f.idx (shape i)
           { t0 := some ⟨.control, (descriptor cl co 0).setWidth 512, false, true, false⟩, t1 := some ⟨.control, (descriptor cl co 0).setWidth 512, false, true, false⟩ }).st)
         ∧ (∀ b, gt = .ok b → b.bad = none → exec i s = .next ((r.place f.c (b.placed k j f.a.word (r.st.ctx f.c).grp (some f.c) f.b.iid)).finish f.c f.b.iid f.idx
             (shape i) (outcome true)).st)))

/-! ### Exits -/

/-- An exit that fires with effect, when every `nest` and `unnest` of its run has fired, names its successor under the tag that the run leaves (R43, R63, R65, R72, R74): `br` the
block at its offset, `brn` the next sequential block once it is known, `bri` the block at A, `iter` the same block under the next value of the innermost field, with the tokens it passes.

`halt` and `wdrive` fire with effect and name no successor: what they do comes at the commit (R75, R261). `wdrive` checks the chain's address and the descriptor's first. -/
def Obligations.BranchesNameTheirSuccessor : Prop :=
  (∀ (s : State) (f : Fire) (g : Gate) (n : BitVec 56) (w : NestRec), Regular s = true →
     (∀ off, Leaves s (.br g off) f n w → Exited s (.br g off) f .br (fun x => { x with
       next := some ⟨f.b.addr + off.signExtend 64 * 64, .other, n, w, 0, [], f.b.iid, f.idx, none⟩ }))
     ∧ (∀ p a, Leaves s (.brn g) f n w → s.placedOf f.c f.b = some p → p.next' = some a → Exited s (.brn g) f .brn (fun x => { x with
       next := some ⟨a, .other, n, w, 0, [], f.b.iid, f.idx, none⟩ }))
     ∧ (Leaves s (.bri g) f n w → f.a.word.toNat % 64 = 0 → f.a.word.toNat < 2 ^ 56 → f.b.tok? f.idx .a = some f.a → Exited s (.bri g) f .bri (fun x => { x with
       next := some ⟨f.a.word, .other, n, w, 0, [], f.b.iid, f.idx, none⟩ }))
     ∧ (∀ t0 t1 n', Leaves s (.iter g t0 t1) f n w → incLevel n w = .ok n' → Exited s (.iter g t0 t1) f .iter (fun x => { x with
       next := some ⟨f.b.addr, .iter, n', w, f.b.frame.toNat, passed t0 (f.b.tok? f.idx .a) ++ passed t1 (f.b.tok? f.idx .b), f.b.iid, f.idx, some (f.b.cfg, f.b.slot)⟩ }))
     ∧ (∀ k j p, Leaves s (.brnDec g) f n w → (s.ctx f.c).isOldest f.b.iid = true → (s.ctx f.c).latch = some (k, j) → (s.core (f.c / 4)).placedAt k j = some p →
         p.pin = some f.c → Exited s (.brnDec g) f .brnDec (fun x => { x with
           latch := none, next := some ⟨p.addr, .other, n, w, 0, [], f.b.iid, f.idx, some (k, j)⟩ })))
  ∧
  (∀ (s : State) (f : Fire) (g : Gate) (n : BitVec 56) (w : NestRec), Regular s = true →
     (Leaves s (.halt g) f n w → Exited s (.halt g) f .halt id)
     ∧ (∀ off, Leaves s (.wdrive g off) f n w → f.a.word.toNat % 64 = 0 → f.a.word.toNat < 2 ^ 56 → f.b'.word.toNat % 64 = 0 → f.b'.word.toNat + 64 ≤ coreLimit →
         Exited s (.wdrive g off) f (.wdrive f.a.word f.b'.word) id))

/-- `call` and `calli` push the next sequential block, once it is known, with the tag that the run leaves, and name their target (R33, R72, R73). -/
def Obligations.CallsPush : Prop :=
  ∀ (s : State) (f : Fire) (g : Gate) (n : BitVec 56) (w : NestRec) (p : Placed) (a : Word64), Regular s = true → s.placedOf f.c f.b = some p → p.next' = some a →
    (s.ctx f.c).stack.length < 32 →
    (∀ off, Leaves s (.call g off) f n w → Exited s (.call g off) f .call (fun x => { x with
      stack := x.stack ++ [⟨a, n, w⟩], next := some ⟨f.b.addr + off.signExtend 64 * 64, .other, n, w, 0, [], f.b.iid, f.idx, none⟩ }))
    ∧ (Leaves s (.calli g) f n w → f.a.word.toNat % 64 = 0 → f.a.word.toNat < 2 ^ 56 → f.b.tok? f.idx .a = some f.a → Exited s (.calli g) f .calli (fun x => { x with
      stack := x.stack ++ [⟨a, n, w⟩], next := some ⟨f.a.word, .other, n, w, 0, [], f.b.iid, f.idx, none⟩ }))

/-- `ret` pops the newest entry and names its block under its tag (R73); with nothing on chip and no spilled entry it marks its run with the target fault; at the depth of a
handler it is a handler return, which takes effect at the commit (R376). -/
def Obligations.ReturnsPop : Prop :=
  ∀ (s : State) (f : Fire) (g : Gate) (n : BitVec 56) (w : NestRec), Regular s = true → Leaves s (.ret g) f n w →
    (∀ e, (s.ctx f.c).atHandlerDepth = false → (s.ctx f.c).stack.getLast? = some e → Exited s (.ret g) f .ret (fun x => { x with
      stack := x.stack.dropLast, next := some ⟨e.addr, .ret, e.nest, e.widths, 0, [], f.b.iid, f.idx, none⟩ }))
    ∧ ((s.ctx f.c).atHandlerDepth = false → (s.ctx f.c).stack = [] → (s.ctx f.c).spill = 0 → ∃ t b, exec (.ret g) s = .next t
        ∧ (t.ctx f.c).run? f.b.iid = some b ∧ b.faults = f.b.faults ++ [⟨f.idx, 0x04, 0x03, 0, 0, 0, 0, none⟩] ∧ (t.ctx f.c).next = (s.ctx f.c).next)
    ∧ ((s.ctx f.c).atHandlerDepth = true → Exited s (.ret g) f .handlerReturn id)

/-- An exit that fires with effect after another marks its run with the target fault (R66); an address in A of `bri` or `calli` that is not a multiple of 64, or is at or above
2^56, marks it with the alignment or the space fault (R72). -/
def Obligations.ExitFaults : Prop :=
  ∀ (s : State) (f : Fire) (g : Gate) (off : BitVec 24),
    (∀ i ∈ [Instr.br g off, .call g off, .brn g, .ret g, .halt g], ∀ j k, Acts s i f → f.b.exit = some (j, k) → j ≠ f.idx →
      exec i s = .next (fired s i f { faults := [⟨f.idx, 0x04, 0x02, 0, 0, 0, 0, none⟩], outs := 1 }))
    ∧ (∀ i ∈ [Instr.bri g, .calli g], Acts s i f → f.b.exit = none →
        (f.a.word.toNat % 64 ≠ 0 → exec i s = .next (fired s i f { faults := [⟨f.idx, 0x07, 0x00, 0, 0, 0, f.a.word.toNat, none⟩] }))
        ∧ (f.a.word.toNat % 64 = 0 → 2 ^ 56 ≤ f.a.word.toNat →
            exec i s = .next (fired s i f { faults := [⟨f.idx, 0x08, 0x00, 0, 0, 0, f.a.word.toNat, none⟩] })))

/-! ### Memory -/

/-- The checks that a node makes as it fires (R104, R105): an aligned form at an address that is no multiple of its width is the alignment fault; the private spaces end where
the spec ends them; main ends at 2^56; a write to param is the permission fault; and otherwise, outside the planed regions, the access passes. -/
def Obligations.AccessChecks : Prop :=
  ∀ (s : State) (a : Agent) (ea n : Nat) (d : Doing),
    (∀ sp, ea % n ≠ 0 → fireCheck s a sp ea n true d = some (0x07, 0x00))
    ∧ (ea % n = 0 → fireCheck s a .core ea n true d = if ea + n ≤ 0x2C0000 then none else some (0x08, 0x00))
    ∧ (ea % n = 0 → fireCheck s a .clus ea n true d = if ea + n ≤ 0x800000 then none else some (0x08, 0x00))
    ∧ (ea % n = 0 → 2 ^ 56 < ea + n → fireCheck s a .main ea n true d = some (0x08, 0x00))
    ∧ (ea % n = 0 → ea + n ≤ (s.poolOf a.launch).length → fireCheck s a .param ea n true d
        = if d = .load ∨ d = .waiting then none else some (0x09, 0x02))
    ∧ (ea % n = 0 → (s.poolOf a.launch).length < ea + n → fireCheck s a .param ea n true d = some (0x08, 0x00))

/-- A plain load delivers the bytes at its place, through the writes of its own context that it sees: zero-extended with S = 1 for `ld`, sign-extended with S = 1 for `lds`,
zero-extended with S = 0 for `ld.raw`; 32 and 64 bytes make a vector (R42, R107, R112, R155). A load of param reads the launch's pool.

The load form of `wcv` reads its pieces at any alignment, each as an event of its own, and delivers their bytes, in order, with the last one; the first piece that a check refuses
gives the error token (R106, R114). In a private store, with no write of its own context to see, the pieces are the bytes at the address. -/
def Obligations.LoadsReadMemory : Prop :=
  (∀ (sp : Space) (wd : MWidth) (g : Gate) (off : BitVec 7) (t0 : Target) (s : State) (f : Fire) (r : Run s) (k : Nat),
     let ea := (f.a.word + off.signExtend 64 * BitVec.ofNat 64 wd.bytes).toNat
     let ov := overlayFor s (s.agent f.c) (s.ctx f.c) f.b (SMap.get f.b.ancest 0 f.idx)
     let bs := (List.range wd.bytes).map (fun j =>
       if sp.granular = true ∧ r.st.isFull ((k + j) / 16) = false ∧ r.st.waiting ((k + j) / 16) ≠ [] then 0 else seenByte r.st ov (k + j))
     (∀ i v, (i, v) ∈ [(Instr.ld sp wd g off t0, if wd = .v512 ∨ wd = .v256 then (⟨.vector, BitVec.ofNat 512 (leNat bs), true, false, false⟩ : Token)
             else ⟨.scalar, (BitVec.ofNat 64 (leNat bs)).setWidth 512, true, false, false⟩),
           (.lds sp wd 0 g off t0, if wd = .v512 ∨ wd = .v256 then ⟨.vector, BitVec.ofNat 512 (leNat bs), true, false, false⟩
             else ⟨.scalar, ((BitVec.ofNat (8 * wd.bytes) (leNat bs)).signExtend 64).setWidth 512, true, false, false⟩),
           (.ldRaw sp wd 0 g off t0, if wd = .v512 ∨ wd = .v256 then ⟨.vector, BitVec.ofNat 512 (leNat bs), false, false, false⟩
             else ⟨.scalar, (BitVec.ofNat 64 (leNat bs)).setWidth 512, false, false, false⟩)] →
       Acts s i f → fireCheck s (s.agent f.c) sp ea wd.bytes true .load = none → f.b.denied = [] → s.ownBars (s.ctx f.c) f.b sp ea wd.bytes false = false →
       (Run.start s).locate (s.agent f.c) sp ea .r = (r, .key k) → r.st.poisonAt k wd.bytes = none →
       exec i s = .next ((r.readLines k wd.bytes).finish f.c f.b.iid f.idx (shape i)
         { t0 := some v, t1 := some v, took := (r.readLines k wd.bytes).st.toldIn (s.agent f.c) sp ea wd.bytes }).st)
     ∧ (Acts s (.ld .param wd g off t0) f → ea % wd.bytes = 0 → ea + wd.bytes ≤ (s.poolOf (s.agent f.c).launch).length → f.b.denied = [] →
         s.ownBars (s.ctx f.c) f.b .param ea wd.bytes false = false →
         ∃ v, exec (.ld .param wd g off t0) s = .next (fired s (.ld .param wd g off t0) f { t0 := some v, t1 := some v })
           ∧ v = loaded wd false true (((s.poolOf (s.agent f.c).launch).drop ea).take wd.bytes)))
  ∧
  (∀ (sp : Space) (wd : MWidth) (g : Gate) (off : BitVec 7) (t0 : Target) (s : State) (f : Fire) (p : Nat × Nat),
     let i : Instr := .wcvLoad sp wd g off t0
     let ea := (f.a.word + off.signExtend 64 * BitVec.ofNat 64 wd.bytes).toNat
     let got := SMap.get f.b.partly [] f.idx
     Acts s i f → (pieces ea wd.bytes).find? (fun p => p.1 == ea + got.length) = some p →
       (∀ c q, fireCheck s (s.agent f.c) sp p.1 p.2 false .load = some (c, q) →
         let e : Token := ⟨if wd = .v512 ∨ wd = .v256 then .vector else .scalar, (descriptor c q 0).setWidth 512, false, true, false⟩
         exec i s = .next (fired s i f { t0 := some e, t1 := some e }))
       ∧ ∀ (r : Run s) bs, fireCheck s (s.agent f.c) sp p.1 p.2 false .load = none → f.b.denied = [] → s.ownBars (s.ctx f.c) f.b sp p.1 p.2 false = false →
         (Run.start s).readPiece (s.agent f.c) sp p.1 p.2 .r (overlayFor s (s.agent f.c) (s.ctx f.c) f.b (SMap.get f.b.ancest 0 f.idx)) = (r, .bytes bs) →
         (wd.bytes ≤ (got ++ bs).length → exec i s = .next (r.finish f.c f.b.iid f.idx (shape i)
             { t0 := some (loaded wd false true (got ++ bs)), t1 := some (loaded wd false true (got ++ bs)), took := r.st.toldIn (s.agent f.c) sp ea wd.bytes }).st)
         ∧ ((got ++ bs).length < wd.bytes → exec i s = .next (r.modRun f.c f.b.iid (fun b =>
             { b with partly := SMap.set b.partly [] f.idx (got ++ bs), denied := b.denied.filter (fun d => d.1 != f.idx) })).st))
  ∧ (∀ (s : State) (a : Agent) (ea n : Nat), a.core < 160 → ea + n ≤ 0x2C0000 → s.poison = [] → s.readers = [] →
       (Run.start s).readPieces a .core (pieces ea n) .r [] = (Run.start s, .bytes ((List.range n).map (fun j => s.byte (coreKey a.core (ea + j))))))

/-- A plain load in a private store changes no byte of memory, no full/empty bit and no register, and nothing of another context, whatever it comes to (R107, R112).

A returning atomic in a private store leaves every byte outside its own location as it was, and every register (R109, R120). -/
def Obligations.MemoryFrames : Prop :=
  (∀ (sp : Space) (wd : MWidth) (g : Gate) (off : BitVec 7) (t0 : Target) (s t : State), Regular s = true → (sp = .core ∨ sp = .clus ∨ sp = .die ∨ sp = .param) →
     ∀ i ∈ [Instr.ld sp wd g off t0, .lds sp wd 0 g off t0, .ldRaw sp wd 0 g off t0, .wcvLoad sp wd g off t0], exec i s = .next t →
       (∀ k, t.byte k = s.byte k) ∧ (∀ k, t.isFull k = s.isFull k) ∧ (∀ c, c ≠ s.site.c → t.ctx c = s.ctx c)
       ∧ t.ctx s.site.c = { s.ctx s.site.c with runs := (t.ctx s.site.c).runs } ∧ t.cores = s.cores)
  ∧
  (∀ (wd : MWidth) (g : Gate) (t0 : Target) (s t : State) (b : BlockRun), Regular s = true → s.siteRun = some b →
     ∀ i ∈ [Instr.atomAdd .core wd g t0, .atomEsum .core wd g t0, .atomAnd .core wd g t0, .atomOr .core wd g t0, .atomXor .core wd g t0, .atomMin .core wd g t0,
         .atomMax .core wd g t0, .atomMinn .core wd g t0, .atomMaxn .core wd g t0, .atomFmin .core wd g t0, .atomFmax .core wd g t0, .atomSwap .core wd g t0,
         .cas .core wd g t0], exec i s = .next t →
       let k := coreKey (s.site.c / 4) ((fireOf s.site.c (s.ctx s.site.c) b s.site.idx (shape i)).a.word.toNat)
       (∀ a, a < k ∨ k + wd.bytes ≤ a → t.byte a = s.byte a) ∧ (∀ a, t.isFull a = s.isFull a) ∧ (∀ c, c ≠ s.site.c → t.ctx c = s.ctx c)
       ∧ t.ctx s.site.c = { s.ctx s.site.c with runs := (t.ctx s.site.c).runs } ∧ t.cores = s.cores)

/-- A waiting load of full granules delivers their bytes, through the writes of its own context that it sees, and `.take` leaves them empty; on an empty granule, which no fill of
its own run on which it depends makes full first, it enqueues behind the readers that wait there, and delivers when the granule's fill has answered it; a reader that was overdue or
read poison gives the error token (R107 to R109, R115 to R117). -/
def Obligations.WaitingLoads : Prop :=
  ∀ (sp : Space) (wd : MWidth) (g : Gate) (off : BitVec 7) (t0 : Target) (s : State) (f : Fire) (r : Run s) (k : Nat),
    let ea := (f.a.word + off.signExtend 64 * BitVec.ofNat 64 wd.bytes).toNat
    let ov := overlayFor s (s.agent f.c) (s.ctx f.c) f.b (SMap.get f.b.ancest 0 f.idx)
    let error := fun (c q : Nat) => (⟨if wd = .v512 ∨ wd = .v256 then .vector else .scalar, (descriptor c q 0).setWidth 512, false, true, false⟩ : Token)
    (∀ i tk sg s', (i, tk, sg, s') ∈ [(Instr.ldWait sp wd g off t0, false, false, true), (.ldTake sp wd g off t0, true, false, true),
        (.lds sp wd 1 g off t0, false, true, true), (.lds sp wd 2 g off t0, true, true, true), (.ldRaw sp wd 1 g off t0, false, false, false),
        (.ldRaw sp wd 2 g off t0, true, false, false)] → Acts s i f →
      (s.readerOf f = none → fireCheck s (s.agent f.c) sp ea wd.bytes true .waiting = none → s.ownBars (s.ctx f.c) f.b sp ea wd.bytes true = false →
        (Run.start s).locate (s.agent f.c) sp ea .r = (r, .key k) →
        let v := loaded wd sg s' (seenBytes r.st ov k wd.bytes)
        ((∀ n ∈ granules k wd.bytes, r.st.isFull n = true ∨ n ∈ r.st.filledBefore f sp) → r.st.poisonAt k wd.bytes = none →
          exec i s = .next ((if tk then r.mark (granules k wd.bytes) false else r).finish f.c f.b.iid f.idx (shape i)
            { t0 := some v, t1 := some v, took := r.st.toldAt k wd.bytes }).st)
        ∧ (∀ n, (granules k wd.bytes).find? (fun n => !r.st.isFull n && !(r.st.filledBefore f sp).contains n) = some n →
            (r.st.readers.filter (fun e => storeOf e.key == storeOf k && e.answer.isNone && !e.failed)).length < poolSize k →
            exec i s = .next (r.put (.readers (r.st.readers ++ [⟨n, k, wd.bytes, f.c, f.b.iid, f.idx, tk, r.st.clk, false, none, false, (0, 0)⟩]))).st))
      ∧ (∀ e, s.readerOf f = some e → e.answer = none → e.failed = false → exec i s = .next s)
      ∧ (∀ e, s.readerOf f = some e → e.answer = none → e.failed = true → exec i s = .next (((Run.start s).dropReader f).finish f.c f.b.iid f.idx (shape i)
          { t0 := some (error 0x11 0x04), t1 := some (error 0x11 0x04) }).st)
      ∧ (∀ e bs, s.readerOf f = some e → e.answer = some bs → bs.length = wd.bytes →
          (e.bad = (0, 0) → let v := loaded wd sg s' (throughOverlay ov e.key bs)
            exec i s = .next (((Run.start s).dropReader f).finish f.c f.b.iid f.idx (shape i) { t0 := some v, t1 := some v, took := s.toldAt e.key e.n }).st)
          ∧ (e.bad ≠ (0, 0) → exec i s = .next (((Run.start s).dropReader f).finish f.c f.b.iid f.idx (shape i)
            { t0 := some (error e.bad.1 e.bad.2), t1 := some (error e.bad.1 e.bad.2) }).st)))

/-- Stores, fills, `empty` and the posted forms of `atom` and `cas` are buffered with their space, width, address and data, and count as outputs; a check that fails, for the store
form of `wcv` that of its first failing piece, marks the run (R105, R108, R112, R114, R115, R119, R123). -/
def Obligations.StoresAreBuffered : Prop :=
  ∀ (sp : Space) (wd : MWidth) (g : Gate) (off : BitVec 7) (t0 : Target) (s : State) (f : Fire),
    let ea := f.a.word + off.signExtend 64 * BitVec.ofNat 64 wd.bytes
    (∀ i op d, (i, op, d) ∈ [(Instr.st sp wd g off t0, MemOp.store, Doing.store), (.fill sp wd g off t0, .fill, .granule), (.empty sp wd g off t0, .empty, .granule)] → Acts s i f →
      (fireCheck s (s.agent f.c) sp ea.toNat wd.bytes true d = none → exec i s = .next (fired s i f
        { outcome true with effs := [.access ⟨op, sp, wd, ea, f.b'.data⟩], outs := 1 }))
      ∧ (∀ c q, fireCheck s (s.agent f.c) sp ea.toNat wd.bytes true d = some (c, q) → exec i s = .next (fired s i f
          { faults := [⟨f.idx, c, q, 0, 0, 0, ea.toNat, none⟩] })))
    ∧ (∀ i op, (i, op) ∈ [(Instr.atomAdd sp wd g .none, MemOp.atom .add), (.atomEsum sp wd g .none, .atom .esum), (.atomAnd sp wd g .none, .atom .and),
        (.atomOr sp wd g .none, .atom .or), (.atomXor sp wd g .none, .atom .xor), (.atomMin sp wd g .none, .atom .min), (.atomMax sp wd g .none, .atom .max),
        (.atomMinn sp wd g .none, .atom .minn), (.atomMaxn sp wd g .none, .atom .maxn), (.atomFmin sp wd g .none, .atom .fmin),
        (.atomFmax sp wd g .none, .atom .fmax), (.atomSwap sp wd g .none, .atom .swap), (.cas sp wd g .none, .cas)] → Acts s i f →
      fireCheck s (s.agent f.c) sp f.a.word.toNat wd.bytes true .atomic = none →
      exec i s = .next (fired s i f { effs := [.access ⟨op, sp, wd, f.a.word, f.b'.data⟩], outs := 1 }))
    ∧ (Acts s (.wcvStore sp wd g off) f →
      ((∀ p ∈ pieces ea.toNat wd.bytes, fireCheck s (s.agent f.c) sp p.1 p.2 false .store = none) →
        exec (.wcvStore sp wd g off) s = .next (fired s (.wcvStore sp wd g off) f { effs := [.access ⟨.wcv, sp, wd, ea, f.b'.data⟩], outs := 1 }))
      ∧ (∀ l p m c q, pieces ea.toNat wd.bytes = l ++ p :: m → (∀ x ∈ l, fireCheck s (s.agent f.c) sp x.1 x.2 false .store = none) →
        fireCheck s (s.agent f.c) sp p.1 p.2 false .store = some (c, q) →
        exec (.wcvStore sp wd g off) s = .next (fired s (.wcvStore sp wd g off) f { faults := [⟨f.idx, c, q, 0, 0, 0, p.1, none⟩] })))

/-- A returning `atom` or `cas` writes the new value as one event and delivers the old one with S = 0 (R109, R119 to R123): sums wrap at the width, minima and maxima are signed
or unsigned as the operation says, `swap` stores B, `cas` stores the upper half of its operand where the lower half matches, and `esum` adds one FP32 value to a 64-byte
exact sum. -/
def Obligations.AtomicsReturnTheOldValue : Prop :=
  ∀ (sp : Space) (wd : MWidth) (g : Gate) (sl : Slot) (j : BitVec 7) (s : State) (f : Fire) (r : Run s) (k : Nat),
    let w := 8 * wd.bytes
    let old := r.st.num k wd.bytes
    let x := f.b'.data.toNat % 2 ^ w
    let b := fun n => BitVec.ofNat w n
    (∀ i new fl, (i, new, fl) ∈ ([(Instr.atomAdd sp wd g (.slot sl j), (old + x) % 2 ^ w, 0), (.atomAnd sp wd g (.slot sl j), old &&& x, 0),
        (.atomOr sp wd g (.slot sl j), old ||| x, 0), (.atomXor sp wd g (.slot sl j), old ^^^ x, 0),
        (.atomMin sp wd g (.slot sl j), if (b old).sle (b x) then old else x, 0), (.atomMax sp wd g (.slot sl j), if (b x).sle (b old) then old else x, 0),
        (.atomMinn sp wd g (.slot sl j), min old x, 0), (.atomMaxn sp wd g (.slot sl j), max old x, 0),
        (.atomFmin sp wd g (.slot sl j), (fsel (atomFmt wd) false old x).1, (fsel (atomFmt wd) false old x).2),
        (.atomFmax sp wd g (.slot sl j), (fsel (atomFmt wd) true old x).1, (fsel (atomFmt wd) true old x).2),
        (.atomSwap sp wd g (.slot sl j), x, 0),
        (.atomEsum sp wd g (.slot sl j), leNat (xsCell (xsAdd (xsOfCell (leBytes 64 old)) (FloatFmt.f32.read (f.b'.data.toNat % 2 ^ 32))).1),
          (xsAdd (xsOfCell (leBytes 64 old)) (FloatFmt.f32.read (f.b'.data.toNat % 2 ^ 32))).2),
        (.cas sp wd g (.slot sl j), if old = x then f.b'.data.toNat / 2 ^ w % 2 ^ w else old, 0)] : List (Instr × Nat × FlagSet)) →
      Acts s i f → fireCheck s (s.agent f.c) sp f.a.word.toNat wd.bytes true .atomic = none → f.b.denied = [] →
      s.ownPending (s.ctx f.c) sp f.a.word.toNat wd.bytes = false →
      (sp = .main → s.splits (s.agent f.c) f.a.word.toNat = true → s.framesBefore f.c (s.ctx f.c).seq f.idx = false) → (Run.start s).locate (s.agent f.c) sp f.a.word.toNat .rw = (r, .key k) →
      let v : Token := if wd = .v512 then ⟨.vector, BitVec.ofNat 512 old, false, false, false⟩ else ⟨.scalar, (BitVec.ofNat 64 old).setWidth 512, false, false, false⟩
      exec i s = .next ((((r.leaveHome (.node f.c f.b.iid f.idx)).write k (leBytes wd.bytes new)).wroteLines (s.agent f.c) sp f.a.word.toNat k wd.bytes).finish f.c f.b.iid f.idx (shape i)
        { t0 := some v, t1 := some v, flags := fl, outs := 1 }).st)

/-- What a committed write does at its place in a private store (R108, R115): a store writes its bytes and leaves the full/empty bits, a fill writes them and marks its granules
full, `empty` marks them empty; a fill of a full granule and a store or `empty` of a granule that readers wait on are faults that change nothing; and no other byte changes. -/
def Obligations.WritesAtTheirPlace : Prop :=
  ∀ (s : State) (a : Agent) (wd : MWidth) (ea : Word64) (data : Payload) (i : Issuer), Regular s = true →
    let k := coreKey a.core ea.toNat
    let gs := granules k wd.bytes
    let acc := fun op => (⟨op, .core, wd, ea, data⟩ : Access)
    ((∀ n ∈ gs, s.waiting n = []) → ∃ r : Run s, (Run.start s).performAccess a (acc .store) false i = (r, .done)
        ∧ (∀ j, j < wd.bytes → r.st.byte (k + j) = data.extractLsb' (8 * j) 8) ∧ (∀ n, n < k ∨ k + wd.bytes ≤ n → r.st.byte n = s.byte n) ∧ r.st.full = s.full)
    ∧ ((∀ n ∈ gs, s.taken n = false ∧ s.waiting n = []) → ∃ r : Run s, (Run.start s).performAccess a (acc .fill) false i = (r, .done)
        ∧ (∀ j, j < wd.bytes → r.st.byte (k + j) = data.extractLsb' (8 * j) 8) ∧ (∀ n, n < k ∨ k + wd.bytes ≤ n → r.st.byte n = s.byte n)
        ∧ ∀ n, r.st.isFull n = (decide (n ∈ gs) || s.isFull n))
    ∧ ((∀ n ∈ gs, s.waiting n = []) → ∃ r : Run s, (Run.start s).performAccess a (acc .empty) false i = (r, .done)
        ∧ r.st.mem = s.mem ∧ ∀ n, r.st.isFull n = (!decide (n ∈ gs) && s.isFull n))
    ∧ ((∃ n ∈ gs, s.isFull n = true) → (Run.start s).performAccess a (acc .fill) false i = (Run.start s, .fault 0x0B 0x01 ea.toNat))
    ∧ ((∃ n ∈ gs, s.waiting n ≠ []) → (Run.start s).performAccess a (acc .store) false i = (Run.start s, .fault 0x0B 0x02 ea.toNat)
        ∧ (Run.start s).performAccess a (acc .empty) false i = (Run.start s, .fault 0x0B 0x02 ea.toNat))

/-- `red` of a tree that is bound to its team, whose kind and length its data match, fires and sends its packet at the commit; a context that is no leaf of such a tree gets the
space fault (R135).

A configured member's `step` and a `barr` at an armed barrier with no arrival of the context outstanding fire with an arrival that is made at the commit; a `bwait` with no arrival
outstanding and a fence of the oldest run with no write outstanding fire with a control token. Otherwise `step` and `barr` are the space fault, and `bwait` and the fences wait
(R126, R129, R132, R133). -/
def Obligations.RedAndSyncNodes : Prop :=
  (∀ (g : Gate) (n : BitVec 6) (s : State) (f : Fire), ∀ i xs, (i, xs) ∈ [(Instr.redF32 g n, false), (.redXs g n, true)] → Acts s i f →
     (∀ t, s.treeOf (s.ctx f.c) n.toNat = some t → t.xs = xs → t.len = 64 → f.a.kind = .vector →
       exec i s = .next (fired s i f { effs := [.red xs n f.a.data .vector f.a.s], outs := 1 }))
     ∧ (∀ t, s.treeOf (s.ctx f.c) n.toNat = some t → t.xs = xs → f.a.kind = .handle → redHandleOk f.a.data = true →
         t.len = shRows (f.a.data.setWidth 256) * shCols (f.a.data.setWidth 256) * 4 →
       exec i s = .next (fired s i f { effs := [.red xs n f.a.data .handle f.a.s], outs := 1 }))
     ∧ (s.treeOf (s.ctx f.c) n.toNat = none ∨ (∃ t, s.treeOf (s.ctx f.c) n.toNat = some t ∧ t.xs ≠ xs) →
         exec i s = .next (fired s i f { faults := [⟨f.idx, 0x08, 0x00, 0, 0, 0, 0, none⟩] })))
  ∧ (∀ (g : Gate) (n : BitVec 6) (s : State) (f : Fire), Acts s (.step g n) f →
     (isMember s (s.agent f.c) n.toNat = true → exec (.step g n) s = .next (fired s (.step g n) f { effs := [.step n], outs := 1 }))
     ∧ (isMember s (s.agent f.c) n.toNat = false → exec (.step g n) s = .next (fired s (.step g n) f { faults := [⟨f.idx, 0x08, 0x00, 0, 0, 0, 0, none⟩] })))
  ∧ (∀ (g : Gate) (n : BitVec 5) (s : State) (f : Fire), Acts s (.barr g n) f →
     ((s.barrier f.c n.toNat).armed = true → (s.ctx f.c).arrivedAt f.b n.toNat = false → (∀ e ∈ f.b.effs, e.eff ≠ .barr n) →
       exec (.barr g n) s = .next (fired s (.barr g n) f { effs := [.barr n], outs := 1 }))
     ∧ ((s.barrier f.c n.toNat).armed = false ∨ (s.ctx f.c).arrivedAt f.b n.toNat = true ∨ (∃ e ∈ f.b.effs, e.eff = .barr n) →
         exec (.barr g n) s = .next (fired s (.barr g n) f { faults := [⟨f.idx, 0x08, 0x00, 0, 0, 0, 0, none⟩] })))
  ∧ (∀ (g : Gate) (n : BitVec 5) (t0 : Target) (s : State) (f : Fire), Acts s (.bwait g n t0) f →
     ((∀ d ∈ f.b.denied, d.1 ≠ f.idx) → (s.ctx f.c).arrivedAt f.b n.toNat = false → exec (.bwait g n t0) s = .next (fired s (.bwait g n t0) f (outcome true)))
     ∧ ((∀ d ∈ f.b.denied, d.1 ≠ f.idx) → (s.ctx f.c).arrivedAt f.b n.toNat = true → exec (.bwait g n t0) s = .next s)
     ∧ (∀ c q, f.b.denied.find? (fun d => d.1 == f.idx) = some (f.idx, c, q) → let e : Token := ⟨.control, (descriptor c q 0).setWidth 512, false, true, false⟩
         exec (.bwait g n t0) s = .next (fired s (.bwait g n t0) f { t0 := some e, t1 := some e })))
  ∧ (∀ (g : Gate) (t0 : Target) (s : State) (f : Fire), ∀ i ∈ [Instr.fenceCore g t0, .fenceClus g t0, .fenceDie g t0, .fencePkg g t0, .fenceSys g t0], Acts s i f →
     ((s.ctx f.c).isOldest f.b.iid = true → (s.ctx f.c).writesPending = false → exec i s = .next (fired s i f (outcome true)))
     ∧ ((s.ctx f.c).isOldest f.b.iid = false ∨ (s.ctx f.c).writesPending = true → exec i s = .next s))
  ∧ (∀ x : Ctx, x.writesPending = false ↔ ∀ p ∈ x.pend, isWrite p.eff = false)

/-! ### Vectors -/

/-- Vector arithmetic works element by element, and each element is the exact result rounded once into its own format (R156, R157, R158). -/
def Obligations.VectorArithmetic : Prop :=
  ∀ (fm : Fmt) (rm : Rm) (g : Gate) (t0 t1 : Target),
    let F := floatFmt fm
    let w := F.bits
    let n := 512 / F.bits
    let a := fun (f : Fire) j => F.read (elemAt w f.a.data j)
    let b := fun (f : Fire) j => F.read (elemAt w f.b'.data j)
    let c := fun (f : Fire) j => F.read (elemAt w f.g.data j)
    let neg := fun (x : Ext) => x.withSign (!x.isNeg)
    YieldsLanes (.vadd fm rm g t0 t1) w n (fun f => f.a.s) (fun f j => roundOnce F rm (addExt rm (a f j) (b f j)))
    ∧ YieldsLanes (.vsub fm rm g t0 t1) w n (fun f => f.a.s) (fun f j => roundOnce F rm (addExt rm (a f j) (neg (b f j))))
    ∧ YieldsLanes (.vmul fm rm g t0 t1) w n (fun f => f.a.s) (fun f j => roundOnce F rm (mulExt (a f j) (b f j)))
    ∧ YieldsLanes (.vfma fm rm t0 t1) w n (fun f => f.a.s) (fun f j => roundOnce F rm
        ((addExt rm (mulExt (a f j) (b f j)).1 (c f j)).1, (mulExt (a f j) (b f j)).2 ||| (addExt rm (mulExt (a f j) (b f j)).1 (c f j)).2))
    ∧ YieldsLanes (.vfms fm rm t0 t1) w n (fun f => f.a.s) (fun f j => roundOnce F rm
        ((addExt rm (mulExt (a f j) (b f j)).1 (neg (c f j))).1, (mulExt (a f j) (b f j)).2 ||| (addExt rm (mulExt (a f j) (b f j)).1 (neg (c f j))).2))
    ∧ YieldsLanes (.vmax fm g t0 t1) w n (fun f => f.a.s)
        (fun f j => ⟨(fsel F true (elemAt w f.a.data j) (elemAt w f.b'.data j)).1, (fsel F true (elemAt w f.a.data j) (elemAt w f.b'.data j)).2⟩)
    ∧ YieldsLanes (.vmin fm g t0 t1) w n (fun f => f.a.s)
        (fun f j => ⟨(fsel F false (elemAt w f.a.data j) (elemAt w f.b'.data j)).1, (fsel F false (elemAt w f.a.data j) (elemAt w f.b'.data j)).2⟩)
    ∧ YieldsLanes (.vabs fm g t0 t1) w n (fun f => f.a.s) (fun f j => ⟨elemAt w f.a.data j % 2 ^ (w - 1), 0⟩)
    ∧ YieldsLanes (.vneg fm g t0 t1) w n (fun f => f.a.s) (fun f j => ⟨elemAt w f.a.data j ^^^ 2 ^ (w - 1), 0⟩)
    ∧ YieldsLanes (.vrcp fm rm g t0 t1) w n (fun f => f.a.s) (fun f j => roundOnce F rm (divExt (.fin false 1 0 false) (a f j)))
    ∧ YieldsLanes (.vrsq fm rm g t0 t1) w n (fun f => f.a.s) (fun f j => rsqOf F rm (a f j))
    ∧ YieldsLanes (.vsqrt fm rm g t0 t1) w n (fun f => f.a.s) (fun f j => sqrtOf F rm (a f j))
    ∧ YieldsLanes (.vexp2 fm rm g t0 t1) w n (fun f => f.a.s) (fun f j => exp2Of F rm (a f j))
    ∧ YieldsLanes (.vlog2 fm rm g t0 t1) w n (fun f => f.a.s) (fun f j => log2Of F rm (a f j))
    ∧ YieldsLanes (.vtanh fm rm g t0 t1) w n (fun f => f.a.s) (fun f j => tanhOf F rm (a f j))

/-- Rounding to an integer takes the nearest one, with ties to the even one, under nearest even; it truncates under `.rz`, rounds toward +∞ under `.ru` and toward −∞ under
`.rd` (R144). The magnitude rounded is `m / 2^sh`.

Rounding the value that an element stands for gives the element back, with no flag, in every mode and under every overflow qualifier (R139, R141, R144, R145). -/
def Obligations.RoundingIsExact : Prop :=
  (∀ (neg : Bool) (m sh : Nat),
     (∀ n e, intRound .rne neg m sh false = (n, e) → 2 * (n * 2 ^ sh) ≤ 2 * m + 2 ^ sh ∧ 2 * m ≤ 2 * (n * 2 ^ sh) + 2 ^ sh
         ∧ ((2 * (n * 2 ^ sh) = 2 * m + 2 ^ sh ∨ 2 * m = 2 * (n * 2 ^ sh) + 2 ^ sh) → n % 2 = 0))
     ∧ (∀ n e, intRound .rz neg m sh false = (n, e) → n * 2 ^ sh ≤ m ∧ m < (n + 1) * 2 ^ sh)
     ∧ (∀ n e, intRound .ru false m sh false = (n, e) → m ≤ n * 2 ^ sh ∧ n * 2 ^ sh < m + 2 ^ sh)
     ∧ (∀ n e, intRound .ru true m sh false = (n, e) → n * 2 ^ sh ≤ m ∧ m < (n + 1) * 2 ^ sh)
     ∧ (∀ n e, intRound .rd true m sh false = (n, e) → m ≤ n * 2 ^ sh ∧ n * 2 ^ sh < m + 2 ^ sh)
     ∧ (∀ n e, intRound .rd false m sh false = (n, e) → n * 2 ^ sh ≤ m ∧ m < (n + 1) * 2 ^ sh)
     ∧ (∀ rm n e, intRound rm neg m sh false = (n, e) → (e = true ↔ 2 ^ sh ∣ m)))
  ∧
  (∀ (F : FloatFmt) (rm : Rm) (ovf : Ovf) (x : Nat), x < 2 ^ F.bits → (F.read x).isNan = false → (F.read x).isInf = false → rnd F rm ovf (F.read x) = ⟨x, 0⟩)

/-- `vmax`, `vmin` and the float atomics select one operand (R121, R161): a NaN loses to a number, two NaNs give the canonical NaN, a signalling NaN sets NV, −0 orders below
+0, equal operands give the first, and of two numbers the greater or the lesser is delivered unchanged. -/
def Obligations.SelectionRules : Prop :=
  ∀ (F : FloatFmt) (a b : Nat), a < 2 ^ F.bits → b < 2 ^ F.bits → ∀ mx : Bool,
    ((F.read a).isNan = true → (F.read b).isNan = false → (fsel F mx a b).1 = b) ∧ ((F.read b).isNan = true → (F.read a).isNan = false → (fsel F mx a b).1 = a)
    ∧ ((F.read a).isNan = true → (F.read b).isNan = true → (fsel F mx a b).1 = F.nan)
    ∧ (fsel F mx a b).2 = (if (F.read a).isSignalling || (F.read b).isSignalling then flagNV else 0)
    ∧ (a = b → (F.read a).isNan = false → (fsel F mx a b).1 = a)
    ∧ ((F.read a).lt (F.read b) = true → (fsel F true a b).1 = b ∧ (fsel F false a b).1 = a ∧ (fsel F true b a).1 = b ∧ (fsel F false b a).1 = a)
    ∧ (F.read a = .zero true → F.read b = .zero false → (fsel F true a b).1 = b ∧ (fsel F false a b).1 = a ∧ (fsel F true b a).1 = b ∧ (fsel F false b a).1 = a)

/-- Special operands (R140, R146, R157, R159): zero times infinity and the difference of infinities are invalid, an exact zero of opposite signs is +0 or under `.rd` −0, and the
reciprocal, roots, exponential, logarithm and hyperbolic tangent of zeros, infinities, negative numbers and NaNs are as the spec's table gives them. -/
def Obligations.SpecialOperands : Prop :=
  ∀ (fm : Fmt) (rm : Rm) (p : Bool),
    let F := floatFmt fm
    let inf := fun (neg : Bool) => F.sign neg + F.infBits
    (∀ q, mulExt (.zero p) (.inf q) = (.nan false, flagNV) ∧ mulExt (.inf q) (.zero p) = (.nan false, flagNV)) ∧ addExt rm (.inf p) (.inf (!p)) = (.nan false, flagNV)
    ∧ addExt rm (.zero true) (.zero true) = (.zero true, 0) ∧ addExt rm (.zero p) (.zero (!p)) = (.zero (decide (rm = .rd)), 0)
    ∧ (∀ neg m e, 0 < m → addExt rm (.fin neg m e false) (.fin (!neg) m e false) = (.zero (decide (rm = .rd)), 0))
    ∧ rcpOf F rm (.zero p) = ⟨inf p, flagDZ⟩ ∧ rcpOf F rm (.inf p) = ⟨F.sign p, 0⟩
    ∧ rsqOf F rm (.zero p) = ⟨inf p, flagDZ⟩ ∧ rsqOf F rm (.inf false) = ⟨0, 0⟩ ∧ rsqOf F rm (.inf true) = ⟨F.nan, flagNV⟩
    ∧ sqrtOf F rm (.zero p) = ⟨F.sign p, 0⟩ ∧ sqrtOf F rm (.inf false) = ⟨inf false, 0⟩ ∧ sqrtOf F rm (.inf true) = ⟨F.nan, flagNV⟩
    ∧ (∀ m e k, rsqOf F rm (.fin true m e k) = ⟨F.nan, flagNV⟩ ∧ sqrtOf F rm (.fin true m e k) = ⟨F.nan, flagNV⟩ ∧ log2Of F rm (.fin true m e k) = ⟨F.nan, flagNV⟩)
    ∧ exp2Of F rm (.zero p) = ⟨F.bias * 2 ^ (F.prec - 1), 0⟩ ∧ exp2Of F rm (.inf false) = ⟨inf false, 0⟩ ∧ exp2Of F rm (.inf true) = ⟨0, 0⟩
    ∧ log2Of F rm (.zero p) = ⟨inf true, flagDZ⟩ ∧ log2Of F rm (.inf false) = ⟨inf false, 0⟩ ∧ log2Of F rm (.inf true) = ⟨F.nan, flagNV⟩
    ∧ log2Of F rm (.fin false 1 0 false) = ⟨0, 0⟩
    ∧ tanhOf F rm (.zero p) = ⟨F.sign p, 0⟩ ∧ tanhOf F rm (.inf p) = ⟨F.sign p + F.bias * 2 ^ (F.prec - 1), 0⟩
    ∧ (∀ sg : Bool, let r : Rounded := ⟨F.nan, if sg then flagNV else 0⟩
        rcpOf F rm (.nan sg) = r ∧ rsqOf F rm (.nan sg) = r ∧ sqrtOf F rm (.nan sg) = r ∧ exp2Of F rm (.nan sg) = r ∧ log2Of F rm (.nan sg) = r ∧ tanhOf F rm (.nan sg) = r)

/-- Comparisons give a mask of all ones or zeros with S = 0 (R162), `vsel` selects bit by bit, and the lane instructions move elements without arithmetic (R163). -/
def Obligations.LaneMovement : Prop :=
  ∀ (g : Gate) (t0 t1 : Target),
    (∀ fm c, let F := floatFmt fm
      YieldsLanes (.vcmp fm c g t0 t1) F.bits (512 / F.bits) (fun _ => false) (fun f j =>
        let x := F.read (elemAt F.bits f.a.data j)
        let y := F.read (elemAt F.bits f.b'.data j)
        let holds : Bool := match c with
          | .eq => x.eq y
          | .lt => x.lt y
          | .le => x.lt y || x.eq y
          | .un => x.isNan || y.isNan
        let invalid : Bool := match c with
          | .eq | .un => x.isSignalling || y.isSignalling
          | .lt | .le => x.isNan || y.isNan
        ⟨if holds then 2 ^ F.bits - 1 else 0, if invalid then flagNV else 0⟩))
    ∧ Yields (.vsel t0 t1) (fun _ f => if f.a.s ≠ f.b'.s then { faults := [⟨f.idx, 0x06, 0x00, 0, 0, 0, 0, none⟩] } else
        { t0 := some ⟨.vector, (f.a.data &&& f.g.data) ||| (f.b'.data &&& ~~~f.g.data), f.a.s, false, false⟩
          t1 := some ⟨.vector, (f.a.data &&& f.g.data) ||| (f.b'.data &&& ~~~f.g.data), f.a.s, false, false⟩ })
    ∧ (∀ i w, (i, w) ∈ [(Instr.vbcastW32 g t0 t1, 32), (.vbcastW16 g t0 t1, 16), (.vbcastW8 g t0 t1, 8)] →
        YieldsLanes i w (512 / w) (fun f => f.a.s) (fun f _ => ⟨f.a.data.toNat % 2 ^ w, 0⟩))
    ∧ (∀ i w, (i, w) ∈ [(Instr.vpermW32 g t0 t1, 32), (.vpermW16 g t0 t1, 16), (.vpermW8 g t0 t1, 8)] →
        YieldsLanes i w (512 / w) (fun f => f.a.s) (fun f j => ⟨elemAt w f.a.data (elemAt w f.b'.data j % (512 / w)), 0⟩))
    ∧ (∀ (l : BitVec 6) i w, (i, w) ∈ [(Instr.vextrW32 g l t0, 32), (.vextrW16 g l t0, 16), (.vextrW8 g l t0, 8)] → Yields i (fun _ f =>
        { t0 := some ⟨.scalar, f.a.data.extractLsb' (w * l.toNat) w |>.setWidth 512, f.a.s, false, false⟩
          t1 := some ⟨.scalar, f.a.data.extractLsb' (w * l.toNat) w |>.setWidth 512, f.a.s, false, false⟩ }))
    ∧ (∀ (l : BitVec 6) i w, (i, w) ∈ [(Instr.vinsW32 g l t0, 32), (.vinsW16 g l t0, 16), (.vinsW8 g l t0, 8)] → l.toNat < 512 / w →
        ∃ v : Fire → Payload, (∀ s f, Acts s i f → f.a.s = f.b'.s → exec i s = .next (fired s i f
            { t0 := some ⟨.vector, v f, f.a.s, false, false⟩, t1 := some ⟨.vector, v f, f.a.s, false, false⟩ }))
          ∧ (∀ s f, Acts s i f → f.a.s ≠ f.b'.s → exec i s = .next (fired s i f { faults := [⟨f.idx, 0x06, 0x00, 0, 0, 0, 0, none⟩] }))
          ∧ ∀ f j, j < 512 / w → elemAt w (v f) j = if j = l.toNat then f.b'.data.toNat % 2 ^ w else elemAt w f.a.data j)

/-- Reductions follow the fixed pairwise tree and deliver its value in every element (R164); exponents, scale codes and scaling by a power of two work element by element (R165
to R167). -/
def Obligations.ReductionsAndExponents : Prop :=
  ∀ (fm : Fmt) (g : Gate) (t0 t1 : Target),
    let F := floatFmt fm
    let w := F.bits
    let n := 512 / F.bits
    let x := fun (f : Fire) j => elemAt w f.a.data j
    (∀ i op pre, (i, op, pre) ∈ ([(Instr.vrsum fm g t0 t1, fun a b => (roundOnce F .rne (addExt .rne (F.read a) (F.read b))).bits, id),
        (.vrmax fm g t0 t1, fun a b => (fsel F true a b).1, id), (.vrmin fm g t0 t1, fun a b => (fsel F false a b).1, id),
        (.vamax fm g t0 t1, fun a b => (fsel F true a b).1, fun a => a % 2 ^ (w - 1))] : List (Instr × (Nat → Nat → Nat) × (Nat → Nat))) →
      ∃ (v : Fire → Payload) (fl : Fire → FlagSet), Yields i (fun _ f =>
          { t0 := some ⟨.vector, v f, f.a.s, false, false⟩, t1 := some ⟨.vector, v f, f.a.s, false, false⟩, flags := fl f })
        ∧ ∀ f j, j < n → elemAt w (v f) j = pairTree op (fun j => pre (x f j)) (Nat.log2 n) 0 % 2 ^ w)
    ∧ YieldsLanes (.vexpo fm g t0 t1) w n (fun _ => false) (fun f j => ⟨match F.read (x f j) with
        | .fin _ m e _ => ((e + (Nat.log2 m : Nat)) % (2 ^ w : Nat)).toNat
        | .zero _ => 2 ^ (w - 1)
        | _ => 2 ^ (w - 1) - 1, 0⟩)
    ∧ YieldsLanes (.vexpoSc fm g t0 t1) w n (fun _ => false) (fun f j =>
        scaleCode F (if f.x.modeReg.getLsbD 1 then some (f.x.modeReg.extractLsb' 8 8).toNat else none) (x f j))
    ∧ YieldsLanes (.vldexp fm g t0 t1) w n (fun f => f.a.s) (fun f j => ldexpElem F f.b'.word.toInt (x f j))
    ∧ (∀ a, (∃ sg, F.read a = .nan sg) ∨ (∃ p, F.read a = .inf p) → (scaleCode F none a).bits = 255 ∧ (scaleCode F none a).flags = flagNV)
    ∧ (∀ a p, F.read a = .zero p → scaleCode F none a = ⟨127, 0⟩)

/-- Conversions, scales, packing and widening (R168 to R173): `vcvt` converts the elements that fit, `vscale` and `sacc` need raw data and give S = 1 with one rounding, `vpack`
joins low parts, `vunpack` widens one half exactly. -/
def Obligations.Conversions : Prop :=
  ∀ (g : Gate) (t0 t1 : Target),
    (∀ dst src ovf rm, YieldsLanes (.vcvt g dst src ovf rm t0) (cvtBits dst) (512 / max (cvtBits dst) (cvtBits src)) (fun f => f.a.s)
      (fun f j => cvtElem dst src ovf rm (elemAt (cvtBits src) f.a.data j)))
    ∧ (∀ e, ∃ (v : Fire → Payload) (fl : Fire → FlagSet), Yields (.vscale g e t0 t1) (fun _ f => if f.a.s then { faults := [⟨f.idx, 0x06, 0x00, 0, 0, 0, 0, none⟩] } else
          { t0 := some ⟨.vector, v f, true, false, false⟩, t1 := some ⟨.vector, v f, true, false, false⟩, flags := fl f })
        ∧ ∀ f j, j < 16 → elemAt 32 (v f) j = (rneF32 (mulExt (FloatFmt.f32.read (elemAt 32 f.a.data j)) (scaleOf e f.b').1).1).bits % 2 ^ 32)
    ∧ (∀ e, ∃ (v : Fire → Payload) (fl : Fire → FlagSet), Yields (.sacc e t0 t1) (fun _ f => if f.a.s ∨ ¬ f.g.s then { faults := [⟨f.idx, 0x06, 0x00, 0, 0, 0, 0, none⟩] } else
          { t0 := some ⟨.vector, v f, true, false, false⟩, t1 := some ⟨.vector, v f, true, false, false⟩, flags := fl f })
        ∧ ∀ f j, j < 16 → elemAt 32 (v f) j = (rneF32 (addExt .rne (mulExt (FloatFmt.f32.read (elemAt 32 f.a.data j)) (scaleOf e f.b').1).1
            (FloatFmt.f32.read (elemAt 32 f.g.data j))).1).bits % 2 ^ 32)
    ∧ (∀ b, (scaleOf false b).1 = FloatFmt.f32.read (b.data.toNat % 2 ^ 32) ∧ (b.data.toNat % 256 ≠ 255 → (scaleOf true b).1 = .fin false 1 ((b.data.toNat % 256 : Nat) - 127) false)
        ∧ (b.data.toNat % 256 = 255 → (scaleOf true b) = (.nan false, flagNV)))
    ∧ (∀ k : BitVec 3, let w := 32 * 2 ^ k.toNat
      Yields (.vpack g k t0) (fun _ f =>
        let v := (f.a.data.setWidth w).setWidth 512 ||| ((f.b'.data.setWidth w).setWidth 512) <<< w
        { t0 := some ⟨.vector, v, f.a.s, false, false⟩, t1 := some ⟨.vector, v, f.a.s, false, false⟩ }))
    ∧ (∀ (c : BitVec 4) (F H : FloatFmt), (c, F, H) ∈ [((2 : BitVec 4), FloatFmt.bf16, FloatFmt.f32), (3, .f16, .f32), (4, .e4m3, .bf16), (5, .e5m2, .bf16)] →
        YieldsLanes (.vunpackLo g c t0) H.bits (512 / H.bits) (fun f => f.a.s) (fun f j => widen F H (elemAt F.bits f.a.data j))
        ∧ YieldsLanes (.vunpackHi g c t0) H.bits (512 / H.bits) (fun f => f.a.s) (fun f j => widen F H (elemAt F.bits f.a.data (j + 512 / H.bits))))
    ∧ (∀ i lo, (i, lo) ∈ [(Instr.vunpackLo g 7 t0, 0), (.vunpackHi g 7 t0, 8)] → ∀ s f, Acts s i f →
        ((∀ j, j < 8 → (o4Word (elemAt 32 f.a.data (lo + j))).isSome = true) → ∃ v, exec i s = .next (fired s i f
            { t0 := some ⟨.vector, v, f.a.s, false, false⟩, t1 := some ⟨.vector, v, f.a.s, false, false⟩ })
          ∧ ∀ j e l, j < 8 → o4Word (elemAt 32 f.a.data (lo + j)) = some l → e < 8 → elemAt 8 v (8 * j + e) = l.getD e 0 % 256)
        ∧ (∀ j, j < 8 → o4Word (elemAt 32 f.a.data (lo + j)) = none → (∀ k, k < j → (o4Word (elemAt 32 f.a.data (lo + k))).isSome = true) →
            exec i s = .next (fired s i f { faults := [⟨f.idx, 0x14, 0x00, 0, 0, 0, lo + j, none⟩] })))

/-- `eadd` of a scaled vector buffers its addition and sends a control token, an operand with S = 0 is the scale mismatch, `eclr` buffers the clear, and `eround` rounds each
lane once, of the register after the older runs and what the node depends on in its own (R174, R176, R177). -/
def Obligations.ExactSumNodes : Prop :=
  ∀ (g : Gate) (n : BitVec 3) (t0 : Target),
    (∀ i bf, (i, bf) ∈ [(Instr.eaddF32 g n t0, false), (.eaddBf16 g n t0, true)] → ∀ s f, Acts s i f →
      (f.a.s = true → ∃ fl, exec i s = .next (fired s i f { outcome true with flags := fl, effs := [.eadd n bf f.a.data] }) ∧ fl &&& ~~~flagNV = 0)
      ∧ (f.a.s = false → exec i s = .next (fired s i f { faults := [⟨f.idx, 0x06, 0x00, 0, 0, 0, 0, none⟩] })))
    ∧ Yields (.eclr g n) (fun _ _ => { effs := [.eclr n] })
    ∧ YieldsLanes (.eroundF32 g n t0) 32 16 (fun _ => true) (fun f j => xsRound .f32
        ((f.x.applySums ((f.b.ordered.filter (fun e => (SMap.get f.b.ancest 0 f.idx).getLsbD e.idx)).map (·.eff))).lane n.toNat j))
    ∧ YieldsLanes (.eroundBf16 g n t0) 16 16 (fun _ => true) (fun f j => xsRound .bf16
        ((f.x.applySums ((f.b.ordered.filter (fun e => (SMap.get f.b.ancest 0 f.idx).getLsbD e.idx)).map (·.eff))).lane n.toNat j))

/-- An exact sum takes a NaN or an infinity as its sticky flag, with NV for a signalling NaN, and adds a finite value as a multiple of 2^-160 modulo 2^320 (R153); the result does
not depend on the order of the additions. -/
def Obligations.ExactSumsAreOrderFree : Prop :=
  (∀ (x : XsLane) (p : Bool), xsAdd x (.nan p) = ({ x with nan := true }, if p then flagNV else 0) ∧ xsAdd x (.inf false) = ({ x with pinf := true }, 0)
      ∧ xsAdd x (.inf true) = ({ x with ninf := true }, 0) ∧ xsAdd x (.zero p) = (x, 0))
  ∧ (∀ (x : XsLane) (neg : Bool) (m : Nat) (e : Int), -160 ≤ e →
      xsAdd x (.fin neg m e false) = ({ x with v := if neg then x.v - BitVec.ofNat 320 (m * 2 ^ (e + 160).toNat) else x.v + BitVec.ofNat 320 (m * 2 ^ (e + 160).toNat) }, 0))
  ∧ (∀ (x : XsLane) (a b : Ext), (xsAdd (xsAdd x a).1 b).1 = (xsAdd (xsAdd x b).1 a).1)
  ∧ (∀ (F : FloatFmt) (a : Nat), F = .f32 ∨ F = .bf16 → a < 2 ^ F.bits → (F.read a).isNan = false → F.read a ≠ .zero true →
      xsRound F (xsAdd ⟨0, false, false, false⟩ (F.read a)).1 = ⟨a, 0⟩)

/-- A draw is the function of the spec on the key and the counter (R209); `rand` delivers one draw, or 8 or 16 in order, from the stream as it stands for the node, its advance
takes effect at the commit, and `rskip` skips by its operand (R210, R211). -/
def Obligations.RandomDraws : Prop :=
  (∀ (key : Word64) (ctr : BitVec 128),
    let round := fun (p : Word64 × Word64) => (((p.1 ^^^ (p.1 >>> 29)) * 0xBF58476D1CE4E5B9) ^^^ p.2, p.2 + 0x9E3779B97F4A7C15)
    let p := round (round (round (round (ctr.setWidth 64 ^^^ key, ctr.extractLsb' 64 64 ^^^ key.rotateLeft 32))))
    drawOf key ctr = p.1 ^^^ (p.1 >>> 32))
  ∧ (∀ (n : BitVec 2) (g : Gate) (t0 t1 : Target) (s : State) (f : Fire),
      let d := fun k => drawOf (f.x.key n.toNat) (f.counter n.toNat + BitVec.ofNat 128 k)
      (s.earlierDraw f n.toNat = false →
        (Acts s (.randN64 n g false t0 t1) f → exec (.randN64 n g false t0 t1) s = .next (fired s (.randN64 n g false t0 t1) f
            { result64 (d 0) with effs := [.draw n 1], outs := 1 }))
        ∧ (Acts s (.randF32 n g false t0 t1) f → exec (.randF32 n g false t0 t1) s = .next (fired s (.randF32 n g false t0 t1) f
            { t0 := some ⟨.scalar, (BitVec.ofNat 64 (drawF32 (d 0))).setWidth 512, true, false, false⟩
              t1 := some ⟨.scalar, (BitVec.ofNat 64 (drawF32 (d 0))).setWidth 512, true, false, false⟩, effs := [.draw n 1], outs := 1 }))
        ∧ (Acts s (.randN64 n g true t0 t1) f → ∃ v, exec (.randN64 n g true t0 t1) s = .next (fired s (.randN64 n g true t0 t1) f
            { t0 := some ⟨.vector, v, false, false, false⟩, t1 := some ⟨.vector, v, false, false, false⟩, effs := [.draw n 8], outs := 1 })
            ∧ ∀ j, j < 8 → elemAt 64 v j = (d j).toNat)
        ∧ (Acts s (.randF32 n g true t0 t1) f → ∃ v, exec (.randF32 n g true t0 t1) s = .next (fired s (.randF32 n g true t0 t1) f
            { t0 := some ⟨.vector, v, true, false, false⟩, t1 := some ⟨.vector, v, true, false, false⟩, effs := [.draw n 16], outs := 1 })
            ∧ ∀ j, j < 16 → elemAt 32 v j = drawF32 (d j))
        ∧ (Acts s (.rskip n g t0) f → exec (.rskip n g t0) s = .next (fired s (.rskip n g t0) f { outcome true with effs := [.draw n f.a.word.toNat], outs := 1 })))
      ∧ (s.earlierDraw f n.toNat = true → ∀ v, ∀ i ∈ [Instr.randN64 n g v t0 t1, .randF32 n g v t0 t1, .rskip n g t0], Acts s i f → exec i s = .next s))

/-! ### Engines -/

/-- A posted engine command is buffered with its operands, counts as an output as it fires and is issued at the commit (R180).

A waited engine command is issued as it fires (R180, R182): it takes the context's next ticket and a copy of its operands, joins the operations under way, changes no byte
of memory and no register, and counts as an output only when its tokens are delivered. A waited command of the streamer is issued
so too, though one of zero extent may complete as it is issued (R199); and a gather or scatter that names a shard map reads it at its issue, as far as it can (R302). -/
def Obligations.EngineCommandsAreIssued : Prop :=
  ((∀ (i : Instr) (k : CmdKind) (s : State) (f : Fire), Command i k → Acts s i f → (shape i).t0 = .none →
     exec i s = .next (fired s i f { effs := [.cmd ⟨k, f.a.data, f.a.kind, f.b'.data, f.b'.kind, f.g.data⟩], outs := 1 }))
   ∧ (∀ (g : Gate) (fld : BitVec 6) (m : BitVec 4), Yields (.tdset g fld m) (fun _ f => if tdInRange fld.toNat f.a.word
       then { effs := [.cmd ⟨.tdset fld m, f.a.data, f.a.kind, f.b'.data, f.b'.kind, f.g.data⟩], outs := 1 }
       else { faults := [⟨f.idx, 0x08, 0x00, 0, 0, 0, 0, none⟩] }))
   ∧ (∀ g : Gate, Yields (.stage g) (fun _ f => { effs := [.cmd ⟨.stage, f.a.data, f.a.kind, f.b'.data, f.b'.kind, f.g.data⟩], outs := 1 })))
  ∧
  (∀ (i : Instr) (k : CmdKind) (s : State) (f : Fire), Command i k → Acts s i f → (shape i).t0 ≠ .none → Regular s = true → k ≠ .copy → k ≠ .copyMc → k ≠ .xform →
     (∀ m, k = .gather m ∨ k = .scatter m → (∀ o ∈ s.ops, o.id ≠ s.uid + 1) ∧ ∀ d, descCopy s f.c f.b f.idx f.a.word.toNat 128 = .ok d → gShmap d = 0) →
     ∃ t o, exec i s = .next t ∧ t.ops = s.ops ++ [o] ∧ o.id = s.uid + 1 ∧ o.ticket = (s.ctx f.c).ticket.toNat ∧ o.c = f.c ∧ o.iid = f.b.iid ∧ o.idx = f.idx
       ∧ o.cmd = ⟨k, f.a.data, f.a.kind, f.b'.data, f.b'.kind, f.g.data⟩ ∧ o.waited = true ∧ o.t0 = (shape i).t0 ∧ o.t1 = (shape i).t1
       ∧ (t.ctx f.c).ticket = (s.ctx f.c).ticket + 1 ∧ (∀ n, t.byte n = s.byte n)
       ∧ (∀ c n, (t.ctx c).reg n = (s.ctx c).reg n ∧ (t.ctx c).isFull n = (s.ctx c).isFull n) ∧ (∀ c, c ≠ f.c → t.ctx c = s.ctx c)
       ∧ ∃ b, (t.ctx f.c).run? f.b.iid = some b ∧ b.outs = f.b.outs ∧ b.fired = f.idx :: f.b.fired)
  ∧
  (∀ (i : Instr) (k : CmdKind) (s : State) (f : Fire), Command i k → (k = .copy ∨ k = .copyMc ∨ k = .xform) → Acts s i f → (shape i).t0 ≠ .none → Regular s = true →
     (∀ o ∈ s.ops, o.id ≠ s.uid + 1) → ∃ t, exec i s = .next t ∧ (t.ctx f.c).ticket = (s.ctx f.c).ticket + 1 ∧ t.mem = s.mem
       ∧ (∀ o ∈ t.ops, o.id ≠ s.uid + 1 → o ∈ s.ops) ∧ ∃ b, (t.ctx f.c).run? f.b.iid = some b ∧ f.idx ∈ b.fired)
  ∧
  (∀ (i : Instr) (k : CmdKind) (m : BitVec 2) (s : State) (f : Fire), Command i k → k = .gather m ∨ k = .scatter m → Acts s i f → (shape i).t0 ≠ .none → Regular s = true →
     f.c < 640 → (s.ctx f.c).mode = .running → ∃ t, exec i s = .next t ∧ (t.ctx f.c).ticket = (s.ctx f.c).ticket + 1)

/-- A group of products and the accumulator are summed exactly and rounded once (R151): the order of the products does not matter, a group without products leaves the
accumulator as it is, a NaN term or opposite infinities give the canonical NaN, an infinite term gives that infinity, an exact zero is −0 only when every term is, and finite terms
give the nearest FP32 value of their exact sum, at whatever scale it is formed. -/
def Obligations.GroupRounding : Prop :=
  (∀ acc, groupSum acc [] = acc)
  ∧ (∀ acc (ps qs : List Ext), ps.Perm qs → groupSum acc ps = groupSum acc qs)
  ∧ (∀ acc (ps : List Ext), ps ≠ [] → (∃ t ∈ FloatFmt.f32.read acc :: ps, t.isNan = true) → groupSum acc ps = 0x7FC00000)
  ∧ (∀ acc (ps : List Ext), ps ≠ [] → Ext.inf true ∈ FloatFmt.f32.read acc :: ps → Ext.inf false ∈ FloatFmt.f32.read acc :: ps → groupSum acc ps = 0x7FC00000)
  ∧ (∀ acc (ps : List Ext) (p : Bool), ps ≠ [] → (∀ t ∈ FloatFmt.f32.read acc :: ps, t.isNan = false) → Ext.inf p ∈ FloatFmt.f32.read acc :: ps →
      Ext.inf (!p) ∉ FloatFmt.f32.read acc :: ps → groupSum acc ps = if p then 0xFF800000 else 0x7F800000)
  ∧ (∀ acc (ps : List Ext), ps ≠ [] → (∀ t ∈ FloatFmt.f32.read acc :: ps, t = .zero true) → groupSum acc ps = 0x80000000)
  ∧ (∀ acc (ps : List Ext) (e0 : Int), ps ≠ [] → (∀ t ∈ FloatFmt.f32.read acc :: ps, t.isNan = false ∧ t.isInf = false ∧ (∀ e, t.exponent = some e → e0 ≤ e)) →
      (∃ t ∈ FloatFmt.f32.read acc :: ps, t ≠ .zero true) →
      groupSum acc ps = (rneF32 (extOfInt (((FloatFmt.f32.read acc :: ps).map (fun t => t.scaled e0)).sum) e0 false)).bits)

/-! ### Soft tokens -/

/-- The `k` best logits (R225): pairs of an index and its logit, in order of rank, a greater logit first and the lower index among equals, and no logit left out ranks above one
taken. -/
def Obligations.TopOfRanks : Prop :=
  ∀ (k : Nat) (vs : List Nat), k ≤ vs.length →
    let before := fun (a b : Nat × Nat) => logitKey b.2 < logitKey a.2 ∨ (logitKey b.2 = logitKey a.2 ∧ a.1 < b.1)
    (topOf k vs).length = k ∧ (∀ e ∈ topOf k vs, vs[e.1]? = some e.2) ∧ (topOf k vs).Pairwise before
      ∧ ∀ j v, vs[j]? = some v → (j, v) ∉ topOf k vs → ∀ e ∈ topOf k vs, before e (j, v)

/-- The soft-token nodes that write a register (R225 to R228): each computes its image from the vector it reads, or from the register as the node sees it, buffers it for the
commit and sends a control token; stated where no other node of the run writes the register. -/
def Obligations.SoftWrites : Prop :=
  ∀ (g : Gate) (n : BitVec 4) (m : BitVec 2) (t0 : Target) (s : State) (f : Fire), (∀ e ∈ f.b.effs, ∀ im, e.eff = .soft n im → (SMap.get f.b.ancest 0 f.idx).getLsbD e.idx = true) →
    (∀ (r : Run s) bs, Acts s (.stopk g n t0) f → vrefOk f.a.word = true →
      let k := (f.b'.word.extractLsb' 0 4).toNat
      1 ≤ k → k ≤ 8 → k ≤ vrefElems f.a.word → f.b'.word.extractLsb' 4 28 = 0 →
      (Run.start s).softRead f .core (vrefAddr f.a.word) (vrefBytes f.a.word) = (r, .ok bs) →
      let es := topOf k (vrefValues f.a.word bs)
      exec (.stopk g n t0) s = .next (r.finish f.c f.b.iid f.idx (shape (.stopk g n t0))
        { outcome true with effs := [.soft n (softImage 2 16 k (f.b'.word.extractLsb' 32 32).toNat (mixDigest es) (mixPayload es))] }).st)
    ∧ (∀ mt e k, Acts s (.smix g n t0) f → imgFlag (f.soft n) 16 = true → FloatFmt.f32.read (f.b'.word.toNat % 2 ^ 32) = .fin false mt e k →
      let es := imgEntries (f.soft n)
      let w := mixWeights (.fin false mt e k) (es.map Prod.snd)
      let es' := (es.map Prod.fst).zip w.1
      exec (.smix g n t0) s = .next (fired s (.smix g n t0) f
        { outcome true with flags := w.2, effs := [.soft n (softImage 2 0 (imgCount (f.soft n)) (imgPos (f.soft n)) (mixDigest es') (mixPayload es'))] }))
    ∧ (∀ (r : Run s) bs, Acts s (.shid g n t0) f → vrefOk f.a.word = true → 16 ≤ vrefElems f.a.word → vrefElems f.a.word ≤ 16384 → vrefElems f.a.word % 16 = 0 →
      f.b'.word.extractLsb' 32 32 ≠ 0xFFFFFFFF → imgFlag (f.soft n) 32 = false →
      (Run.start s).softRead f .core (vrefAddr f.a.word) (vrefBytes f.a.word) = (r, .ok bs) →
      exec (.shid g n t0) s = .next (r.finish f.c f.b.iid f.idx (shape (.shid g n t0)) { outcome true with
        effs := [.soft n (softImage 3 (if f.a.word.getLsbD 56 then 8 else 0) (vrefElems f.a.word) ((f.b'.word.extractLsb' 32 32).toNat + 1) (Sys2Proof.Machine.rx64 (quadsOf bs)).toNat
          (hiddenPayload f.a.word 0 (f.b'.word.extractLsb' 32 32).toNat (f.b'.word.extractLsb' 0 32).toNat))] }).st)
    ∧ (imgKind (f.soft n) = 2 → imgFlag (f.soft n) 16 = false → imgFlag (f.soft n) 32 = false →
      let text := fun (e : Nat × Nat) => Eff.soft n (softImage 1 1 1 (imgPos (f.soft n)) e.1 0)
      let es := imgEntries (f.soft n)
      (Acts s (.scollArgmax g n t0) f → exec (.scollArgmax g n t0) s = .next (fired s (.scollArgmax g n t0) f { outcome true with effs := [text (bestEntry es)] }))
      ∧ (Acts s (.scollSample g m n t0) f → s.earlierDraw f m.toNat = false → exec (.scollSample g m n t0) s = .next (fired s (.scollSample g m n t0) f
          { outcome true with effs := [text (sampledEntry (drawOf (f.x.key m.toNat) (f.counter m.toNat)) es), .draw m 1] }))
      ∧ (Acts s (.scollConf g n t0) f → exec (.scollConf g n t0) s = .next (fired s (.scollConf g n t0) f
          (let w := FloatFmt.f32.read (bestEntry es).2
           let t := FloatFmt.f32.read (f.b'.word.toNat % 2 ^ 32)
           if w.isNan || t.isNan || w.lt t then outcome false else { outcome true with effs := [text (bestEntry es)] }))))
    ∧ (imgKind (f.soft n) = 1 → imgFlag (f.soft n) 16 = false → imgFlag (f.soft n) 32 = false → ∀ i ∈ [Instr.scollArgmax g n t0, .scollConf g n t0], Acts s i f →
        exec i s = .next (fired s i f (outcome true)))

/-- `sget` reads a field of a register (R230); `slog` appends the register's record after the commit (R233); `scmp` gives the length of the common prefix of two logs, and whether
digests alone matched (R236); `srpl` of a TEXT record restores its image (R237); `semb` issues an operation with the register's image, once what it needs holds (R229). -/
def Obligations.SoftReads : Prop :=
  ∀ (g : Gate) (n : BitVec 4) (m : BitVec 6) (t0 : Target) (s : State) (f : Fire),
    (∀ fld : BitVec 3, Yields (.sget g fld n t0) (fun _ f =>
      let im := f.soft n
      let e : Token := ⟨.scalar, 0x0800000000000000, false, true, false⟩
      match fld.toNat with
      | 0 => result64 (im.extractLsb' 0 64)
      | 1 => result64 (im.extractLsb' 64 64)
      | 2 => if 7 < f.a.word.toNat then { t0 := some e, t1 := some e } else result64 (if imgKind im = 2 then im.extractLsb' (128 + 64 * f.a.word.toNat) 64 else 0)
      | k => result64 (if imgKind im = 3 then im.extractLsb' (64 * (k - 1)) 64 else 0)))
    ∧ (Acts s (.slog g m n t0) f → f.x.isFull m.toNat = true → imgKind (f.soft n) ≠ 0 → imgKind (f.soft n) ≠ 3 → imgFlag (f.soft n) 16 = false → imgFlag (f.soft n) 32 = false →
        exec (.slog g m n t0) s = .next (fired s (.slog g m n t0) f { outcome true with effs := [.slog (f.x.reg m.toNat) 0 (f.soft n) f.det], outs := 1 }))
    ∧ (Acts s (.slog g m n t0) f → f.x.isFull m.toNat = false → exec (.slog g m n t0) s = .next s)
    ∧ (∀ (r₁ r₂ r₃ : Run s) dx dy len deq, Acts s (.scmp g t0) f → slogPending (s.ctx f.c) f.b = false → (Run.start s).readLog f f.a.word.toNat = (r₁, .ok dx) →
        r₁.readLog f f.b'.word.toNat = (r₂, .ok dy) →
        r₂.prefixFrom f (logOf dx) (logOf dy) (min (logOf dx).count (logOf dy).count) 0 false = (r₃, .ok (len, deq)) →
        exec (.scmp g t0) s = .next (r₃.finish f.c f.b.iid f.idx (shape (.scmp g t0)) (result64 (BitVec.ofNat 64 (len + if deq then 2 ^ 32 else 0)))).st)
    ∧ (∀ (r₁ r₂ : Run s) db h, Acts s (.srpl g n t0) f → slogPending (s.ctx f.c) f.b = false → f.b'.word.toNat < 2 ^ 54 → (f.b'.word.extractLsb' 32 22).toNat % 64 = 0 →
        (∀ e ∈ f.b.effs, ∀ im, e.eff = .soft n im → (SMap.get f.b.ancest 0 f.idx).getLsbD e.idx = true) →
        (Run.start s).readLog f f.a.word.toNat = (r₁, .ok db) → r₁.readRecord f (logOf db) (f.b'.word.extractLsb' 0 32).toNat = (r₂, .ok h) → fieldAt h 0 1 = 1 →
        exec (.srpl g n t0) s = .next (r₂.finish f.c f.b.iid f.idx (shape (.srpl g n t0))
          { outcome true with effs := [.soft n (softImage 1 (fieldAt h 1 1 % 2) 1 (fieldAt h 4 4) (fieldAt h 8 8) 0)] }).st)
    ∧ (∀ i p, (i, p) ∈ [(Instr.semb g n t0, false), (.sembProj g n t0, true)] → Acts s i f → imgFlag (f.soft n) 16 = false → imgFlag (f.soft n) 32 = false →
        (p = false → imgKind (f.soft n) = 1 ∨ imgKind (f.soft n) = 2) →
        (p = true → imgKind (f.soft n) = 3 ∧ ∃ w, shapesOf (s.core (f.c / 4)) ⟨.semb n p, f.a.data, f.a.kind, f.b'.data, f.b'.kind, f.g.data⟩ = .ok [w]
          ∧ shSpace w = 0 ∧ (shFmt w = 1 ∨ shFmt w = 2) ∧ shRows w = imgCount (f.soft n)
          ∧ ∀ d, descCopy s f.c f.b f.idx f.a.word.toNat 128 = .ok d → shCols w * ((fmtBits (fieldAt d 14 1)).getD 32 / 8) ≤ fieldAt d 12 2) →
        (∀ o ∈ s.ops, o.id ≠ s.uid + 1) → Regular s = true → (p = false → ∀ d, descCopy s f.c f.b f.idx f.a.word.toNat 128 = .ok d → gShmap d = 0) →
        ∃ t o, exec i s = .next t ∧ o ∈ t.ops ∧ o.id = s.uid + 1 ∧ o.cmd.kind = .semb n p ∧ o.waited = true ∧ o.data = leBytes 128 (f.soft n).toNat
          ∧ (t.ctx f.c).ticket = (s.ctx f.c).ticket + 1)

/-! ### Weight blocks -/

/-- A weight block that has become current is checked, the places of its tiles are found, and ACLR clears its accumulator before tile 0, before it runs (R269, R270): stated for a
payload of tiles of 12,288 bytes. A header whose fields its operation does not allow is a chain fault of class 0x13 with its code. -/
def Obligations.WeightBlocksAreChecked : Prop :=
  ∀ (h : WBlock) (s : State) (d : Drive), (s.ctx s.site.c).drive = some d → d.parked = false → d.leaving = false → d.fault = none → d.offs = none →
    (∀ i wop, (i, wop) ∈ [(Instr.wMac h, 0), (.wO4 h, 2)] →
      (headerFault wop h = none → d.tile < h.plen.toNat / 192 → slotFault (s.ctx s.site.c) d wop h (h.plen.toNat / 192) = false →
        let found : Drive := { d with offs := some ((List.range (h.plen.toNat / 192)).map (fun t => 12288 * t)), denied := none }
        (wbAclr h = false ∨ d.tile ≠ 0 → exec i s = .next ((Run.start s).setDrive s.site.c found).st)
        ∧ (wbAclr h = true → d.tile = 0 → s.accFree s.site.c (wbAcc h) = true → exec i s = .next (((Run.start s).modCore (s.site.c / 4) (fun k =>
            { k.clearAcc ((s.ctx s.site.c).physical (wbAcc h)) with poisoned := k.poisoned })).setDrive s.site.c found).st))
      ∧ (∀ code, headerFault wop h = some code → exec i s = .next ((Run.start s).chainFault s.site.c d 0x13 code 255 d.blk.toNat).st))
    ∧ (∀ i wop, (i, wop) ∈ [(Instr.wBook h, 3), (.wSwitch h, 4), (.wExit h, 6)] → headerFault wop h = none →
      (d.tile = 0 → exec i s = .next ((Run.start s).setDrive s.site.c { d with offs := some [], denied := none }).st)
      ∧ (d.tile ≠ 0 → exec i s = .next ((Run.start s).chainFault s.site.c d 0x13 0x0A 255 d.blk.toNat).st))

/-- What each weight block does once it has been checked (R264, R268, R270 to R274): a tile step multiplies the next tile of weights into the accumulator by group rounding,
`w.book` loads the codebook, `w.switch` goes where its table entry says, `w.emit` writes its rows one after the other and completes, and `w.exit` leaves the chain. The reads of
weights and the writes of rows are taken to succeed. -/
def Obligations.WeightBlocksRun : Prop :=
  ∀ (h : WBlock) (s : State) (d : Drive) (offs : List Nat) (r : Run s) (bs : List Byte), (s.ctx s.site.c).drive = some d → d.parked = false → d.leaving = false → d.fault = none →
    d.offs = some offs →
    let c := s.site.c
    let phys := (s.ctx c).physical (wbAcc h)
    let done := fun (r : Run s) (n : Option Nat) => (r.count c none 0x2C 1).setDrive c { d with
      count := d.count + 1, tile := 0, hdr := [], offs := none, value := none, denied := none, ahead := d.ahead.filter (fun e => e.head && e.va != d.blk.toNat),
      leaving := n.isNone, blk := (n.map (BitVec.ofNat 64)).getD d.blk }
    (∀ i wop va n, (i, wop, va, n) ∈ [(Instr.wMac h, 0, d.blk.toNat + 64 + offs.getD d.tile 0, 12288), (.wO4 h, 2, d.blk.toNat + 64 + offs.getD d.tile 0, 12288),
        (.wCb h, 1, d.blk.toNat + 64 + offs.getD d.tile 0, cb4Length (leNat bs))] →
      ∀ (r' r'' : Run s) (ws : List Byte) cols rows, s.accFree c (wbAcc h) = true → (s.core (c / 4)).isPoisoned phys = false →
        (wop ≠ 1 → r = Run.start s) → (wop = 1 → ∀ k, (Run.start s).readWeight c d d.tile va 4 k = k r bs) → (∀ k, r.readWeight c d d.tile va n k = k r' ws) →
        payloadColumns wop (weightShape wop h).1 (if h.flags.getLsbD 1 then some (bookOf (leBytes 32 (s.ctx c).codebook.toNat)) else none) ws = .ok cols →
        r'.tileRows (d.op c (s.ctx c)) (weightShape wop h).1 (weightShape wop h).2.1 ((List.range (shRows (SMap.get d.recs 0 (wbSlot h)))).map (fun (i : Nat) =>
          displace (shBase (SMap.get d.recs 0 (wbSlot h))) (i * shRowStride (SMap.get d.recs 0 (wbSlot h))
            + ((wbKt h + d.tile) * tileBytes (weightShape wop h).1 (weightShape wop h).2.1 : Nat)))) = (r'', .ok rows) →
        let q := (r''.modCore (c / 4) (fun q => q.writeAcc phys (tileStep (weightShape wop h).2.2 (q.accAt phys) rows cols))).count c none 0x28 1
        exec i s = .next (if d.tile + 1 < offs.length then q.setDrive c { d with tile := d.tile + 1, denied := none } else done q (linkNext d h)).st)
    ∧ (h.flags.getLsbD 0 = true → exec (.wBook h) s = .next (done ((Run.start s).modCtx c (fun x => { x with codebook := h.aux })) (linkNext d h)).st)
    ∧ (h.flags.getLsbD 0 = false → (wbAux h).toNat % 32 = 0 → (∀ k, (Run.start s).readWeight c d 255 (wbAux h).toNat 32 k = k r bs) →
        exec (.wBook h) s = .next (done (r.modCtx c (fun x => { x with codebook := BitVec.ofNat 256 (leNat bs) })) (linkNext d h)).st)
    ∧ (d.value = none → h.route.getLsbD 6 = false → (s.ctx c).isFull (h.route.toNat % 64) = false → exec (.wSwitch h) s = .next s)
    ∧ (∀ v, (d.value = some v ∨ (d.value = none ∧ h.route.getLsbD 6 = false ∧ (s.ctx c).isFull (h.route.toNat % 64) = true ∧ v = (s.ctx c).reg (h.route.toNat % 64))) →
        v.toNat < h.link.toNat % 16 + 1 → (∀ k, (Run.start s).readWeight c { d with value := some v } 255 (d.blk.toNat + 64 + 8 * v.toNat) 8 k = k r bs) →
        (leNat bs / 2 ^ 62 = 1 → bitsOf (leNat bs) 56 6 = 0 → exec (.wSwitch h) s = .next (done r (some (bitsOf (leNat bs) 0 56))).st)
        ∧ (leNat bs / 2 ^ 62 = 3 → bitsOf (leNat bs) 56 6 = 0 → exec (.wSwitch h) s = .next (done r none).st))
    ∧ (∀ v, d.value = some v → h.link.toNat % 16 + 1 ≤ v.toNat → exec (.wSwitch h) s = .next ((Run.start s).chainFault c d 0x13 0x07 255 d.blk.toNat).st)
    ∧ (let w := SMap.get d.recs 0 (8 + wbSlot h)
      let o := d.op c (s.ctx c)
      (∀ (p p' : Run s) n i k, p.engineWrite o (c / 4) .core (displace (shBase w) (((i : Nat) * shRowStride w + (128 * wbCt h * (if shFmt w == 2 then 2 else 4) : Nat) : Int)))
          (accRowBytes (p.st.core (c / 4)) phys i 128 (shFmt w == 2)) = (p', .done) →
        p.emitRows c d h o w phys (n + 1) i k = p'.emitRows c d h o w phys n (i + 1) k)
      ∧ (∀ r' : Run s, s.accFree c (wbAcc h) = true → (∀ k, (Run.start s).emitRows c d h o w phys (shRows w) 0 k = k r') →
        let q := if wbAclr h then r'.modCore (c / 4) (fun k => { k.clearAcc phys with poisoned := k.poisoned }) else r'
        exec (.wEmit h) s = .next (done (q.emitDone o (wbAux h) (statusWordOf 0 0 (shRows w) false)) (linkNext d h)).st))
    ∧ exec (.wExit h) s = .next (done (Run.start s) none).st

/-- A drive that has left its chain delivers its count of blocks through CDONE and names the resume block under the tag that the drive's run left (R264). -/
def Obligations.DriveLeaves : Prop :=
  ∀ (s : State) (c : Nat) (d : Drive), (s.ctx c).drive = some d → d.leaving = true → d.dropDone = true ∨ d.cdone = 0 →
    exec (.driveExit c) s = .next ((Run.start s).modCtx c (fun x => { x with
      wdrv := false, drive := none, pendAt := s.clk, next := some ⟨d.resume, .other, d.after.1, d.after.2, 0, [], 0, 255, none⟩ })).st

/-! ### Faults -/

/-- A sync fault discards its run and every younger one and is delivered with the run latched (R13, R372, R375): where the handler table's entry is valid the context goes to
the handler block, and the record is written at FAULTPTR; with no table the fault escalates, after the records of the context that the firmware holds already. An async fault whose commit does not come is delivered so too, with the first run
or the successor still to begin latched (R373). The record's fields lie where R370 has them. -/
def Obligations.FaultsAreTaken : Prop :=
  (∀ (s : State) (c : Nat) (b : BlockRun) (f : NodeFault), Regular s = true → s.faulting c = some (b, f) →
    (∀ (r : Run s) fix blk, (Run.start s).planDelivery c (f.record b) = (r, .run fix blk) → ∃ t, exec (.syncFaultDelivery c) s = .next t
      ∧ Handling (t.ctx c) (f.record b) (.block b.addr b.nest b.widths b.carried) blk
      ∧ (fix = false → t.mem = (((r.discardAll c).writePieces ((r.discardAll c).st.agent c) .main (r.st.ctx c).faultptr.toNat ((f.record b).bytes 0) noIssuer).1).st.mem))
    ∧ ((s.ctx c).handler = 0 ∨ s.htab (s.ctx c).part = 0 → SMap.wf (FaultRec.of 0 0) s.escalated = true → ∃ t, exec (.syncFaultDelivery c) s = .next t
      ∧ Escalated t c (s.escalationKey c) (f.record b) (.block b.addr b.nest b.widths b.carried)))
  ∧ (∀ (s : State) (c : Nat) (f : FaultRec) (l : List FaultRec), Regular s = true → s.asyncOverdue c = true → (s.ctx c).asyncs = f :: l →
    (∀ (r : Run s) fix blk, (Run.start s).planDelivery c f = (r, .run fix blk) → ∃ t, exec (.asyncDeliveryTimeout c) s = .next t
      ∧ Handling (t.ctx c) f (s.ctx c).latchHere blk ∧ ((s.ctx c).strays = [] → (t.ctx c).asyncs = l ∧ (t.ctx c).pendBit = !l.isEmpty))
    ∧ ((s.ctx c).handler = 0 ∨ s.htab (s.ctx c).part = 0 → SMap.wf (FaultRec.of 0 0) s.escalated = true → ∃ t, exec (.asyncDeliveryTimeout c) s = .next t
      ∧ Escalated t c (s.escalationKey c) f (s.ctx c).latchHere))
  ∧ (∀ (f : FaultRec) (o : Nat),
    let b := f.bytes o
    b.length = 64 ∧ fieldAt b 0 1 = f.cls % 256 ∧ fieldAt b 1 1 = f.code % 256 ∧ fieldAt b 2 1 = f.icls % 256 ∧ fieldAt b 3 1 = f.icode % 256 ∧ fieldAt b 4 1 = f.idx % 256
      ∧ fieldAt b 5 1 = f.auxid % 256 ∧ fieldAt b 6 1 = f.rflags % 256 ∧ fieldAt b 8 8 = f.blk.toNat ∧ fieldAt b 16 8 = f.tag.toNat ∧ fieldAt b 24 4 = f.ticket % 2 ^ 32
      ∧ fieldAt b 28 4 = f.auxn % 2 ^ 32 ∧ fieldAt b 32 8 = o % 2 ^ 64 ∧ fieldAt b 40 8 = f.vaddr % 2 ^ 64 ∧ fieldAt b 48 16 = f.map % 2 ^ 128)

/-! ### Block runs -/

/-- The helm's events (R63, R65, R67, R75, R83, R376, R377): a successor begins as the youngest run of its context, on its placed copy or one fetched; a commit takes the oldest
run away with its register writes and its flags; `halt` ends the task; a handler return clears HNDL and resumes the latch; a decision enters an empty latch; a fault of a
stopped context that the firmware settles lets it go on at its latch, or frees it. -/
def Obligations.RunsBeginAndCommit : Prop :=
  ∀ (s : State) (c : Nat), Regular s = true →
    (∀ n, s.mayBegin c = true → (s.ctx c).next = some n → s.draining (s.ctx c).part = false →
      (∀ p, s.copyFor c n = some p → (∀ y ∈ (s.ctx c).runs, y.iid ≠ s.uid + 1) → ∃ t b, exec (.instanceBegin c) s = .next t ∧ (t.ctx c).runs = (s.ctx c).runs ++ [b]
        ∧ (t.ctx c).next = none ∧ b.iid = s.uid + 1 ∧ b.addr = n.addr ∧ b.cfg = p.cfg ∧ b.slot = p.slot ∧ b.nest = n.nest ∧ b.widths = n.widths ∧ b.carried = n.toks
        ∧ b.fired = [] ∧ b.exit = none ∧ b.effs = [] ∧ (b.det = (p.det || (s.ctx c).detLaunch)) ∧ (n.by' = .iter → b.frame.toNat = n.frame % 256))
      ∧ (∀ (r : Run s) g k j, s.copyFor c n = none → (s.ctx c).fetchDenied = none → (Run.start s).fetchBlock (s.agent c) n.addr.toNat = (r, .ok g) → g.bad = none → r.st.roomForBlock c = some (k, j) →
        (∀ y ∈ (s.ctx c).runs, y.iid ≠ r.st.uid + 1) → ∃ t b, exec (.instanceBegin c) s = .next t ∧ (t.ctx c).runs = (s.ctx c).runs ++ [b] ∧ (t.ctx c).next = none
        ∧ b.addr = n.addr ∧ b.cfg = k ∧ b.slot = j ∧ b.nest = n.nest ∧ b.widths = n.widths ∧ b.carried = n.toks ∧ b.fired = [] ∧ b.exit = none ∧ b.effs = []
        ∧ (t.core (c / 4)).placedAt k j = some (g.placed k j n.addr (s.ctx c).grp none 0)))
    ∧ (∀ b i k, c < 640 → s.committing c = some (b, i, k) → (s.ctx c).asyncs = [] → trapsOf b = [] → s.draining (s.ctx c).part = false →
      (k ∈ [ExitKind.br, .brn, .bri, .iter, .brnDec, .call, .calli, .ret] → spillWritten b = none → ∃ t, exec (.instanceCommit c) s = .next t
        ∧ (t.ctx c).runs.map (·.iid) = ((s.ctx c).runs.drop 1).map (·.iid) ∧ ((∀ e ∈ b.effs, ∀ x, e.eff ≠ .cmd x) → (t.ctx c).runs = (s.ctx c).runs.drop 1)
        ∧ (t.ctx c).seq = (s.ctx c).seq + 1 ∧ (t.ctx c).mode = .running ∧ (t.ctx c).next = (s.ctx c).next
        ∧ (b.effs = [] → ∀ n, (t.ctx c).reg n = (s.ctx c).reg n)
        ∧ (∀ j n v, b.effs = [⟨j, .gwrite n v⟩] → SMap.wf 0 (s.ctx c).g = true → ∀ m, (t.ctx c).reg m = if m = n.toNat then v else (s.ctx c).reg m)
        ∧ (b.effs = [] → (t.ctx c).flags = (s.ctx c).flags ||| b.flags.setWidth 64 ∧ (t.ctx c).stack = (s.ctx c).stack))
      ∧ (k = .halt → ∃ t, exec (.instanceCommit c) s = .next t ∧ (t.ctx c).mode = .ended ∧ (t.ctx c).runs = [] ∧ (t.ctx c).next = none)
      ∧ (k = .handlerReturn → (s.ctx c).drive = none → ∀ addr nest widths toks, (s.ctx c).resume = .block addr nest widths toks →
        ∃ t, exec (.instanceCommit c) s = .next t ∧ (t.ctx c).hndl = false ∧ (t.ctx c).resume = .none
          ∧ (t.ctx c).next = some ⟨addr, .handlerReturn, nest, widths, 0, toks, 0, 255, none⟩))
    ∧ (∀ d l, (s.ctx c).latch = none → (s.ctx c).held = d :: l → ∃ t, exec (.decisionArrive c) s = .next t
        ∧ t.ctx c = { s.ctx c with latch := some d, held := l } ∧ ∀ e, e ≠ c → t.ctx e = s.ctx e)
    ∧ ((SMap.keys s.escalated).contains c = true → c < 640 → (s.ctx c).mode = .stopped → SMap.wf (FaultRec.of 0 0) s.escalated = true →
      (∀ addr nest widths toks, (s.ctx c).resume = .block addr nest widths toks → (s.ctx c).drive = none → ∃ t, exec (.firmwarePolicyResume c true) s = .next t
        ∧ (t.ctx c).mode = .running ∧ (t.ctx c).resume = (s.ctx c).under ∧ (t.ctx c).next = some ⟨addr, .handlerReturn, nest, widths, 0, toks, 0, 255, none⟩
        ∧ ((∀ k ∈ SMap.keys s.escalated, k % 4096 = c → k = c) → SMap.get t.escalated (FaultRec.of 0 0) c = FaultRec.of 0 0))
      ∧ ∃ t, exec (.firmwarePolicyResume c false) s = .next t ∧ (t.ctx c).mode = .free ∧ (t.ctx c).runs = []
        ∧ ∀ l ∈ s.launches, l.id = (s.ctx c).launch → ∃ y ∈ t.launches, y.id = l.id ∧ y.ending = true)

/-! ### Synchronisation -/

/-- What follows commits (R108, R117, R128 to R131, R134, R233, R334, R345, R347): a buffered access and an arrival are performed and leave the context; an append reserves its record
in COUNT and USED of its log, and its writes follow in its place; a step group
whose members have all arrived swaps, each element taking the value that its rule settles on, which sums start at the value that stood at the first contribution; a group or a barrier that is overdue is told so to its arrived members; an overdue
reader is withdrawn; a tree node sends its round on; an overflowed token comes back. -/
def Obligations.SynchronisationEvents : Prop :=
  (∀ (s : State) (p sg : Nat), Regular s = true → let g := s.group p sg
    (g.swaps = true → ∃ t, exec (.stepSwap p sg) s = .next t
      ∧ t.group p sg = { g with arrived := [], phase := g.phase + 1, next := [], copies := [], first := 0, seen := false, remote := false }
      ∧ (∀ m ∈ g.members, ∀ d, s.memberCtx g.launch g.node m = some d → (0, sg) ∉ (t.ctx d).arrivals)
      ∧ (∀ k w v, g.copies = [] → g.next ≠ [] → (∀ e ∈ g.next, e.key = k ∧ e.width = w ∧ e.rule = 1 ∧ e.seed = v) →
          t.num k w = (v + (g.next.map (·.value)).sum) % 2 ^ (8 * w)))
    ∧ (s.stepOverdue p sg = true → ∃ t, exec (.stepTimeout p sg) s = .next t ∧ t.group p sg = { g with arrived := [], next := [], failed := true, first := 0, seen := false, remote := false }
      ∧ ∀ m ∈ g.arrived, ∀ d, s.memberCtx g.launch g.node m = some d → (0, sg) ∉ (t.ctx d).arrivals
        ∧ ((s.ctx d).mode = .running → (s.ctx d).asyncs.length < 8 → ∃ f ∈ (t.ctx d).asyncs, f.cls = 0x11 ∧ f.code = 0x01 ∧ f.auxid = sg))
    ∧ (s.barrierOverdue p sg = true → ∃ t, exec (.barrierTimeout p sg) s = .next t ∧ t.barrierOf p sg = { s.barrierOf p sg with arrived := [], first := 0 }
      ∧ ∀ d ∈ (s.barrierOf p sg).arrived, (1, sg) ∉ (t.ctx d).arrivals
        ∧ ((s.ctx d).mode = .running → (s.ctx d).asyncs.length < 8 → ∃ f ∈ (t.ctx d).asyncs, f.cls = 0x11 ∧ f.code = 0x02 ∧ f.auxid = sg)))
  ∧ (∀ (w old : Nat) (l : List Contribution),
    settle w 1 old l = some ((old + (l.map (·.value)).sum) % 2 ^ (8 * w))
    ∧ (∀ x ∈ l, l.Nodup → (∀ y ∈ l, y ≠ x → x.rank < y.rank) → settle w 0 old l = some x.value)
    ∧ (∀ x ∈ l, ∀ y ∈ l, x.rank ≠ y.rank → settle w 3 old l = none))
  ∧ (∀ (s : State) (c k : Nat) (p : Pending), Regular s = true → (s.ctx c).pend.find? (fun p => p.id == k) = some p → s.mayPerform c p = true →
    let gone := fun (x : Ctx) => ({ x with pend := x.pend.filter (fun q => !(q.id == p.id)) } : Ctx)
    (∀ acc (r : Run s), p.eff = .access acc → p.denied = none → (Run.start s).performAccess (s.agent c) acc false p.issuer = (r, .done) →
      exec (.bufferedAccessPerform c k) s = .next (r.modCtx c gone).st)
    ∧ (∀ d sp im rp (r : Run s) l, p.eff = .slog d sp im rp → p.denied = none → (Run.start s).reserveRecord (s.agent c) d.toNat sp im rp false = (r, .writes l none) →
      ∃ t, exec (.bufferedAccessPerform c k) s = .next t ∧ t.mem = r.st.mem ∧ (t.ctx c).pend = (s.ctx c).pend.flatMap (fun q => if q.id == p.id
        then l.mapIdx (fun i e => ({ p with id := r.st.uid + 1 + i, eff := e, atHome := false } : Pending)) else [q]))
    ∧ (∀ sg, p.eff = .step sg → isMember s (s.agent c) sg.toNat = true → (s.group (s.ctx c).part sg.toNat).failed = false →
      let g := s.group (s.ctx c).part sg.toNat
      ∃ t, exec (.bufferedAccessPerform c k) s = .next t ∧ t.ctx c = { gone (s.ctx c) with arrivals := (s.ctx c).arrivals ++ [(0, sg.toNat)] }
        ∧ t.group (s.ctx c).part sg.toNat = { g with arrived := g.arrived ++ [(s.ctx c).rank], first := if g.arrived.isEmpty && !g.seen then s.clk else g.first }))
  ∧ (∀ (s : State) (a : Agent) (desc k : Nat) (spill : Word64) (im : BitVec 1024) (rp : Bool) (r0 : Run s), Regular s = true → fireCheck s a .main desc 64 true .atomic = none →
    (Run.start s).locate a .main desc .rw = (r0, .key k) → r0.st.poisonAt k 64 = none →
    let d := r0.st.bytes k 64
    let n := (recordBytes im spill.toNat rp).length
    fieldAt d 16 4 < fieldAt d 24 4 → fieldAt d 20 4 + n ≤ fieldAt d 28 4 → ∃ r : Run s,
      (Run.start s).reserveRecord a desc spill im rp false = (r, appendWrites r.st a d (fieldAt d 16 4) (fieldAt d 20 4) spill im (recordBytes im spill.toNat rp))
      ∧ r.st.num (k + 16) 4 = fieldAt d 16 4 + 1 ∧ r.st.num (k + 20) 4 = fieldAt d 20 4 + n ∧ ∀ j, j < k + 16 ∨ k + 24 ≤ j → r.st.byte j = s.byte j)
  ∧ (∀ (s : State) (k : Nat) (e : Reader), s.readers[k]? = some e → s.readerOverdue e = true → ∃ t, exec (.granuleWaitTimeout k) s = .next t
      ∧ t = { s with readers := t.readers } ∧ t.readers[k]? = some { e with failed := true } ∧ ∀ j, j ≠ k → t.readers[j]? = s.readers[j]?)
  ∧ (∀ (s : State) (k j : Nat) (y : Tree) (n : TreeNode) (p : Packet), s.trees[k]? = some y → y.nodes[j]? = some n → y.combined n = some p →
    let left : Tree := { y with nodes := y.nodes.mapIdx (fun i m => if i = j then m.take else m) }
    (∀ up slot, n.parent = some up → ((left.nodes[up]?).map (·.children)).bind (fun cs => cs.findIdx? (· == (false, j))) = some slot →
      (y.complete j = true → exec (.redNodeCombine k j) s = .next ((Run.start s).setTree (left.putPacket up slot { p with at' := s.clk })).st)
      ∧ (s.treeExpired y j = true → exec (.redNodeTimeout k j) s = .next ((Run.start s).setTree (left.putPacket up slot { p with at' := s.clk })).st))
    ∧ (n.parent = none → (y.complete j = true → exec (.redNodeCombine k j) s = .next ((Run.start s).deliverRound left p).st)
      ∧ (s.treeExpired y j = true → exec (.redNodeTimeout k j) s = .next ((Run.start s).deliverRound left p).st))
    ∧ p.count = ((n.heads.filterMap id).map (·.count)).sum
    ∧ ∀ e ∈ n.children.zip n.heads, e.2 = none → ∀ r ∈ y.leaves y.nodes.length e.1, r ∈ p.miss ∧ p.inc = true)
  ∧ (∀ (s : State) (k c : Nat) (b : BlockRun) (a : Arrived), Regular s = true → s.returning k = some (c, b, a) → (s.ctx c).run? b.iid = some b → a.idx < 128 →
    ∃ t b', exec (.overflowTokenReturn k) s = .next t ∧ (t.ctx c).run? b.iid = some b' ∧ b'.spilled = b.spilled.erase a
      ∧ ((b.at' a.idx a.slot).length < slotCapacity (((s.instrAt c b a.idx).map shape).getD {}) a.slot → b'.at' a.idx a.slot = b.at' a.idx a.slot ++ [a.tok]))

/-! ### Engines -/

/-- The events of the engines (R183, R188, R193, R194, R206, R214, R243, R248 to R252): the head of an accumulator queue moves on, an operation makes its next move, and a request for
attention is accepted, reads its next unit piece by piece and merges it with the last, and writes a row of its result. -/
def Obligations.EngineEvents : Prop :=
  (∀ (s : State) (core acc : Nat) (o : EngOp), s.queueHead core acc = some o →
    (∀ a, o.cmd.kind = .accclr a → Regular s = true → ∃ t, exec (.matrixTileStep core acc) s = .next t ∧ t.op? o.id = none
      ∧ ∀ i, i < 16384 → SMap.get (t.core o.core).acc 0 (acc * 16384 + i) = 0)
    ∧ (∀ (r : Run s) l, (∃ a f, o.cmd.kind = .mma a f ∨ o.cmd.kind = .mmaG a f ∨ o.cmd.kind = .mmaCb a) → (s.core o.core).isPoisoned acc = false → o.denied = none →
      (Run.start s).tileOf o acc = (r, .ok l) →
      exec (.matrixTileStep core acc) s = .next (((r.modCore o.core (fun k => k.writeAcc acc l)).countOp o 0x28 1).accDone o acc ⟨.control, 1, false, false, false⟩).st)
    ∧ (∀ a, o.cmd.kind = .accrd a → o.cmd.a.toNat % 2 ^ 64 < 1024 → (s.core o.core).isPoisoned acc = false → ∃ v : Payload,
      exec (.matrixTileStep core acc) s = .next ((Run.start s).accDone o acc ⟨.vector, v, false, false, false⟩).st
      ∧ ∀ j, j < 16 → elemAt 32 v j = (s.core o.core).accAt acc (o.cmd.a.toNat % 2 ^ 64 % 128) (16 * (o.cmd.a.toNat % 2 ^ 64 / 128) + j)))
  ∧ (∀ (s : State) (k : Nat) (o : EngOp), s.op? k = some o → s.completes o = true → s.homeQueued (.op k) = false →
    exec (.engineCompletion k) s = .next ((Run.start s).moveOp o).st
    ∧ (∀ core, o.cmd.kind = .fprint core → o.denied = none → o.cmd.a.toNat % 8 = 0 → o.cmd.b.toNat % 2 ^ 64 % 8 = 0 → o.cmd.b.toNat % 2 ^ 64 ≤ 2 ^ 32 →
      let v := leNat o.data % 2 ^ 64
      (∀ (r : Run s) bs, o.row < o.cmd.b.toNat % 2 ^ 64 / 8 →
        (Run.start s).engineRead o (if core then .core else .main) (o.cmd.a.toNat % 2 ^ 64 + 8 * o.row) 8 = (r, .bytes bs) →
        exec (.engineCompletion k) s = .next ((r.setOp { o with row := o.row + 1
                                                                data := leBytes 8 (BitVec.ofNat 64 v ^^^ (BitVec.ofNat 64 (leNat bs)).rotateLeft (o.row % 64)).toNat }).countStreamed
          o 8).st)
      ∧ (o.cmd.b.toNat % 2 ^ 64 / 8 ≤ o.row → ∃ t, exec (.engineCompletion k) s = .next t ∧ t.op? k = none
        ∧ t = ((((Run.start s).answer o (some ⟨.scalar, BitVec.ofNat 512 v, false, false, false⟩) (some ⟨.scalar, BitVec.ofNat 512 v, false, false, false⟩)).answered o).ended o).st))
    ∧ (∀ l, o.cmd.kind = .spawn → s.launches.find? (fun y => y.id == o.launch) = some l → (l.nodes[o.cmd.a.toNat % 2 ^ 64]?).any (fun n => n.spawn) = true →
      ∃ t y, exec (.engineCompletion k) s = .next t ∧ t.op? k = none ∧ t.launches.find? (fun y => y.id == o.launch) = some y ∧ y.spawns = l.spawns + 1
        ∧ y.work = l.work ++ [⟨s.uid + 1, o.cmd.a.toNat % 2 ^ 64, .ready, s.clk, 0, [], [], []⟩]))
  ∧ (∀ (s : State) (k : Nat) (o : EngOp), s.op? k = some o →
    (∀ (r1 r2 r3 r4 : Run s) sl mp h rows, s.attnReady o [0] = true → s.attnAtHead o = true → o.denied = none → requestOk o.desc = true →
      (accSetOf o.desc).length = 1 + ceilDiv (aqDim o.desc) 128 → (∀ a ∈ accSetOf o.desc, o.grant.getLsbD a = true) →
      (∀ e ∈ [(aqAddr o.desc, 64), (aqResult o.desc, 64), (aqCkpt o.desc, 64), (aqSlabAt o.desc, 32), (aqMapAt o.desc, 16)], e.1 % e.2 = 0) →
      (Run.start s).engineRead o .core (aqSlabAt o.desc) (32 * aqSlabs o.desc) = (r1, .bytes sl) → r1.engineRead o .core (aqMapAt o.desc) (16 * aqGroups o.desc) = (r2, .bytes mp) →
      (∀ i, i < aqSlabs o.desc → let d := (sl.drop (32 * i)).take 32
        slabOk (aqGroups o.desc) d = true ∧ (slabOf d).1 % 64 = 0 ∧ (slabOf d).2.1 % 64 = 0) → mapOk (aqRows o.desc) mp = true → aqMask o.desc = 0 → aqDoct o.desc = 0 →
      r2.engineRead o .main (aqCkpt o.desc) 64 = (r3, .bytes h) → fieldAt h 0 1 % 2 = 0 →
      (∀ f, r3.acceptRows o (aqDim o.desc * aqSize (aqFmt o.desc)) ((List.range (aqRows o.desc)).map (fun i => aqAddr o.desc + i * aqStride o.desc)) [] f = f r4 rows) →
      r4.st.op? k = some o →
      ∃ t p st, exec (.attnAccept k) s = .next t ∧ t.op? k = some p ∧ p.attn = some st ∧ st.unit = 0 ∧ st.nfull = 0 ∧ st.npart = 0 ∧ st.nempty = 0 ∧ st.adm = 0
        ∧ st.qrows = rows.map (fun bs => bs.map BitVec.toNat) ∧ st.slabs.length = aqSlabs o.desc ∧ st.total = (st.slabs.map tilesOf).sum
        ∧ p.phase = (if 0 < st.total then 1 else 2))
    ∧ (∀ st u k0 k1, o.attn = some st → o.phase = 1 → o.denied = none → s.attnReady o [1, 3, 5] = true → s.draining o.part = false →
      unitOf (slabOrder st.slabs) st.unit = some (u, k0, k1) →
      let cls := unitClasses st u k0 k1
      let w := aqDim o.desc * aqSize (aqFmt o.desc)
      let off := (k0 - slabFirst u) * w
      let after := fun (st' : AttnState) => ({ o with
        attn := some { st' with
          unit := st'.unit + 1
          nfull := st'.nfull + (if unitClass cls = .full then 1 else 0)
          npart := st'.npart + (if unitClass cls = .partly then 1 else 0)
          nempty := st'.nempty + (if unitClass cls = .empty then 1 else 0) }
        phase := if st'.unit + 1 < st'.total then 1 else 2
        denied := none
        got := [] } : EngOp)
      (unitClass cls = .empty → exec (.attnUnit k) s = .next ((Run.start s).setOp (after st)).st)
      ∧ (∀ (r : Run s) p bs, unitClass cls ≠ .empty → let n := (k1 - k0) * w
        pieceAfter (if o.got.length < n then u.1 + off else u.2.1 + off) n (o.got.length % n) = some p → (Run.start s).engineRead o .main p.1 p.2 = (r, .bytes bs) →
        ((o.got ++ bs).length < 2 * n → exec (.attnUnit k) s = .next (r.setOp { o with got := o.got ++ bs }).st)
        ∧ (2 * n ≤ (o.got ++ bs).length → let st' := mergeUnit o.desc st k0 k1 cls ((o.got ++ bs).take n) ((o.got ++ bs).drop n)
          exec (.attnUnit k) s = .next ((r.showAccs o st' (scoreTile o.desc st k0 k1 cls ((o.got ++ bs).take n))).setOp (after st')).st)))
    ∧ (∀ st (r : Run s), o.attn = some st → s.attnReady o [2] = true → o.wrote < aqRows o.desc →
      (Run.start s).engineWrite o o.core .core (aqResult o.desc + o.wrote * aqRstride o.desc) (resultRow o.desc st o.wrote) = (r, .done) →
      exec (.attnResultWrite k) s = .next (r.setOp { o with wrote := o.wrote + 1 }).st))
  ∧ (∀ (ss : List (Nat × Nat × Nat × Nat × Nat)) (u : Nat), ((unitOf ss u).isSome = true ↔ u < (ss.map tilesOf).sum)
    ∧ ∀ e k0 k1, unitOf ss u = some (e, k0, k1) → e ∈ ss ∧ slabFirst e ≤ k0 ∧ k0 < k1 ∧ k1 ≤ slabEnd e ∧ k1 - k0 ≤ 128)

/-! ### Translation -/

/-- The events of translation (R304 to R307, R315 to R318, R324 to R326, R330, R331): a park is resolved or fails, and its waiters go on or are denied with its code; an invalidation
drops the entries it names and reads complete; a slab move starts, copies its units whole and ends with a message, or is disabled; a home unit begins a batch of its writes in the order of R331 and serves it; a row that
the firmware moves is PEND in every directory of the partition. -/
def Obligations.TranslationEvents : Prop :=
  (∀ (s : State) (die e : Nat), Regular s = true → e < 512 → (s.park die e).live = true →
    (∃ t, exec (.parkresReplay die e) s = .next t ∧ t.park die e = Park.free
      ∧ (∀ id, Waiter.op id ∈ (s.park die e).ws → ∀ o ∈ t.ops, o.id = id → o.parked = false)
      ∧ (∀ c, Waiter.fetch c ∈ (s.park die e).ws → (t.ctx c).fetchParked = false))
    ∧ (∀ i code, (i, code) ∈ [(Instr.parkresFail die e, 0x02), (.parkTimeout die e, 0x01)] → (code = 0x01 → s.parkOverdue die e = true) →
      ∃ t, exec i s = .next t ∧ t.park die e = Park.free
        ∧ (∀ id, Waiter.op id ∈ (s.park die e).ws → ∀ o ∈ t.ops, o.id = id → o.parked = false ∧ o.denied = some (0x0A, code))
        ∧ (∀ c, Waiter.fetch c ∈ (s.park die e).ws → (t.ctx c).fetchParked = false ∧ (t.ctx c).fetchDenied = some (0x0A, code))))
  ∧ (∀ (s : State) (die asid sz : Nat), Regular s = true →
    let va := bitsOf (s.dcbAt die 0x081000).toNat 12 44 * 4096
    (∃ t, exec (.tinvPage die asid sz) s = .next t ∧ t = { s with tlb := t.tlb, dcb := t.dcb } ∧ (t.dcbAt die 0x081008).toNat = asid % 2 ^ 16 * 2 ^ 48 + sz % 4 * 256
      ∧ ∀ e ∈ s.tlb, e ∈ t.tlb ↔ ¬ (e.asid = asid ∧ e.page * 4096 / 2 ^ pageBits (sz % 4) = va / 2 ^ pageBits (sz % 4)))
    ∧ (∃ t, exec (.tinvAsid die asid) s = .next t ∧ t = { s with tlb := t.tlb, dcb := t.dcb } ∧ (t.dcbAt die 0x081008).toNat = asid % 2 ^ 16 * 2 ^ 48 + 4
      ∧ ∀ e ∈ s.tlb, e ∈ t.tlb ↔ e.asid ≠ asid)
    ∧ (∃ t, exec (.tinvAll die) s = .next t ∧ t = { s with tlb := [], dcb := t.dcb } ∧ (t.dcbAt die 0x081008).toNat = 6))
  ∧ (∀ (s : State) (die n : Nat), Regular s = true → die < 4 → n < 16 → let f := s.fwd die n
    (∀ v : Word64, let g : Forward := { f with en := true, mover := true, old := bitsOf v.toNat 12 44 * 4096, log2 := v.toNat % 64, st := 1 }
      v.getLsbD 63 = true → v.getLsbD 60 = true → Forward.refused s die n g = false → ∃ t, exec (.slabMoveStart die n v) s = .next t ∧ t = { s with dcb := t.dcb } ∧ t.fwd die n = g)
    ∧ (s.moveDue die n = true → f.log2 ≤ 40 → (∀ e ∈ s.movers, e.1 ≠ die * 16 + n) →
      (2 ^ f.log2 ≤ f.wm → ∃ t, exec (.slabMoveUnit die n) s = .next t ∧ t = { s with dcb := t.dcb, messages := s.messages ++ [⟨0, 0, 2 ^ 22 + die * 16 + n, []⟩] }
        ∧ t.fwd die n = { f with st := 2 })
      ∧ (∀ src dst leaf ls, f.wm < 2 ^ f.log2 →
        let grp := ((List.range 1024).find? (fun g => (s.rootOf g).getLsbD 0 && s.asidOf g == f.asid)).getD 1024
        moverAt s (s.rootOf grp) f.asid (f.old + f.wm) .r = .phys src ls → moverAt s (s.rootOf grp) f.asid (f.new + f.wm) .w = .phys dst leaf → leafS leaf = false →
        s.poisonAt (mainKey src) 4096 = none → ∃ t, exec (.slabMoveUnit die n) s = .next t
          ∧ (∀ j, j < 4096 → t.byte (mainKey dst + j) = s.byte (mainKey src + j)) ∧ (∀ k, k < mainKey dst ∨ mainKey dst + 4096 ≤ k → t.byte k = s.byte k)
          ∧ (t.fwd die n).wm = f.wm + 4096 ∧ (t.fwd die n).st = if 2 ^ f.log2 ≤ f.wm + 4096 then 2 else 1))
    ∧ ∃ t, exec (.fwdDisable die n) s = .next t ∧ t = { s with dcb := t.dcb, movers := t.movers, ptt := t.ptt } ∧ t.fwd die n = { f with en := false, st := 0 }
      ∧ ∀ e ∈ t.movers, e.1 ≠ die * 16 + n)
  ∧ (∀ (s : State) (frame : Nat),
    let served := fun (l : List HomeReq) => (((Run.start s).put (.home (l ++ s.home.filter (fun q => !l.any (fun y => y.by' == q.by'))))).serveBatch l).st
    ((∀ q ∈ s.home, q.frame = frame → q.batch = false) → ∃ l : List HomeReq,
      l.Perm ((s.home.filter (fun q => q.frame == frame)).map (fun q => { q with batch := true })) ∧ l.Pairwise (fun x y => homeBefore x y = true)
      ∧ exec (.homeUnitBatch frame) s = .next (served l))
    ∧ ((∃ q ∈ s.home, q.frame = frame ∧ q.batch = true) → exec (.homeUnitBatch frame) s = .next (served (s.home.filter (fun q => q.frame == frame && q.batch))))
    ∧ ∀ (r : Run s) (q : HomeReq) l c id, q.by' = .pend c id → r.serveBatch (q :: l) = ((r.leaveHome q.by').serveHome q).serveBatch l)
  ∧ (∀ (s : State) (part table row len sg grp : Nat) (src dst : Word64), Regular s = true → s.migration part src dst len = some (sg, grp) → src.toNat % 64 = 0 → dst.toNat % 64 = 0 →
    (s.rowCopies (partyOf s part grp) src dst len).length = (rowUnits len).length → 1 ≤ table → table < 65536 → s.directoryFull part table row = false →
    ∃ t, exec (.rowMigration part table row src dst len) s = .next t
      ∧ (∀ d ∈ s.diesOf part, t.directory.find? (fun e => e.1 == d && rowOf e table row) = some (d, ⟨table, row, 1, dst.toNat⟩))
      ∧ (t.group part sg).copies = (s.group part sg).copies ++ s.rowCopies (partyOf s part grp) src dst len)

/-! ### The device -/

/-- The device's own events and what reaches it from outside, in the order of the opcode table (R288, R291, R308 to R310, R377, R390, R391, R394 to R403, R406 to R411). A learned
code table, the poisoned sector, the bytes of a read-out and, but for cause 3, the class of a KILL are free values (log entries 6 and 7). -/
def Obligations.DeviceEvents : Prop :=
  (∀ (s : State) (die : Nat), Regular s = true → SMap.wf 0 s.learned = true → SMap.wf [] s.codeLens = true →
    (s.learns die = true → ∃ t g, exec (.codeTableInstall die) s = .next t ∧ g < 4 ∧ (cmpGen s die).testBit g = false ∧ cmpGen t die % 16 = cmpGen s die % 16 ||| 2 ^ g
      ∧ bitsOf (cmpGen t die) 6 2 = g ∧ kraftOk (t.lens die g) = true ∧ (t.lens die g).length = 256 ∧ t.cmpPhase die = 1 ∧ t.cmpLines die = 0)
    ∧ (s.cmpPhase die ≠ 2 → ∃ t, exec (.cmpRelearn die) s = .next t ∧ t.cmpPhase die = (if cmpGen s die % 16 = 15 then 2 else 0)
      ∧ (cmpGen s die % 16 = 15 → (cmpCtl t die).testBit 2 = true))
    ∧ (s.frees die = true → let old := bitsOf (cmpGen s die) 4 2
      ∃ t, exec (.cmpGenFree die) s = .next t ∧ (cmpGen t die).testBit old = false ∧ bitsOf (cmpGen t die) 4 2 = (old + 1) % 4 ∧ (cmpCtl t die).testBit 2 = false
        ∧ t.cmpPhase die = 0))
  ∧ (∀ (s : State) (f : Nat), Regular s = true → f < 2 ^ 28 → f % 2 ^ 26 < framesPerDie →
    (∃ t i, exec (.patrolScrub f true) s = .next t ∧ f ∈ t.badFrames ∧ i < 128 ∧ (∀ j, j < 4 → SMap.get t.poison (0, 0) (mainKey (4096 * f) / 8 + 4 * i + j) = (0x0F, 0x02))
      ∧ ∀ k, (∀ j, j < 4 → k ≠ mainKey (4096 * f) / 8 + 4 * i + j) → SMap.get t.poison (0, 0) k = SMap.get s.poison (0, 0) k)
    ∧ (let l := (SMap.get s.corrected [] f ++ [s.clk]).filter (fun t => decide (s.clk < t + oneDay))
      ∃ t, exec (.patrolScrub f false) s = .next t ∧ t.mem = s.mem ∧ t.poison = s.poison ∧ (16 ≤ l.length → f ∈ t.badFrames) ∧ (l.length < 16 → t.badFrames = s.badFrames)
        ∧ ∀ i, i < 32 → let off := dieCounter i
          (s.dcbAt (f / 2 ^ 26) (off + 8)).toNat % 256 = 0x48 → (s.dcbAt (f / 2 ^ 26) off).toNat < 2 ^ 48 - 1 →
            (t.dcbAt (f / 2 ^ 26) off).toNat = (s.dcbAt (f / 2 ^ 26) off).toNat + 1))
  ∧ (∀ (s : State) (k : Nat), Regular s = true → s.thresholdDue k = true → let die := k / 2 ^ 21; let off := k % 2 ^ 21
    ∃ t, exec (.evcntThreshold k) s = .next t ∧ t.dcbAt die (markOff off) = 1
      ∧ (bitsOf (s.dcbAt die (off + 8)).toNat 30 2 = 2 → t.messages = s.messages ++ [⟨0, 0, k, []⟩])
      ∧ (bitsOf (s.dcbAt die (off + 8)).toNat 30 2 = 1 → ∀ p, s.counterPart die off = some p → bitsOf s.fixctl 12 45 ≠ 0 → t.fixed = if s.fixed = [] then [p] else s.fixed))
  ∧ (∀ s : State, Regular s = true →
    (∀ v : Word64, s.inFirmware = false → (s.fixed = [] → ∃ t, exec (.fixGo v) s = .next t ∧ t.fixed = [fixScope v.toNat]
      ∧ t.dcbAt 0 0x082508 = 1 ∧ t.fixctl.testBit 1 = (bitsOf v.toNat 12 45 == 0)) ∧ (s.fixed ≠ [] → exec (.fixGo v) s = .next s))
    ∧ (s.fixctl.testBit 1 = true → ∃ t, exec .fixCont s = .next t ∧ t.fixed = [] ∧ t.fixctl.testBit 1 = false
      ∧ (∀ p, s.fixed = [p] → p < 40 → ∀ q, SMap.wf 0 s.stoppedFor = true →
        SMap.get t.stoppedFor 0 q = if q = p then SMap.get s.stoppedFor 0 p + (s.clk - SMap.get s.fixedAt 0 p) else SMap.get s.stoppedFor 0 q))
    ∧ (s.fixctl.testBit 1 = true → s.fixed ≠ [] → ∃ t, exec .fixKill s = .next t ∧ t.fixed = [] ∧ t.fixctl.testBit 1 = false
      ∧ ∀ l ∈ s.launches, (∃ p, s.groupPart (l.q / 64) = some p ∧ (s.fixing = 40 ∧ p < 40 ∨ s.fixing ≠ 40 ∧ p = s.fixing)) → ∃ y ∈ t.launches, y.id = l.id ∧ y.ending = true
        ∧ ∀ k q, s.fixFault = some (k, q) → l.ending = false → y.cls = k ∧ y.code = q)
    ∧ (s.readsOut = true → ∃ t, exec .fixReadoutDone s = .next t ∧ t.fixctl.testBit 1 = true ∧ t.fixed = s.fixed)
    ∧ exec .thermalThrottle s = .next { s with throttle := s.throttle + 1 } ∧ exec .powerThrottle s = .next { s with throttle := s.throttle + 1 }
    ∧ (s.fixed.contains 40 = false → ∃ t, exec .thermalFix s = .next t ∧ t.fixed = [40] ∧ t.dcbAt 0 0x082508 = 5) ∧ (s.fixed.contains 40 = true → exec .thermalFix s = .next s))
  ∧ (∀ (s : State) (v : Word64), Regular s = true → s.inFirmware = false →
    (∀ die k, die < 4 → k < 10 → v.toNat % 64 < 40 → let c := 10 * die + k; let old := (s.partcl c).toNat
      let new := bitsOf v.toNat 16 8 * 2 ^ 16 + bitsOf v.toNat 8 2 * 256 + v.toNat % 64
      let moves := bitsOf new 8 1 ≠ bitsOf old 8 1 ∨ new % 64 ≠ old % 64
      (moves → (s.partOf c).any s.busyPart = false ∧ (old.testBit 9 && new.testBit 8) = false) → ∃ t, exec (.partclWrite die k v) s = .next t ∧ (t.partcl c).toNat = new
        ∧ (moves → ∀ i, i < 16 → t.ctx (16 * c + i) = Ctx.reset) ∧ (¬ moves → t = { s with dcb := t.dcb }))
    ∧ (∀ q, q < 1024 → (v.toNat &&& 0x13F) % 64 < 40 → v.toNat &&& 0x13F ≠ (s.dcbAt (q / 256) (0x082700 + 8 * (q % 256))).toNat →
      (∀ l ∈ s.launches, l.q / 64 ≠ q) → ∃ t, exec (.qgpartWrite q v) s = .next t ∧ (t.dcbAt (q / 256) (0x082700 + 8 * (q % 256))).toNat = v.toNat &&& 0x13F)
    ∧ (∀ die p, die < 4 → p < 40 → let b := v.toNat % 64; let n := bitsOf v.toNat 8 6
      b ≤ 45 → b + n ≤ 46 → (∀ q, q < 40 → q ≠ p → let w := (s.dcbAt die (0x081400 + 8 * q)).toNat
        n = 0 ∨ bitsOf w 8 6 = 0 ∨ b + n ≤ w % 64 ∨ w % 64 + bitsOf w 8 6 ≤ b) →
      ∃ t, exec (.dswinWrite die p v) s = .next t ∧ t = { s with dcb := t.dcb } ∧ (t.dcbAt die (0x081400 + 8 * p)).toNat = n * 256 + b)
    ∧ (∀ die p addr nest widths toks, let core := bitsOf v.toNat 8 8; let c := 4 * core + v.toNat % 4
      die < 4 → p < 40 → (s.disposable die p c = false → exec (.fdispWrite die p v) s = .next s)
      ∧ (s.disposable die p c = true → v.toNat.testBit 17 = true → (s.ctx c).mode = .stopped →
        (v.toNat.testBit 16 = true → (s.ctx c).drive = none → (s.ctx c).resume = .block addr nest widths toks → ∃ t, exec (.fdispWrite die p v) s = .next t ∧ (t.ctx c).mode = .running
          ∧ (t.ctx c).resume = (s.ctx c).under ∧ (t.ctx c).next = some ⟨addr, .handlerReturn, nest, widths, 0, toks, 0, 255, none⟩)
        ∧ (v.toNat.testBit 16 = false → ∃ t, exec (.fdispWrite die p v) s = .next t ∧ (t.ctx c).mode = .free)))
    ∧ (∀ die off x, die < 4 → kept die off v.toNat = some x → x < 2 ^ 64 → ∃ t, exec (.regWrite die off v) s = .next t ∧ t = { s with dcb := t.dcb }
      ∧ (t.dcbAt die off).toNat = x))
  ∧ (∀ (s : State) (pa : Nat), Regular s = true →
    (∀ bytes : List Byte, bytes ≠ [] → pa + bytes.length ≤ 2 ^ 57 → ∃ t, exec (.hostMemWrite true pa bytes) s = .next t
      ∧ (∀ j, j < bytes.length → t.byte (hostKey pa + j) = bytes.getD j 0) ∧ ∀ k, k < hostKey pa ∨ hostKey pa + bytes.length ≤ k → t.byte k = s.byte k)
    ∧ (∀ bytes : List Byte, bytes ≠ [] → s.inFirmware = false → ∃ t, exec (.hostMemWrite false pa bytes) s = .next t
      ∧ (∀ j, j < bytes.length → populated (pa + j) = true → t.byte (mainKey (pa + j)) = bytes.getD j 0)
      ∧ ∀ k, (∀ j, j < bytes.length → populated (pa + j) = true → k ≠ mainKey (pa + j)) → t.byte k = s.byte k)
    ∧ (s.inFirmware = false → (pa < 2 ^ 40 →
        exec (.hostMemRead pa) s = .next { s with hostReads := s.hostReads ++
          [(pa, BitVec.ofNat 64 (leNat ((List.range 8).map (fun j => if populated (pa + j) then s.byte (mainKey (pa + j)) else 0))))] })
      ∧ (2 ^ 40 ≤ pa → pa < 2 ^ 40 + 2 ^ 23 → let die := (pa - 2 ^ 40) / 2 ^ 21; let off := (pa - 2 ^ 40) % 2 ^ 21
        (∀ (r : Run s) w, (Run.start s).readReg die off = (r, w) → exec (.hostMemRead pa) s = .next (r.put (.hostReads (r.st.hostReads ++ [(pa, w)]))).st)
        ∧ (listed die off = false → exec (.hostMemRead pa) s = .next { s with hostReads := s.hostReads ++ [(pa, 0)] }))))
  ∧ (∀ (s : State) (a : PeerReq), s.inFirmware = false →
    let answer := fun (r : Run s) bs cls code => exec (.peerAccess a) s = .next { r.st with replies := r.st.replies ++ [⟨a.srcDev, a.srcPart, a.va.toNat, bs, cls, code⟩] }
    (peerEntry s a.srcDev a.srcPart = none → answer (Run.start s) [] 0x09 0x05)
    ∧ ∀ flags grp, peerEntry s a.srcDev a.srcPart = some (flags, grp) → let p : Agent := ⟨641, grp / 256 * 40, (s.groupPart grp).getD 0, grp, 0, 0, 0⟩
      (∀ n, a.kind = .read n → (flags.testBit 1 = false → answer (Run.start s) [] 0x09 0x01)
        ∧ (flags.testBit 1 = true → fireCheck s p .main a.va.toNat n false .load = none → ∀ (r : Run s) bs, (Run.start s).readBytes p .main a.va.toNat n .r [] = (r, .bytes bs) →
          answer r bs 0 0))
      ∧ (∀ bs, a.kind = .write bs → (flags.testBit 2 = false → answer (Run.start s) [] 0x09 0x02)
        ∧ (flags.testBit 2 = true → fireCheck s p .main a.va.toNat bs.length false .store = none → ∀ r : Run s,
          (Run.start s).writePieces p .main a.va.toNat bs noIssuer = (r, .done) → answer r [] 0 0))
      ∧ (∀ (wd : MWidth) (new : Nat → Nat), (∃ op b, a.kind = .atom op wd b ∧ new = fun old => (atomNew op wd old b).1)
          ∨ (∃ b, a.kind = .cas wd b ∧ new = fun old => if old = bitsOf b.toNat 0 (8 * wd.bytes) then bitsOf b.toNat (8 * wd.bytes) (8 * wd.bytes) else old) →
        (flags.testBit 3 = false → answer (Run.start s) [] 0x09 0x02)
        ∧ (flags.testBit 3 = true → fireCheck s p .main a.va.toNat wd.bytes true .atomic = none → ∀ (r : Run s) k, (Run.start s).locate p .main a.va.toNat .rw = (r, .key k) →
          answer ((r.write k (leBytes wd.bytes (new (r.st.num k wd.bytes)))).wroteLines p .main a.va.toNat k wd.bytes) (leBytes wd.bytes (r.st.num k wd.bytes)) 0 0)))
  ∧ (∀ s : State, Regular s = true →
    (let n := (SMap.get s.msgWin 0 0x10).toNat;
      (n % 64 ≠ 0 ∨ n < 4096 ∨ 2 ^ 26 < n → ∃ t, exec .rcvgo s = .next t ∧ t = { s with msgWin := t.msgWin } ∧ SMap.get t.msgWin 0 0 = 0x0403)
      ∧ (n % 64 = 0 → 4096 ≤ n → n ≤ 2 ^ 26 → Config.hostRejects (SMap.get s.msgWin 0 8).toNat false s.choice = false →
        let b := s.bytes (hostKey (SMap.get s.msgWin 0 8).toNat) n; let version := fieldAt b 8 4
        let fails := fun (reason : Word64) => ∃ t, exec .rcvgo s = .next t ∧ t = { s with msgWin := t.msgWin, choice := t.choice } ∧ SMap.get t.msgWin 0 0 = reason * 256 + 3
        (Config.imageSigned (b.take (n - 96)) (b.drop (n - 96)) = false → fails 1)
        ∧ (Config.imageSigned (b.take (n - 96)) (b.drop (n - 96)) = true → (version < s.rollback → fails 2)
          ∧ (s.rollback ≤ version → ∃ t, exec .rcvgo s = .next t ∧ t.inFirmware = false ∧ SMap.get t.msgWin 0 0 = 0 ∧ (∀ c, t.ctx c = Ctx.reset) ∧ t.dcb = []
            ∧ t.firmware = some b ∧ t.rollback = if fieldAt b 12 1 % 2 = 1 then version else s.rollback))))
    ∧ (∃ t, exec .attgo s = .next t ∧ t = { s with msgWin := t.msgWin } ∧ ∀ i, i < 32 → SMap.get t.msgWin 0 (0x200 + 8 * i) = BitVec.ofNat 64 (fieldAt (attestation s) (8 * i) 8))
    ∧ (∃ t, exec .powerGood s = .next t ∧ (∀ c, t.ctx c = Ctx.reset) ∧ t.dcb = [] ∧ (∀ k, ofPackage k = true → t.byte k = 0)
      ∧ (t.inFirmware = false → SMap.get t.msgWin 0 0 = 0) ∧ (t.inFirmware = true → SMap.get t.msgWin 0 0 % 256 = 1))
    ∧ (∃ t, exec .packageReset s = .next t ∧ (∀ c, t.ctx c = Ctx.reset) ∧ (∀ k, t.core k = Core.reset) ∧ t.dcb = [] ∧ t.launches = [] ∧ (∀ k, ofPackage k = true → t.byte k = 0)
      ∧ t.rollback = s.rollback ∧ t.firmware = s.firmware ∧ ∀ k, ofPackage k = false → t.byte k = s.byte k))

/-! ### Launches and pre-emption -/

/-- The graph engine's events and those of pre-emption (R349 to R351, R354 to R368, R381, R382, R387, R389): writes of QTAIL and QCTL, the read of a record, placement, promotion,
dispatch, the ends of a node and of a launch, and drains, freezes and restores with what PRECTL reads after them. -/
def Obligations.LaunchAndPreemptionEvents : Prop :=
  (∀ (s : State) (q : Nat) (v : Word64), Regular s = true → q < 65536 →
    (let n := (v.toNat % 2 ^ 32 + 2 ^ 32 - s.queueHead' q) % 2 ^ 32;
      ∃ t, exec (.qtailWrite q v) s = .next t ∧ t = { s with dcb := t.dcb, covered := t.covered } ∧ t.queueTail q = v.toNat % 2 ^ 32 ∧ t.queueHead' q = s.queueHead' q
        ∧ t.queueState q = if s.queueState q = 1 ∨ s.queueState q = 2 then (if s.queueSize q < n then 3 else if s.queueState q = 1 ∧ n ≠ 0 then 2 else s.queueState q)
          else s.queueState q)
    ∧ (SMap.wf [] s.covered = true → ∀ i, i < (v.toNat % 2 ^ 32 + 2 ^ 32 - s.queueTail q) % 2 ^ 32 → i < s.queueSize q → ∃ t, exec (.qtailWrite q v) s = .next t
      ∧ SMap.get t.covered [] (coverKey q (s.queueTail q + i)) = s.recordBytes q (s.queueTail q + i))
    ∧ (v.toNat.testBit 16 = false → ∃ t, exec (.qctlWrite q v) s = .next t ∧ t.queueReg q 1 = v.toNat % 32 + bitsOf v.toNat 8 1 * 256 + bitsOf v.toNat 12 2 * 4096
        ∧ t.queueState q = 0)
    ∧ (let n := (s.queueTail q + 2 ^ 32 - s.queueHead' q) % 2 ^ 32;
      v.toNat.testBit 16 = true → s.queueState q = 0 → (s.groupPart (q / 64)).isSome = true → ∃ t, exec (.qctlWrite q v) s = .next t ∧ (t.queueReg q 1).testBit 16 = true
        ∧ t.queueSize q = 2 ^ (v.toNat % 32) ∧ t.queueState q = if 2 ^ (v.toNat % 32) < n then 3 else if n ≠ 0 then 2 else 1)
    ∧ (s.queueReads q = true → (∀ l, s.undecided q = some l → exec (.launchRecordRead q) s = .next ((Run.start s).checkLaunch l).st)
      ∧ (s.undecided q = none →
        (s.ringDenied.contains q = true → exec (.launchRecordRead q) s = .next (((Run.start s).setQueueState q 3 2).dropRing q).st)
        ∧ ∀ (r : Run s) b, s.ringDenied.contains q = false → let a := s.recordAt q (s.queueHead' q) + (SMap.get s.ringGot [] q).length
          (s.queueInHost q = true ∧ Config.hostRejects a false s.choice = false ∧ (Run.start s).chose = r ∧ b = s.bytes (hostKey a) 64
            ∨ s.queueInHost q = false ∧ a + 64 ≤ 2 ^ 56 ∧ (Run.start s).readBytes (s.queueParty q) .main a 64 .r [] = (r, .bytes b)) →
          let got := SMap.get r.st.ringGot [] q ++ b
          let k := coverKey q (r.st.queueHead' q)
          let old := SMap.get r.st.covered [] k
          let r0 := (r.dropRing q).put (.covered k [])
          let taken := fun (r : Run s) (rec' : List Byte) =>
            let r1 := r.setQueueReg q 2 ((r.st.queueHead' q + 1) % 2 ^ 32)
            let r2 := (if r1.st.queueHead' q = r1.st.queueTail q then r1.setQueueState q 1 0 else r1).put .named
            exec (.launchRecordRead q) s = .next ((r2.put (.launches (r2.st.launches ++ [newLaunch r2.st.uid q rec']))).checkLaunch (newLaunch r2.st.uid q rec')).st
          (got.length < 256 → exec (.launchRecordRead q) s = .next (r.put (.ringGot q got)).st)
          ∧ (256 ≤ got.length → (old.length = 256 → old = got) → taken r0 got)
          ∧ (256 ≤ got.length → old.length = 256 → old ≠ got → taken r0.chose ((List.range 256).map (Config.freeByte r0.choice))))))
  ∧ (∀ (s : State) (part : Nat), s.places part = true → let r := ((Run.start s).startLaunches part).reserveAll part
    (r.st.servedAt part = none → exec (.nodePlace part) s = .next r.st)
    ∧ ∀ pri, r.st.servedAt part = some pri → exec (.nodePlace part) s = .next ((r.st.queuesAt part pri).foldl (fun r q => r.visitQueue part q pri) r).st)
  ∧ (∀ (s : State) (l : Launch) (p : Pass) (n : GNode) (team accs : List Nat), s.pass? (l.id, p.uid) = some (l, p) → l.nodeOf p = some n →
    (∃ y, ((Run.start s).placePass l p team accs).st.pass? (l.id, p.uid) = some (y, { p with st := .stage, live := team, accs := accs, bars := barsOf n.barmask team }))
    ∧ (n.kind = 0 → ((Run.start s).placePass l p team accs).st.trees = s.trees ++ l.treesFor p.node team))
  ∧ (∀ (s : State) (l u : Nat) (y : Launch) (p : Pass), Regular s = true → s.pass? (l, u) = some (y, p) →
    (s.promotes l u = true → ∃ t y', exec (.readyPriorityPromote l u) s = .next t ∧ t = { s with launches := t.launches } ∧ t.pass? (l, u) = some (y', { p with boost := p.boost + 1 }))
    ∧ (∀ n, s.dispatches l u = true → y.nodeOf p = some n → ∃ t y', exec (.nodeDispatch l u) s = .next t ∧ t.pass? (l, u) = some (y', { p with st := .run })
      ∧ y'.ndisp = y.ndisp + 1
      ∧ (n.kind = 0 → p.live.Nodup → ∀ i c, p.live[i]? = some c → (t.ctx c).mode = .running ∧ (t.ctx c).rank = i ∧ (t.ctx c).tsize = n.team ∧ (t.ctx c).launch = y.id
        ∧ (t.ctx c).node = p.node ∧ (t.ctx c).runs = [] ∧ (t.ctx c).flags = 0 ∧ (t.ctx c).modeReg = (if recD y.rec' then 1 else 0)
        ∧ (t.ctx c).faultptr = BitVec.ofNat 64 (faultptrOf y p.node i) ∧ (∀ k, (t.ctx c).reg k = 0 ∧ (t.ctx c).isFull k = true)
        ∧ (t.ctx c).next = some ⟨BitVec.ofNat 64 (recImage y.rec' + n.entry), .dispatch, 0, [], 0, [], 0, 255, none⟩)
      ∧ (n.kind ≠ 0 → ∃ o ∈ t.ops, o.c = 640 ∧ o.iid = p.uid ∧ o.core = s.unitCore y n ∧ o.cmd.a = n.desc.setWidth 512))
    ∧ (∀ n, s.passEnds y p = true → y.nodeOf p = some n → ∃ t, exec (.nodeEnd l u) s = .next t ∧ (p.st ≠ .stage → ∀ c ∈ p.live, t.ctx c = Ctx.reset)
      ∧ (∀ e ∈ t.trees, ¬ (e.launch = y.id ∧ e.node = p.node))
      ∧ (p.st = .run → n.spawn = false → n.st = .ready → ∃ y', t.launch? l = some y' ∧ (y'.nodes[p.node]?).map (·.st) = some .done)))
  ∧ (∀ (s : State) (l u : Nat) (y : Launch), s.launch? l = some y → y.pass u = none → s.launchEnds y = true →
    exec (.nodeEnd l u) s = .next ((Run.start s).completeLaunch y).st
    ∧ (Regular s = true → y.denied = none → recCplSp y.rec' = 4 → Config.hostRejects (recCplAddr y.rec') true s.choice = false → ∃ t, exec (.nodeEnd l u) s = .next t ∧ (∀ e ∈ t.launches, e.id ≠ y.id)
      ∧ ∀ j, j < (completionRecord s y).length → t.byte (hostKey (recCplAddr y.rec') + j) = (completionRecord s y).getD j 0))
  ∧ (∀ (s : State) (p : Nat) (v : Word64), Regular s = true →
    (s.opTaken p = true → (∀ d ∈ s.drains, d.part ≠ p) → ∃ t, exec (.prectlDrain p v) s = .next t
      ∧ t.drains = s.drains ++ [⟨p, bitsOf v.toNat 12 44 * 4096, s.clk, [], false, false, none, 0⟩] ∧ (t.prectl p).testBit 1 = true ∧ bitsOf (t.prectl p) 8 2 = 1)
    ∧ (∀ d, s.saves p = true → s.drains.find? (fun d => d.part == p) = some d →
      (d.denied.isSome = true → exec (.drainComplete p) s = .next ((Run.start s).drainFails p).st)
      ∧ (d.denied = none → d.frozen = true → exec (.drainComplete p) s = .next ((Run.start s).saveFrozen p d).st)
      ∧ (d.denied = none → d.frozen = false → exec (.drainComplete p) s = .next ((Run.start s).saveDrained p d).st)
      ∧ (∀ (r0 r1 r2 : Run s), d.denied = none → d.frozen = false → (s.livesIn p).foldl Run.dropStrays (Run.start s) = r0 →
        let w := r0.st.toSave p d.since
        let body := saveBody r0.st w
        r0.writeArea p d.save w body = (r1, .done) → r1.copyToBuddy p d.save (0x6000 + body.length) = (r2, .done) → let t := (r2.drainDone p w 1).st
          exec (.drainComplete p) s = .next t ∧ t.drains = s.drains.filter (fun e => e.part != p) ∧ (∀ c ∈ s.livesIn p, (t.ctx c).mode = .free)
            ∧ (t.prectl p).testBit 1 = false ∧ bitsOf (t.prectl p) 2 2 = 1))
    ∧ (∀ (r : Run s) (w : Saved) n, n < 4 → p < 40 → let t := (r.drainDone p w n).st
      t.drains = r.st.drains.filter (fun e => e.part != p) ∧ (∀ e ∈ w.ctxs, (t.ctx e.1).mode = .free) ∧ (t.prectl p).testBit 1 = false ∧ bitsOf (t.prectl p) 2 2 = n)
    ∧ (s.drainOverdue p = true → ∀ d, s.drains.find? (fun d => d.part == p) = some d → exec (.drainTimeout p) s = .next ((Run.start s).freeze p d.save).st)
    ∧ (s.opTaken p = true → exec (.prectlFreeze p v) s = .next (((Run.start s).startOp p v 2).freeze p (bitsOf v.toNat 12 44 * 4096)).st)
    ∧ (∀ (r : Run s) a, ∃ d ∈ (r.freeze p a).st.drains, d.part = p ∧ d.frozen = true ∧ d.save = a ∧ d.frozenAt = r.st.clk)
    ∧ (∀ (r q : Run s) d, r.chose.writeArea p d.save ⟨2, p, d.since, 0, 0, [], [], [], [], [], [], []⟩ ((List.range (8 * (Config.freeWord r.choice).toNat)).map (Config.freeByte r.choice)) = (q, .done) →
      r.saveFrozen p d = q.endOp p 2)
    ∧ (∀ (r : Run s) n, n < 4 → p < 40 → ((r.endOp p n).st.prectl p).testBit 1 = false ∧ bitsOf ((r.endOp p n).st.prectl p) 2 2 = n)
    ∧ (s.opTaken p = true → ∀ r : Run s,
      (((Run.start s).startOp p v 3).savedAt p (bitsOf v.toNat 12 44 * 4096) = (r, none) → ∃ t, exec (.prectlRestore p v) s = .next t ∧ bitsOf (t.prectl p) 2 2 = 3
        ∧ (t.prectl p).testBit 1 = false)
      ∧ (∀ w pl, ((Run.start s).startOp p v 3).savedAt p (bitsOf v.toNat 12 44 * 4096) = (r, some w) → w.kind ≠ 2 → r.st.idlePart p = true → placeSaved r.st w p = some pl →
        ∃ t, exec (.prectlRestore p v) s = .next t ∧ bitsOf (t.prectl p) 2 2 = 0 ∧ (t.prectl p).testBit 1 = false ∧ w ∉ t.saved
          ∧ ((w.ctxs.map (fun e => pl.ctxOf e.1)).Nodup → ∀ e ∈ w.ctxs, ∀ k, (t.ctx (pl.ctxOf e.1)).reg k = e.2.reg k ∧ (t.ctx (pl.ctxOf e.1)).part = p
            ∧ (t.ctx (pl.ctxOf e.1)).next = e.2.next))))
end

