-- ==== Sys2Proof/Laws/Dispatch.lean ====
section
/-! SUPPORT. What `exec` calls for each instruction: one lemma per arm. -/

set_option Elab.async false

namespace Sys2Proof.Machine

open Sys2Proof

@[simp] theorem exec_br (g : Gate) (off : BitVec 24) (s : State) : exec (.br g off) s = execBr g off s := rfl
@[simp] theorem exec_call (g : Gate) (off : BitVec 24) (s : State) : exec (.call g off) s = execCall g off s := rfl
@[simp] theorem exec_wdrive (g : Gate) (off : BitVec 24) (s : State) : exec (.wdrive g off) s = execWdrive g off s := rfl
@[simp] theorem exec_brn (g : Gate) (s : State) : exec (.brn g) s = execBrn g s := rfl
@[simp] theorem exec_brnDec (g : Gate) (s : State) : exec (.brnDec g) s = execBrnDec g s := rfl
@[simp] theorem exec_bri (g : Gate) (s : State) : exec (.bri g) s = execBri g s := rfl
@[simp] theorem exec_calli (g : Gate) (s : State) : exec (.calli g) s = execCalli g s := rfl
@[simp] theorem exec_ret (g : Gate) (s : State) : exec (.ret g) s = execRet g s := rfl
@[simp] theorem exec_iter (g : Gate) (t0 t1 : Target) (s : State) : exec (.iter g t0 t1) s = execIter g t0 t1 s := rfl
@[simp] theorem exec_halt (g : Gate) (s : State) : exec (.halt g) s = execHalt g s := rfl
@[simp] theorem exec_mov (g : Gate) (t0 t1 : Target) (s : State) : exec (.mov g t0 t1) s = execMov g t0 t1 s := rfl
@[simp] theorem exec_null (g : Gate) (t0 t1 : Target) (s : State) : exec (.null g t0 t1) s = execNull g t0 t1 s := rfl
@[simp] theorem exec_steer (t0 t1 : Target) (s : State) : exec (.steer t0 t1) s = execSteer t0 t1 s := rfl
@[simp] theorem exec_select (t0 t1 : Target) (s : State) : exec (.select t0 t1) s = execSelect t0 t1 s := rfl
@[simp] theorem exec_merge (t0 t1 : Target) (s : State) : exec (.merge t0 t1) s = execMerge t0 t1 s := rfl
@[simp] theorem exec_join (g : Gate) (n : BitVec 7) (t0 : Target) (s : State) : exec (.join g n t0) s = execJoin g n t0 s := rfl
@[simp] theorem exec_joinOr (g : Gate) (n : BitVec 7) (t0 : Target) (s : State) : exec (.joinOr g n t0) s = execJoinOr g n t0 s := rfl
@[simp] theorem exec_ctl (g : Gate) (t0 t1 : Target) (s : State) : exec (.ctl g t0 t1) s = execCtl g t0 t1 s := rfl
@[simp] theorem exec_ctlNz (g : Gate) (t0 t1 : Target) (s : State) : exec (.ctlNz g t0 t1) s = execCtlNz g t0 t1 s := rfl
@[simp] theorem exec_movi (g : Gate) (v : BitVec 10) (t0 : Target) (s : State) : exec (.movi g v t0) s = execMovi g v t0 s := rfl
@[simp] theorem exec_lit (g : Gate) (j : BitVec 7) (t0 : Target) (s : State) : exec (.lit g j t0) s = execLit g j t0 s := rfl
@[simp] theorem exec_read (g : Gate) (r : BitVec 6) (t0 : Target) (s : State) : exec (.read g r t0) s = execRead g r t0 s := rfl
@[simp] theorem exec_readT (g : Gate) (r : BitVec 6) (t0 : Target) (s : State) : exec (.readT g r t0) s = execReadT g r t0 s := rfl
@[simp] theorem exec_write (g : Gate) (r : BitVec 6) (s : State) : exec (.write g r) s = execWrite g r s := rfl
@[simp] theorem exec_itag (g : Gate) (l : BitVec 3) (t0 : Target) (s : State) : exec (.itag g l t0) s = execItag g l t0 s := rfl
@[simp] theorem exec_nest (g : Gate) (c : BitVec 3) (s : State) : exec (.nest g c) s = execNest g c s := rfl
@[simp] theorem exec_unnest (g : Gate) (s : State) : exec (.unnest g) s = execUnnest g s := rfl
@[simp] theorem exec_cfgld (g : Gate) (t0 : Target) (s : State) : exec (.cfgld g t0) s = execCfgld g t0 s := rfl
@[simp] theorem exec_decide (g : Gate) (t0 t1 : Target) (s : State) : exec (.decide g t0 t1) s = execDecide g t0 t1 s := rfl
@[simp] theorem exec_decideRgn (g : Gate) (t0 t1 : Target) (s : State) : exec (.decideRgn g t0 t1) s = execDecideRgn g t0 t1 s := rfl
@[simp] theorem exec_add (w : Width) (g : Gate) (t0 t1 : Target) (s : State) : exec (.add w g t0 t1) s = execAdd w g t0 t1 s := rfl
@[simp] theorem exec_sub (w : Width) (g : Gate) (t0 t1 : Target) (s : State) : exec (.sub w g t0 t1) s = execSub w g t0 t1 s := rfl
@[simp] theorem exec_mul (w : Width) (g : Gate) (t0 t1 : Target) (s : State) : exec (.mul w g t0 t1) s = execMul w g t0 t1 s := rfl
@[simp] theorem exec_mulh (w : Width) (g : Gate) (t0 t1 : Target) (s : State) : exec (.mulh w g t0 t1) s = execMulh w g t0 t1 s := rfl
@[simp] theorem exec_mulhn (w : Width) (g : Gate) (t0 t1 : Target) (s : State) : exec (.mulhn w g t0 t1) s = execMulhn w g t0 t1 s := rfl
@[simp] theorem exec_div (w : Width) (g : Gate) (t0 t1 : Target) (s : State) : exec (.div w g t0 t1) s = execDiv w g t0 t1 s := rfl
@[simp] theorem exec_divn (w : Width) (g : Gate) (t0 t1 : Target) (s : State) : exec (.divn w g t0 t1) s = execDivn w g t0 t1 s := rfl
@[simp] theorem exec_rem (w : Width) (g : Gate) (t0 t1 : Target) (s : State) : exec (.rem w g t0 t1) s = execRem w g t0 t1 s := rfl
@[simp] theorem exec_remn (w : Width) (g : Gate) (t0 t1 : Target) (s : State) : exec (.remn w g t0 t1) s = execRemn w g t0 t1 s := rfl
@[simp] theorem exec_and (w : Width) (g : Gate) (t0 t1 : Target) (s : State) : exec (.and w g t0 t1) s = execAnd w g t0 t1 s := rfl
@[simp] theorem exec_or (w : Width) (g : Gate) (t0 t1 : Target) (s : State) : exec (.or w g t0 t1) s = execOr w g t0 t1 s := rfl
@[simp] theorem exec_xor (w : Width) (g : Gate) (t0 t1 : Target) (s : State) : exec (.xor w g t0 t1) s = execXor w g t0 t1 s := rfl
@[simp] theorem exec_andn (w : Width) (g : Gate) (t0 t1 : Target) (s : State) : exec (.andn w g t0 t1) s = execAndn w g t0 t1 s := rfl
@[simp] theorem exec_shl (w : Width) (g : Gate) (t0 t1 : Target) (s : State) : exec (.shl w g t0 t1) s = execShl w g t0 t1 s := rfl
@[simp] theorem exec_shr (w : Width) (g : Gate) (t0 t1 : Target) (s : State) : exec (.shr w g t0 t1) s = execShr w g t0 t1 s := rfl
@[simp] theorem exec_sra (w : Width) (g : Gate) (t0 t1 : Target) (s : State) : exec (.sra w g t0 t1) s = execSra w g t0 t1 s := rfl
@[simp] theorem exec_rotl (w : Width) (g : Gate) (t0 t1 : Target) (s : State) : exec (.rotl w g t0 t1) s = execRotl w g t0 t1 s := rfl
@[simp] theorem exec_min (w : Width) (g : Gate) (t0 t1 : Target) (s : State) : exec (.min w g t0 t1) s = execMin w g t0 t1 s := rfl
@[simp] theorem exec_max (w : Width) (g : Gate) (t0 t1 : Target) (s : State) : exec (.max w g t0 t1) s = execMax w g t0 t1 s := rfl
@[simp] theorem exec_minn (w : Width) (g : Gate) (t0 t1 : Target) (s : State) : exec (.minn w g t0 t1) s = execMinn w g t0 t1 s := rfl
@[simp] theorem exec_maxn (w : Width) (g : Gate) (t0 t1 : Target) (s : State) : exec (.maxn w g t0 t1) s = execMaxn w g t0 t1 s := rfl
@[simp] theorem exec_clz (w : Width) (g : Gate) (t0 t1 : Target) (s : State) : exec (.clz w g t0 t1) s = execClz w g t0 t1 s := rfl
@[simp] theorem exec_ctz (w : Width) (g : Gate) (t0 t1 : Target) (s : State) : exec (.ctz w g t0 t1) s = execCtz w g t0 t1 s := rfl
@[simp] theorem exec_popc (w : Width) (g : Gate) (t0 t1 : Target) (s : State) : exec (.popc w g t0 t1) s = execPopc w g t0 t1 s := rfl
@[simp] theorem exec_sext (w : Width) (g : Gate) (t0 t1 : Target) (s : State) : exec (.sext w g t0 t1) s = execSext w g t0 t1 s := rfl
@[simp] theorem exec_zext (w : Width) (g : Gate) (t0 t1 : Target) (s : State) : exec (.zext w g t0 t1) s = execZext w g t0 t1 s := rfl
@[simp] theorem exec_bfx (w : Width) (g : Gate) (p : BitVec 6) (t0 : Target) (s : State) : exec (.bfx w g p t0) s = execBfx w g p t0 s := rfl
@[simp] theorem exec_bfi (w : Width) (g : Gate) (p : BitVec 6) (t0 : Target) (s : State) : exec (.bfi w g p t0) s = execBfi w g p t0 s := rfl
@[simp] theorem exec_lea (g : Gate) (sh : BitVec 3) (t0 : Target) (s : State) : exec (.lea g sh t0) s = execLea g sh t0 s := rfl
@[simp] theorem exec_cmpEq (w : Width) (g : Gate) (t0 t1 : Target) (s : State) : exec (.cmpEq w g t0 t1) s = execCmpEq w g t0 t1 s := rfl
@[simp] theorem exec_cmpNe (w : Width) (g : Gate) (t0 t1 : Target) (s : State) : exec (.cmpNe w g t0 t1) s = execCmpNe w g t0 t1 s := rfl
@[simp] theorem exec_cmpLt (w : Width) (g : Gate) (t0 t1 : Target) (s : State) : exec (.cmpLt w g t0 t1) s = execCmpLt w g t0 t1 s := rfl
@[simp] theorem exec_cmpLe (w : Width) (g : Gate) (t0 t1 : Target) (s : State) : exec (.cmpLe w g t0 t1) s = execCmpLe w g t0 t1 s := rfl
@[simp] theorem exec_cmpLtn (w : Width) (g : Gate) (t0 t1 : Target) (s : State) : exec (.cmpLtn w g t0 t1) s = execCmpLtn w g t0 t1 s := rfl
@[simp] theorem exec_cmpLen (w : Width) (g : Gate) (t0 t1 : Target) (s : State) : exec (.cmpLen w g t0 t1) s = execCmpLen w g t0 t1 s := rfl
@[simp] theorem exec_addi (w : Width) (g : Gate) (v : BitVec 10) (t0 : Target) (s : State) : exec (.addi w g v t0) s = execAddi w g v t0 s := rfl
@[simp] theorem exec_andi (w : Width) (g : Gate) (v : BitVec 10) (t0 : Target) (s : State) : exec (.andi w g v t0) s = execAndi w g v t0 s := rfl
@[simp] theorem exec_ori (w : Width) (g : Gate) (v : BitVec 10) (t0 : Target) (s : State) : exec (.ori w g v t0) s = execOri w g v t0 s := rfl
@[simp] theorem exec_xori (w : Width) (g : Gate) (v : BitVec 10) (t0 : Target) (s : State) : exec (.xori w g v t0) s = execXori w g v t0 s := rfl
@[simp] theorem exec_shli (w : Width) (g : Gate) (v : BitVec 10) (t0 : Target) (s : State) : exec (.shli w g v t0) s = execShli w g v t0 s := rfl
@[simp] theorem exec_shri (w : Width) (g : Gate) (v : BitVec 10) (t0 : Target) (s : State) : exec (.shri w g v t0) s = execShri w g v t0 s := rfl
@[simp] theorem exec_srai (w : Width) (g : Gate) (v : BitVec 10) (t0 : Target) (s : State) : exec (.srai w g v t0) s = execSrai w g v t0 s := rfl
@[simp] theorem exec_muli (w : Width) (g : Gate) (v : BitVec 10) (t0 : Target) (s : State) : exec (.muli w g v t0) s = execMuli w g v t0 s := rfl
@[simp] theorem exec_cmpiEq (w : Width) (g : Gate) (v : BitVec 10) (t0 : Target) (s : State) : exec (.cmpiEq w g v t0) s = execCmpiEq w g v t0 s := rfl
@[simp] theorem exec_cmpiNe (w : Width) (g : Gate) (v : BitVec 10) (t0 : Target) (s : State) : exec (.cmpiNe w g v t0) s = execCmpiNe w g v t0 s := rfl
@[simp] theorem exec_cmpiLt (w : Width) (g : Gate) (v : BitVec 10) (t0 : Target) (s : State) : exec (.cmpiLt w g v t0) s = execCmpiLt w g v t0 s := rfl
@[simp] theorem exec_cmpiLe (w : Width) (g : Gate) (v : BitVec 10) (t0 : Target) (s : State) : exec (.cmpiLe w g v t0) s = execCmpiLe w g v t0 s := rfl
@[simp] theorem exec_cmpiLtn (w : Width) (g : Gate) (v : BitVec 10) (t0 : Target) (s : State) : exec (.cmpiLtn w g v t0) s = execCmpiLtn w g v t0 s := rfl
@[simp] theorem exec_cmpiLen (w : Width) (g : Gate) (v : BitVec 10) (t0 : Target) (s : State) : exec (.cmpiLen w g v t0) s = execCmpiLen w g v t0 s := rfl
@[simp] theorem exec_ld (sp : Space) (wd : MWidth) (g : Gate) (off : BitVec 7) (t0 : Target) (s : State) : exec (.ld sp wd g off t0) s = execLd sp wd g off t0 s := rfl
@[simp] theorem exec_ldWait (sp : Space) (wd : MWidth) (g : Gate) (off : BitVec 7) (t0 : Target) (s : State) : exec (.ldWait sp wd g off t0) s = execLdWait sp wd g off t0 s := rfl
@[simp] theorem exec_ldTake (sp : Space) (wd : MWidth) (g : Gate) (off : BitVec 7) (t0 : Target) (s : State) : exec (.ldTake sp wd g off t0) s = execLdTake sp wd g off t0 s := rfl
@[simp] theorem exec_lds (sp : Space) (wd : MWidth) (fe : BitVec 2) (g : Gate) (off : BitVec 7) (t0 : Target) (s : State) : exec (.lds sp wd fe g off t0) s = execLds sp wd fe g off t0 s := rfl
@[simp] theorem exec_ldRaw (sp : Space) (wd : MWidth) (fe : BitVec 2) (g : Gate) (off : BitVec 7) (t0 : Target) (s : State) : exec (.ldRaw sp wd fe g off t0) s = execLdRaw sp wd fe g off t0 s := rfl
@[simp] theorem exec_st (sp : Space) (wd : MWidth) (g : Gate) (off : BitVec 7) (t0 : Target) (s : State) : exec (.st sp wd g off t0) s = execSt sp wd g off t0 s := rfl
@[simp] theorem exec_fill (sp : Space) (wd : MWidth) (g : Gate) (off : BitVec 7) (t0 : Target) (s : State) : exec (.fill sp wd g off t0) s = execFill sp wd g off t0 s := rfl
@[simp] theorem exec_empty (sp : Space) (wd : MWidth) (g : Gate) (off : BitVec 7) (t0 : Target) (s : State) : exec (.empty sp wd g off t0) s = execEmpty sp wd g off t0 s := rfl
@[simp] theorem exec_wcvLoad (sp : Space) (wd : MWidth) (g : Gate) (off : BitVec 7) (t0 : Target) (s : State) : exec (.wcvLoad sp wd g off t0) s = execWcvLoad sp wd g off t0 s := rfl
@[simp] theorem exec_wcvStore (sp : Space) (wd : MWidth) (g : Gate) (off : BitVec 7) (s : State) : exec (.wcvStore sp wd g off) s = execWcvStore sp wd g off s := rfl
@[simp] theorem exec_atomAdd (sp : Space) (wd : MWidth) (g : Gate) (t0 : Target) (s : State) : exec (.atomAdd sp wd g t0) s = execAtomAdd sp wd g t0 s := rfl
@[simp] theorem exec_atomEsum (sp : Space) (wd : MWidth) (g : Gate) (t0 : Target) (s : State) : exec (.atomEsum sp wd g t0) s = execAtomEsum sp wd g t0 s := rfl
@[simp] theorem exec_atomAnd (sp : Space) (wd : MWidth) (g : Gate) (t0 : Target) (s : State) : exec (.atomAnd sp wd g t0) s = execAtomAnd sp wd g t0 s := rfl
@[simp] theorem exec_atomOr (sp : Space) (wd : MWidth) (g : Gate) (t0 : Target) (s : State) : exec (.atomOr sp wd g t0) s = execAtomOr sp wd g t0 s := rfl
@[simp] theorem exec_atomXor (sp : Space) (wd : MWidth) (g : Gate) (t0 : Target) (s : State) : exec (.atomXor sp wd g t0) s = execAtomXor sp wd g t0 s := rfl
@[simp] theorem exec_atomMin (sp : Space) (wd : MWidth) (g : Gate) (t0 : Target) (s : State) : exec (.atomMin sp wd g t0) s = execAtomMin sp wd g t0 s := rfl
@[simp] theorem exec_atomMax (sp : Space) (wd : MWidth) (g : Gate) (t0 : Target) (s : State) : exec (.atomMax sp wd g t0) s = execAtomMax sp wd g t0 s := rfl
@[simp] theorem exec_atomMinn (sp : Space) (wd : MWidth) (g : Gate) (t0 : Target) (s : State) : exec (.atomMinn sp wd g t0) s = execAtomMinn sp wd g t0 s := rfl
@[simp] theorem exec_atomMaxn (sp : Space) (wd : MWidth) (g : Gate) (t0 : Target) (s : State) : exec (.atomMaxn sp wd g t0) s = execAtomMaxn sp wd g t0 s := rfl
@[simp] theorem exec_atomFmin (sp : Space) (wd : MWidth) (g : Gate) (t0 : Target) (s : State) : exec (.atomFmin sp wd g t0) s = execAtomFmin sp wd g t0 s := rfl
@[simp] theorem exec_atomFmax (sp : Space) (wd : MWidth) (g : Gate) (t0 : Target) (s : State) : exec (.atomFmax sp wd g t0) s = execAtomFmax sp wd g t0 s := rfl
@[simp] theorem exec_atomSwap (sp : Space) (wd : MWidth) (g : Gate) (t0 : Target) (s : State) : exec (.atomSwap sp wd g t0) s = execAtomSwap sp wd g t0 s := rfl
@[simp] theorem exec_cas (sp : Space) (wd : MWidth) (g : Gate) (t0 : Target) (s : State) : exec (.cas sp wd g t0) s = execCas sp wd g t0 s := rfl
@[simp] theorem exec_step (g : Gate) (n : BitVec 6) (s : State) : exec (.step g n) s = execStep g n s := rfl
@[simp] theorem exec_barr (g : Gate) (n : BitVec 5) (s : State) : exec (.barr g n) s = execBarr g n s := rfl
@[simp] theorem exec_bwait (g : Gate) (n : BitVec 5) (t0 : Target) (s : State) : exec (.bwait g n t0) s = execBwait g n t0 s := rfl
@[simp] theorem exec_fenceCore (g : Gate) (t0 : Target) (s : State) : exec (.fenceCore g t0) s = execFenceCore g t0 s := rfl
@[simp] theorem exec_fenceClus (g : Gate) (t0 : Target) (s : State) : exec (.fenceClus g t0) s = execFenceClus g t0 s := rfl
@[simp] theorem exec_fenceDie (g : Gate) (t0 : Target) (s : State) : exec (.fenceDie g t0) s = execFenceDie g t0 s := rfl
@[simp] theorem exec_fencePkg (g : Gate) (t0 : Target) (s : State) : exec (.fencePkg g t0) s = execFencePkg g t0 s := rfl
@[simp] theorem exec_fenceSys (g : Gate) (t0 : Target) (s : State) : exec (.fenceSys g t0) s = execFenceSys g t0 s := rfl
@[simp] theorem exec_combAdd (g : Gate) (v : Bool) (n : BitVec 7) (t0 : Target) (s : State) : exec (.combAdd g v n t0) s = execCombAdd g v n t0 s := rfl
@[simp] theorem exec_combMin (g : Gate) (v : Bool) (n : BitVec 7) (t0 : Target) (s : State) : exec (.combMin g v n t0) s = execCombMin g v n t0 s := rfl
@[simp] theorem exec_combMax (g : Gate) (v : Bool) (n : BitVec 7) (t0 : Target) (s : State) : exec (.combMax g v n t0) s = execCombMax g v n t0 s := rfl
@[simp] theorem exec_combMinn (g : Gate) (v : Bool) (n : BitVec 7) (t0 : Target) (s : State) : exec (.combMinn g v n t0) s = execCombMinn g v n t0 s := rfl
@[simp] theorem exec_combMaxn (g : Gate) (v : Bool) (n : BitVec 7) (t0 : Target) (s : State) : exec (.combMaxn g v n t0) s = execCombMaxn g v n t0 s := rfl
@[simp] theorem exec_combAnd (g : Gate) (v : Bool) (n : BitVec 7) (t0 : Target) (s : State) : exec (.combAnd g v n t0) s = execCombAnd g v n t0 s := rfl
@[simp] theorem exec_combOr (g : Gate) (v : Bool) (n : BitVec 7) (t0 : Target) (s : State) : exec (.combOr g v n t0) s = execCombOr g v n t0 s := rfl
@[simp] theorem exec_combXor (g : Gate) (v : Bool) (n : BitVec 7) (t0 : Target) (s : State) : exec (.combXor g v n t0) s = execCombXor g v n t0 s := rfl
@[simp] theorem exec_combFadd (g : Gate) (v : Bool) (n : BitVec 7) (t0 : Target) (s : State) : exec (.combFadd g v n t0) s = execCombFadd g v n t0 s := rfl
@[simp] theorem exec_combFmin (g : Gate) (v : Bool) (n : BitVec 7) (t0 : Target) (s : State) : exec (.combFmin g v n t0) s = execCombFmin g v n t0 s := rfl
@[simp] theorem exec_combFmax (g : Gate) (v : Bool) (n : BitVec 7) (t0 : Target) (s : State) : exec (.combFmax g v n t0) s = execCombFmax g v n t0 s := rfl
@[simp] theorem exec_redF32 (g : Gate) (t : BitVec 6) (s : State) : exec (.redF32 g t) s = execRedF32 g t s := rfl
@[simp] theorem exec_redXs (g : Gate) (t : BitVec 6) (s : State) : exec (.redXs g t) s = execRedXs g t s := rfl
@[simp] theorem exec_vadd (f : Fmt) (rm : Rm) (g : Gate) (t0 t1 : Target) (s : State) : exec (.vadd f rm g t0 t1) s = execVadd f rm g t0 t1 s := rfl
@[simp] theorem exec_vsub (f : Fmt) (rm : Rm) (g : Gate) (t0 t1 : Target) (s : State) : exec (.vsub f rm g t0 t1) s = execVsub f rm g t0 t1 s := rfl
@[simp] theorem exec_vmul (f : Fmt) (rm : Rm) (g : Gate) (t0 t1 : Target) (s : State) : exec (.vmul f rm g t0 t1) s = execVmul f rm g t0 t1 s := rfl
@[simp] theorem exec_vfma (f : Fmt) (rm : Rm) (t0 t1 : Target) (s : State) : exec (.vfma f rm t0 t1) s = execVfma f rm t0 t1 s := rfl
@[simp] theorem exec_vfms (f : Fmt) (rm : Rm) (t0 t1 : Target) (s : State) : exec (.vfms f rm t0 t1) s = execVfms f rm t0 t1 s := rfl
@[simp] theorem exec_vmax (f : Fmt) (g : Gate) (t0 t1 : Target) (s : State) : exec (.vmax f g t0 t1) s = execVmax f g t0 t1 s := rfl
@[simp] theorem exec_vmin (f : Fmt) (g : Gate) (t0 t1 : Target) (s : State) : exec (.vmin f g t0 t1) s = execVmin f g t0 t1 s := rfl
@[simp] theorem exec_vabs (f : Fmt) (g : Gate) (t0 t1 : Target) (s : State) : exec (.vabs f g t0 t1) s = execVabs f g t0 t1 s := rfl
@[simp] theorem exec_vneg (f : Fmt) (g : Gate) (t0 t1 : Target) (s : State) : exec (.vneg f g t0 t1) s = execVneg f g t0 t1 s := rfl
@[simp] theorem exec_vrcp (f : Fmt) (rm : Rm) (g : Gate) (t0 t1 : Target) (s : State) : exec (.vrcp f rm g t0 t1) s = execVrcp f rm g t0 t1 s := rfl
@[simp] theorem exec_vrsq (f : Fmt) (rm : Rm) (g : Gate) (t0 t1 : Target) (s : State) : exec (.vrsq f rm g t0 t1) s = execVrsq f rm g t0 t1 s := rfl
@[simp] theorem exec_vsqrt (f : Fmt) (rm : Rm) (g : Gate) (t0 t1 : Target) (s : State) : exec (.vsqrt f rm g t0 t1) s = execVsqrt f rm g t0 t1 s := rfl
@[simp] theorem exec_vexp2 (f : Fmt) (rm : Rm) (g : Gate) (t0 t1 : Target) (s : State) : exec (.vexp2 f rm g t0 t1) s = execVexp2 f rm g t0 t1 s := rfl
@[simp] theorem exec_vlog2 (f : Fmt) (rm : Rm) (g : Gate) (t0 t1 : Target) (s : State) : exec (.vlog2 f rm g t0 t1) s = execVlog2 f rm g t0 t1 s := rfl
@[simp] theorem exec_vtanh (f : Fmt) (rm : Rm) (g : Gate) (t0 t1 : Target) (s : State) : exec (.vtanh f rm g t0 t1) s = execVtanh f rm g t0 t1 s := rfl
@[simp] theorem exec_vcmp (f : Fmt) (c : VCond) (g : Gate) (t0 t1 : Target) (s : State) : exec (.vcmp f c g t0 t1) s = execVcmp f c g t0 t1 s := rfl
@[simp] theorem exec_vsel (t0 t1 : Target) (s : State) : exec (.vsel t0 t1) s = execVsel t0 t1 s := rfl
@[simp] theorem exec_vbcastW32 (g : Gate) (t0 t1 : Target) (s : State) : exec (.vbcastW32 g t0 t1) s = execVbcastW32 g t0 t1 s := rfl
@[simp] theorem exec_vbcastW16 (g : Gate) (t0 t1 : Target) (s : State) : exec (.vbcastW16 g t0 t1) s = execVbcastW16 g t0 t1 s := rfl
@[simp] theorem exec_vbcastW8 (g : Gate) (t0 t1 : Target) (s : State) : exec (.vbcastW8 g t0 t1) s = execVbcastW8 g t0 t1 s := rfl
@[simp] theorem exec_vpermW32 (g : Gate) (t0 t1 : Target) (s : State) : exec (.vpermW32 g t0 t1) s = execVpermW32 g t0 t1 s := rfl
@[simp] theorem exec_vpermW16 (g : Gate) (t0 t1 : Target) (s : State) : exec (.vpermW16 g t0 t1) s = execVpermW16 g t0 t1 s := rfl
@[simp] theorem exec_vpermW8 (g : Gate) (t0 t1 : Target) (s : State) : exec (.vpermW8 g t0 t1) s = execVpermW8 g t0 t1 s := rfl
@[simp] theorem exec_vextrW32 (g : Gate) (l : BitVec 6) (t0 : Target) (s : State) : exec (.vextrW32 g l t0) s = execVextrW32 g l t0 s := rfl
@[simp] theorem exec_vextrW16 (g : Gate) (l : BitVec 6) (t0 : Target) (s : State) : exec (.vextrW16 g l t0) s = execVextrW16 g l t0 s := rfl
@[simp] theorem exec_vextrW8 (g : Gate) (l : BitVec 6) (t0 : Target) (s : State) : exec (.vextrW8 g l t0) s = execVextrW8 g l t0 s := rfl
@[simp] theorem exec_vinsW32 (g : Gate) (l : BitVec 6) (t0 : Target) (s : State) : exec (.vinsW32 g l t0) s = execVinsW32 g l t0 s := rfl
@[simp] theorem exec_vinsW16 (g : Gate) (l : BitVec 6) (t0 : Target) (s : State) : exec (.vinsW16 g l t0) s = execVinsW16 g l t0 s := rfl
@[simp] theorem exec_vinsW8 (g : Gate) (l : BitVec 6) (t0 : Target) (s : State) : exec (.vinsW8 g l t0) s = execVinsW8 g l t0 s := rfl
@[simp] theorem exec_vrsum (f : Fmt) (g : Gate) (t0 t1 : Target) (s : State) : exec (.vrsum f g t0 t1) s = execVrsum f g t0 t1 s := rfl
@[simp] theorem exec_vrmax (f : Fmt) (g : Gate) (t0 t1 : Target) (s : State) : exec (.vrmax f g t0 t1) s = execVrmax f g t0 t1 s := rfl
@[simp] theorem exec_vrmin (f : Fmt) (g : Gate) (t0 t1 : Target) (s : State) : exec (.vrmin f g t0 t1) s = execVrmin f g t0 t1 s := rfl
@[simp] theorem exec_vamax (f : Fmt) (g : Gate) (t0 t1 : Target) (s : State) : exec (.vamax f g t0 t1) s = execVamax f g t0 t1 s := rfl
@[simp] theorem exec_vexpo (f : Fmt) (g : Gate) (t0 t1 : Target) (s : State) : exec (.vexpo f g t0 t1) s = execVexpo f g t0 t1 s := rfl
@[simp] theorem exec_vexpoSc (f : Fmt) (g : Gate) (t0 t1 : Target) (s : State) : exec (.vexpoSc f g t0 t1) s = execVexpoSc f g t0 t1 s := rfl
@[simp] theorem exec_vldexp (f : Fmt) (g : Gate) (t0 t1 : Target) (s : State) : exec (.vldexp f g t0 t1) s = execVldexp f g t0 t1 s := rfl
@[simp] theorem exec_vcvt (g : Gate) (dst src : BitVec 3) (ovf : BitVec 2) (rm : Rm) (t0 : Target) (s : State) : exec (.vcvt g dst src ovf rm t0) s = execVcvt g dst src ovf rm t0 s := rfl
@[simp] theorem exec_vscale (g : Gate) (e : Bool) (t0 t1 : Target) (s : State) : exec (.vscale g e t0 t1) s = execVscale g e t0 t1 s := rfl
@[simp] theorem exec_sacc (e : Bool) (t0 t1 : Target) (s : State) : exec (.sacc e t0 t1) s = execSacc e t0 t1 s := rfl
@[simp] theorem exec_vpack (g : Gate) (k : BitVec 3) (t0 : Target) (s : State) : exec (.vpack g k t0) s = execVpack g k t0 s := rfl
@[simp] theorem exec_vunpackLo (g : Gate) (src : BitVec 4) (t0 : Target) (s : State) : exec (.vunpackLo g src t0) s = execVunpackLo g src t0 s := rfl
@[simp] theorem exec_vunpackHi (g : Gate) (src : BitVec 4) (t0 : Target) (s : State) : exec (.vunpackHi g src t0) s = execVunpackHi g src t0 s := rfl
@[simp] theorem exec_eaddF32 (g : Gate) (n : BitVec 3) (t0 : Target) (s : State) : exec (.eaddF32 g n t0) s = execEaddF32 g n t0 s := rfl
@[simp] theorem exec_eaddBf16 (g : Gate) (n : BitVec 3) (t0 : Target) (s : State) : exec (.eaddBf16 g n t0) s = execEaddBf16 g n t0 s := rfl
@[simp] theorem exec_eroundF32 (g : Gate) (n : BitVec 3) (t0 : Target) (s : State) : exec (.eroundF32 g n t0) s = execEroundF32 g n t0 s := rfl
@[simp] theorem exec_eroundBf16 (g : Gate) (n : BitVec 3) (t0 : Target) (s : State) : exec (.eroundBf16 g n t0) s = execEroundBf16 g n t0 s := rfl
@[simp] theorem exec_eclr (g : Gate) (n : BitVec 3) (s : State) : exec (.eclr g n) s = execEclr g n s := rfl
@[simp] theorem exec_mma (acc : BitVec 2) (f : BitVec 2) (g : Gate) (t0 t1 : Target) (s : State) : exec (.mma acc f g t0 t1) s = execMma acc f g t0 t1 s := rfl
@[simp] theorem exec_mmaG (acc : BitVec 2) (f : BitVec 2) (t0 t1 : Target) (s : State) : exec (.mmaG acc f t0 t1) s = execMmaG acc f t0 t1 s := rfl
@[simp] theorem exec_mmaCb (acc : BitVec 2) (g : Gate) (t0 t1 : Target) (s : State) : exec (.mmaCb acc g t0 t1) s = execMmaCb acc g t0 t1 s := rfl
@[simp] theorem exec_accclr (acc : BitVec 2) (g : Gate) (t0 : Target) (s : State) : exec (.accclr acc g t0) s = execAccclr acc g t0 s := rfl
@[simp] theorem exec_accrd (acc : BitVec 2) (g : Gate) (t0 t1 : Target) (s : State) : exec (.accrd acc g t0 t1) s = execAccrd acc g t0 t1 s := rfl
@[simp] theorem exec_accrdSt (acc : BitVec 2) (g : Gate) (t0 : Target) (s : State) : exec (.accrdSt acc g t0) s = execAccrdSt acc g t0 s := rfl
@[simp] theorem exec_accwr (acc : BitVec 2) (g : Gate) (t0 : Target) (s : State) : exec (.accwr acc g t0) s = execAccwr acc g t0 s := rfl
@[simp] theorem exec_tdset (g : Gate) (fld : BitVec 6) (m : BitVec 4) (s : State) : exec (.tdset g fld m) s = execTdset g fld m s := rfl
@[simp] theorem exec_copy (g : Gate) (t0 t1 : Target) (s : State) : exec (.copy g t0 t1) s = execCopy g t0 t1 s := rfl
@[simp] theorem exec_copyMc (g : Gate) (t0 t1 : Target) (s : State) : exec (.copyMc g t0 t1) s = execCopyMc g t0 t1 s := rfl
@[simp] theorem exec_stage (g : Gate) (s : State) : exec (.stage g) s = execStage g s := rfl
@[simp] theorem exec_xform (g : Gate) (t0 : Target) (s : State) : exec (.xform g t0) s = execXform g t0 s := rfl
@[simp] theorem exec_fprint (g : Gate) (core : Bool) (t0 t1 : Target) (s : State) : exec (.fprint g core t0 t1) s = execFprint g core t0 t1 s := rfl
@[simp] theorem exec_dedup (g : Gate) (t0 : Target) (s : State) : exec (.dedup g t0) s = execDedup g t0 s := rfl
@[simp] theorem exec_gatherRows (g : Gate) (t0 t1 : Target) (s : State) : exec (.gatherRows g t0 t1) s = execGatherRows g t0 t1 s := rfl
@[simp] theorem exec_gatherSum (g : Gate) (t0 t1 : Target) (s : State) : exec (.gatherSum g t0 t1) s = execGatherSum g t0 t1 s := rfl
@[simp] theorem exec_gatherMean (g : Gate) (t0 t1 : Target) (s : State) : exec (.gatherMean g t0 t1) s = execGatherMean g t0 t1 s := rfl
@[simp] theorem exec_gatherWsum (g : Gate) (t0 t1 : Target) (s : State) : exec (.gatherWsum g t0 t1) s = execGatherWsum g t0 t1 s := rfl
@[simp] theorem exec_scatterAdd (g : Gate) (t0 t1 : Target) (s : State) : exec (.scatterAdd g t0 t1) s = execScatterAdd g t0 t1 s := rfl
@[simp] theorem exec_scatterMax (g : Gate) (t0 t1 : Target) (s : State) : exec (.scatterMax g t0 t1) s = execScatterMax g t0 t1 s := rfl
@[simp] theorem exec_scatterMin (g : Gate) (t0 t1 : Target) (s : State) : exec (.scatterMin g t0 t1) s = execScatterMin g t0 t1 s := rfl
@[simp] theorem exec_scatterOvw (g : Gate) (t0 t1 : Target) (s : State) : exec (.scatterOvw g t0 t1) s = execScatterOvw g t0 t1 s := rfl
@[simp] theorem exec_attn (g : Gate) (t0 t1 : Target) (s : State) : exec (.attn g t0 t1) s = execAttn g t0 t1 s := rfl
@[simp] theorem exec_randN64 (n : BitVec 2) (g : Gate) (v : Bool) (t0 t1 : Target) (s : State) : exec (.randN64 n g v t0 t1) s = execRandN64 n g v t0 t1 s := rfl
@[simp] theorem exec_randF32 (n : BitVec 2) (g : Gate) (v : Bool) (t0 t1 : Target) (s : State) : exec (.randF32 n g v t0 t1) s = execRandF32 n g v t0 t1 s := rfl
@[simp] theorem exec_rskip (n : BitVec 2) (g : Gate) (t0 : Target) (s : State) : exec (.rskip n g t0) s = execRskip n g t0 s := rfl
@[simp] theorem exec_spawn (g : Gate) (s : State) : exec (.spawn g) s = execSpawn g s := rfl
@[simp] theorem exec_alloc (g : Gate) (t0 : Target) (s : State) : exec (.alloc g t0) s = execAlloc g t0 s := rfl
@[simp] theorem exec_free (g : Gate) (s : State) : exec (.free g) s = execFree g s := rfl
@[simp] theorem exec_stopk (g : Gate) (n : BitVec 4) (t0 : Target) (s : State) : exec (.stopk g n t0) s = execStopk g n t0 s := rfl
@[simp] theorem exec_smix (g : Gate) (n : BitVec 4) (t0 : Target) (s : State) : exec (.smix g n t0) s = execSmix g n t0 s := rfl
@[simp] theorem exec_shid (g : Gate) (n : BitVec 4) (t0 : Target) (s : State) : exec (.shid g n t0) s = execShid g n t0 s := rfl
@[simp] theorem exec_semb (g : Gate) (n : BitVec 4) (t0 : Target) (s : State) : exec (.semb g n t0) s = execSemb g n t0 s := rfl
@[simp] theorem exec_sembProj (g : Gate) (n : BitVec 4) (t0 : Target) (s : State) : exec (.sembProj g n t0) s = execSembProj g n t0 s := rfl
@[simp] theorem exec_scollArgmax (g : Gate) (n : BitVec 4) (t0 : Target) (s : State) : exec (.scollArgmax g n t0) s = execScollArgmax g n t0 s := rfl
@[simp] theorem exec_scollSample (g : Gate) (m : BitVec 2) (n : BitVec 4) (t0 : Target) (s : State) : exec (.scollSample g m n t0) s = execScollSample g m n t0 s := rfl
@[simp] theorem exec_scollConf (g : Gate) (n : BitVec 4) (t0 : Target) (s : State) : exec (.scollConf g n t0) s = execScollConf g n t0 s := rfl
@[simp] theorem exec_slog (g : Gate) (r : BitVec 6) (n : BitVec 4) (t0 : Target) (s : State) : exec (.slog g r n t0) s = execSlog g r n t0 s := rfl
@[simp] theorem exec_scmp (g : Gate) (t0 : Target) (s : State) : exec (.scmp g t0) s = execScmp g t0 s := rfl
@[simp] theorem exec_srpl (g : Gate) (n : BitVec 4) (t0 : Target) (s : State) : exec (.srpl g n t0) s = execSrpl g n t0 s := rfl
@[simp] theorem exec_sget (g : Gate) (fld : BitVec 3) (n : BitVec 4) (t0 : Target) (s : State) : exec (.sget g fld n t0) s = execSget g fld n t0 s := rfl
@[simp] theorem exec_nop (g : Gate) (t0 : Target) (s : State) : exec (.nop g t0) s = execNop g t0 s := rfl
@[simp] theorem exec_trap (g : Gate) (c : BitVec 8) (t0 : Target) (s : State) : exec (.trap g c t0) s = execTrap g c t0 s := rfl
@[simp] theorem exec_brk (g : Gate) (c : BitVec 8) (t0 : Target) (s : State) : exec (.brk g c t0) s = execBrk g c t0 s := rfl
@[simp] theorem exec_rdsr (g : Gate) (r : SysReg) (t0 : Target) (s : State) : exec (.rdsr g r t0) s = execRdsr g r t0 s := rfl
@[simp] theorem exec_wrsr (g : Gate) (r : SysReg) (s : State) : exec (.wrsr g r) s = execWrsr g r s := rfl
@[simp] theorem exec_flags (g : Gate) (m : BitVec 7) (t0 : Target) (s : State) : exec (.flags g m t0) s = execFlags g m t0 s := rfl
@[simp] theorem exec_perf (g : Gate) (t0 : Target) (s : State) : exec (.perf g t0) s = execPerf g t0 s := rfl
@[simp] theorem exec_safe (g : Gate) (t0 : Target) (s : State) : exec (.safe g t0) s = execSafe g t0 s := rfl
@[simp] theorem exec_fixreq (g : Gate) (t0 : Target) (s : State) : exec (.fixreq g t0) s = execFixreq g t0 s := rfl
@[simp] theorem exec_wMac (h : WBlock) (s : State) : exec (.wMac h) s = execWMac h s := rfl
@[simp] theorem exec_wCb (h : WBlock) (s : State) : exec (.wCb h) s = execWCb h s := rfl
@[simp] theorem exec_wO4 (h : WBlock) (s : State) : exec (.wO4 h) s = execWO4 h s := rfl
@[simp] theorem exec_wBook (h : WBlock) (s : State) : exec (.wBook h) s = execWBook h s := rfl
@[simp] theorem exec_wSwitch (h : WBlock) (s : State) : exec (.wSwitch h) s = execWSwitch h s := rfl
@[simp] theorem exec_wEmit (h : WBlock) (s : State) : exec (.wEmit h) s = execWEmit h s := rfl
@[simp] theorem exec_wExit (h : WBlock) (s : State) : exec (.wExit h) s = execWExit h s := rfl
@[simp] theorem exec_instanceBegin (c : Nat) (s : State) : exec (.instanceBegin c) s = execInstanceBegin c s := rfl
@[simp] theorem exec_instanceCommit (c : Nat) (s : State) : exec (.instanceCommit c) s = execInstanceCommit c s := rfl
@[simp] theorem exec_decisionArrive (c : Nat) (s : State) : exec (.decisionArrive c) s = execDecisionArrive c s := rfl
@[simp] theorem exec_stepSwap (part sg : Nat) (s : State) : exec (.stepSwap part sg) s = execStepSwap part sg s := rfl
@[simp] theorem exec_stepTimeout (part sg : Nat) (s : State) : exec (.stepTimeout part sg) s = execStepTimeout part sg s := rfl
@[simp] theorem exec_barrierTimeout (clus b : Nat) (s : State) : exec (.barrierTimeout clus b) s = execBarrierTimeout clus b s := rfl
@[simp] theorem exec_bufferedAccessPerform (c k : Nat) (s : State) : exec (.bufferedAccessPerform c k) s = execBufferedAccessPerform c k s := rfl
@[simp] theorem exec_granuleWaitTimeout (k : Nat) (s : State) : exec (.granuleWaitTimeout k) s = execGranuleWaitTimeout k s := rfl
@[simp] theorem exec_syncFaultDelivery (c : Nat) (s : State) : exec (.syncFaultDelivery c) s = execSyncFaultDelivery c s := rfl
@[simp] theorem exec_asyncDeliveryTimeout (c : Nat) (s : State) : exec (.asyncDeliveryTimeout c) s = execAsyncDeliveryTimeout c s := rfl
@[simp] theorem exec_matrixTileStep (core acc : Nat) (s : State) : exec (.matrixTileStep core acc) s = execMatrixTileStep core acc s := rfl
@[simp] theorem exec_engineCompletion (k : Nat) (s : State) : exec (.engineCompletion k) s = execEngineCompletion k s := rfl
@[simp] theorem exec_attnAccept (k : Nat) (s : State) : exec (.attnAccept k) s = execAttnAccept k s := rfl
@[simp] theorem exec_attnUnit (k : Nat) (s : State) : exec (.attnUnit k) s = execAttnUnit k s := rfl
@[simp] theorem exec_attnResultWrite (k : Nat) (s : State) : exec (.attnResultWrite k) s = execAttnResultWrite k s := rfl
@[simp] theorem exec_driveExit (c : Nat) (s : State) : exec (.driveExit c) s = execDriveExit c s := rfl
@[simp] theorem exec_redNodeCombine (k node : Nat) (s : State) : exec (.redNodeCombine k node) s = execRedNodeCombine k node s := rfl
@[simp] theorem exec_redNodeTimeout (k node : Nat) (s : State) : exec (.redNodeTimeout k node) s = execRedNodeTimeout k node s := rfl
@[simp] theorem exec_overflowTokenReturn (core : Nat) (s : State) : exec (.overflowTokenReturn core) s = execOverflowTokenReturn core s := rfl
@[simp] theorem exec_parkresReplay (die e : Nat) (s : State) : exec (.parkresReplay die e) s = execParkresReplay die e s := rfl
@[simp] theorem exec_parkresFail (die e : Nat) (s : State) : exec (.parkresFail die e) s = execParkresFail die e s := rfl
@[simp] theorem exec_parkTimeout (die e : Nat) (s : State) : exec (.parkTimeout die e) s = execParkTimeout die e s := rfl
@[simp] theorem exec_tinvPage (die asid sz : Nat) (s : State) : exec (.tinvPage die asid sz) s = execTinvPage die asid sz s := rfl
@[simp] theorem exec_tinvAsid (die asid : Nat) (s : State) : exec (.tinvAsid die asid) s = execTinvAsid die asid s := rfl
@[simp] theorem exec_tinvAll (die : Nat) (s : State) : exec (.tinvAll die) s = execTinvAll die s := rfl
@[simp] theorem exec_slabMoveStart (die n : Nat) (v : Word64) (s : State) : exec (.slabMoveStart die n v) s = execSlabMoveStart die n v s := rfl
@[simp] theorem exec_slabMoveUnit (die n : Nat) (s : State) : exec (.slabMoveUnit die n) s = execSlabMoveUnit die n s := rfl
@[simp] theorem exec_fwdDisable (die n : Nat) (s : State) : exec (.fwdDisable die n) s = execFwdDisable die n s := rfl
@[simp] theorem exec_homeUnitBatch (frame : Nat) (s : State) : exec (.homeUnitBatch frame) s = execHomeUnitBatch frame s := rfl
@[simp] theorem exec_rowMigration (part table row : Nat) (src dst : Word64) (len : Nat) (s : State) : exec (.rowMigration part table row src dst len) s = execRowMigration part table row src dst len s := rfl
@[simp] theorem exec_codeTableInstall (die : Nat) (s : State) : exec (.codeTableInstall die) s = execCodeTableInstall die s := rfl
@[simp] theorem exec_cmpRelearn (die : Nat) (s : State) : exec (.cmpRelearn die) s = execCmpRelearn die s := rfl
@[simp] theorem exec_cmpGenFree (die : Nat) (s : State) : exec (.cmpGenFree die) s = execCmpGenFree die s := rfl
@[simp] theorem exec_patrolScrub (frame : Nat) (uncorrectable : Bool) (s : State) : exec (.patrolScrub frame uncorrectable) s = execPatrolScrub frame uncorrectable s := rfl
@[simp] theorem exec_evcntThreshold (k : Nat) (s : State) : exec (.evcntThreshold k) s = execEvcntThreshold k s := rfl
@[simp] theorem exec_fixGo (v : Word64) (s : State) : exec (.fixGo v) s = execFixGo v s := rfl
@[simp] theorem exec_fixCont (s : State) : exec .fixCont s = execFixCont s := rfl
@[simp] theorem exec_fixKill (s : State) : exec .fixKill s = execFixKill s := rfl
@[simp] theorem exec_fixReadoutDone (s : State) : exec .fixReadoutDone s = execFixReadoutDone s := rfl
@[simp] theorem exec_thermalThrottle (s : State) : exec .thermalThrottle s = execThermalThrottle s := rfl
@[simp] theorem exec_thermalFix (s : State) : exec .thermalFix s = execThermalFix s := rfl
@[simp] theorem exec_powerThrottle (s : State) : exec .powerThrottle s = execPowerThrottle s := rfl
@[simp] theorem exec_prectlDrain (part : Nat) (v : Word64) (s : State) : exec (.prectlDrain part v) s = execPrectlDrain part v s := rfl
@[simp] theorem exec_drainComplete (part : Nat) (s : State) : exec (.drainComplete part) s = execDrainComplete part s := rfl
@[simp] theorem exec_drainTimeout (part : Nat) (s : State) : exec (.drainTimeout part) s = execDrainTimeout part s := rfl
@[simp] theorem exec_prectlFreeze (part : Nat) (v : Word64) (s : State) : exec (.prectlFreeze part v) s = execPrectlFreeze part v s := rfl
@[simp] theorem exec_prectlRestore (part : Nat) (v : Word64) (s : State) : exec (.prectlRestore part v) s = execPrectlRestore part v s := rfl
@[simp] theorem exec_partclWrite (die k : Nat) (v : Word64) (s : State) : exec (.partclWrite die k v) s = execPartclWrite die k v s := rfl
@[simp] theorem exec_qgpartWrite (q : Nat) (v : Word64) (s : State) : exec (.qgpartWrite q v) s = execQgpartWrite q v s := rfl
@[simp] theorem exec_dswinWrite (die part : Nat) (v : Word64) (s : State) : exec (.dswinWrite die part v) s = execDswinWrite die part v s := rfl
@[simp] theorem exec_fdispWrite (die part : Nat) (v : Word64) (s : State) : exec (.fdispWrite die part v) s = execFdispWrite die part v s := rfl
@[simp] theorem exec_qtailWrite (q : Nat) (v : Word64) (s : State) : exec (.qtailWrite q v) s = execQtailWrite q v s := rfl
@[simp] theorem exec_qctlWrite (q : Nat) (v : Word64) (s : State) : exec (.qctlWrite q v) s = execQctlWrite q v s := rfl
@[simp] theorem exec_launchRecordRead (q : Nat) (s : State) : exec (.launchRecordRead q) s = execLaunchRecordRead q s := rfl
@[simp] theorem exec_nodePlace (part : Nat) (s : State) : exec (.nodePlace part) s = execNodePlace part s := rfl
@[simp] theorem exec_readyPriorityPromote (l node : Nat) (s : State) : exec (.readyPriorityPromote l node) s = execReadyPriorityPromote l node s := rfl
@[simp] theorem exec_nodeDispatch (l node : Nat) (s : State) : exec (.nodeDispatch l node) s = execNodeDispatch l node s := rfl
@[simp] theorem exec_nodeEnd (l node : Nat) (s : State) : exec (.nodeEnd l node) s = execNodeEnd l node s := rfl
@[simp] theorem exec_hostMemWrite (own : Bool) (pa : Nat) (bytes : List Byte) (s : State) : exec (.hostMemWrite own pa bytes) s = execHostMemWrite own pa bytes s := rfl
@[simp] theorem exec_hostMemRead (pa : Nat) (s : State) : exec (.hostMemRead pa) s = execHostMemRead pa s := rfl
@[simp] theorem exec_peerAccess (a : PeerReq) (s : State) : exec (.peerAccess a) s = execPeerAccess a s := rfl
@[simp] theorem exec_rcvgo (s : State) : exec .rcvgo s = execRcvgo s := rfl
@[simp] theorem exec_attgo (s : State) : exec .attgo s = execAttgo s := rfl
@[simp] theorem exec_powerGood (s : State) : exec .powerGood s = execPowerGood s := rfl
@[simp] theorem exec_packageReset (s : State) : exec .packageReset s = execPackageReset s := rfl
@[simp] theorem exec_regWrite (die off : Nat) (v : Word64) (s : State) : exec (.regWrite die off v) s = execRegWrite die off v s := rfl
@[simp] theorem exec_firmwarePolicyResume (c : Nat) (resume : Bool) (s : State) : exec (.firmwarePolicyResume c resume) s = execFirmwarePolicyResume c resume s := rfl

end Sys2Proof.Machine
end

