-- ==== Sys2Proof/Laws/Maps.lean ====
section
/-! SUPPORT. Sparse maps: what a read gives after a write, and the canonical form. -/

set_option Elab.async false

namespace Sys2Proof.Machine

open Sys2Proof

variable {α : Type}

@[simp] theorem SMap.get_nil (d : α) (k : Nat) : SMap.get [] d k = d := rfl

theorem SMap.get_cons (a : Nat) (v : α) (m : SMap α) (d : α) (k : Nat) : SMap.get ((a, v) :: m) d k = if a = k then v else SMap.get m d k := rfl

/-- A key below every listed key reads as the default. -/
theorem SMap.get_of_above {m : SMap α} {lo k : Nat} (d : α) (h : SMap.above lo m = true) (hk : k < lo) : SMap.get m d k = d := by
  induction m generalizing lo with
  | nil => rfl
  | cons e r ih =>
    obtain ⟨a, v⟩ := e
    simp only [SMap.above, Bool.and_eq_true, decide_eq_true_eq] at h
    rw [SMap.get_cons, if_neg (by omega)]
    exact ih h.2 (by omega)

theorem SMap.above_mono {m : SMap α} {lo hi : Nat} (h : SMap.above hi m = true) (hl : lo ≤ hi) : SMap.above lo m = true := by
  cases m with
  | nil => rfl
  | cons e r =>
    obtain ⟨a, v⟩ := e
    simp only [SMap.above, Bool.and_eq_true, decide_eq_true_eq] at h ⊢
    exact ⟨by omega, h.2⟩

variable [DecidableEq α]

/-- Reading the key that was written. -/
theorem SMap.get_set_self {m : SMap α} {lo : Nat} (d : α) (h : SMap.above lo m = true) (k : Nat) (v : α) : SMap.get (SMap.set m d k v) d k = v := by
  induction m generalizing lo with
  | nil =>
    unfold SMap.set
    split
    · simp_all
    · simp [SMap.get]
  | cons e r ih =>
    obtain ⟨a, x⟩ := e
    simp only [SMap.above, Bool.and_eq_true, decide_eq_true_eq] at h
    unfold SMap.set
    split
    · split
      · rw [SMap.get_cons, if_neg (by omega), SMap.get_of_above d h.2 (by omega)]
        simp_all
      · simp [SMap.get]
    · split
      · split
        · rw [SMap.get_of_above d h.2 (by omega)]
          simp_all
        · simp [SMap.get]
      · rw [SMap.get_cons, if_neg (by omega)]
        exact ih h.2

/-- Reading any other key. -/
theorem SMap.get_set_ne (m : SMap α) (d : α) {k j : Nat} (v : α) (hj : j ≠ k) : SMap.get (SMap.set m d k v) d j = SMap.get m d j := by
  induction m with
  | nil =>
    unfold SMap.set
    split
    · rfl
    · simp [SMap.get, Ne.symm hj]
  | cons e r ih =>
    obtain ⟨a, x⟩ := e
    unfold SMap.set
    split
    · split
      · rfl
      · rw [SMap.get_cons, if_neg (Ne.symm hj)]
    · split
      · rename_i h
        subst h
        split
        · rw [SMap.get_cons, if_neg (Ne.symm hj)]
        · rw [SMap.get_cons, if_neg (Ne.symm hj), SMap.get_cons, if_neg (Ne.symm hj)]
      · rw [SMap.get_cons, SMap.get_cons, ih]

theorem SMap.above_set {m : SMap α} {lo : Nat} (d : α) {k : Nat} (v : α) (h : SMap.above lo m = true) (hk : lo ≤ k) :
    SMap.above lo (SMap.set m d k v) = true := by
  induction m generalizing lo with
  | nil =>
    unfold SMap.set
    split
    · rfl
    · simp [SMap.above, hk]
  | cons e r ih =>
    obtain ⟨a, x⟩ := e
    have h' := h
    simp only [SMap.above, Bool.and_eq_true, decide_eq_true_eq] at h'
    unfold SMap.set
    split
    · split
      · exact h
      · simp only [SMap.above, Bool.and_eq_true, decide_eq_true_eq]
        exact ⟨hk, by omega, h'.2⟩
    · split
      · rename_i h2
        subst h2
        split
        · exact SMap.above_mono h'.2 (by omega)
        · simpa [SMap.above] using h'
      · simp only [SMap.above, Bool.and_eq_true, decide_eq_true_eq]
        exact ⟨h'.1, ih h'.2 (by omega)⟩

theorem SMap.all_set {m : SMap α} {p : Nat × α → Bool} (d : α) (k : Nat) (v : α) (h : m.all p = true) (hv : v ≠ d → p (k, v) = true) :
    (SMap.set m d k v).all p = true := by
  induction m with
  | nil =>
    unfold SMap.set
    split
    · rfl
    · rename_i hne
      simp [hv hne]
  | cons e r ih =>
    obtain ⟨a, x⟩ := e
    simp only [List.all_cons, Bool.and_eq_true] at h
    unfold SMap.set
    split
    · split
      · simp [h.1, h.2]
      · rename_i hne
        simp [h.1, h.2, hv hne]
    · split
      · split
        · exact h.2
        · rename_i hne
          simp [h.2, hv hne]
      · simp [h.1, ih h.2]

/-- A write keeps the canonical form. -/
theorem SMap.wf_set {m : SMap α} (d : α) (k : Nat) (v : α) (h : SMap.wf d m = true) : SMap.wf d (SMap.set m d k v) = true := by
  simp only [SMap.wf, Bool.and_eq_true] at h ⊢
  exact ⟨SMap.above_set d v h.1 (Nat.zero_le _), SMap.all_set d k v h.2 (by simp)⟩

omit [DecidableEq α] in
theorem SMap.above_filter {m : SMap α} {lo : Nat} (p : Nat × α → Bool) (h : SMap.above lo m = true) : SMap.above lo (m.filter p) = true := by
  induction m generalizing lo with
  | nil => rfl
  | cons e r ih =>
    obtain ⟨a, v⟩ := e
    simp only [SMap.above, Bool.and_eq_true, decide_eq_true_eq] at h
    rw [List.filter_cons]
    split
    · simp only [SMap.above, Bool.and_eq_true, decide_eq_true_eq]
      exact ⟨h.1, ih h.2⟩
    · exact ih (SMap.above_mono h.2 (by omega))

/-- Dropping entries keeps the canonical form. -/
theorem SMap.wf_filter {m : SMap α} (d : α) (p : Nat × α → Bool) (h : SMap.wf d m = true) : SMap.wf d (m.filter p) = true := by
  simp only [SMap.wf, Bool.and_eq_true] at h ⊢
  refine ⟨SMap.above_filter p h.1, ?_⟩
  rw [List.all_eq_true] at h ⊢
  exact fun x hx => h.2 x (List.mem_filter.mp hx).1

omit [DecidableEq α] in
theorem SMap.above_map {m : SMap α} {lo : Nat} (f : Nat × α → α) (h : SMap.above lo m = true) : SMap.above lo (m.map (fun e => (e.1, f e))) = true := by
  induction m generalizing lo with
  | nil => rfl
  | cons e r ih =>
    simp only [SMap.above, List.map_cons, Bool.and_eq_true] at h ⊢
    exact ⟨h.1, ih h.2⟩

/-- Giving every entry one value that is not the default keeps the canonical form. -/
theorem SMap.wf_const {m : SMap α} (d v : α) (hv : v ≠ d) (h : SMap.wf d m = true) : SMap.wf d (m.map (fun e => (e.1, v))) = true := by
  simp only [SMap.wf, Bool.and_eq_true] at h ⊢
  refine ⟨SMap.above_map _ h.1, ?_⟩
  simp [hv]

/-- In canonical form, a read gives what was written last. -/
theorem SMap.get_set {m : SMap α} (d : α) (h : SMap.wf d m = true) (k j : Nat) (v : α) :
    SMap.get (SMap.set m d k v) d j = if j = k then v else SMap.get m d j := by
  simp only [SMap.wf, Bool.and_eq_true] at h
  split
  · rename_i e
    subst e
    exact SMap.get_set_self d h.1 j v
  · rename_i e
    exact SMap.get_set_ne m d v e

/-- Equal reads make equal maps, in canonical form. -/
theorem SMap.ext {m n : SMap α} (d : α) (hm : SMap.wf d m = true) (hn : SMap.wf d n = true) (h : ∀ k, SMap.get m d k = SMap.get n d k) : m = n := by
  have key : ∀ (m n : SMap α) (lo : Nat), SMap.above lo m = true → SMap.above lo n = true → m.all (fun e => decide (e.2 ≠ d)) = true
      → n.all (fun e => decide (e.2 ≠ d)) = true → (∀ k, SMap.get m d k = SMap.get n d k) → m = n := by
    intro m
    induction m with
    | nil =>
      intro n lo _ an _ vn h
      cases n with
      | nil => rfl
      | cons e r =>
        obtain ⟨a, v⟩ := e
        have := h a
        simp_all [SMap.get]
    | cons e r ih =>
      obtain ⟨a, v⟩ := e
      intro n lo am an vm vn h
      cases n with
      | nil =>
        have := h a
        simp_all [SMap.get]
      | cons f q =>
        obtain ⟨b, w⟩ := f
        simp only [SMap.above, Bool.and_eq_true, decide_eq_true_eq, List.all_cons, ne_eq] at am an vm vn
        have hab : a = b := by
          rcases Nat.lt_trichotomy a b with g | g | g
          · have := h a
            rw [SMap.get_cons, if_pos rfl, SMap.get_cons, if_neg (by omega), SMap.get_of_above d an.2 (by omega)] at this
            simp_all
          · exact g
          · have := h b
            rw [SMap.get_cons, if_neg (by omega), SMap.get_cons, if_pos rfl, SMap.get_of_above d am.2 (by omega)] at this
            exact absurd this.symm (by simpa using vn.1)
        subst hab
        have hvw : v = w := by
          have := h a
          rwa [SMap.get_cons, if_pos rfl, SMap.get_cons, if_pos rfl] at this
        subst hvw
        congr 1
        refine ih q (a + 1) am.2 an.2 vm.2 vn.2 (fun k => ?_)
        by_cases hk : k = a
        · subst hk
          rw [SMap.get_of_above d am.2 (by omega), SMap.get_of_above d an.2 (by omega)]
        · have := h k
          rwa [SMap.get_cons, if_neg (Ne.symm hk), SMap.get_cons, if_neg (Ne.symm hk)] at this
  simp only [SMap.wf, Bool.and_eq_true] at hm hn
  exact key m n 0 hm.1 hn.1 hm.2 hn.2 h

end Sys2Proof.Machine
end

