-- ==== Sys2Proof/Laws/State.lean ====
section
/-! SUPPORT. What each update leaves of each field of the state: one lemma per field, which says for every update what the field is after it. -/

set_option Elab.async false

namespace Sys2Proof.Machine

open Sys2Proof

@[simp] theorem Upd.apply_clk (u : Upd) (s : State) : (u.apply s).clk = match u with
    | .tick n => s.clk + n
    | .wipe => s.wiped.clk
    | _ => s.clk := by cases u <;> rfl

@[simp] theorem Upd.apply_choice (u : Upd) (s : State) : (u.apply s).choice = match u with
    | .chose => s.choice + 1
    | .wipe => s.wiped.choice
    | _ => s.choice := by cases u <;> rfl

@[simp] theorem Upd.apply_uid (u : Upd) (s : State) : (u.apply s).uid = match u with
    | .named => s.uid + 1
    | .wipe => s.wiped.uid
    | _ => s.uid := by cases u <;> rfl

@[simp] theorem Upd.apply_site (u : Upd) (s : State) : (u.apply s).site = match u with
    | .site x => x
    | .wipe => s.wiped.site
    | _ => s.site := by cases u <;> rfl

@[simp] theorem Upd.apply_inputs (u : Upd) (s : State) : (u.apply s).inputs = match u with
    | .inputs l => l
    | .wipe => s.wiped.inputs
    | _ => s.inputs := by cases u <;> rfl

@[simp] theorem Upd.apply_outside (u : Upd) (s : State) : (u.apply s).outside = match u with
    | .outside l => l
    | .wipe => s.wiped.outside
    | _ => s.outside := by cases u <;> rfl

@[simp] theorem Upd.apply_turns (u : Upd) (s : State) : (u.apply s).turns = match u with
    | .turn k x => SMap.set s.turns PeTurn.reset k x
    | .wipe => s.wiped.turns
    | _ => s.turns := by cases u <;> rfl

@[simp] theorem Upd.apply_mem (u : Upd) (s : State) : (u.apply s).mem = match u with
    | .byte k b => SMap.set s.mem unwritten k b
    | .clear lo hi => (s.cleared lo hi).mem
    | .wipe => s.wiped.mem
    | _ => s.mem := by cases u <;> rfl

@[simp] theorem Upd.apply_full (u : Upd) (s : State) : (u.apply s).full = match u with
    | .full k b => SMap.set s.full false k b
    | .clear lo hi => (s.cleared lo hi).full
    | .wipe => s.wiped.full
    | _ => s.full := by cases u <;> rfl

@[simp] theorem Upd.apply_poison (u : Upd) (s : State) : (u.apply s).poison = match u with
    | .poison k v => SMap.set s.poison (0, 0) k v
    | .clear lo hi => (s.cleared lo hi).poison
    | .wipe => s.wiped.poison
    | _ => s.poison := by cases u <;> rfl

@[simp] theorem Upd.apply_readers (u : Upd) (s : State) : (u.apply s).readers = match u with
    | .readers l => l
    | .wipe => s.wiped.readers
    | _ => s.readers := by cases u <;> rfl

@[simp] theorem Upd.apply_ctxs (u : Upd) (s : State) : (u.apply s).ctxs = match u with
    | .ctx c x => SMap.set s.ctxs Ctx.reset c x.norm
    | .wipe => s.wiped.ctxs
    | _ => s.ctxs := by cases u <;> rfl

@[simp] theorem Upd.apply_cores (u : Upd) (s : State) : (u.apply s).cores = match u with
    | .core k x => SMap.set s.cores Core.reset k x
    | .wipe => s.wiped.cores
    | _ => s.cores := by cases u <;> rfl

@[simp] theorem Upd.apply_barriers (u : Upd) (s : State) : (u.apply s).barriers = match u with
    | .barrier k x => SMap.set s.barriers Barrier.reset k x
    | .wipe => s.wiped.barriers
    | _ => s.barriers := by cases u <;> rfl

@[simp] theorem Upd.apply_groups (u : Upd) (s : State) : (u.apply s).groups = match u with
    | .group k x => SMap.set s.groups StepGroup.reset k x
    | .wipe => s.wiped.groups
    | _ => s.groups := by cases u <;> rfl

@[simp] theorem Upd.apply_shelf (u : Upd) (s : State) : (u.apply s).shelf = match u with
    | .shelf l => l
    | .wipe => s.wiped.shelf
    | _ => s.shelf := by cases u <;> rfl

@[simp] theorem Upd.apply_told (u : Upd) (s : State) : (u.apply s).told = match u with
    | .told k n => SMap.set s.told 0 k n
    | .clear lo hi => (s.cleared lo hi).told
    | .wipe => s.wiped.told
    | _ => s.told := by cases u <;> rfl

@[simp] theorem Upd.apply_tlb (u : Upd) (s : State) : (u.apply s).tlb = match u with
    | .tlb l => l
    | .wipe => s.wiped.tlb
    | _ => s.tlb := by cases u <;> rfl

@[simp] theorem Upd.apply_ptt (u : Upd) (s : State) : (u.apply s).ptt = match u with
    | .ptt k x => SMap.set s.ptt Park.free k x
    | .wipe => s.wiped.ptt
    | _ => s.ptt := by cases u <;> rfl

@[simp] theorem Upd.apply_replays (u : Upd) (s : State) : (u.apply s).replays = match u with
    | .replays l => l
    | .wipe => s.wiped.replays
    | _ => s.replays := by cases u <;> rfl

@[simp] theorem Upd.apply_movers (u : Upd) (s : State) : (u.apply s).movers = match u with
    | .movers l => l
    | .wipe => s.wiped.movers
    | _ => s.movers := by cases u <;> rfl

@[simp] theorem Upd.apply_frames (u : Upd) (s : State) : (u.apply s).frames = match u with
    | .frame k x => SMap.set s.frames Frame.reset k x
    | .wipe => s.wiped.frames
    | _ => s.frames := by cases u <;> rfl

@[simp] theorem Upd.apply_home (u : Upd) (s : State) : (u.apply s).home = match u with
    | .home l => l
    | .wipe => s.wiped.home
    | _ => s.home := by cases u <;> rfl

@[simp] theorem Upd.apply_claims (u : Upd) (s : State) : (u.apply s).claims = match u with
    | .claims l => l
    | .wipe => s.wiped.claims
    | _ => s.claims := by cases u <;> rfl

@[simp] theorem Upd.apply_ops (u : Upd) (s : State) : (u.apply s).ops = match u with
    | .ops l => l
    | .wipe => s.wiped.ops
    | _ => s.ops := by cases u <;> rfl

@[simp] theorem Upd.apply_trees (u : Upd) (s : State) : (u.apply s).trees = match u with
    | .trees l => l
    | .wipe => s.wiped.trees
    | _ => s.trees := by cases u <;> rfl

@[simp] theorem Upd.apply_launches (u : Upd) (s : State) : (u.apply s).launches = match u with
    | .launches l => l
    | .wipe => s.wiped.launches
    | _ => s.launches := by cases u <;> rfl

@[simp] theorem Upd.apply_loads (u : Upd) (s : State) : (u.apply s).loads = match u with
    | .loads l => l
    | .wipe => s.wiped.loads
    | _ => s.loads := by cases u <;> rfl

@[simp] theorem Upd.apply_drr (u : Upd) (s : State) : (u.apply s).drr = match u with
    | .drr k n => SMap.set s.drr 0 k n
    | .wipe => s.wiped.drr
    | _ => s.drr := by cases u <;> rfl

@[simp] theorem Upd.apply_lastQ (u : Upd) (s : State) : (u.apply s).lastQ = match u with
    | .lastQ k n => SMap.set s.lastQ 0 k n
    | .wipe => s.wiped.lastQ
    | _ => s.lastQ := by cases u <;> rfl

@[simp] theorem Upd.apply_ringParked (u : Upd) (s : State) : (u.apply s).ringParked = match u with
    | .ringParked l => l
    | .wipe => s.wiped.ringParked
    | _ => s.ringParked := by cases u <;> rfl

@[simp] theorem Upd.apply_ringDenied (u : Upd) (s : State) : (u.apply s).ringDenied = match u with
    | .ringDenied l => l
    | .wipe => s.wiped.ringDenied
    | _ => s.ringDenied := by cases u <;> rfl

@[simp] theorem Upd.apply_covered (u : Upd) (s : State) : (u.apply s).covered = match u with
    | .covered k l => SMap.set s.covered [] k l
    | .wipe => s.wiped.covered
    | _ => s.covered := by cases u <;> rfl

@[simp] theorem Upd.apply_ringGot (u : Upd) (s : State) : (u.apply s).ringGot = match u with
    | .ringGot k l => SMap.set s.ringGot [] k l
    | .wipe => s.wiped.ringGot
    | _ => s.ringGot := by cases u <;> rfl

@[simp] theorem Upd.apply_messages (u : Upd) (s : State) : (u.apply s).messages = match u with
    | .messages l => l
    | .wipe => s.wiped.messages
    | _ => s.messages := by cases u <;> rfl

@[simp] theorem Upd.apply_escalated (u : Upd) (s : State) : (u.apply s).escalated = match u with
    | .escalated m => m
    | .wipe => s.wiped.escalated
    | _ => s.escalated := by cases u <;> rfl

@[simp] theorem Upd.apply_withHost (u : Upd) (s : State) : (u.apply s).withHost = match u with
    | .withHost l => l
    | .wipe => s.wiped.withHost
    | _ => s.withHost := by cases u <;> rfl

@[simp] theorem Upd.apply_dcb (u : Upd) (s : State) : (u.apply s).dcb = match u with
    | .dcb k v => SMap.set s.dcb 0 k v
    | .wipe => s.wiped.dcb
    | _ => s.dcb := by cases u <;> rfl

@[simp] theorem Upd.apply_msgWin (u : Upd) (s : State) : (u.apply s).msgWin = match u with
    | .msgWin k v => SMap.set s.msgWin 0 k v
    | .wipe => s.wiped.msgWin
    | _ => s.msgWin := by cases u <;> rfl

@[simp] theorem Upd.apply_drains (u : Upd) (s : State) : (u.apply s).drains = match u with
    | .drains l => l
    | .wipe => s.wiped.drains
    | _ => s.drains := by cases u <;> rfl

@[simp] theorem Upd.apply_saved (u : Upd) (s : State) : (u.apply s).saved = match u with
    | .saved l => l
    | .wipe => s.wiped.saved
    | _ => s.saved := by cases u <;> rfl

@[simp] theorem Upd.apply_fixed (u : Upd) (s : State) : (u.apply s).fixed = match u with
    | .fixed l => l
    | .wipe => s.wiped.fixed
    | _ => s.fixed := by cases u <;> rfl

@[simp] theorem Upd.apply_fixedAt (u : Upd) (s : State) : (u.apply s).fixedAt = match u with
    | .fixedAt k n => SMap.set s.fixedAt 0 k n
    | .wipe => s.wiped.fixedAt
    | _ => s.fixedAt := by cases u <;> rfl

@[simp] theorem Upd.apply_fixFault (u : Upd) (s : State) : (u.apply s).fixFault = match u with
    | .fixFault x => x
    | .wipe => s.wiped.fixFault
    | _ => s.fixFault := by cases u <;> rfl

@[simp] theorem Upd.apply_stoppedFor (u : Upd) (s : State) : (u.apply s).stoppedFor = match u with
    | .stoppedFor k n => SMap.set s.stoppedFor 0 k n
    | .wipe => s.wiped.stoppedFor
    | _ => s.stoppedFor := by cases u <;> rfl

@[simp] theorem Upd.apply_throttle (u : Upd) (s : State) : (u.apply s).throttle = match u with
    | .throttle n => n
    | .wipe => s.wiped.throttle
    | _ => s.throttle := by cases u <;> rfl

@[simp] theorem Upd.apply_rollback (u : Upd) (s : State) : (u.apply s).rollback = match u with
    | .rollback n => n
    | .wipe => s.wiped.rollback
    | _ => s.rollback := by cases u <;> rfl

@[simp] theorem Upd.apply_firmware (u : Upd) (s : State) : (u.apply s).firmware = match u with
    | .firmware l => some l
    | .wipe => s.wiped.firmware
    | _ => s.firmware := by cases u <;> rfl

@[simp] theorem Upd.apply_directory (u : Upd) (s : State) : (u.apply s).directory = match u with
    | .directory l => l
    | .wipe => s.wiped.directory
    | _ => s.directory := by cases u <;> rfl

@[simp] theorem Upd.apply_chCount (u : Upd) (s : State) : (u.apply s).chCount = match u with
    | .chCount k n => SMap.set s.chCount 0 k n
    | .wipe => s.wiped.chCount
    | _ => s.chCount := by cases u <;> rfl

@[simp] theorem Upd.apply_hotRing (u : Upd) (s : State) : (u.apply s).hotRing = match u with
    | .hotRing k l => SMap.set s.hotRing [] k l
    | .wipe => s.wiped.hotRing
    | _ => s.hotRing := by cases u <;> rfl

@[simp] theorem Upd.apply_learned (u : Upd) (s : State) : (u.apply s).learned = match u with
    | .learned k n => SMap.set s.learned 0 k n
    | .wipe => s.wiped.learned
    | _ => s.learned := by cases u <;> rfl

@[simp] theorem Upd.apply_lines (u : Upd) (s : State) : (u.apply s).lines = match u with
    | .line k n => SMap.set s.lines 0 k n
    | .clear lo hi => (s.cleared lo hi).lines
    | .wipe => s.wiped.lines
    | _ => s.lines := by cases u <;> rfl

@[simp] theorem Upd.apply_codeLens (u : Upd) (s : State) : (u.apply s).codeLens = match u with
    | .codeLens k l => SMap.set s.codeLens [] k l
    | .wipe => s.wiped.codeLens
    | _ => s.codeLens := by cases u <;> rfl

@[simp] theorem Upd.apply_corrected (u : Upd) (s : State) : (u.apply s).corrected = match u with
    | .corrected k l => SMap.set s.corrected [] k l
    | .wipe => s.wiped.corrected
    | _ => s.corrected := by cases u <;> rfl

@[simp] theorem Upd.apply_badFrames (u : Upd) (s : State) : (u.apply s).badFrames = match u with
    | .badFrames l => l
    | .wipe => s.wiped.badFrames
    | _ => s.badFrames := by cases u <;> rfl

@[simp] theorem Upd.apply_streamed (u : Upd) (s : State) : (u.apply s).streamed = match u with
    | .streamed k n => SMap.set s.streamed 0 k n
    | .wipe => s.wiped.streamed
    | _ => s.streamed := by cases u <;> rfl

@[simp] theorem Upd.apply_hostReads (u : Upd) (s : State) : (u.apply s).hostReads = match u with
    | .hostReads l => l
    | .wipe => s.wiped.hostReads
    | _ => s.hostReads := by cases u <;> rfl

@[simp] theorem Upd.apply_peers (u : Upd) (s : State) : (u.apply s).peers = match u with
    | .peers l => l
    | .wipe => s.wiped.peers
    | _ => s.peers := by cases u <;> rfl

@[simp] theorem Upd.apply_replies (u : Upd) (s : State) : (u.apply s).replies = match u with
    | .replies l => l
    | .wipe => s.wiped.replies
    | _ => s.replies := by cases u <;> rfl

@[simp] theorem Upd.apply_inFirmware (u : Upd) (s : State) : (u.apply s).inFirmware = match u with
    | .inFirmware b => b
    | .wipe => s.wiped.inFirmware
    | _ => s.inFirmware := by cases u <;> rfl

variable {s0 : State}

@[simp] theorem Run.start_st (s : State) : (Run.start s).st = s := rfl
@[simp] theorem Run.put_st (r : Run s0) (u : Upd) : (r.put u).st = u.apply r.st := rfl
@[simp] theorem Run.setCtx_st (r : Run s0) (c : Nat) (x : Ctx) : (r.setCtx c x).st = (Upd.ctx c x).apply r.st := rfl
@[simp] theorem Run.modCtx_st (r : Run s0) (c : Nat) (f : Ctx → Ctx) : (r.modCtx c f).st = (Upd.ctx c (f (r.st.ctx c))).apply r.st := rfl
@[simp] theorem Run.modCore_st (r : Run s0) (k : Nat) (f : Core → Core) : (r.modCore k f).st = (Upd.core k (f (r.st.core k))).apply r.st := rfl

end Sys2Proof.Machine
end

