-- ==== Sys2Proof/Laws/Reach.lean ====
section
/-! SUPPORT. What a step can do, said once: every meaning, every event and every step answers with the next state of a chain of updates, so what every update keeps
every step keeps. -/

set_option Elab.async false

namespace Sys2Proof.Machine

open Sys2Proof

/-- The outcome is the next state of a chain of updates. -/
def Reaches (s : State) (o : Host.Outcome State Fault Refusal) : Prop := ∃ r : Run s, o = .next r.st

theorem reaches_self (s : State) : Reaches s (.next s) := ⟨Run.start s, rfl⟩

theorem Reach.trans {s t u : State} (h : Reach s t) (k : Reach t u) : Reach s u := by
  induction k with
  | refl => exact h
  | step v _ ih => exact .step v ih

/-- What every update keeps, a chain of updates keeps. -/
theorem Reach.keeps {P : State → Prop} (hu : ∀ u s, P s → P (Upd.apply u s)) {s t : State} (h : Reach s t) (hs : P s) : P t := by
  induction h with
  | refl => exact hs
  | step v _ ih => exact hu v _ ih

theorem Reaches.of_reach {s t : State} {o : Host.Outcome State Fault Refusal} (h : Reach s t) (k : Reaches t o) : Reaches s o := by
  obtain ⟨r, rfl⟩ := k
  exact ⟨⟨r.st, h.trans r.reach⟩, rfl⟩

/-! ### The shared shapes of meanings -/

theorem exitNode_reaches (ins : Instr) (body : Fire → NodeOut) (settle : Settle) (s : State) : Reaches s (exitNode ins body settle s) := by
  unfold exitNode
  dsimp only
  repeat' split
  all_goals exact ⟨_, rfl⟩

theorem countNode_reaches (ins : Instr) (k : Combine) (s : State) : Reaches s (countNode ins k s) := by
  unfold countNode
  dsimp only
  repeat' split
  all_goals exact ⟨_, rfl⟩

theorem weightBlock_reaches (wop : Nat) (h : WBlock) (body : {s0 : State} → Run s0 → Nat → Drive → List Nat → Run s0) (s : State) :
    Reaches s (weightBlock wop h body s) := by
  unfold weightBlock
  dsimp only
  repeat' split
  all_goals exact ⟨_, rfl⟩

/-! ### The meanings -/

theorem execBr_reaches (g : Gate) (off : BitVec 24) (s : State) : Reaches s (execBr g off s) := exitNode_reaches _ _ _ s

theorem execCall_reaches (g : Gate) (off : BitVec 24) (s : State) : Reaches s (execCall g off s) := exitNode_reaches _ _ _ s

theorem execWdrive_reaches (g : Gate) (off : BitVec 24) (s : State) : Reaches s (execWdrive g off s) := exitNode_reaches _ _ _ s

theorem execBrn_reaches (g : Gate) (s : State) : Reaches s (execBrn g s) := exitNode_reaches _ _ _ s

theorem execBrnDec_reaches (g : Gate) (s : State) : Reaches s (execBrnDec g s) := by
  unfold execBrnDec
  first | exact ⟨_, rfl⟩ | (dsimp only; repeat' split) <;> first | exact ⟨_, rfl⟩ | exact reaches_self s

theorem execBri_reaches (g : Gate) (s : State) : Reaches s (execBri g s) := exitNode_reaches _ _ _ s

theorem execCalli_reaches (g : Gate) (s : State) : Reaches s (execCalli g s) := exitNode_reaches _ _ _ s

theorem execRet_reaches (g : Gate) (s : State) : Reaches s (execRet g s) := exitNode_reaches _ _ _ s

theorem execIter_reaches (g : Gate) (t0 t1 : Target) (s : State) : Reaches s (execIter g t0 t1 s) := exitNode_reaches _ _ _ s

theorem execHalt_reaches (g : Gate) (s : State) : Reaches s (execHalt g s) := exitNode_reaches _ _ _ s

theorem execMov_reaches (g : Gate) (t0 t1 : Target) (s : State) : Reaches s (execMov g t0 t1 s) := ⟨_, rfl⟩

theorem execNull_reaches (g : Gate) (t0 t1 : Target) (s : State) : Reaches s (execNull g t0 t1 s) := ⟨_, rfl⟩

theorem execSteer_reaches (t0 t1 : Target) (s : State) : Reaches s (execSteer t0 t1 s) := ⟨_, rfl⟩

theorem execSelect_reaches (t0 t1 : Target) (s : State) : Reaches s (execSelect t0 t1 s) := ⟨_, rfl⟩

theorem execMerge_reaches (t0 t1 : Target) (s : State) : Reaches s (execMerge t0 t1 s) := by
  unfold execMerge
  first | exact ⟨_, rfl⟩ | (dsimp only; repeat' split) <;> first | exact ⟨_, rfl⟩ | exact reaches_self s

theorem execJoin_reaches (g : Gate) (n : BitVec 7) (t0 : Target) (s : State) : Reaches s (execJoin g n t0 s) := countNode_reaches _ _ s

theorem execJoinOr_reaches (g : Gate) (n : BitVec 7) (t0 : Target) (s : State) : Reaches s (execJoinOr g n t0 s) := countNode_reaches _ _ s

theorem execCtl_reaches (g : Gate) (t0 t1 : Target) (s : State) : Reaches s (execCtl g t0 t1 s) := ⟨_, rfl⟩

theorem execCtlNz_reaches (g : Gate) (t0 t1 : Target) (s : State) : Reaches s (execCtlNz g t0 t1 s) := ⟨_, rfl⟩

theorem execMovi_reaches (g : Gate) (v : BitVec 10) (t0 : Target) (s : State) : Reaches s (execMovi g v t0 s) := ⟨_, rfl⟩

theorem execLit_reaches (g : Gate) (j : BitVec 7) (t0 : Target) (s : State) : Reaches s (execLit g j t0 s) := ⟨_, rfl⟩

theorem execRead_reaches (g : Gate) (r : BitVec 6) (t0 : Target) (s : State) : Reaches s (execRead g r t0 s) := ⟨_, rfl⟩

theorem execReadT_reaches (g : Gate) (r : BitVec 6) (t0 : Target) (s : State) : Reaches s (execReadT g r t0 s) := ⟨_, rfl⟩

theorem execWrite_reaches (g : Gate) (r : BitVec 6) (s : State) : Reaches s (execWrite g r s) := ⟨_, rfl⟩

theorem execItag_reaches (g : Gate) (l : BitVec 3) (t0 : Target) (s : State) : Reaches s (execItag g l t0 s) := ⟨_, rfl⟩

theorem execNest_reaches (g : Gate) (c : BitVec 3) (s : State) : Reaches s (execNest g c s) := ⟨_, rfl⟩

theorem execUnnest_reaches (g : Gate) (s : State) : Reaches s (execUnnest g s) := ⟨_, rfl⟩

theorem execCfgld_reaches (g : Gate) (t0 : Target) (s : State) : Reaches s (execCfgld g t0 s) := ⟨_, rfl⟩

theorem execDecide_reaches (g : Gate) (t0 t1 : Target) (s : State) : Reaches s (execDecide g t0 t1 s) := ⟨_, rfl⟩

theorem execDecideRgn_reaches (g : Gate) (t0 t1 : Target) (s : State) : Reaches s (execDecideRgn g t0 t1 s) := ⟨_, rfl⟩

theorem execAdd_reaches (w : Width) (g : Gate) (t0 t1 : Target) (s : State) : Reaches s (execAdd w g t0 t1 s) := ⟨_, rfl⟩

theorem execSub_reaches (w : Width) (g : Gate) (t0 t1 : Target) (s : State) : Reaches s (execSub w g t0 t1 s) := ⟨_, rfl⟩

theorem execMul_reaches (w : Width) (g : Gate) (t0 t1 : Target) (s : State) : Reaches s (execMul w g t0 t1 s) := ⟨_, rfl⟩

theorem execMulh_reaches (w : Width) (g : Gate) (t0 t1 : Target) (s : State) : Reaches s (execMulh w g t0 t1 s) := ⟨_, rfl⟩

theorem execMulhn_reaches (w : Width) (g : Gate) (t0 t1 : Target) (s : State) : Reaches s (execMulhn w g t0 t1 s) := ⟨_, rfl⟩

theorem execDiv_reaches (w : Width) (g : Gate) (t0 t1 : Target) (s : State) : Reaches s (execDiv w g t0 t1 s) := ⟨_, rfl⟩

theorem execDivn_reaches (w : Width) (g : Gate) (t0 t1 : Target) (s : State) : Reaches s (execDivn w g t0 t1 s) := ⟨_, rfl⟩

theorem execRem_reaches (w : Width) (g : Gate) (t0 t1 : Target) (s : State) : Reaches s (execRem w g t0 t1 s) := ⟨_, rfl⟩

theorem execRemn_reaches (w : Width) (g : Gate) (t0 t1 : Target) (s : State) : Reaches s (execRemn w g t0 t1 s) := ⟨_, rfl⟩

theorem execAnd_reaches (w : Width) (g : Gate) (t0 t1 : Target) (s : State) : Reaches s (execAnd w g t0 t1 s) := ⟨_, rfl⟩

theorem execOr_reaches (w : Width) (g : Gate) (t0 t1 : Target) (s : State) : Reaches s (execOr w g t0 t1 s) := ⟨_, rfl⟩

theorem execXor_reaches (w : Width) (g : Gate) (t0 t1 : Target) (s : State) : Reaches s (execXor w g t0 t1 s) := ⟨_, rfl⟩

theorem execAndn_reaches (w : Width) (g : Gate) (t0 t1 : Target) (s : State) : Reaches s (execAndn w g t0 t1 s) := ⟨_, rfl⟩

theorem execShl_reaches (w : Width) (g : Gate) (t0 t1 : Target) (s : State) : Reaches s (execShl w g t0 t1 s) := ⟨_, rfl⟩

theorem execShr_reaches (w : Width) (g : Gate) (t0 t1 : Target) (s : State) : Reaches s (execShr w g t0 t1 s) := ⟨_, rfl⟩

theorem execSra_reaches (w : Width) (g : Gate) (t0 t1 : Target) (s : State) : Reaches s (execSra w g t0 t1 s) := ⟨_, rfl⟩

theorem execRotl_reaches (w : Width) (g : Gate) (t0 t1 : Target) (s : State) : Reaches s (execRotl w g t0 t1 s) := ⟨_, rfl⟩

theorem execMin_reaches (w : Width) (g : Gate) (t0 t1 : Target) (s : State) : Reaches s (execMin w g t0 t1 s) := ⟨_, rfl⟩

theorem execMax_reaches (w : Width) (g : Gate) (t0 t1 : Target) (s : State) : Reaches s (execMax w g t0 t1 s) := ⟨_, rfl⟩

theorem execMinn_reaches (w : Width) (g : Gate) (t0 t1 : Target) (s : State) : Reaches s (execMinn w g t0 t1 s) := ⟨_, rfl⟩

theorem execMaxn_reaches (w : Width) (g : Gate) (t0 t1 : Target) (s : State) : Reaches s (execMaxn w g t0 t1 s) := ⟨_, rfl⟩

theorem execClz_reaches (w : Width) (g : Gate) (t0 t1 : Target) (s : State) : Reaches s (execClz w g t0 t1 s) := ⟨_, rfl⟩

theorem execCtz_reaches (w : Width) (g : Gate) (t0 t1 : Target) (s : State) : Reaches s (execCtz w g t0 t1 s) := ⟨_, rfl⟩

theorem execPopc_reaches (w : Width) (g : Gate) (t0 t1 : Target) (s : State) : Reaches s (execPopc w g t0 t1 s) := ⟨_, rfl⟩

theorem execSext_reaches (w : Width) (g : Gate) (t0 t1 : Target) (s : State) : Reaches s (execSext w g t0 t1 s) := ⟨_, rfl⟩

theorem execZext_reaches (w : Width) (g : Gate) (t0 t1 : Target) (s : State) : Reaches s (execZext w g t0 t1 s) := ⟨_, rfl⟩

theorem execBfx_reaches (w : Width) (g : Gate) (p : BitVec 6) (t0 : Target) (s : State) : Reaches s (execBfx w g p t0 s) := ⟨_, rfl⟩

theorem execBfi_reaches (w : Width) (g : Gate) (p : BitVec 6) (t0 : Target) (s : State) : Reaches s (execBfi w g p t0 s) := ⟨_, rfl⟩

theorem execLea_reaches (g : Gate) (sh : BitVec 3) (t0 : Target) (s : State) : Reaches s (execLea g sh t0 s) := ⟨_, rfl⟩

theorem execCmpEq_reaches (w : Width) (g : Gate) (t0 t1 : Target) (s : State) : Reaches s (execCmpEq w g t0 t1 s) := ⟨_, rfl⟩

theorem execCmpNe_reaches (w : Width) (g : Gate) (t0 t1 : Target) (s : State) : Reaches s (execCmpNe w g t0 t1 s) := ⟨_, rfl⟩

theorem execCmpLt_reaches (w : Width) (g : Gate) (t0 t1 : Target) (s : State) : Reaches s (execCmpLt w g t0 t1 s) := ⟨_, rfl⟩

theorem execCmpLe_reaches (w : Width) (g : Gate) (t0 t1 : Target) (s : State) : Reaches s (execCmpLe w g t0 t1 s) := ⟨_, rfl⟩

theorem execCmpLtn_reaches (w : Width) (g : Gate) (t0 t1 : Target) (s : State) : Reaches s (execCmpLtn w g t0 t1 s) := ⟨_, rfl⟩

theorem execCmpLen_reaches (w : Width) (g : Gate) (t0 t1 : Target) (s : State) : Reaches s (execCmpLen w g t0 t1 s) := ⟨_, rfl⟩

theorem execAddi_reaches (w : Width) (g : Gate) (v : BitVec 10) (t0 : Target) (s : State) : Reaches s (execAddi w g v t0 s) := ⟨_, rfl⟩

theorem execAndi_reaches (w : Width) (g : Gate) (v : BitVec 10) (t0 : Target) (s : State) : Reaches s (execAndi w g v t0 s) := ⟨_, rfl⟩

theorem execOri_reaches (w : Width) (g : Gate) (v : BitVec 10) (t0 : Target) (s : State) : Reaches s (execOri w g v t0 s) := ⟨_, rfl⟩

theorem execXori_reaches (w : Width) (g : Gate) (v : BitVec 10) (t0 : Target) (s : State) : Reaches s (execXori w g v t0 s) := ⟨_, rfl⟩

theorem execShli_reaches (w : Width) (g : Gate) (v : BitVec 10) (t0 : Target) (s : State) : Reaches s (execShli w g v t0 s) := ⟨_, rfl⟩

theorem execShri_reaches (w : Width) (g : Gate) (v : BitVec 10) (t0 : Target) (s : State) : Reaches s (execShri w g v t0 s) := ⟨_, rfl⟩

theorem execSrai_reaches (w : Width) (g : Gate) (v : BitVec 10) (t0 : Target) (s : State) : Reaches s (execSrai w g v t0 s) := ⟨_, rfl⟩

theorem execMuli_reaches (w : Width) (g : Gate) (v : BitVec 10) (t0 : Target) (s : State) : Reaches s (execMuli w g v t0 s) := ⟨_, rfl⟩

theorem execCmpiEq_reaches (w : Width) (g : Gate) (v : BitVec 10) (t0 : Target) (s : State) : Reaches s (execCmpiEq w g v t0 s) := ⟨_, rfl⟩

theorem execCmpiNe_reaches (w : Width) (g : Gate) (v : BitVec 10) (t0 : Target) (s : State) : Reaches s (execCmpiNe w g v t0 s) := ⟨_, rfl⟩

theorem execCmpiLt_reaches (w : Width) (g : Gate) (v : BitVec 10) (t0 : Target) (s : State) : Reaches s (execCmpiLt w g v t0 s) := ⟨_, rfl⟩

theorem execCmpiLe_reaches (w : Width) (g : Gate) (v : BitVec 10) (t0 : Target) (s : State) : Reaches s (execCmpiLe w g v t0 s) := ⟨_, rfl⟩

theorem execCmpiLtn_reaches (w : Width) (g : Gate) (v : BitVec 10) (t0 : Target) (s : State) : Reaches s (execCmpiLtn w g v t0 s) := ⟨_, rfl⟩

theorem execCmpiLen_reaches (w : Width) (g : Gate) (v : BitVec 10) (t0 : Target) (s : State) : Reaches s (execCmpiLen w g v t0 s) := ⟨_, rfl⟩

theorem execLd_reaches (sp : Space) (wd : MWidth) (g : Gate) (off : BitVec 7) (t0 : Target) (s : State) : Reaches s (execLd sp wd g off t0 s) := ⟨_, rfl⟩

theorem execLdWait_reaches (sp : Space) (wd : MWidth) (g : Gate) (off : BitVec 7) (t0 : Target) (s : State) : Reaches s (execLdWait sp wd g off t0 s) := ⟨_, rfl⟩

theorem execLdTake_reaches (sp : Space) (wd : MWidth) (g : Gate) (off : BitVec 7) (t0 : Target) (s : State) : Reaches s (execLdTake sp wd g off t0 s) := ⟨_, rfl⟩

theorem execLds_reaches (sp : Space) (wd : MWidth) (fe : BitVec 2) (g : Gate) (off : BitVec 7) (t0 : Target) (s : State) : Reaches s (execLds sp wd fe g off t0 s) := ⟨_, rfl⟩

theorem execLdRaw_reaches (sp : Space) (wd : MWidth) (fe : BitVec 2) (g : Gate) (off : BitVec 7) (t0 : Target) (s : State) : Reaches s (execLdRaw sp wd fe g off t0 s) := ⟨_, rfl⟩

theorem execSt_reaches (sp : Space) (wd : MWidth) (g : Gate) (off : BitVec 7) (t0 : Target) (s : State) : Reaches s (execSt sp wd g off t0 s) := ⟨_, rfl⟩

theorem execFill_reaches (sp : Space) (wd : MWidth) (g : Gate) (off : BitVec 7) (t0 : Target) (s : State) : Reaches s (execFill sp wd g off t0 s) := ⟨_, rfl⟩

theorem execEmpty_reaches (sp : Space) (wd : MWidth) (g : Gate) (off : BitVec 7) (t0 : Target) (s : State) : Reaches s (execEmpty sp wd g off t0 s) := ⟨_, rfl⟩

theorem execWcvLoad_reaches (sp : Space) (wd : MWidth) (g : Gate) (off : BitVec 7) (t0 : Target) (s : State) : Reaches s (execWcvLoad sp wd g off t0 s) := ⟨_, rfl⟩

theorem execWcvStore_reaches (sp : Space) (wd : MWidth) (g : Gate) (off : BitVec 7) (s : State) : Reaches s (execWcvStore sp wd g off s) := ⟨_, rfl⟩

theorem execAtomAdd_reaches (sp : Space) (wd : MWidth) (g : Gate) (t0 : Target) (s : State) : Reaches s (execAtomAdd sp wd g t0 s) := ⟨_, rfl⟩

theorem execAtomEsum_reaches (sp : Space) (wd : MWidth) (g : Gate) (t0 : Target) (s : State) : Reaches s (execAtomEsum sp wd g t0 s) := ⟨_, rfl⟩

theorem execAtomAnd_reaches (sp : Space) (wd : MWidth) (g : Gate) (t0 : Target) (s : State) : Reaches s (execAtomAnd sp wd g t0 s) := ⟨_, rfl⟩

theorem execAtomOr_reaches (sp : Space) (wd : MWidth) (g : Gate) (t0 : Target) (s : State) : Reaches s (execAtomOr sp wd g t0 s) := ⟨_, rfl⟩

theorem execAtomXor_reaches (sp : Space) (wd : MWidth) (g : Gate) (t0 : Target) (s : State) : Reaches s (execAtomXor sp wd g t0 s) := ⟨_, rfl⟩

theorem execAtomMin_reaches (sp : Space) (wd : MWidth) (g : Gate) (t0 : Target) (s : State) : Reaches s (execAtomMin sp wd g t0 s) := ⟨_, rfl⟩

theorem execAtomMax_reaches (sp : Space) (wd : MWidth) (g : Gate) (t0 : Target) (s : State) : Reaches s (execAtomMax sp wd g t0 s) := ⟨_, rfl⟩

theorem execAtomMinn_reaches (sp : Space) (wd : MWidth) (g : Gate) (t0 : Target) (s : State) : Reaches s (execAtomMinn sp wd g t0 s) := ⟨_, rfl⟩

theorem execAtomMaxn_reaches (sp : Space) (wd : MWidth) (g : Gate) (t0 : Target) (s : State) : Reaches s (execAtomMaxn sp wd g t0 s) := ⟨_, rfl⟩

theorem execAtomFmin_reaches (sp : Space) (wd : MWidth) (g : Gate) (t0 : Target) (s : State) : Reaches s (execAtomFmin sp wd g t0 s) := ⟨_, rfl⟩

theorem execAtomFmax_reaches (sp : Space) (wd : MWidth) (g : Gate) (t0 : Target) (s : State) : Reaches s (execAtomFmax sp wd g t0 s) := ⟨_, rfl⟩

theorem execAtomSwap_reaches (sp : Space) (wd : MWidth) (g : Gate) (t0 : Target) (s : State) : Reaches s (execAtomSwap sp wd g t0 s) := ⟨_, rfl⟩

theorem execCas_reaches (sp : Space) (wd : MWidth) (g : Gate) (t0 : Target) (s : State) : Reaches s (execCas sp wd g t0 s) := ⟨_, rfl⟩

theorem execStep_reaches (g : Gate) (n : BitVec 6) (s : State) : Reaches s (execStep g n s) := ⟨_, rfl⟩

theorem execBarr_reaches (g : Gate) (n : BitVec 5) (s : State) : Reaches s (execBarr g n s) := ⟨_, rfl⟩

theorem execBwait_reaches (g : Gate) (n : BitVec 5) (t0 : Target) (s : State) : Reaches s (execBwait g n t0 s) := ⟨_, rfl⟩

theorem execFenceCore_reaches (g : Gate) (t0 : Target) (s : State) : Reaches s (execFenceCore g t0 s) := ⟨_, rfl⟩

theorem execFenceClus_reaches (g : Gate) (t0 : Target) (s : State) : Reaches s (execFenceClus g t0 s) := ⟨_, rfl⟩

theorem execFenceDie_reaches (g : Gate) (t0 : Target) (s : State) : Reaches s (execFenceDie g t0 s) := ⟨_, rfl⟩

theorem execFencePkg_reaches (g : Gate) (t0 : Target) (s : State) : Reaches s (execFencePkg g t0 s) := ⟨_, rfl⟩

theorem execFenceSys_reaches (g : Gate) (t0 : Target) (s : State) : Reaches s (execFenceSys g t0 s) := ⟨_, rfl⟩

theorem execCombAdd_reaches (g : Gate) (v : Bool) (n : BitVec 7) (t0 : Target) (s : State) : Reaches s (execCombAdd g v n t0 s) := countNode_reaches _ _ s

theorem execCombMin_reaches (g : Gate) (v : Bool) (n : BitVec 7) (t0 : Target) (s : State) : Reaches s (execCombMin g v n t0 s) := countNode_reaches _ _ s

theorem execCombMax_reaches (g : Gate) (v : Bool) (n : BitVec 7) (t0 : Target) (s : State) : Reaches s (execCombMax g v n t0 s) := countNode_reaches _ _ s

theorem execCombMinn_reaches (g : Gate) (v : Bool) (n : BitVec 7) (t0 : Target) (s : State) : Reaches s (execCombMinn g v n t0 s) := countNode_reaches _ _ s

theorem execCombMaxn_reaches (g : Gate) (v : Bool) (n : BitVec 7) (t0 : Target) (s : State) : Reaches s (execCombMaxn g v n t0 s) := countNode_reaches _ _ s

theorem execCombAnd_reaches (g : Gate) (v : Bool) (n : BitVec 7) (t0 : Target) (s : State) : Reaches s (execCombAnd g v n t0 s) := countNode_reaches _ _ s

theorem execCombOr_reaches (g : Gate) (v : Bool) (n : BitVec 7) (t0 : Target) (s : State) : Reaches s (execCombOr g v n t0 s) := countNode_reaches _ _ s

theorem execCombXor_reaches (g : Gate) (v : Bool) (n : BitVec 7) (t0 : Target) (s : State) : Reaches s (execCombXor g v n t0 s) := countNode_reaches _ _ s

theorem execCombFadd_reaches (g : Gate) (v : Bool) (n : BitVec 7) (t0 : Target) (s : State) : Reaches s (execCombFadd g v n t0 s) := countNode_reaches _ _ s

theorem execCombFmin_reaches (g : Gate) (v : Bool) (n : BitVec 7) (t0 : Target) (s : State) : Reaches s (execCombFmin g v n t0 s) := countNode_reaches _ _ s

theorem execCombFmax_reaches (g : Gate) (v : Bool) (n : BitVec 7) (t0 : Target) (s : State) : Reaches s (execCombFmax g v n t0 s) := countNode_reaches _ _ s

theorem execRedF32_reaches (g : Gate) (t : BitVec 6) (s : State) : Reaches s (execRedF32 g t s) := ⟨_, rfl⟩

theorem execRedXs_reaches (g : Gate) (t : BitVec 6) (s : State) : Reaches s (execRedXs g t s) := ⟨_, rfl⟩

theorem execVadd_reaches (f : Fmt) (rm : Rm) (g : Gate) (t0 t1 : Target) (s : State) : Reaches s (execVadd f rm g t0 t1 s) := ⟨_, rfl⟩

theorem execVsub_reaches (f : Fmt) (rm : Rm) (g : Gate) (t0 t1 : Target) (s : State) : Reaches s (execVsub f rm g t0 t1 s) := ⟨_, rfl⟩

theorem execVmul_reaches (f : Fmt) (rm : Rm) (g : Gate) (t0 t1 : Target) (s : State) : Reaches s (execVmul f rm g t0 t1 s) := ⟨_, rfl⟩

theorem execVfma_reaches (f : Fmt) (rm : Rm) (t0 t1 : Target) (s : State) : Reaches s (execVfma f rm t0 t1 s) := ⟨_, rfl⟩

theorem execVfms_reaches (f : Fmt) (rm : Rm) (t0 t1 : Target) (s : State) : Reaches s (execVfms f rm t0 t1 s) := ⟨_, rfl⟩

theorem execVmax_reaches (f : Fmt) (g : Gate) (t0 t1 : Target) (s : State) : Reaches s (execVmax f g t0 t1 s) := ⟨_, rfl⟩

theorem execVmin_reaches (f : Fmt) (g : Gate) (t0 t1 : Target) (s : State) : Reaches s (execVmin f g t0 t1 s) := ⟨_, rfl⟩

theorem execVabs_reaches (f : Fmt) (g : Gate) (t0 t1 : Target) (s : State) : Reaches s (execVabs f g t0 t1 s) := ⟨_, rfl⟩

theorem execVneg_reaches (f : Fmt) (g : Gate) (t0 t1 : Target) (s : State) : Reaches s (execVneg f g t0 t1 s) := ⟨_, rfl⟩

theorem execVrcp_reaches (f : Fmt) (rm : Rm) (g : Gate) (t0 t1 : Target) (s : State) : Reaches s (execVrcp f rm g t0 t1 s) := ⟨_, rfl⟩

theorem execVrsq_reaches (f : Fmt) (rm : Rm) (g : Gate) (t0 t1 : Target) (s : State) : Reaches s (execVrsq f rm g t0 t1 s) := ⟨_, rfl⟩

theorem execVsqrt_reaches (f : Fmt) (rm : Rm) (g : Gate) (t0 t1 : Target) (s : State) : Reaches s (execVsqrt f rm g t0 t1 s) := ⟨_, rfl⟩

theorem execVexp2_reaches (f : Fmt) (rm : Rm) (g : Gate) (t0 t1 : Target) (s : State) : Reaches s (execVexp2 f rm g t0 t1 s) := ⟨_, rfl⟩

theorem execVlog2_reaches (f : Fmt) (rm : Rm) (g : Gate) (t0 t1 : Target) (s : State) : Reaches s (execVlog2 f rm g t0 t1 s) := ⟨_, rfl⟩

theorem execVtanh_reaches (f : Fmt) (rm : Rm) (g : Gate) (t0 t1 : Target) (s : State) : Reaches s (execVtanh f rm g t0 t1 s) := ⟨_, rfl⟩

theorem execVcmp_reaches (f : Fmt) (c : VCond) (g : Gate) (t0 t1 : Target) (s : State) : Reaches s (execVcmp f c g t0 t1 s) := ⟨_, rfl⟩

theorem execVsel_reaches (t0 t1 : Target) (s : State) : Reaches s (execVsel t0 t1 s) := ⟨_, rfl⟩

theorem execVbcastW32_reaches (g : Gate) (t0 t1 : Target) (s : State) : Reaches s (execVbcastW32 g t0 t1 s) := ⟨_, rfl⟩

theorem execVbcastW16_reaches (g : Gate) (t0 t1 : Target) (s : State) : Reaches s (execVbcastW16 g t0 t1 s) := ⟨_, rfl⟩

theorem execVbcastW8_reaches (g : Gate) (t0 t1 : Target) (s : State) : Reaches s (execVbcastW8 g t0 t1 s) := ⟨_, rfl⟩

theorem execVpermW32_reaches (g : Gate) (t0 t1 : Target) (s : State) : Reaches s (execVpermW32 g t0 t1 s) := ⟨_, rfl⟩

theorem execVpermW16_reaches (g : Gate) (t0 t1 : Target) (s : State) : Reaches s (execVpermW16 g t0 t1 s) := ⟨_, rfl⟩

theorem execVpermW8_reaches (g : Gate) (t0 t1 : Target) (s : State) : Reaches s (execVpermW8 g t0 t1 s) := ⟨_, rfl⟩

theorem execVextrW32_reaches (g : Gate) (l : BitVec 6) (t0 : Target) (s : State) : Reaches s (execVextrW32 g l t0 s) := ⟨_, rfl⟩

theorem execVextrW16_reaches (g : Gate) (l : BitVec 6) (t0 : Target) (s : State) : Reaches s (execVextrW16 g l t0 s) := ⟨_, rfl⟩

theorem execVextrW8_reaches (g : Gate) (l : BitVec 6) (t0 : Target) (s : State) : Reaches s (execVextrW8 g l t0 s) := ⟨_, rfl⟩

theorem execVinsW32_reaches (g : Gate) (l : BitVec 6) (t0 : Target) (s : State) : Reaches s (execVinsW32 g l t0 s) := ⟨_, rfl⟩

theorem execVinsW16_reaches (g : Gate) (l : BitVec 6) (t0 : Target) (s : State) : Reaches s (execVinsW16 g l t0 s) := ⟨_, rfl⟩

theorem execVinsW8_reaches (g : Gate) (l : BitVec 6) (t0 : Target) (s : State) : Reaches s (execVinsW8 g l t0 s) := ⟨_, rfl⟩

theorem execVrsum_reaches (f : Fmt) (g : Gate) (t0 t1 : Target) (s : State) : Reaches s (execVrsum f g t0 t1 s) := ⟨_, rfl⟩

theorem execVrmax_reaches (f : Fmt) (g : Gate) (t0 t1 : Target) (s : State) : Reaches s (execVrmax f g t0 t1 s) := ⟨_, rfl⟩

theorem execVrmin_reaches (f : Fmt) (g : Gate) (t0 t1 : Target) (s : State) : Reaches s (execVrmin f g t0 t1 s) := ⟨_, rfl⟩

theorem execVamax_reaches (f : Fmt) (g : Gate) (t0 t1 : Target) (s : State) : Reaches s (execVamax f g t0 t1 s) := ⟨_, rfl⟩

theorem execVexpo_reaches (f : Fmt) (g : Gate) (t0 t1 : Target) (s : State) : Reaches s (execVexpo f g t0 t1 s) := ⟨_, rfl⟩

theorem execVexpoSc_reaches (f : Fmt) (g : Gate) (t0 t1 : Target) (s : State) : Reaches s (execVexpoSc f g t0 t1 s) := ⟨_, rfl⟩

theorem execVldexp_reaches (f : Fmt) (g : Gate) (t0 t1 : Target) (s : State) : Reaches s (execVldexp f g t0 t1 s) := ⟨_, rfl⟩

theorem execVcvt_reaches (g : Gate) (dst src : BitVec 3) (ovf : BitVec 2) (rm : Rm) (t0 : Target) (s : State) : Reaches s (execVcvt g dst src ovf rm t0 s) := ⟨_, rfl⟩

theorem execVscale_reaches (g : Gate) (e : Bool) (t0 t1 : Target) (s : State) : Reaches s (execVscale g e t0 t1 s) := ⟨_, rfl⟩

theorem execSacc_reaches (e : Bool) (t0 t1 : Target) (s : State) : Reaches s (execSacc e t0 t1 s) := ⟨_, rfl⟩

theorem execVpack_reaches (g : Gate) (k : BitVec 3) (t0 : Target) (s : State) : Reaches s (execVpack g k t0 s) := ⟨_, rfl⟩

theorem execVunpackLo_reaches (g : Gate) (src : BitVec 4) (t0 : Target) (s : State) : Reaches s (execVunpackLo g src t0 s) := ⟨_, rfl⟩

theorem execVunpackHi_reaches (g : Gate) (src : BitVec 4) (t0 : Target) (s : State) : Reaches s (execVunpackHi g src t0 s) := ⟨_, rfl⟩

theorem execEaddF32_reaches (g : Gate) (n : BitVec 3) (t0 : Target) (s : State) : Reaches s (execEaddF32 g n t0 s) := ⟨_, rfl⟩

theorem execEaddBf16_reaches (g : Gate) (n : BitVec 3) (t0 : Target) (s : State) : Reaches s (execEaddBf16 g n t0 s) := ⟨_, rfl⟩

theorem execEroundF32_reaches (g : Gate) (n : BitVec 3) (t0 : Target) (s : State) : Reaches s (execEroundF32 g n t0 s) := ⟨_, rfl⟩

theorem execEroundBf16_reaches (g : Gate) (n : BitVec 3) (t0 : Target) (s : State) : Reaches s (execEroundBf16 g n t0 s) := ⟨_, rfl⟩

theorem execEclr_reaches (g : Gate) (n : BitVec 3) (s : State) : Reaches s (execEclr g n s) := ⟨_, rfl⟩

theorem execMma_reaches (acc : BitVec 2) (f : BitVec 2) (g : Gate) (t0 t1 : Target) (s : State) : Reaches s (execMma acc f g t0 t1 s) := ⟨_, rfl⟩

theorem execMmaG_reaches (acc : BitVec 2) (f : BitVec 2) (t0 t1 : Target) (s : State) : Reaches s (execMmaG acc f t0 t1 s) := ⟨_, rfl⟩

theorem execMmaCb_reaches (acc : BitVec 2) (g : Gate) (t0 t1 : Target) (s : State) : Reaches s (execMmaCb acc g t0 t1 s) := ⟨_, rfl⟩

theorem execAccclr_reaches (acc : BitVec 2) (g : Gate) (t0 : Target) (s : State) : Reaches s (execAccclr acc g t0 s) := ⟨_, rfl⟩

theorem execAccrd_reaches (acc : BitVec 2) (g : Gate) (t0 t1 : Target) (s : State) : Reaches s (execAccrd acc g t0 t1 s) := ⟨_, rfl⟩

theorem execAccrdSt_reaches (acc : BitVec 2) (g : Gate) (t0 : Target) (s : State) : Reaches s (execAccrdSt acc g t0 s) := ⟨_, rfl⟩

theorem execAccwr_reaches (acc : BitVec 2) (g : Gate) (t0 : Target) (s : State) : Reaches s (execAccwr acc g t0 s) := ⟨_, rfl⟩

theorem execTdset_reaches (g : Gate) (fld : BitVec 6) (m : BitVec 4) (s : State) : Reaches s (execTdset g fld m s) := ⟨_, rfl⟩

theorem execCopy_reaches (g : Gate) (t0 t1 : Target) (s : State) : Reaches s (execCopy g t0 t1 s) := ⟨_, rfl⟩

theorem execCopyMc_reaches (g : Gate) (t0 t1 : Target) (s : State) : Reaches s (execCopyMc g t0 t1 s) := ⟨_, rfl⟩

theorem execStage_reaches (g : Gate) (s : State) : Reaches s (execStage g s) := ⟨_, rfl⟩

theorem execXform_reaches (g : Gate) (t0 : Target) (s : State) : Reaches s (execXform g t0 s) := ⟨_, rfl⟩

theorem execFprint_reaches (g : Gate) (core : Bool) (t0 t1 : Target) (s : State) : Reaches s (execFprint g core t0 t1 s) := ⟨_, rfl⟩

theorem execDedup_reaches (g : Gate) (t0 : Target) (s : State) : Reaches s (execDedup g t0 s) := ⟨_, rfl⟩

theorem execGatherRows_reaches (g : Gate) (t0 t1 : Target) (s : State) : Reaches s (execGatherRows g t0 t1 s) := ⟨_, rfl⟩

theorem execGatherSum_reaches (g : Gate) (t0 t1 : Target) (s : State) : Reaches s (execGatherSum g t0 t1 s) := ⟨_, rfl⟩

theorem execGatherMean_reaches (g : Gate) (t0 t1 : Target) (s : State) : Reaches s (execGatherMean g t0 t1 s) := ⟨_, rfl⟩

theorem execGatherWsum_reaches (g : Gate) (t0 t1 : Target) (s : State) : Reaches s (execGatherWsum g t0 t1 s) := ⟨_, rfl⟩

theorem execScatterAdd_reaches (g : Gate) (t0 t1 : Target) (s : State) : Reaches s (execScatterAdd g t0 t1 s) := ⟨_, rfl⟩

theorem execScatterMax_reaches (g : Gate) (t0 t1 : Target) (s : State) : Reaches s (execScatterMax g t0 t1 s) := ⟨_, rfl⟩

theorem execScatterMin_reaches (g : Gate) (t0 t1 : Target) (s : State) : Reaches s (execScatterMin g t0 t1 s) := ⟨_, rfl⟩

theorem execScatterOvw_reaches (g : Gate) (t0 t1 : Target) (s : State) : Reaches s (execScatterOvw g t0 t1 s) := ⟨_, rfl⟩

theorem execAttn_reaches (g : Gate) (t0 t1 : Target) (s : State) : Reaches s (execAttn g t0 t1 s) := ⟨_, rfl⟩

theorem execRandN64_reaches (n : BitVec 2) (g : Gate) (v : Bool) (t0 t1 : Target) (s : State) : Reaches s (execRandN64 n g v t0 t1 s) := ⟨_, rfl⟩

theorem execRandF32_reaches (n : BitVec 2) (g : Gate) (v : Bool) (t0 t1 : Target) (s : State) : Reaches s (execRandF32 n g v t0 t1 s) := ⟨_, rfl⟩

theorem execRskip_reaches (n : BitVec 2) (g : Gate) (t0 : Target) (s : State) : Reaches s (execRskip n g t0 s) := ⟨_, rfl⟩

theorem execSpawn_reaches (g : Gate) (s : State) : Reaches s (execSpawn g s) := ⟨_, rfl⟩

theorem execAlloc_reaches (g : Gate) (t0 : Target) (s : State) : Reaches s (execAlloc g t0 s) := ⟨_, rfl⟩

theorem execFree_reaches (g : Gate) (s : State) : Reaches s (execFree g s) := ⟨_, rfl⟩

theorem execStopk_reaches (g : Gate) (n : BitVec 4) (t0 : Target) (s : State) : Reaches s (execStopk g n t0 s) := ⟨_, rfl⟩

theorem execSmix_reaches (g : Gate) (n : BitVec 4) (t0 : Target) (s : State) : Reaches s (execSmix g n t0 s) := ⟨_, rfl⟩

theorem execShid_reaches (g : Gate) (n : BitVec 4) (t0 : Target) (s : State) : Reaches s (execShid g n t0 s) := ⟨_, rfl⟩

theorem execSemb_reaches (g : Gate) (n : BitVec 4) (t0 : Target) (s : State) : Reaches s (execSemb g n t0 s) := ⟨_, rfl⟩

theorem execSembProj_reaches (g : Gate) (n : BitVec 4) (t0 : Target) (s : State) : Reaches s (execSembProj g n t0 s) := ⟨_, rfl⟩

theorem execScollArgmax_reaches (g : Gate) (n : BitVec 4) (t0 : Target) (s : State) : Reaches s (execScollArgmax g n t0 s) := ⟨_, rfl⟩

theorem execScollSample_reaches (g : Gate) (m : BitVec 2) (n : BitVec 4) (t0 : Target) (s : State) : Reaches s (execScollSample g m n t0 s) := ⟨_, rfl⟩

theorem execScollConf_reaches (g : Gate) (n : BitVec 4) (t0 : Target) (s : State) : Reaches s (execScollConf g n t0 s) := ⟨_, rfl⟩

theorem execSlog_reaches (g : Gate) (r : BitVec 6) (n : BitVec 4) (t0 : Target) (s : State) : Reaches s (execSlog g r n t0 s) := ⟨_, rfl⟩

theorem execScmp_reaches (g : Gate) (t0 : Target) (s : State) : Reaches s (execScmp g t0 s) := ⟨_, rfl⟩

theorem execSrpl_reaches (g : Gate) (n : BitVec 4) (t0 : Target) (s : State) : Reaches s (execSrpl g n t0 s) := ⟨_, rfl⟩

theorem execSget_reaches (g : Gate) (fld : BitVec 3) (n : BitVec 4) (t0 : Target) (s : State) : Reaches s (execSget g fld n t0 s) := ⟨_, rfl⟩

theorem execNop_reaches (g : Gate) (t0 : Target) (s : State) : Reaches s (execNop g t0 s) := ⟨_, rfl⟩

theorem execTrap_reaches (g : Gate) (c : BitVec 8) (t0 : Target) (s : State) : Reaches s (execTrap g c t0 s) := ⟨_, rfl⟩

theorem execBrk_reaches (g : Gate) (c : BitVec 8) (t0 : Target) (s : State) : Reaches s (execBrk g c t0 s) := ⟨_, rfl⟩

theorem execRdsr_reaches (g : Gate) (r : SysReg) (t0 : Target) (s : State) : Reaches s (execRdsr g r t0 s) := ⟨_, rfl⟩

theorem execWrsr_reaches (g : Gate) (r : SysReg) (s : State) : Reaches s (execWrsr g r s) := ⟨_, rfl⟩

theorem execFlags_reaches (g : Gate) (m : BitVec 7) (t0 : Target) (s : State) : Reaches s (execFlags g m t0 s) := ⟨_, rfl⟩

theorem execPerf_reaches (g : Gate) (t0 : Target) (s : State) : Reaches s (execPerf g t0 s) := ⟨_, rfl⟩

theorem execSafe_reaches (g : Gate) (t0 : Target) (s : State) : Reaches s (execSafe g t0 s) := ⟨_, rfl⟩

theorem execFixreq_reaches (g : Gate) (t0 : Target) (s : State) : Reaches s (execFixreq g t0 s) := ⟨_, rfl⟩

theorem execWMac_reaches (h : WBlock) (s : State) : Reaches s (execWMac h s) := weightBlock_reaches _ _ _ s

theorem execWCb_reaches (h : WBlock) (s : State) : Reaches s (execWCb h s) := weightBlock_reaches _ _ _ s

theorem execWO4_reaches (h : WBlock) (s : State) : Reaches s (execWO4 h s) := weightBlock_reaches _ _ _ s

theorem execWBook_reaches (h : WBlock) (s : State) : Reaches s (execWBook h s) := weightBlock_reaches _ _ _ s

theorem execWSwitch_reaches (h : WBlock) (s : State) : Reaches s (execWSwitch h s) := weightBlock_reaches _ _ _ s

theorem execWEmit_reaches (h : WBlock) (s : State) : Reaches s (execWEmit h s) := weightBlock_reaches _ _ _ s

theorem execWExit_reaches (h : WBlock) (s : State) : Reaches s (execWExit h s) := weightBlock_reaches _ _ _ s

theorem execInstanceBegin_reaches (c : Nat) (s : State) : Reaches s (execInstanceBegin c s) := by
  unfold execInstanceBegin
  first | exact ⟨_, rfl⟩ | (dsimp only; repeat' split) <;> first | exact ⟨_, rfl⟩ | exact reaches_self s

theorem execInstanceCommit_reaches (c : Nat) (s : State) : Reaches s (execInstanceCommit c s) := by
  unfold execInstanceCommit
  first | exact ⟨_, rfl⟩ | (dsimp only; repeat' split) <;> first | exact ⟨_, rfl⟩ | exact reaches_self s

theorem execDecisionArrive_reaches (c : Nat) (s : State) : Reaches s (execDecisionArrive c s) := by
  unfold execDecisionArrive
  first | exact ⟨_, rfl⟩ | (dsimp only; repeat' split) <;> first | exact ⟨_, rfl⟩ | exact reaches_self s

theorem execStepSwap_reaches (part sg : Nat) (s : State) : Reaches s (execStepSwap part sg s) := by
  unfold execStepSwap
  first | exact ⟨_, rfl⟩ | (dsimp only; repeat' split) <;> first | exact ⟨_, rfl⟩ | exact reaches_self s

theorem execStepTimeout_reaches (part sg : Nat) (s : State) : Reaches s (execStepTimeout part sg s) := by
  unfold execStepTimeout
  first | exact ⟨_, rfl⟩ | (dsimp only; repeat' split) <;> first | exact ⟨_, rfl⟩ | exact reaches_self s

theorem execBarrierTimeout_reaches (clus b : Nat) (s : State) : Reaches s (execBarrierTimeout clus b s) := by
  unfold execBarrierTimeout
  first | exact ⟨_, rfl⟩ | (dsimp only; repeat' split) <;> first | exact ⟨_, rfl⟩ | exact reaches_self s

theorem execBufferedAccessPerform_reaches (c k : Nat) (s : State) : Reaches s (execBufferedAccessPerform c k s) := by
  unfold execBufferedAccessPerform
  first | exact ⟨_, rfl⟩ | (dsimp only; repeat' split) <;> first | exact ⟨_, rfl⟩ | exact reaches_self s

theorem execGranuleWaitTimeout_reaches (k : Nat) (s : State) : Reaches s (execGranuleWaitTimeout k s) := by
  unfold execGranuleWaitTimeout
  first | exact ⟨_, rfl⟩ | (dsimp only; repeat' split) <;> first | exact ⟨_, rfl⟩ | exact reaches_self s

theorem execSyncFaultDelivery_reaches (c : Nat) (s : State) : Reaches s (execSyncFaultDelivery c s) := by
  unfold execSyncFaultDelivery
  first | exact ⟨_, rfl⟩ | (dsimp only; repeat' split) <;> first | exact ⟨_, rfl⟩ | exact reaches_self s

theorem execAsyncDeliveryTimeout_reaches (c : Nat) (s : State) : Reaches s (execAsyncDeliveryTimeout c s) := by
  unfold execAsyncDeliveryTimeout
  first | exact ⟨_, rfl⟩ | (dsimp only; repeat' split) <;> first | exact ⟨_, rfl⟩ | exact reaches_self s

theorem execMatrixTileStep_reaches (core acc : Nat) (s : State) : Reaches s (execMatrixTileStep core acc s) := by
  unfold execMatrixTileStep
  first | exact ⟨_, rfl⟩ | (dsimp only; repeat' split) <;> first | exact ⟨_, rfl⟩ | exact reaches_self s

theorem execEngineCompletion_reaches (k : Nat) (s : State) : Reaches s (execEngineCompletion k s) := by
  unfold execEngineCompletion
  first | exact ⟨_, rfl⟩ | (dsimp only; repeat' split) <;> first | exact ⟨_, rfl⟩ | exact reaches_self s

theorem execAttnAccept_reaches (k : Nat) (s : State) : Reaches s (execAttnAccept k s) := by
  unfold execAttnAccept
  first | exact ⟨_, rfl⟩ | (dsimp only; repeat' split) <;> first | exact ⟨_, rfl⟩ | exact reaches_self s

theorem execAttnUnit_reaches (k : Nat) (s : State) : Reaches s (execAttnUnit k s) := by
  unfold execAttnUnit
  first | exact ⟨_, rfl⟩ | (dsimp only; repeat' split) <;> first | exact ⟨_, rfl⟩ | exact reaches_self s

theorem execAttnResultWrite_reaches (k : Nat) (s : State) : Reaches s (execAttnResultWrite k s) := by
  unfold execAttnResultWrite
  first | exact ⟨_, rfl⟩ | (dsimp only; repeat' split) <;> first | exact ⟨_, rfl⟩ | exact reaches_self s

theorem execDriveExit_reaches (c : Nat) (s : State) : Reaches s (execDriveExit c s) := by
  unfold execDriveExit
  first | exact ⟨_, rfl⟩ | (dsimp only; repeat' split) <;> first | exact ⟨_, rfl⟩ | exact reaches_self s

theorem execRedNodeCombine_reaches (k node : Nat) (s : State) : Reaches s (execRedNodeCombine k node s) := by
  unfold execRedNodeCombine
  first | exact ⟨_, rfl⟩ | (dsimp only; repeat' split) <;> first | exact ⟨_, rfl⟩ | exact reaches_self s

theorem execRedNodeTimeout_reaches (k node : Nat) (s : State) : Reaches s (execRedNodeTimeout k node s) := by
  unfold execRedNodeTimeout
  first | exact ⟨_, rfl⟩ | (dsimp only; repeat' split) <;> first | exact ⟨_, rfl⟩ | exact reaches_self s

theorem execOverflowTokenReturn_reaches (core : Nat) (s : State) : Reaches s (execOverflowTokenReturn core s) := by
  unfold execOverflowTokenReturn
  first | exact ⟨_, rfl⟩ | (dsimp only; repeat' split) <;> first | exact ⟨_, rfl⟩ | exact reaches_self s

theorem execParkresReplay_reaches (die e : Nat) (s : State) : Reaches s (execParkresReplay die e s) := ⟨_, rfl⟩

theorem execParkresFail_reaches (die e : Nat) (s : State) : Reaches s (execParkresFail die e s) := ⟨_, rfl⟩

theorem execParkTimeout_reaches (die e : Nat) (s : State) : Reaches s (execParkTimeout die e s) := ⟨_, rfl⟩

theorem execTinvPage_reaches (die asid sz : Nat) (s : State) : Reaches s (execTinvPage die asid sz s) := ⟨_, rfl⟩

theorem execTinvAsid_reaches (die asid : Nat) (s : State) : Reaches s (execTinvAsid die asid s) := ⟨_, rfl⟩

theorem execTinvAll_reaches (die : Nat) (s : State) : Reaches s (execTinvAll die s) := ⟨_, rfl⟩

theorem execSlabMoveStart_reaches (die n : Nat) (v : Word64) (s : State) : Reaches s (execSlabMoveStart die n v s) := by
  unfold execSlabMoveStart
  first | exact ⟨_, rfl⟩ | (dsimp only; repeat' split) <;> first | exact ⟨_, rfl⟩ | exact reaches_self s

theorem execSlabMoveUnit_reaches (die n : Nat) (s : State) : Reaches s (execSlabMoveUnit die n s) := by
  unfold execSlabMoveUnit
  first | exact ⟨_, rfl⟩ | (dsimp only; repeat' split) <;> first | exact ⟨_, rfl⟩ | exact reaches_self s

theorem execFwdDisable_reaches (die n : Nat) (s : State) : Reaches s (execFwdDisable die n s) := ⟨_, rfl⟩

theorem execHomeUnitBatch_reaches (frame : Nat) (s : State) : Reaches s (execHomeUnitBatch frame s) := ⟨_, rfl⟩

theorem execRowMigration_reaches (part table row : Nat) (src dst : Word64) (len : Nat) (s : State) : Reaches s (execRowMigration part table row src dst len s) := by
  unfold execRowMigration
  first | exact ⟨_, rfl⟩ | (dsimp only; repeat' split) <;> first | exact ⟨_, rfl⟩ | exact reaches_self s

theorem execCodeTableInstall_reaches (die : Nat) (s : State) : Reaches s (execCodeTableInstall die s) := by
  unfold execCodeTableInstall
  first | exact ⟨_, rfl⟩ | (dsimp only; repeat' split) <;> first | exact ⟨_, rfl⟩ | exact reaches_self s

theorem execCmpRelearn_reaches (die : Nat) (s : State) : Reaches s (execCmpRelearn die s) := ⟨_, rfl⟩

theorem execCmpGenFree_reaches (die : Nat) (s : State) : Reaches s (execCmpGenFree die s) := by
  unfold execCmpGenFree
  first | exact ⟨_, rfl⟩ | (dsimp only; repeat' split) <;> first | exact ⟨_, rfl⟩ | exact reaches_self s

theorem execPatrolScrub_reaches (frame : Nat) (uncorrectable : Bool) (s : State) : Reaches s (execPatrolScrub frame uncorrectable s) := by
  unfold execPatrolScrub
  first | exact ⟨_, rfl⟩ | (dsimp only; repeat' split) <;> first | exact ⟨_, rfl⟩ | exact reaches_self s

theorem execEvcntThreshold_reaches (k : Nat) (s : State) : Reaches s (execEvcntThreshold k s) := by
  unfold execEvcntThreshold
  first | exact ⟨_, rfl⟩ | (dsimp only; repeat' split) <;> first | exact ⟨_, rfl⟩ | exact reaches_self s

theorem execFixGo_reaches (v : Word64) (s : State) : Reaches s (execFixGo v s) := by
  unfold execFixGo
  first | exact ⟨_, rfl⟩ | (dsimp only; repeat' split) <;> first | exact ⟨_, rfl⟩ | exact reaches_self s

theorem execFixCont_reaches (s : State) : Reaches s (execFixCont s) := by
  unfold execFixCont
  first | exact ⟨_, rfl⟩ | (dsimp only; repeat' split) <;> first | exact ⟨_, rfl⟩ | exact reaches_self s

theorem execFixKill_reaches (s : State) : Reaches s (execFixKill s) := by
  unfold execFixKill
  first | exact ⟨_, rfl⟩ | (dsimp only; repeat' split) <;> first | exact ⟨_, rfl⟩ | exact reaches_self s

theorem execFixReadoutDone_reaches (s : State) : Reaches s (execFixReadoutDone s) := by
  unfold execFixReadoutDone
  first | exact ⟨_, rfl⟩ | (dsimp only; repeat' split) <;> first | exact ⟨_, rfl⟩ | exact reaches_self s

theorem execThermalThrottle_reaches (s : State) : Reaches s (execThermalThrottle s) := ⟨_, rfl⟩

theorem execThermalFix_reaches (s : State) : Reaches s (execThermalFix s) := ⟨_, rfl⟩

theorem execPowerThrottle_reaches (s : State) : Reaches s (execPowerThrottle s) := ⟨_, rfl⟩

theorem execPrectlDrain_reaches (part : Nat) (v : Word64) (s : State) : Reaches s (execPrectlDrain part v s) := by
  unfold execPrectlDrain
  first | exact ⟨_, rfl⟩ | (dsimp only; repeat' split) <;> first | exact ⟨_, rfl⟩ | exact reaches_self s

theorem execDrainComplete_reaches (part : Nat) (s : State) : Reaches s (execDrainComplete part s) := by
  unfold execDrainComplete
  first | exact ⟨_, rfl⟩ | (dsimp only; repeat' split) <;> first | exact ⟨_, rfl⟩ | exact reaches_self s

theorem execDrainTimeout_reaches (part : Nat) (s : State) : Reaches s (execDrainTimeout part s) := by
  unfold execDrainTimeout
  first | exact ⟨_, rfl⟩ | (dsimp only; repeat' split) <;> first | exact ⟨_, rfl⟩ | exact reaches_self s

theorem execPrectlFreeze_reaches (part : Nat) (v : Word64) (s : State) : Reaches s (execPrectlFreeze part v s) := by
  unfold execPrectlFreeze
  first | exact ⟨_, rfl⟩ | (dsimp only; repeat' split) <;> first | exact ⟨_, rfl⟩ | exact reaches_self s

theorem execPrectlRestore_reaches (part : Nat) (v : Word64) (s : State) : Reaches s (execPrectlRestore part v s) := by
  unfold execPrectlRestore
  first | exact ⟨_, rfl⟩ | (dsimp only; repeat' split) <;> first | exact ⟨_, rfl⟩ | exact reaches_self s

theorem execPartclWrite_reaches (die k : Nat) (v : Word64) (s : State) : Reaches s (execPartclWrite die k v s) := by
  unfold execPartclWrite
  first | exact ⟨_, rfl⟩ | (dsimp only; repeat' split) <;> first | exact ⟨_, rfl⟩ | exact reaches_self s

theorem execQgpartWrite_reaches (q : Nat) (v : Word64) (s : State) : Reaches s (execQgpartWrite q v s) := by
  unfold execQgpartWrite
  first | exact ⟨_, rfl⟩ | (dsimp only; repeat' split) <;> first | exact ⟨_, rfl⟩ | exact reaches_self s

theorem execDswinWrite_reaches (die part : Nat) (v : Word64) (s : State) : Reaches s (execDswinWrite die part v s) := by
  unfold execDswinWrite
  first | exact ⟨_, rfl⟩ | (dsimp only; repeat' split) <;> first | exact ⟨_, rfl⟩ | exact reaches_self s

theorem execFdispWrite_reaches (die part : Nat) (v : Word64) (s : State) : Reaches s (execFdispWrite die part v s) := by
  unfold execFdispWrite
  first | exact ⟨_, rfl⟩ | (dsimp only; repeat' split) <;> first | exact ⟨_, rfl⟩ | exact reaches_self s

theorem execQtailWrite_reaches (q : Nat) (v : Word64) (s : State) : Reaches s (execQtailWrite q v s) := ⟨_, rfl⟩

theorem execQctlWrite_reaches (q : Nat) (v : Word64) (s : State) : Reaches s (execQctlWrite q v s) := by
  unfold execQctlWrite
  first | exact ⟨_, rfl⟩ | (dsimp only; repeat' split) <;> first | exact ⟨_, rfl⟩ | exact reaches_self s

theorem execLaunchRecordRead_reaches (q : Nat) (s : State) : Reaches s (execLaunchRecordRead q s) := by
  unfold execLaunchRecordRead
  first | exact ⟨_, rfl⟩ | (dsimp only; repeat' split) <;> first | exact ⟨_, rfl⟩ | exact reaches_self s

theorem execNodePlace_reaches (part : Nat) (s : State) : Reaches s (execNodePlace part s) := by
  unfold execNodePlace
  first | exact ⟨_, rfl⟩ | (dsimp only; repeat' split) <;> first | exact ⟨_, rfl⟩ | exact reaches_self s

theorem execReadyPriorityPromote_reaches (l node : Nat) (s : State) : Reaches s (execReadyPriorityPromote l node s) := ⟨_, rfl⟩

theorem execNodeDispatch_reaches (l node : Nat) (s : State) : Reaches s (execNodeDispatch l node s) := by
  unfold execNodeDispatch
  first | exact ⟨_, rfl⟩ | (dsimp only; repeat' split) <;> first | exact ⟨_, rfl⟩ | exact reaches_self s

theorem execNodeEnd_reaches (l node : Nat) (s : State) : Reaches s (execNodeEnd l node s) := by
  unfold execNodeEnd
  first | exact ⟨_, rfl⟩ | (dsimp only; repeat' split) <;> first | exact ⟨_, rfl⟩ | exact reaches_self s

theorem execHostMemWrite_reaches (own : Bool) (pa : Nat) (bytes : List Byte) (s : State) : Reaches s (execHostMemWrite own pa bytes s) := by
  unfold execHostMemWrite
  first | exact ⟨_, rfl⟩ | (dsimp only; repeat' split) <;> first | exact ⟨_, rfl⟩ | exact reaches_self s

theorem execHostMemRead_reaches (pa : Nat) (s : State) : Reaches s (execHostMemRead pa s) := ⟨_, rfl⟩

theorem execPeerAccess_reaches (a : PeerReq) (s : State) : Reaches s (execPeerAccess a s) := ⟨_, rfl⟩

theorem execRcvgo_reaches (s : State) : Reaches s (execRcvgo s) := by
  unfold execRcvgo
  first | exact ⟨_, rfl⟩ | (dsimp only; repeat' split) <;> first | exact ⟨_, rfl⟩ | exact reaches_self s

theorem execAttgo_reaches (s : State) : Reaches s (execAttgo s) := ⟨_, rfl⟩

theorem execPowerGood_reaches (s : State) : Reaches s (execPowerGood s) := ⟨_, rfl⟩

theorem execPackageReset_reaches (s : State) : Reaches s (execPackageReset s) := ⟨_, rfl⟩

theorem execRegWrite_reaches (die off : Nat) (v : Word64) (s : State) : Reaches s (execRegWrite die off v s) := ⟨_, rfl⟩

theorem execFirmwarePolicyResume_reaches (c : Nat) (resume : Bool) (s : State) : Reaches s (execFirmwarePolicyResume c resume s) := by
  unfold execFirmwarePolicyResume
  first | exact ⟨_, rfl⟩ | (dsimp only; repeat' split) <;> first | exact ⟨_, rfl⟩ | exact reaches_self s

/-- Every instruction and every event, executed, answers with the next state of a chain of updates. -/
theorem exec_reaches (i : Instr) (s : State) : Reaches s (exec i s) := by
  cases i
  case br => rw [exec_br]; exact execBr_reaches _ _ _
  case call => rw [exec_call]; exact execCall_reaches _ _ _
  case wdrive => rw [exec_wdrive]; exact execWdrive_reaches _ _ _
  case brn => rw [exec_brn]; exact execBrn_reaches _ _
  case brnDec => rw [exec_brnDec]; exact execBrnDec_reaches _ _
  case bri => rw [exec_bri]; exact execBri_reaches _ _
  case calli => rw [exec_calli]; exact execCalli_reaches _ _
  case ret => rw [exec_ret]; exact execRet_reaches _ _
  case iter => rw [exec_iter]; exact execIter_reaches _ _ _ _
  case halt => rw [exec_halt]; exact execHalt_reaches _ _
  case mov => rw [exec_mov]; exact execMov_reaches _ _ _ _
  case null => rw [exec_null]; exact execNull_reaches _ _ _ _
  case steer => rw [exec_steer]; exact execSteer_reaches _ _ _
  case select => rw [exec_select]; exact execSelect_reaches _ _ _
  case merge => rw [exec_merge]; exact execMerge_reaches _ _ _
  case join => rw [exec_join]; exact execJoin_reaches _ _ _ _
  case joinOr => rw [exec_joinOr]; exact execJoinOr_reaches _ _ _ _
  case ctl => rw [exec_ctl]; exact execCtl_reaches _ _ _ _
  case ctlNz => rw [exec_ctlNz]; exact execCtlNz_reaches _ _ _ _
  case movi => rw [exec_movi]; exact execMovi_reaches _ _ _ _
  case lit => rw [exec_lit]; exact execLit_reaches _ _ _ _
  case read => rw [exec_read]; exact execRead_reaches _ _ _ _
  case readT => rw [exec_readT]; exact execReadT_reaches _ _ _ _
  case write => rw [exec_write]; exact execWrite_reaches _ _ _
  case itag => rw [exec_itag]; exact execItag_reaches _ _ _ _
  case nest => rw [exec_nest]; exact execNest_reaches _ _ _
  case unnest => rw [exec_unnest]; exact execUnnest_reaches _ _
  case cfgld => rw [exec_cfgld]; exact execCfgld_reaches _ _ _
  case decide => rw [exec_decide]; exact execDecide_reaches _ _ _ _
  case decideRgn => rw [exec_decideRgn]; exact execDecideRgn_reaches _ _ _ _
  case add => rw [exec_add]; exact execAdd_reaches _ _ _ _ _
  case sub => rw [exec_sub]; exact execSub_reaches _ _ _ _ _
  case mul => rw [exec_mul]; exact execMul_reaches _ _ _ _ _
  case mulh => rw [exec_mulh]; exact execMulh_reaches _ _ _ _ _
  case mulhn => rw [exec_mulhn]; exact execMulhn_reaches _ _ _ _ _
  case div => rw [exec_div]; exact execDiv_reaches _ _ _ _ _
  case divn => rw [exec_divn]; exact execDivn_reaches _ _ _ _ _
  case rem => rw [exec_rem]; exact execRem_reaches _ _ _ _ _
  case remn => rw [exec_remn]; exact execRemn_reaches _ _ _ _ _
  case and => rw [exec_and]; exact execAnd_reaches _ _ _ _ _
  case or => rw [exec_or]; exact execOr_reaches _ _ _ _ _
  case xor => rw [exec_xor]; exact execXor_reaches _ _ _ _ _
  case andn => rw [exec_andn]; exact execAndn_reaches _ _ _ _ _
  case shl => rw [exec_shl]; exact execShl_reaches _ _ _ _ _
  case shr => rw [exec_shr]; exact execShr_reaches _ _ _ _ _
  case sra => rw [exec_sra]; exact execSra_reaches _ _ _ _ _
  case rotl => rw [exec_rotl]; exact execRotl_reaches _ _ _ _ _
  case min => rw [exec_min]; exact execMin_reaches _ _ _ _ _
  case max => rw [exec_max]; exact execMax_reaches _ _ _ _ _
  case minn => rw [exec_minn]; exact execMinn_reaches _ _ _ _ _
  case maxn => rw [exec_maxn]; exact execMaxn_reaches _ _ _ _ _
  case clz => rw [exec_clz]; exact execClz_reaches _ _ _ _ _
  case ctz => rw [exec_ctz]; exact execCtz_reaches _ _ _ _ _
  case popc => rw [exec_popc]; exact execPopc_reaches _ _ _ _ _
  case sext => rw [exec_sext]; exact execSext_reaches _ _ _ _ _
  case zext => rw [exec_zext]; exact execZext_reaches _ _ _ _ _
  case bfx => rw [exec_bfx]; exact execBfx_reaches _ _ _ _ _
  case bfi => rw [exec_bfi]; exact execBfi_reaches _ _ _ _ _
  case lea => rw [exec_lea]; exact execLea_reaches _ _ _ _
  case cmpEq => rw [exec_cmpEq]; exact execCmpEq_reaches _ _ _ _ _
  case cmpNe => rw [exec_cmpNe]; exact execCmpNe_reaches _ _ _ _ _
  case cmpLt => rw [exec_cmpLt]; exact execCmpLt_reaches _ _ _ _ _
  case cmpLe => rw [exec_cmpLe]; exact execCmpLe_reaches _ _ _ _ _
  case cmpLtn => rw [exec_cmpLtn]; exact execCmpLtn_reaches _ _ _ _ _
  case cmpLen => rw [exec_cmpLen]; exact execCmpLen_reaches _ _ _ _ _
  case addi => rw [exec_addi]; exact execAddi_reaches _ _ _ _ _
  case andi => rw [exec_andi]; exact execAndi_reaches _ _ _ _ _
  case ori => rw [exec_ori]; exact execOri_reaches _ _ _ _ _
  case xori => rw [exec_xori]; exact execXori_reaches _ _ _ _ _
  case shli => rw [exec_shli]; exact execShli_reaches _ _ _ _ _
  case shri => rw [exec_shri]; exact execShri_reaches _ _ _ _ _
  case srai => rw [exec_srai]; exact execSrai_reaches _ _ _ _ _
  case muli => rw [exec_muli]; exact execMuli_reaches _ _ _ _ _
  case cmpiEq => rw [exec_cmpiEq]; exact execCmpiEq_reaches _ _ _ _ _
  case cmpiNe => rw [exec_cmpiNe]; exact execCmpiNe_reaches _ _ _ _ _
  case cmpiLt => rw [exec_cmpiLt]; exact execCmpiLt_reaches _ _ _ _ _
  case cmpiLe => rw [exec_cmpiLe]; exact execCmpiLe_reaches _ _ _ _ _
  case cmpiLtn => rw [exec_cmpiLtn]; exact execCmpiLtn_reaches _ _ _ _ _
  case cmpiLen => rw [exec_cmpiLen]; exact execCmpiLen_reaches _ _ _ _ _
  case ld => rw [exec_ld]; exact execLd_reaches _ _ _ _ _ _
  case ldWait => rw [exec_ldWait]; exact execLdWait_reaches _ _ _ _ _ _
  case ldTake => rw [exec_ldTake]; exact execLdTake_reaches _ _ _ _ _ _
  case lds => rw [exec_lds]; exact execLds_reaches _ _ _ _ _ _ _
  case ldRaw => rw [exec_ldRaw]; exact execLdRaw_reaches _ _ _ _ _ _ _
  case st => rw [exec_st]; exact execSt_reaches _ _ _ _ _ _
  case fill => rw [exec_fill]; exact execFill_reaches _ _ _ _ _ _
  case empty => rw [exec_empty]; exact execEmpty_reaches _ _ _ _ _ _
  case wcvLoad => rw [exec_wcvLoad]; exact execWcvLoad_reaches _ _ _ _ _ _
  case wcvStore => rw [exec_wcvStore]; exact execWcvStore_reaches _ _ _ _ _
  case atomAdd => rw [exec_atomAdd]; exact execAtomAdd_reaches _ _ _ _ _
  case atomEsum => rw [exec_atomEsum]; exact execAtomEsum_reaches _ _ _ _ _
  case atomAnd => rw [exec_atomAnd]; exact execAtomAnd_reaches _ _ _ _ _
  case atomOr => rw [exec_atomOr]; exact execAtomOr_reaches _ _ _ _ _
  case atomXor => rw [exec_atomXor]; exact execAtomXor_reaches _ _ _ _ _
  case atomMin => rw [exec_atomMin]; exact execAtomMin_reaches _ _ _ _ _
  case atomMax => rw [exec_atomMax]; exact execAtomMax_reaches _ _ _ _ _
  case atomMinn => rw [exec_atomMinn]; exact execAtomMinn_reaches _ _ _ _ _
  case atomMaxn => rw [exec_atomMaxn]; exact execAtomMaxn_reaches _ _ _ _ _
  case atomFmin => rw [exec_atomFmin]; exact execAtomFmin_reaches _ _ _ _ _
  case atomFmax => rw [exec_atomFmax]; exact execAtomFmax_reaches _ _ _ _ _
  case atomSwap => rw [exec_atomSwap]; exact execAtomSwap_reaches _ _ _ _ _
  case cas => rw [exec_cas]; exact execCas_reaches _ _ _ _ _
  case step => rw [exec_step]; exact execStep_reaches _ _ _
  case barr => rw [exec_barr]; exact execBarr_reaches _ _ _
  case bwait => rw [exec_bwait]; exact execBwait_reaches _ _ _ _
  case fenceCore => rw [exec_fenceCore]; exact execFenceCore_reaches _ _ _
  case fenceClus => rw [exec_fenceClus]; exact execFenceClus_reaches _ _ _
  case fenceDie => rw [exec_fenceDie]; exact execFenceDie_reaches _ _ _
  case fencePkg => rw [exec_fencePkg]; exact execFencePkg_reaches _ _ _
  case fenceSys => rw [exec_fenceSys]; exact execFenceSys_reaches _ _ _
  case combAdd => rw [exec_combAdd]; exact execCombAdd_reaches _ _ _ _ _
  case combMin => rw [exec_combMin]; exact execCombMin_reaches _ _ _ _ _
  case combMax => rw [exec_combMax]; exact execCombMax_reaches _ _ _ _ _
  case combMinn => rw [exec_combMinn]; exact execCombMinn_reaches _ _ _ _ _
  case combMaxn => rw [exec_combMaxn]; exact execCombMaxn_reaches _ _ _ _ _
  case combAnd => rw [exec_combAnd]; exact execCombAnd_reaches _ _ _ _ _
  case combOr => rw [exec_combOr]; exact execCombOr_reaches _ _ _ _ _
  case combXor => rw [exec_combXor]; exact execCombXor_reaches _ _ _ _ _
  case combFadd => rw [exec_combFadd]; exact execCombFadd_reaches _ _ _ _ _
  case combFmin => rw [exec_combFmin]; exact execCombFmin_reaches _ _ _ _ _
  case combFmax => rw [exec_combFmax]; exact execCombFmax_reaches _ _ _ _ _
  case redF32 => rw [exec_redF32]; exact execRedF32_reaches _ _ _
  case redXs => rw [exec_redXs]; exact execRedXs_reaches _ _ _
  case vadd => rw [exec_vadd]; exact execVadd_reaches _ _ _ _ _ _
  case vsub => rw [exec_vsub]; exact execVsub_reaches _ _ _ _ _ _
  case vmul => rw [exec_vmul]; exact execVmul_reaches _ _ _ _ _ _
  case vfma => rw [exec_vfma]; exact execVfma_reaches _ _ _ _ _
  case vfms => rw [exec_vfms]; exact execVfms_reaches _ _ _ _ _
  case vmax => rw [exec_vmax]; exact execVmax_reaches _ _ _ _ _
  case vmin => rw [exec_vmin]; exact execVmin_reaches _ _ _ _ _
  case vabs => rw [exec_vabs]; exact execVabs_reaches _ _ _ _ _
  case vneg => rw [exec_vneg]; exact execVneg_reaches _ _ _ _ _
  case vrcp => rw [exec_vrcp]; exact execVrcp_reaches _ _ _ _ _ _
  case vrsq => rw [exec_vrsq]; exact execVrsq_reaches _ _ _ _ _ _
  case vsqrt => rw [exec_vsqrt]; exact execVsqrt_reaches _ _ _ _ _ _
  case vexp2 => rw [exec_vexp2]; exact execVexp2_reaches _ _ _ _ _ _
  case vlog2 => rw [exec_vlog2]; exact execVlog2_reaches _ _ _ _ _ _
  case vtanh => rw [exec_vtanh]; exact execVtanh_reaches _ _ _ _ _ _
  case vcmp => rw [exec_vcmp]; exact execVcmp_reaches _ _ _ _ _ _
  case vsel => rw [exec_vsel]; exact execVsel_reaches _ _ _
  case vbcastW32 => rw [exec_vbcastW32]; exact execVbcastW32_reaches _ _ _ _
  case vbcastW16 => rw [exec_vbcastW16]; exact execVbcastW16_reaches _ _ _ _
  case vbcastW8 => rw [exec_vbcastW8]; exact execVbcastW8_reaches _ _ _ _
  case vpermW32 => rw [exec_vpermW32]; exact execVpermW32_reaches _ _ _ _
  case vpermW16 => rw [exec_vpermW16]; exact execVpermW16_reaches _ _ _ _
  case vpermW8 => rw [exec_vpermW8]; exact execVpermW8_reaches _ _ _ _
  case vextrW32 => rw [exec_vextrW32]; exact execVextrW32_reaches _ _ _ _
  case vextrW16 => rw [exec_vextrW16]; exact execVextrW16_reaches _ _ _ _
  case vextrW8 => rw [exec_vextrW8]; exact execVextrW8_reaches _ _ _ _
  case vinsW32 => rw [exec_vinsW32]; exact execVinsW32_reaches _ _ _ _
  case vinsW16 => rw [exec_vinsW16]; exact execVinsW16_reaches _ _ _ _
  case vinsW8 => rw [exec_vinsW8]; exact execVinsW8_reaches _ _ _ _
  case vrsum => rw [exec_vrsum]; exact execVrsum_reaches _ _ _ _ _
  case vrmax => rw [exec_vrmax]; exact execVrmax_reaches _ _ _ _ _
  case vrmin => rw [exec_vrmin]; exact execVrmin_reaches _ _ _ _ _
  case vamax => rw [exec_vamax]; exact execVamax_reaches _ _ _ _ _
  case vexpo => rw [exec_vexpo]; exact execVexpo_reaches _ _ _ _ _
  case vexpoSc => rw [exec_vexpoSc]; exact execVexpoSc_reaches _ _ _ _ _
  case vldexp => rw [exec_vldexp]; exact execVldexp_reaches _ _ _ _ _
  case vcvt => rw [exec_vcvt]; exact execVcvt_reaches _ _ _ _ _ _ _
  case vscale => rw [exec_vscale]; exact execVscale_reaches _ _ _ _ _
  case sacc => rw [exec_sacc]; exact execSacc_reaches _ _ _ _
  case vpack => rw [exec_vpack]; exact execVpack_reaches _ _ _ _
  case vunpackLo => rw [exec_vunpackLo]; exact execVunpackLo_reaches _ _ _ _
  case vunpackHi => rw [exec_vunpackHi]; exact execVunpackHi_reaches _ _ _ _
  case eaddF32 => rw [exec_eaddF32]; exact execEaddF32_reaches _ _ _ _
  case eaddBf16 => rw [exec_eaddBf16]; exact execEaddBf16_reaches _ _ _ _
  case eroundF32 => rw [exec_eroundF32]; exact execEroundF32_reaches _ _ _ _
  case eroundBf16 => rw [exec_eroundBf16]; exact execEroundBf16_reaches _ _ _ _
  case eclr => rw [exec_eclr]; exact execEclr_reaches _ _ _
  case mma => rw [exec_mma]; exact execMma_reaches _ _ _ _ _ _
  case mmaG => rw [exec_mmaG]; exact execMmaG_reaches _ _ _ _ _
  case mmaCb => rw [exec_mmaCb]; exact execMmaCb_reaches _ _ _ _ _
  case accclr => rw [exec_accclr]; exact execAccclr_reaches _ _ _ _
  case accrd => rw [exec_accrd]; exact execAccrd_reaches _ _ _ _ _
  case accrdSt => rw [exec_accrdSt]; exact execAccrdSt_reaches _ _ _ _
  case accwr => rw [exec_accwr]; exact execAccwr_reaches _ _ _ _
  case tdset => rw [exec_tdset]; exact execTdset_reaches _ _ _ _
  case copy => rw [exec_copy]; exact execCopy_reaches _ _ _ _
  case copyMc => rw [exec_copyMc]; exact execCopyMc_reaches _ _ _ _
  case stage => rw [exec_stage]; exact execStage_reaches _ _
  case xform => rw [exec_xform]; exact execXform_reaches _ _ _
  case fprint => rw [exec_fprint]; exact execFprint_reaches _ _ _ _ _
  case dedup => rw [exec_dedup]; exact execDedup_reaches _ _ _
  case gatherRows => rw [exec_gatherRows]; exact execGatherRows_reaches _ _ _ _
  case gatherSum => rw [exec_gatherSum]; exact execGatherSum_reaches _ _ _ _
  case gatherMean => rw [exec_gatherMean]; exact execGatherMean_reaches _ _ _ _
  case gatherWsum => rw [exec_gatherWsum]; exact execGatherWsum_reaches _ _ _ _
  case scatterAdd => rw [exec_scatterAdd]; exact execScatterAdd_reaches _ _ _ _
  case scatterMax => rw [exec_scatterMax]; exact execScatterMax_reaches _ _ _ _
  case scatterMin => rw [exec_scatterMin]; exact execScatterMin_reaches _ _ _ _
  case scatterOvw => rw [exec_scatterOvw]; exact execScatterOvw_reaches _ _ _ _
  case attn => rw [exec_attn]; exact execAttn_reaches _ _ _ _
  case randN64 => rw [exec_randN64]; exact execRandN64_reaches _ _ _ _ _ _
  case randF32 => rw [exec_randF32]; exact execRandF32_reaches _ _ _ _ _ _
  case rskip => rw [exec_rskip]; exact execRskip_reaches _ _ _ _
  case spawn => rw [exec_spawn]; exact execSpawn_reaches _ _
  case alloc => rw [exec_alloc]; exact execAlloc_reaches _ _ _
  case free => rw [exec_free]; exact execFree_reaches _ _
  case stopk => rw [exec_stopk]; exact execStopk_reaches _ _ _ _
  case smix => rw [exec_smix]; exact execSmix_reaches _ _ _ _
  case shid => rw [exec_shid]; exact execShid_reaches _ _ _ _
  case semb => rw [exec_semb]; exact execSemb_reaches _ _ _ _
  case sembProj => rw [exec_sembProj]; exact execSembProj_reaches _ _ _ _
  case scollArgmax => rw [exec_scollArgmax]; exact execScollArgmax_reaches _ _ _ _
  case scollSample => rw [exec_scollSample]; exact execScollSample_reaches _ _ _ _ _
  case scollConf => rw [exec_scollConf]; exact execScollConf_reaches _ _ _ _
  case slog => rw [exec_slog]; exact execSlog_reaches _ _ _ _ _
  case scmp => rw [exec_scmp]; exact execScmp_reaches _ _ _
  case srpl => rw [exec_srpl]; exact execSrpl_reaches _ _ _ _
  case sget => rw [exec_sget]; exact execSget_reaches _ _ _ _ _
  case nop => rw [exec_nop]; exact execNop_reaches _ _ _
  case trap => rw [exec_trap]; exact execTrap_reaches _ _ _ _
  case brk => rw [exec_brk]; exact execBrk_reaches _ _ _ _
  case rdsr => rw [exec_rdsr]; exact execRdsr_reaches _ _ _ _
  case wrsr => rw [exec_wrsr]; exact execWrsr_reaches _ _ _
  case flags => rw [exec_flags]; exact execFlags_reaches _ _ _ _
  case perf => rw [exec_perf]; exact execPerf_reaches _ _ _
  case safe => rw [exec_safe]; exact execSafe_reaches _ _ _
  case fixreq => rw [exec_fixreq]; exact execFixreq_reaches _ _ _
  case wMac => rw [exec_wMac]; exact execWMac_reaches _ _
  case wCb => rw [exec_wCb]; exact execWCb_reaches _ _
  case wO4 => rw [exec_wO4]; exact execWO4_reaches _ _
  case wBook => rw [exec_wBook]; exact execWBook_reaches _ _
  case wSwitch => rw [exec_wSwitch]; exact execWSwitch_reaches _ _
  case wEmit => rw [exec_wEmit]; exact execWEmit_reaches _ _
  case wExit => rw [exec_wExit]; exact execWExit_reaches _ _
  case instanceBegin => rw [exec_instanceBegin]; exact execInstanceBegin_reaches _ _
  case instanceCommit => rw [exec_instanceCommit]; exact execInstanceCommit_reaches _ _
  case decisionArrive => rw [exec_decisionArrive]; exact execDecisionArrive_reaches _ _
  case stepSwap => rw [exec_stepSwap]; exact execStepSwap_reaches _ _ _
  case stepTimeout => rw [exec_stepTimeout]; exact execStepTimeout_reaches _ _ _
  case barrierTimeout => rw [exec_barrierTimeout]; exact execBarrierTimeout_reaches _ _ _
  case bufferedAccessPerform => rw [exec_bufferedAccessPerform]; exact execBufferedAccessPerform_reaches _ _ _
  case granuleWaitTimeout => rw [exec_granuleWaitTimeout]; exact execGranuleWaitTimeout_reaches _ _
  case syncFaultDelivery => rw [exec_syncFaultDelivery]; exact execSyncFaultDelivery_reaches _ _
  case asyncDeliveryTimeout => rw [exec_asyncDeliveryTimeout]; exact execAsyncDeliveryTimeout_reaches _ _
  case matrixTileStep => rw [exec_matrixTileStep]; exact execMatrixTileStep_reaches _ _ _
  case engineCompletion => rw [exec_engineCompletion]; exact execEngineCompletion_reaches _ _
  case attnAccept => rw [exec_attnAccept]; exact execAttnAccept_reaches _ _
  case attnUnit => rw [exec_attnUnit]; exact execAttnUnit_reaches _ _
  case attnResultWrite => rw [exec_attnResultWrite]; exact execAttnResultWrite_reaches _ _
  case driveExit => rw [exec_driveExit]; exact execDriveExit_reaches _ _
  case redNodeCombine => rw [exec_redNodeCombine]; exact execRedNodeCombine_reaches _ _ _
  case redNodeTimeout => rw [exec_redNodeTimeout]; exact execRedNodeTimeout_reaches _ _ _
  case overflowTokenReturn => rw [exec_overflowTokenReturn]; exact execOverflowTokenReturn_reaches _ _
  case parkresReplay => rw [exec_parkresReplay]; exact execParkresReplay_reaches _ _ _
  case parkresFail => rw [exec_parkresFail]; exact execParkresFail_reaches _ _ _
  case parkTimeout => rw [exec_parkTimeout]; exact execParkTimeout_reaches _ _ _
  case tinvPage => rw [exec_tinvPage]; exact execTinvPage_reaches _ _ _ _
  case tinvAsid => rw [exec_tinvAsid]; exact execTinvAsid_reaches _ _ _
  case tinvAll => rw [exec_tinvAll]; exact execTinvAll_reaches _ _
  case slabMoveStart => rw [exec_slabMoveStart]; exact execSlabMoveStart_reaches _ _ _ _
  case slabMoveUnit => rw [exec_slabMoveUnit]; exact execSlabMoveUnit_reaches _ _ _
  case fwdDisable => rw [exec_fwdDisable]; exact execFwdDisable_reaches _ _ _
  case homeUnitBatch => rw [exec_homeUnitBatch]; exact execHomeUnitBatch_reaches _ _
  case rowMigration => rw [exec_rowMigration]; exact execRowMigration_reaches _ _ _ _ _ _ _
  case codeTableInstall => rw [exec_codeTableInstall]; exact execCodeTableInstall_reaches _ _
  case cmpRelearn => rw [exec_cmpRelearn]; exact execCmpRelearn_reaches _ _
  case cmpGenFree => rw [exec_cmpGenFree]; exact execCmpGenFree_reaches _ _
  case patrolScrub => rw [exec_patrolScrub]; exact execPatrolScrub_reaches _ _ _
  case evcntThreshold => rw [exec_evcntThreshold]; exact execEvcntThreshold_reaches _ _
  case fixGo => rw [exec_fixGo]; exact execFixGo_reaches _ _
  case fixCont => rw [exec_fixCont]; exact execFixCont_reaches _
  case fixKill => rw [exec_fixKill]; exact execFixKill_reaches _
  case fixReadoutDone => rw [exec_fixReadoutDone]; exact execFixReadoutDone_reaches _
  case thermalThrottle => rw [exec_thermalThrottle]; exact execThermalThrottle_reaches _
  case thermalFix => rw [exec_thermalFix]; exact execThermalFix_reaches _
  case powerThrottle => rw [exec_powerThrottle]; exact execPowerThrottle_reaches _
  case prectlDrain => rw [exec_prectlDrain]; exact execPrectlDrain_reaches _ _ _
  case drainComplete => rw [exec_drainComplete]; exact execDrainComplete_reaches _ _
  case drainTimeout => rw [exec_drainTimeout]; exact execDrainTimeout_reaches _ _
  case prectlFreeze => rw [exec_prectlFreeze]; exact execPrectlFreeze_reaches _ _ _
  case prectlRestore => rw [exec_prectlRestore]; exact execPrectlRestore_reaches _ _ _
  case partclWrite => rw [exec_partclWrite]; exact execPartclWrite_reaches _ _ _ _
  case qgpartWrite => rw [exec_qgpartWrite]; exact execQgpartWrite_reaches _ _ _
  case dswinWrite => rw [exec_dswinWrite]; exact execDswinWrite_reaches _ _ _ _
  case fdispWrite => rw [exec_fdispWrite]; exact execFdispWrite_reaches _ _ _ _
  case qtailWrite => rw [exec_qtailWrite]; exact execQtailWrite_reaches _ _ _
  case qctlWrite => rw [exec_qctlWrite]; exact execQctlWrite_reaches _ _ _
  case launchRecordRead => rw [exec_launchRecordRead]; exact execLaunchRecordRead_reaches _ _
  case nodePlace => rw [exec_nodePlace]; exact execNodePlace_reaches _ _
  case readyPriorityPromote => rw [exec_readyPriorityPromote]; exact execReadyPriorityPromote_reaches _ _ _
  case nodeDispatch => rw [exec_nodeDispatch]; exact execNodeDispatch_reaches _ _ _
  case nodeEnd => rw [exec_nodeEnd]; exact execNodeEnd_reaches _ _ _
  case hostMemWrite => rw [exec_hostMemWrite]; exact execHostMemWrite_reaches _ _ _ _
  case hostMemRead => rw [exec_hostMemRead]; exact execHostMemRead_reaches _ _
  case peerAccess => rw [exec_peerAccess]; exact execPeerAccess_reaches _ _
  case rcvgo => rw [exec_rcvgo]; exact execRcvgo_reaches _
  case attgo => rw [exec_attgo]; exact execAttgo_reaches _
  case powerGood => rw [exec_powerGood]; exact execPowerGood_reaches _
  case packageReset => rw [exec_packageReset]; exact execPackageReset_reaches _
  case regWrite => rw [exec_regWrite]; exact execRegWrite_reaches _ _ _ _
  case firmwarePolicyResume => rw [exec_firmwarePolicyResume]; exact execFirmwarePolicyResume_reaches _ _ _

theorem driveFetch_reach (s : State) (c : Nat) : Reach s (driveFetch s c).1 := by
  unfold driveFetch
  dsimp only
  repeat' split
  all_goals first | exact .refl | exact Run.reach _

theorem Event.run_reaches (e : Event) (s : State) : Reaches s (e.run s) := by
  cases e
  case drive c =>
    have h := driveFetch_reach s c
    unfold Event.run
    dsimp only
    split
    · rename_i t i hd
      rw [hd] at h
      exact Reaches.of_reach h (exec_reaches i t)
    · rename_i t hd
      rw [hd] at h
      exact ⟨⟨t, h⟩, rfl⟩
  case passToHost c =>
    unfold Event.run execPassToHost
    dsimp only
    split
    · exact ⟨_, rfl⟩
    · exact reaches_self s
  case peer id => exact ⟨_, rfl⟩
  case driveAhead a b c d => exact ⟨_, rfl⟩
  case instanceBegin a => exact exec_reaches (.instanceBegin a) s
  case instanceCommit a => exact exec_reaches (.instanceCommit a) s
  case decisionArrive a => exact exec_reaches (.decisionArrive a) s
  case syncFaultDelivery a => exact exec_reaches (.syncFaultDelivery a) s
  case asyncDeliveryTimeout a => exact exec_reaches (.asyncDeliveryTimeout a) s
  case bufferedAccessPerform a b => exact exec_reaches (.bufferedAccessPerform a b) s
  case granuleWaitTimeout a => exact exec_reaches (.granuleWaitTimeout a) s
  case stepSwap a b => exact exec_reaches (.stepSwap a b) s
  case stepTimeout a b => exact exec_reaches (.stepTimeout a b) s
  case barrierTimeout a b => exact exec_reaches (.barrierTimeout a b) s
  case matrixTileStep a b => exact exec_reaches (.matrixTileStep a b) s
  case engineCompletion a => exact exec_reaches (.engineCompletion a) s
  case attnAccept a => exact exec_reaches (.attnAccept a) s
  case attnUnit a => exact exec_reaches (.attnUnit a) s
  case attnResultWrite a => exact exec_reaches (.attnResultWrite a) s
  case driveExit a => exact exec_reaches (.driveExit a) s
  case redNodeCombine a b => exact exec_reaches (.redNodeCombine a b) s
  case redNodeTimeout a b => exact exec_reaches (.redNodeTimeout a b) s
  case overflowTokenReturn a => exact exec_reaches (.overflowTokenReturn a) s
  case homeUnitBatch a => exact exec_reaches (.homeUnitBatch a) s
  case parkTimeout a b => exact exec_reaches (.parkTimeout a b) s
  case slabMoveUnit a b => exact exec_reaches (.slabMoveUnit a b) s
  case codeTableInstall a => exact exec_reaches (.codeTableInstall a) s
  case cmpRelearn a => exact exec_reaches (.cmpRelearn a) s
  case cmpGenFree a => exact exec_reaches (.cmpGenFree a) s
  case evcntThreshold a => exact exec_reaches (.evcntThreshold a) s
  case fixReadoutDone => exact exec_reaches (.fixReadoutDone) s
  case drainComplete a => exact exec_reaches (.drainComplete a) s
  case drainTimeout a => exact exec_reaches (.drainTimeout a) s
  case launchRecordRead a => exact exec_reaches (.launchRecordRead a) s
  case nodePlace a => exact exec_reaches (.nodePlace a) s
  case readyPriorityPromote a b => exact exec_reaches (.readyPriorityPromote a b) s
  case nodeDispatch a b => exact exec_reaches (.nodeDispatch a b) s
  case nodeEnd a b => exact exec_reaches (.nodeEnd a b) s
  case firmwarePolicyResume a b => exact exec_reaches (.firmwarePolicyResume a b) s

/-- An act that is no node that cannot be decoded goes on. -/
theorem perform_reach {a : Act} {s t : State} (h : perform a s = .next t) : Reach s t := by
  unfold perform at h
  split at h
  · rename_i e
    obtain ⟨r, hr⟩ := Event.run_reaches e s
    rw [hr] at h
    cases h
    exact r.reach
  · split at h
    · cases h
      exact .refl
    · rename_i i l _
      obtain ⟨r, hr⟩ := exec_reaches i ((Upd.inputs l).apply s)
      rw [hr] at h
      cases h
      exact (Reach.step (.inputs l) .refl).trans r.reach
  · cases h
    exact Run.reach _
  · split at h
    · rename_i x _ i _
      obtain ⟨r, hr⟩ := exec_reaches i ((Upd.site x).apply s)
      rw [hr] at h
      cases h
      exact (Reach.step (.site x) .refl).trans r.reach
    · cases h

theorem passed_reach (s : State) (l : List Act) (a : Option Act) : Reach s (s.passed l a) := Run.reach _

/-- A step answers with the next state of a chain of updates. -/
theorem step_reach {s t : State} (h : step s = .next t) : Reach s t := by
  unfold step at h
  split at h
  · cases h
    exact passed_reach s _ _
  · exact (passed_reach s _ _).trans (perform_reach h)
  · exact (passed_reach s _ _).trans (perform_reach h)

/-- What every update keeps, every step keeps. -/
theorem step_keeps {P : State → Prop} (hu : ∀ u s, P s → P (Upd.apply u s)) {s t : State} (h : step s = .next t) (hs : P s) : P t :=
  (step_reach h).keeps hu hs

end Sys2Proof.Machine
end

