-- ==== Sys2Proof/Laws/Store.lean ====
section
/-! SUPPORT. What every update keeps: canonical maps and bounded registers; and what a byte reads as after an update. -/

set_option Elab.async false

namespace Sys2Proof.Machine

open Sys2Proof

/-! ### Contexts -/

@[simp] theorem Ctx.norm_norm (x : Ctx) : x.norm.norm = x.norm := by
  have a : ∀ (v m : Word64), v &&& m &&& m = v &&& m := fun v m => by rw [BitVec.and_assoc, BitVec.and_self]
  simp only [Ctx.norm, a, List.take_take, List.length_drop, Nat.min_self]
  congr 1
  rw [show x.stack.length - (x.stack.length - 32) - 32 = 0 by omega, List.drop_zero]

theorem Ctx.norm_reset : Ctx.reset.norm = Ctx.reset := by decide

/-- A normal context stays so under a change of its block runs. -/
theorem Ctx.norm_runs {x : Ctx} (h : x.norm = x) (rs : List BlockRun) : ({ x with runs := rs } : Ctx).norm = { x with runs := rs } := by
  rw [show ({ x with runs := rs } : Ctx).norm = { x.norm with runs := rs } from rfl, h]

/-- A normal context is bounded. -/
theorem Ctx.norm_bounded (x : Ctx) : Bounded x.norm := by
  refine ⟨?_, ?_, ?_, ?_, ?_, ?_⟩
  · change (x.flags &&& 0x7F).toNat < 128
    rw [BitVec.toNat_and]
    exact Nat.lt_of_le_of_lt Nat.and_le_right (by decide)
  · change x.modeReg &&& 0xFF03 &&& 0xFFFFFFFFFFFF00FC = 0
    rw [BitVec.and_assoc]
    exact BitVec.and_zero
  · change (x.rspill &&& 0xFFFF_FFFF_FFFF_FFC0).toNat % 64 = 0
    rw [BitVec.toNat_and]
    exact (Nat.and_mod_two_pow (n := 6) (a := x.rspill.toNat) (b := 0xFFFF_FFFF_FFFF_FFC0)).trans (Nat.and_zero _)
  · change (x.perfsel &&& 0x3F).toNat < 64
    rw [BitVec.toNat_and]
    exact Nat.lt_of_le_of_lt Nat.and_le_right (by decide)
  · change (x.stack.drop (x.stack.length - 32)).length ≤ 32
    rw [List.length_drop]
    omega
  · change (x.asyncs.take 8).length ≤ 8
    rw [List.length_take]
    omega

/-! ### Memory -/

theorem State.reset_memory : Memory.wf State.reset.mem = true := rfl

/-- Every memory operation keeps the canonical form. -/
theorem Upd.keeps_memory (u : Upd) (s : State) (h : Memory.wf s.mem = true) : Memory.wf (u.apply s).mem = true := by
  rw [Upd.apply_mem]
  split
  · exact SMap.wf_set _ _ _ h
  · exact SMap.wf_filter _ _ h
  · exact SMap.wf_filter _ _ h
  · exact h

/-- A byte after it has been written. -/
theorem State.byte_after {s : State} (h : Memory.wf s.mem = true) (k j : Nat) (b : Byte) : ((Upd.byte k b).apply s).byte j = if j = k then b else s.byte j :=
  SMap.get_set _ h k j b

/-! ### Regular states -/

theorem regular_iff (s : State) : Regular s = true ↔
    Memory.wf s.mem = true ∧ SMap.wf false s.full = true ∧ SMap.wf (0, 0) s.poison = true ∧ SMap.wf Ctx.reset s.ctxs = true
      ∧ s.ctxs.all (fun e => decide (e.2.norm = e.2)) = true ∧ SMap.wf Core.reset s.cores = true ∧ SMap.wf Barrier.reset s.barriers = true
      ∧ SMap.wf StepGroup.reset s.groups = true ∧ SMap.wf Park.free s.ptt = true ∧ SMap.wf Frame.reset s.frames = true ∧ SMap.wf 0 s.dcb = true
      ∧ SMap.wf 0 s.msgWin = true := by
  simp only [Regular, Bool.and_eq_true, and_assoc]

theorem regular_reset : Regular State.reset = true := rfl

/-- Every update keeps a state regular. -/
theorem Upd.keeps_regular (u : Upd) (s : State) (h : Regular s = true) : Regular (u.apply s) = true := by
  rw [regular_iff] at h ⊢
  obtain ⟨hm, hf, hp, hc, hn, hk, hb, hg, ht, hr, hd, hw⟩ := h
  refine ⟨Upd.keeps_memory u s hm, ?_, ?_, ?_, ?_, ?_, ?_, ?_, ?_, ?_, ?_, ?_⟩
  · rw [Upd.apply_full]; split <;> first | exact SMap.wf_set _ _ _ hf | exact SMap.wf_filter _ _ hf | rfl | exact hf
  · rw [Upd.apply_poison]; split <;> first | exact SMap.wf_set _ _ _ hp | exact SMap.wf_filter _ _ hp | rfl | exact hp
  · rw [Upd.apply_ctxs]; split <;> first | exact SMap.wf_set _ _ _ hc | rfl | exact hc
  · rw [Upd.apply_ctxs]; split <;> first | exact SMap.all_set _ _ _ hn (fun _ => by simp) | rfl | exact hn
  · rw [Upd.apply_cores]; split <;> first | exact SMap.wf_set _ _ _ hk | rfl | exact hk
  · rw [Upd.apply_barriers]; split <;> first | exact SMap.wf_set _ _ _ hb | rfl | exact hb
  · rw [Upd.apply_groups]; split <;> first | exact SMap.wf_set _ _ _ hg | rfl | exact hg
  · rw [Upd.apply_ptt]; split <;> first | exact SMap.wf_set _ _ _ ht | rfl | exact ht
  · rw [Upd.apply_frames]; split <;> first | exact SMap.wf_set _ _ _ hr | exact SMap.wf_const _ _ (by decide) (SMap.wf_filter _ _ hr) | exact hr
  · rw [Upd.apply_dcb]; split <;> first | exact SMap.wf_set _ _ _ hd | rfl | exact hd
  · rw [Upd.apply_msgWin]; split <;> first | exact SMap.wf_set _ _ _ hw | exact hw

/-- What a map reads as has what all its entries and its default have. -/
theorem SMap.get_of_all {α : Type} {m : SMap α} {d : α} {p : α → Prop} (hd : p d) (h : ∀ e ∈ m, p e.2) (k : Nat) : p (SMap.get m d k) := by
  induction m with
  | nil => exact hd
  | cons e r ih =>
    obtain ⟨a, v⟩ := e
    rw [SMap.get_cons]
    split
    · exact h (a, v) (List.mem_cons_self ..)
    · exact ih (fun e he => h e (List.mem_cons_of_mem _ he))

theorem regular_norm {s : State} (h : Regular s = true) (c : Nat) : (s.ctx c).norm = s.ctx c := by
  have hn := ((regular_iff s).mp h).2.2.2.2.1
  rw [List.all_eq_true] at hn
  exact SMap.get_of_all (p := fun x => x.norm = x) Ctx.norm_reset (fun e he => of_decide_eq_true (hn e he)) c

theorem regular_bounded {s : State} (h : Regular s = true) (c : Nat) : Bounded (s.ctx c) := regular_norm h c ▸ Ctx.norm_bounded (s.ctx c)

/-- A context after it has been written. -/
theorem State.ctx_after {s : State} (h : Regular s = true) (c d : Nat) (x : Ctx) : ((Upd.ctx c x).apply s).ctx d = if d = c then x.norm else s.ctx d :=
  SMap.get_set _ ((regular_iff s).mp h).2.2.2.1 c d x.norm

/-- A state on its way from a regular one is regular. -/
theorem Reach.regular {s t : State} (h : Reach s t) (hs : Regular s = true) : Regular t = true := by
  induction h with
  | refl => exact hs
  | step u _ ih => exact Upd.keeps_regular u _ ih

theorem Run.regular {s : State} (r : Run s) (h : Regular s = true) : Regular r.st = true := r.reach.regular h

end Sys2Proof.Machine
end

