-- ==== Sys2Proof/Laws/Firing.lean ====
section
/-! SUPPORT. What the firing of a node can do: it changes the block runs of its context and the event counters, and nothing else. -/

set_option Elab.async false

namespace Sys2Proof.Machine

open Sys2Proof

variable {s0 : State}

/-! ### Counters -/

theorem Run.setDcb_st (r : Run s0) (die off : Nat) (v : Word64) :
    (r.setDcb die off v).st = { r.st with dcb := SMap.set r.st.dcb 0 (dcbKey die off) (v ^^^ dcbReset off) } := rfl

theorem Run.advance_st (r : Run s0) (die off n : Nat) : (r.advance die off n).st = { r.st with dcb := (r.advance die off n).st.dcb } := by
  unfold Run.advance
  dsimp only
  repeat' split
  all_goals rfl

/-- A fold of steps that each leave a field alone leaves it alone. -/
theorem Run.foldl_keeps {α β : Type} (g : State → β) (step : Run s0 → α → Run s0) (h : ∀ r a, g (step r a).st = g r.st) (l : List α) (r : Run s0) :
    g (l.foldl step r).st = g r.st := by
  induction l generalizing r with
  | nil => rfl
  | cons a l ih => rw [List.foldl_cons, ih, h]

/-- Counting an event changes the counters only: what does not depend on them is as before. -/
theorem Run.count_keeps {β : Type} (g : State → β) (hg : ∀ (s : State) d, g { s with dcb := d } = g s) (r : Run s0) (c : Nat) (pe : Option Nat) (src n : Nat) :
    g (r.count c pe src n).st = g r.st := by
  unfold Run.count
  refine Run.foldl_keeps g _ (fun r a => ?_) _ r
  have key : ∀ (p : Prop) [Decidable p] (x : Run s0), g x.st = g r.st → g (if p then x else r).st = g r.st := fun p _ x hx => by
    split
    · exact hx
    · rfl
  exact key _ _ (by rw [Run.advance_st]; exact hg r.st _)

theorem Run.count_st (r : Run s0) (c : Nat) (pe : Option Nat) (src n : Nat) : (r.count c pe src n).st = { r.st with dcb := (r.count c pe src n).st.dcb } := by
  have h := Run.count_keeps (fun s => ({ s with dcb := [] } : State)) (fun _ _ => rfl) r c pe src n
  exact congrArg (fun s => ({ s with dcb := (r.count c pe src n).st.dcb } : State)) h

@[simp] theorem Run.count_ctxs (r : Run s0) (c : Nat) (pe : Option Nat) (src n : Nat) : (r.count c pe src n).st.ctxs = r.st.ctxs := by rw [Run.count_st]

@[simp] theorem Run.count_ctx (r : Run s0) (c : Nat) (pe : Option Nat) (src n d : Nat) : (r.count c pe src n).st.ctx d = r.st.ctx d := by
  unfold State.ctx
  rw [Run.count_ctxs]

/-- Counting the tokens that overflow changes the counters only. -/
theorem Run.countSpills_st (r : Run s0) (s : State) (c : Nat) : (r.countSpills s c).st = { r.st with dcb := (r.countSpills s c).st.dcb } := Run.count_st ..

@[simp] theorem Run.countSpills_ctx (r : Run s0) (s : State) (c d : Nat) : (r.countSpills s c).st.ctx d = r.st.ctx d := Run.count_ctx ..

/-! ### A changed run -/

/-- The context with a function applied to one of its runs. -/
def Ctx.mapRun (x : Ctx) (iid : Nat) (f : BlockRun → BlockRun) : Ctx := { x with runs := x.runs.map (fun b => if b.iid == iid then f b else b) }

theorem Run.modRun_st (r : Run s0) (c iid : Nat) (f : BlockRun → BlockRun) :
    (r.modRun c iid f).st = { r.st with ctxs := SMap.set r.st.ctxs Ctx.reset c ((r.st.ctx c).mapRun iid f).norm } := rfl

/-- The contexts after a run of one of them has changed. -/
theorem Run.modRun_ctx (r : Run s0) (h : Regular r.st = true) (c iid d : Nat) (f : BlockRun → BlockRun) :
    (r.modRun c iid f).st.ctx d = if d = c then (r.st.ctx c).mapRun iid f else r.st.ctx d := by
  have e : (r.modRun c iid f).st = (Upd.ctx c ((r.st.ctx c).mapRun iid f)).apply r.st := rfl
  rw [e, State.ctx_after h, Ctx.mapRun, Ctx.norm_runs (regular_norm h c)]

/-- The run that an identifier finds, after a change that keeps its identifier. -/
theorem Ctx.run?_mapRun {x : Ctx} {iid : Nat} {f : BlockRun → BlockRun} {b : BlockRun} (h : x.run? iid = some b) (hf : (f b).iid = b.iid) :
    (x.mapRun iid f).run? iid = some (f b) := by
  unfold Ctx.run? Ctx.mapRun at *
  generalize x.runs = l at h
  dsimp only
  induction l with
  | nil => cases h
  | cons y l ih =>
    rw [List.find?_cons] at h
    rw [List.map_cons, List.find?_cons]
    by_cases hy : (y.iid == iid) = true
    · simp only [hy, if_true, Option.some.injEq] at h ⊢
      subst h
      simp [hf, hy]
    · have hn : (y.iid == iid) = false := by simpa using hy
      simp only [hn] at h
      simp only [hn, Bool.false_eq_true, if_false]
      exact ih h

theorem Ctx.run?_iid {x : Ctx} {iid : Nat} {b : BlockRun} (h : x.run? iid = some b) : b.iid = iid := by
  have := List.find?_some h
  simpa using this

/-! ### The end of a firing -/

theorem Run.finish_st (r : Run s0) (c iid i : Nat) (sh : Shape) (o : NodeOut) (h : o.wait = false) :
    (r.finish c iid i sh o).st =
      { r.st with ctxs := SMap.set r.st.ctxs Ctx.reset c ((r.st.ctx c).mapRun iid (fun b => r.st.checkRun c (r.st.record c i sh o b))).norm
                  dcb := (r.finish c iid i sh o).st.dcb } := by
  unfold Run.finish
  simp only [h, Bool.false_eq_true, if_false]
  rw [Run.count_st, Run.countSpills_st, Run.modRun_st]

/-- The contexts after a firing. -/
theorem Run.finish_ctx (r : Run s0) (hr : Regular r.st = true) (c iid i d : Nat) (sh : Shape) (o : NodeOut) (h : o.wait = false) :
    (r.finish c iid i sh o).st.ctx d
      = if d = c then (r.st.ctx c).mapRun iid (fun b => r.st.checkRun c (r.st.record c i sh o b)) else r.st.ctx d := by
  unfold Run.finish
  simp only [h, Bool.false_eq_true, if_false]
  rw [Run.count_ctx, Run.countSpills_ctx, Run.modRun_ctx r hr]

theorem Run.finish_wait (r : Run s0) (c iid i : Nat) (sh : Shape) (o : NodeOut) (h : o.wait = true) : r.finish c iid i sh o = r := by
  unfold Run.finish
  simp only [h, if_true]

/-- A firing changes the block runs of its context, and the counters. -/
theorem Run.finish_same (r : Run s0) (hr : Regular r.st = true) (c iid i : Nat) (sh : Shape) (o : NodeOut) : SameBut r.st (r.finish c iid i sh o).st c := by
  cases h : o.wait
  · refine ⟨?_, ?_, ?_⟩
    · rw [Run.finish_st r c iid i sh o h]
    · intro d hd
      rw [Run.finish_ctx r hr _ _ _ _ _ _ h, if_neg hd]
    · rw [Run.finish_ctx r hr _ _ _ _ _ _ h, if_pos rfl]
      rfl
  · rw [Run.finish_wait r c iid i sh o h]
    exact ⟨rfl, fun _ _ => rfl, rfl⟩

/-! ### `fireRun` -/

/-- What a node that acts comes to. -/
theorem fireRun_acts {ins : Instr} {body : Run s0 → Fire → Run s0 × NodeOut} {r : Run s0} {f : Fire} (h : Acts r.st ins f) :
    fireRun ins body r = ((body r f).1).finish f.c f.b.iid f.idx (shape ins) (body r f).2 := by
  obtain ⟨⟨b, hb, hm, rfl⟩, hr⟩ := h
  unfold fireRun
  simp only [hb, hm, if_true, hr]
  rfl

/-- What a node comes to when a flag rule decides its firing. -/
theorem fireRun_rule {ins : Instr} {body : Run s0 → Fire → Run s0 × NodeOut} {r : Run s0} {f : Fire} {o : NodeOut} (h : Fires r.st ins f) (hr : f.rules = some o) :
    fireRun ins body r = r.finish f.c f.b.iid f.idx (shape ins) o := by
  obtain ⟨b, hb, hm, rfl⟩ := h
  unfold fireRun
  simp only [hb, hm, if_true, hr]
  rfl

/-- A node that may not fire changes nothing. -/
theorem fireRun_idle {ins : Instr} {body : Run s0 → Fire → Run s0 × NodeOut} {r : Run s0} (h : ∀ f, ¬ Fires r.st ins f) : fireRun ins body r = r := by
  unfold fireRun
  dsimp only
  split
  · rfl
  · rename_i b hb
    split
    · rename_i hm
      exact absurd ⟨b, hb, hm, rfl⟩ (h _)
    · rfl

theorem fireNode_acts {ins : Instr} {body : Fire → NodeOut} {s : State} {f : Fire} (h : Acts s ins f) : fireNode ins body s = .next (fired s ins f (body f)) := by
  unfold fireNode fired
  rw [fireRun_acts (r := Run.start s) h]

theorem fireNode_rule {ins : Instr} {body : Fire → NodeOut} {s : State} {f : Fire} {o : NodeOut} (h : Fires s ins f) (hr : f.rules = some o) :
    fireNode ins body s = .next (fired s ins f o) := by
  unfold fireNode fired
  rw [fireRun_rule (r := Run.start s) h hr]

theorem fireWith_rule {ins : Instr} {body : {s0 : State} → Run s0 → Fire → Run s0 × NodeOut} {s : State} {f : Fire} {o : NodeOut} (h : Fires s ins f)
    (hr : f.rules = some o) : fireWith ins body s = .next (fired s ins f o) := by
  unfold fireWith fired
  rw [fireRun_rule (r := Run.start s) h hr]

/-- A node whose meaning changes nothing but its run leaves everything else. -/
theorem fireNode_same {ins : Instr} {body : Fire → NodeOut} {s t : State} (hr : Regular s = true) (h : fireNode ins body s = .next t) : SameBut s t s.site.c := by
  unfold fireNode at h
  cases h
  unfold fireRun
  dsimp only
  split
  · exact ⟨rfl, fun _ _ => rfl, rfl⟩
  · split
    · split
      · exact Run.finish_same (Run.start s) hr _ _ _ _ _
      · exact Run.finish_same (Run.start s) hr _ _ _ _ _
    · exact ⟨rfl, fun _ _ => rfl, rfl⟩

end Sys2Proof.Machine
end

