-- ==== Sys2Proof/Laws/PerInstr.lean ====
section
/-! SUPPORT. The family RoundTrip: decoding the encoding of a well-formed instruction gives it back, one lemma per constructor. -/

set_option Elab.async false

namespace Sys2Proof.Laws.RoundTrip

open Sys2Proof

/-- Decoding the encoding of `i` gives `i`: one word for an instruction of a block, the eight 64-bit words of a header for a weight block; an event of the device has no
encoding. -/
def Statement (i : Instr) : Prop :=
  wf i = true → match toWord i, toHeader i with
    | some w, _ => encode i = [w] ∧ decode w = .ok i
    | none, some ws => decodeHeader ws = .ok i
    | none, none => encode i = []

/-! ### Fields of a packed word -/

theorem toNat_packG (op : Nat) (fn : BitVec 5) (gt : BitVec 2) (q : BitVec 1) (t1 t0 : BitVec 9) (h : op < 64) :
    (packG op fn gt q t1 t0).toNat = op * 2 ^ 26 + fn.toNat * 2 ^ 21 + gt.toNat * 2 ^ 19 + q.toNat * 2 ^ 18 + t1.toNat * 2 ^ 9 + t0.toNat := by
  simp only [packG, BitVec.toNat_ofNat]
  omega

theorem fields_packG (op : Nat) (fn : BitVec 5) (gt : BitVec 2) (q : BitVec 1) (t1 t0 : BitVec 9) (h : op < 64) :
    (packG op fn gt q t1 t0).toNat / 2 ^ 26 = op ∧ fld (packG op fn gt q t1 t0) 21 5 = fn ∧ fld (packG op fn gt q t1 t0) 19 2 = gt
      ∧ fld (packG op fn gt q t1 t0) 18 1 = q ∧ fld (packG op fn gt q t1 t0) 9 9 = t1 ∧ fld (packG op fn gt q t1 t0) 0 9 = t0 := by
  refine ⟨?_, ?_, ?_, ?_, ?_, ?_⟩ <;> (try apply BitVec.eq_of_toNat_eq) <;>
    simp only [fld, BitVec.toNat_ofNat, toNat_packG op fn gt q t1 t0 h] <;> omega

theorem toNat_packI (op : Nat) (fn : BitVec 5) (gt : BitVec 2) (imm : BitVec 10) (t0 : BitVec 9) (h : op < 64) :
    (packI op fn gt imm t0).toNat = op * 2 ^ 26 + fn.toNat * 2 ^ 21 + gt.toNat * 2 ^ 19 + imm.toNat * 2 ^ 9 + t0.toNat := by
  simp only [packI, BitVec.toNat_ofNat]
  omega

theorem fields_packI (op : Nat) (fn : BitVec 5) (gt : BitVec 2) (imm : BitVec 10) (t0 : BitVec 9) (h : op < 64) :
    (packI op fn gt imm t0).toNat / 2 ^ 26 = op ∧ fld (packI op fn gt imm t0) 21 5 = fn ∧ fld (packI op fn gt imm t0) 19 2 = gt
      ∧ fld (packI op fn gt imm t0) 9 10 = imm ∧ fld (packI op fn gt imm t0) 0 9 = t0 := by
  refine ⟨?_, ?_, ?_, ?_, ?_⟩ <;> (try apply BitVec.eq_of_toNat_eq) <;>
    simp only [fld, BitVec.toNat_ofNat, toNat_packI op fn gt imm t0 h] <;> omega

theorem toNat_packM (op : Nat) (sp wd : BitVec 3) (fe gt : BitVec 2) (off : BitVec 7) (t0 : BitVec 9) (h : op < 64) :
    (packM op sp wd fe gt off t0).toNat
      = op * 2 ^ 26 + sp.toNat * 2 ^ 23 + wd.toNat * 2 ^ 20 + fe.toNat * 2 ^ 18 + gt.toNat * 2 ^ 16 + off.toNat * 2 ^ 9 + t0.toNat := by
  simp only [packM, BitVec.toNat_ofNat]
  omega

theorem fields_packM (op : Nat) (sp wd : BitVec 3) (fe gt : BitVec 2) (off : BitVec 7) (t0 : BitVec 9) (h : op < 64) :
    (packM op sp wd fe gt off t0).toNat / 2 ^ 26 = op ∧ fld (packM op sp wd fe gt off t0) 23 3 = sp ∧ fld (packM op sp wd fe gt off t0) 20 3 = wd
      ∧ fld (packM op sp wd fe gt off t0) 18 2 = fe ∧ fld (packM op sp wd fe gt off t0) 16 2 = gt ∧ fld (packM op sp wd fe gt off t0) 9 7 = off
      ∧ fld (packM op sp wd fe gt off t0) 0 9 = t0 := by
  refine ⟨?_, ?_, ?_, ?_, ?_, ?_, ?_⟩ <;> (try apply BitVec.eq_of_toNat_eq) <;>
    simp only [fld, BitVec.toNat_ofNat, toNat_packM op sp wd fe gt off t0 h] <;> omega

theorem fields_packB (op : Nat) (gt : BitVec 2) (off : BitVec 24) (h : op < 64) :
    (packB op gt off).toNat / 2 ^ 26 = op ∧ fld (packB op gt off) 24 2 = gt ∧ fld (packB op gt off) 0 24 = off := by
  have h0 : (packB op gt off).toNat = op * 2 ^ 26 + gt.toNat * 2 ^ 24 + off.toNat := by
    simp only [packB, BitVec.toNat_ofNat]
    omega
  refine ⟨?_, ?_, ?_⟩ <;> (try apply BitVec.eq_of_toNat_eq) <;> simp only [fld, BitVec.toNat_ofNat, h0] <;> omega

/-! ### Codes of the operands -/

theorem gateOf_code (g : Gate) : gateOf g.code = g := by cases g <;> rfl
theorem spaceOf_code (sp : Space) : spaceOf sp.code = some sp := by cases sp <;> rfl
theorem mwidthOf_code (wd : MWidth) : mwidthOf wd.code = some wd := by cases wd <;> rfl
theorem targetOf_code (t : Target) : targetOf t.code = t := by
  rcases t with _ | ⟨s, i⟩
  · rfl
  · revert i; cases s <;> decide
theorem targetOf_zero : targetOf 0 = .none := rfl
theorem targetOf_code_zero (t : Target) : (t.code == 0) = (t == .none) := by
  rcases t with _ | ⟨s, i⟩
  · rfl
  · revert i; cases s <;> decide
theorem sysRegOf_code (r : SysReg) : sysRegOf r.code = some r := by
  cases r <;> first | rfl | (rename_i n; revert n; decide)
theorem isOne_bit (b : Bool) : isOne (bit b) = b := by cases b <;> rfl
theorem low (n k : Nat) (x : BitVec n) (h : 2 ^ n ≤ k) : x.toNat % k = x.toNat := Nat.mod_eq_of_lt (Nat.lt_of_lt_of_le x.isLt h)
theorem gateOf_none : gateOf 0#2 = .none := rfl
theorem gateOf_arc : gateOf 3#2 = .arc := rfl
theorem ofNat_eq (n v : Nat) (x : BitVec n) (h : v % 2 ^ n = x.toNat) : BitVec.ofNat n v = x := by
  apply BitVec.eq_of_toNat_eq
  rw [BitVec.toNat_ofNat, h]

/-! ### From a parsed word to the statement -/

theorem of_parse {i : Instr} {w : Word32} (hw : toWord i = some w) (hp : parse w = .ok i) : Statement i := by
  intro h
  have hc : wfCode i = 0 := by simpa [wf] using h
  simp only [hw, encode, decode, hp, hc]
  simp

theorem of_event {i : Instr} (hw : toWord i = none) (hh : toHeader i = none) : Statement i := by
  intro _
  simp only [hw, hh, encode]



/-! ### The majors -/

theorem parse_exit (fn : BitVec 5) (gt : BitVec 2) (q : BitVec 1) (t1 t0 : BitVec 9) :
    parse (packG 0x4 fn gt q t1 t0) = parseExit fn.toNat (gateOf gt) q t1 t0 := by
  obtain ⟨h1, h2, h3, h4, h5, h6⟩ := fields_packG 0x4 fn gt q t1 t0 (by decide)
  simp only [parse, h1, h2, h3, h4, h5, h6]

theorem parse_token (fn : BitVec 5) (gt : BitVec 2) (q : BitVec 1) (t1 t0 : BitVec 9) :
    parse (packG 0x8 fn gt q t1 t0) = parseToken fn.toNat (gateOf gt) q t1 t0 := by
  obtain ⟨h1, h2, h3, h4, h5, h6⟩ := fields_packG 0x8 fn gt q t1 t0 (by decide)
  simp only [parse, h1, h2, h3, h4, h5, h6]

theorem parse_register (fn : BitVec 5) (gt : BitVec 2) (imm : BitVec 10) (t0 : BitVec 9) :
    parse (packI 0x9 fn gt imm t0) = parseRegister fn.toNat (gateOf gt) imm t0 := by
  obtain ⟨h1, h2, h3, h4, h5⟩ := fields_packI 0x9 fn gt imm t0 (by decide)
  simp only [parse, h1, h2, h3, h4, h5]

theorem parse_config (fn : BitVec 5) (gt : BitVec 2) (q : BitVec 1) (t1 t0 : BitVec 9) :
    parse (packG 0xa fn gt q t1 t0) = parseConfig fn.toNat (gateOf gt) q t1 t0 := by
  obtain ⟨h1, h2, h3, h4, h5, h6⟩ := fields_packG 0xa fn gt q t1 t0 (by decide)
  simp only [parse, h1, h2, h3, h4, h5, h6]

theorem parse_sync (fn : BitVec 5) (gt : BitVec 2) (imm : BitVec 10) (t0 : BitVec 9) :
    parse (packI 0x22 fn gt imm t0) = parseSync fn.toNat (gateOf gt) imm t0 := by
  obtain ⟨h1, h2, h3, h4, h5⟩ := fields_packI 0x22 fn gt imm t0 (by decide)
  simp only [parse, h1, h2, h3, h4, h5]

theorem parse_red (fn : BitVec 5) (gt : BitVec 2) (imm : BitVec 10) (t0 : BitVec 9) :
    parse (packI 0x24 fn gt imm t0) = parseRed fn.toNat (gateOf gt) imm t0 := by
  obtain ⟨h1, h2, h3, h4, h5⟩ := fields_packI 0x24 fn gt imm t0 (by decide)
  simp only [parse, h1, h2, h3, h4, h5]

theorem parse_lane (fn : BitVec 5) (gt : BitVec 2) (q : BitVec 1) (t1 t0 : BitVec 9) :
    parse (packG 0x2b fn gt q t1 t0) = parseLane fn.toNat (gateOf gt) q t1 t0 := by
  obtain ⟨h1, h2, h3, h4, h5, h6⟩ := fields_packG 0x2b fn gt q t1 t0 (by decide)
  simp only [parse, h1, h2, h3, h4, h5, h6]

theorem parse_reduce (fn : BitVec 5) (gt : BitVec 2) (q : BitVec 1) (t1 t0 : BitVec 9) :
    parse (packG 0x2c fn gt q t1 t0) = parseReduce fn.toNat (gateOf gt) q t1 t0 := by
  obtain ⟨h1, h2, h3, h4, h5, h6⟩ := fields_packG 0x2c fn gt q t1 t0 (by decide)
  simp only [parse, h1, h2, h3, h4, h5, h6]

theorem parse_scale (fn : BitVec 5) (gt : BitVec 2) (q : BitVec 1) (t1 t0 : BitVec 9) :
    parse (packG 0x2e fn gt q t1 t0) = parseScale fn.toNat (gateOf gt) q t1 t0 := by
  obtain ⟨h1, h2, h3, h4, h5, h6⟩ := fields_packG 0x2e fn gt q t1 t0 (by decide)
  simp only [parse, h1, h2, h3, h4, h5, h6]

theorem parse_exact (fn : BitVec 5) (gt : BitVec 2) (imm : BitVec 10) (t0 : BitVec 9) :
    parse (packI 0x2f fn gt imm t0) = parseExact fn.toNat (gateOf gt) imm t0 := by
  obtain ⟨h1, h2, h3, h4, h5⟩ := fields_packI 0x2f fn gt imm t0 (by decide)
  simp only [parse, h1, h2, h3, h4, h5]

theorem parse_tile (fn : BitVec 5) (gt : BitVec 2) (q : BitVec 1) (t1 t0 : BitVec 9) :
    parse (packG 0x34 fn gt q t1 t0) = parseMatrix 0x34 fn.toNat (gateOf gt) q t1 t0 := by
  obtain ⟨h1, h2, h3, h4, h5, h6⟩ := fields_packG 0x34 fn gt q t1 t0 (by decide)
  simp only [parse, h1, h2, h3, h4, h5, h6]

theorem parse_acc (fn : BitVec 5) (gt : BitVec 2) (q : BitVec 1) (t1 t0 : BitVec 9) :
    parse (packG 0x35 fn gt q t1 t0) = parseMatrix 0x35 fn.toNat (gateOf gt) q t1 t0 := by
  obtain ⟨h1, h2, h3, h4, h5, h6⟩ := fields_packG 0x35 fn gt q t1 t0 (by decide)
  simp only [parse, h1, h2, h3, h4, h5, h6]

theorem parse_tdset (fn : BitVec 5) (gt : BitVec 2) (imm : BitVec 10) (t0 : BitVec 9) :
    parse (packI 0x36 fn gt imm t0) = parseTdset fn.toNat (gateOf gt) imm t0 := by
  obtain ⟨h1, h2, h3, h4, h5⟩ := fields_packI 0x36 fn gt imm t0 (by decide)
  simp only [parse, h1, h2, h3, h4, h5]

theorem parse_streamer (fn : BitVec 5) (gt : BitVec 2) (q : BitVec 1) (t1 t0 : BitVec 9) :
    parse (packG 0x37 fn gt q t1 t0) = parseStreamer fn.toNat (gateOf gt) q t1 t0 := by
  obtain ⟨h1, h2, h3, h4, h5, h6⟩ := fields_packG 0x37 fn gt q t1 t0 (by decide)
  simp only [parse, h1, h2, h3, h4, h5, h6]

theorem parse_gather (fn : BitVec 5) (gt : BitVec 2) (q : BitVec 1) (t1 t0 : BitVec 9) :
    parse (packG 0x38 fn gt q t1 t0) = parseGather fn.toNat (gateOf gt) q t1 t0 := by
  obtain ⟨h1, h2, h3, h4, h5, h6⟩ := fields_packG 0x38 fn gt q t1 t0 (by decide)
  simp only [parse, h1, h2, h3, h4, h5, h6]

theorem parse_random (fn : BitVec 5) (gt : BitVec 2) (q : BitVec 1) (t1 t0 : BitVec 9) :
    parse (packG 0x39 fn gt q t1 t0) = parseRandom fn.toNat (gateOf gt) q t1 t0 := by
  obtain ⟨h1, h2, h3, h4, h5, h6⟩ := fields_packG 0x39 fn gt q t1 t0 (by decide)
  simp only [parse, h1, h2, h3, h4, h5, h6]

theorem parse_task (fn : BitVec 5) (gt : BitVec 2) (q : BitVec 1) (t1 t0 : BitVec 9) :
    parse (packG 0x3a fn gt q t1 t0) = parseTask fn.toNat (gateOf gt) q t1 t0 := by
  obtain ⟨h1, h2, h3, h4, h5, h6⟩ := fields_packG 0x3a fn gt q t1 t0 (by decide)
  simp only [parse, h1, h2, h3, h4, h5, h6]

theorem parse_soft (fn : BitVec 5) (gt : BitVec 2) (imm : BitVec 10) (t0 : BitVec 9) :
    parse (packI 0x3c fn gt imm t0) = parseSoft fn.toNat (gateOf gt) imm t0 := by
  obtain ⟨h1, h2, h3, h4, h5⟩ := fields_packI 0x3c fn gt imm t0 (by decide)
  simp only [parse, h1, h2, h3, h4, h5]

theorem parse_system (fn : BitVec 5) (gt : BitVec 2) (imm : BitVec 10) (t0 : BitVec 9) :
    parse (packI 0x3e fn gt imm t0) = parseSystem fn.toNat (gateOf gt) imm t0 := by
  obtain ⟨h1, h2, h3, h4, h5⟩ := fields_packI 0x3e fn gt imm t0 (by decide)
  simp only [parse, h1, h2, h3, h4, h5]

theorem parse_int2 (w : Width) (fn : BitVec 5) (gt : BitVec 2) (t1 t0 : BitVec 9) :
    parse (packG (0x10 + w.code / 2) fn gt (BitVec.ofNat 1 w.code) t1 t0)
      = entry int2Table fn.toNat (fun k => .ok (k w (gateOf gt) (targetOf t0) (targetOf t1))) := by
  obtain ⟨h1, h2, h3, h4, h5, h6⟩ := fields_packG (0x10 + w.code / 2) fn gt (BitVec.ofNat 1 w.code) t1 t0 (by cases w <;> decide)
  simp only [parse, h1, h2, h3, h4, h5, h6]
  cases w <;> rfl

theorem parse_int1 (w : Width) (fn : BitVec 5) (gt : BitVec 2) (t1 t0 : BitVec 9) :
    parse (packG (0x12 + w.code / 2) fn gt (BitVec.ofNat 1 w.code) t1 t0) = parseInt1 w (w == .w64) fn.toNat (gateOf gt) t1 t0 := by
  obtain ⟨h1, h2, h3, h4, h5, h6⟩ := fields_packG (0x12 + w.code / 2) fn gt (BitVec.ofNat 1 w.code) t1 t0 (by cases w <;> decide)
  simp only [parse, h1, h2, h3, h4, h5, h6]
  cases w <;> rfl

theorem parse_imm (w : Width) (fn : BitVec 5) (gt : BitVec 2) (imm : BitVec 10) (t0 : BitVec 9) :
    parse (packI (0x14 + w.code) fn gt imm t0) = entry immTable fn.toNat (fun k => .ok (k w (gateOf gt) imm (targetOf t0))) := by
  obtain ⟨h1, h2, h3, h4, h5⟩ := fields_packI (0x14 + w.code) fn gt imm t0 (by cases w <;> decide)
  simp only [parse, h1, h2, h3, h4, h5]
  cases w <;> rfl

theorem parse_vector (f : Fmt) (fn : BitVec 5) (gt : BitVec 2) (q : BitVec 1) (t1 t0 : BitVec 9) :
    parse (packG (0x28 + f.code) fn gt q t1 t0) = parseVector f (fn.toNat % 16) (fn.toNat / 16 * 2 + q.toNat) (gateOf gt) t1 t0 := by
  obtain ⟨h1, h2, h3, h4, h5, h6⟩ := fields_packG (0x28 + f.code) fn gt q t1 t0 (by cases f <;> decide)
  simp only [parse, h1, h2, h3, h4, h5, h6]
  cases f <;> rfl

theorem parse_comb (fn : BitVec 5) (gt : BitVec 2) (q : BitVec 1) (t1 t0 : BitVec 9) :
    parse (packG 0x23 fn gt q t1 t0)
      = entry combTable fn.toNat (fun k => guardCode (t1.toNat < 128) 0x12 (k (gateOf gt) (isOne q) (BitVec.ofNat 7 t1.toNat) (targetOf t0))) := by
  obtain ⟨h1, h2, h3, h4, h5, h6⟩ := fields_packG 0x23 fn gt q t1 t0 (by decide)
  simp only [parse, h1, h2, h3, h4, h5, h6]

theorem parse_vcvt (gt : BitVec 2) (imm : BitVec 10) (t0 : BitVec 9) :
    parse (packI 0x2D 0 gt imm t0) = .ok (.vcvt (gateOf gt) (BitVec.ofNat 3 (imm.toNat / 128)) (BitVec.ofNat 3 (imm.toNat / 16))
      (BitVec.ofNat 2 (imm.toNat / 4)) (rmOf (imm.toNat % 4)) (targetOf t0)) := by
  obtain ⟨h1, h2, h3, h4, h5⟩ := fields_packI 0x2D 0 gt imm t0 (by decide)
  simp only [parse, h1, h2, h3, h4, h5]
  rfl

theorem parse_memory (op : Nat) (h : 0x18 ≤ op ∧ op ≤ 0x1D) (sp : Space) (wd : MWidth) (fe gt : BitVec 2) (off : BitVec 7) (t0 : BitVec 9) :
    parse (packM op sp.code wd.code fe gt off t0) = parseMemory op sp wd fe (gateOf gt) off t0 := by
  obtain ⟨h1, h2, h3, h4, h5, h6, h7⟩ := fields_packM op sp.code wd.code fe gt off t0 (by omega)
  simp only [parse, h1, h2, h3, h4, h5, h6, h7, spaceOf_code, mwidthOf_code]
  obtain rfl | rfl | rfl | rfl | rfl | rfl : op = 0x18 ∨ op = 0x19 ∨ op = 0x1A ∨ op = 0x1B ∨ op = 0x1C ∨ op = 0x1D := by omega
  all_goals rfl

theorem parse_atomic (op : Nat) (h : op = 0x20 ∨ op = 0x21) (sp : Space) (wd : MWidth) (fe gt : BitVec 2) (off : BitVec 7) (t0 : BitVec 9) :
    parse (packM op sp.code wd.code fe gt off t0) = parseAtomic op sp wd fe (gateOf gt) off t0 := by
  obtain ⟨h1, h2, h3, h4, h5, h6, h7⟩ := fields_packM op sp.code wd.code fe gt off t0 (by omega)
  simp only [parse, h1, h2, h3, h4, h5, h6, h7, spaceOf_code, mwidthOf_code]
  obtain rfl | rfl := h
  all_goals rfl

/-! ### Weight blocks -/

theorem toNat_joined {m n : Nat} (x : BitVec m) (y : BitVec n) : (x ++ y).toNat = x.toNat * 2 ^ n + y.toNat := by
  rw [BitVec.toNat_append, ← Nat.shiftLeft_add_eq_or_of_lt y.isLt, Nat.shiftLeft_eq]

theorem aux_joined (x : BitVec 256) :
    x.extractLsb' 192 64 ++ (x.extractLsb' 128 64 ++ (x.extractLsb' 64 64 ++ x.extractLsb' 0 64)) = x := by
  apply BitVec.eq_of_toNat_eq
  have := x.isLt
  simp only [toNat_joined, BitVec.extractLsb'_toNat, Nat.shiftRight_eq_div_pow]
  omega

theorem wblockOf_body (h : WBlock) (wop : Nat) (hw : wop < 16) (w0 : Word64)
    (h0 : w0 = BitVec.ofNat 64 ((h.whdr wop).toNat + h.route.toNat * 2 ^ 32)) :
    w0.toNat / 2 ^ 28 % 16 = 4 ∧ w0.toNat / 2 ^ 24 % 16 = wop
      ∧ wblockOf w0 h.link (h.aux.extractLsb' 0 64) (h.aux.extractLsb' 64 64) (h.aux.extractLsb' 128 64) (h.aux.extractLsb' 192 64) = h := by
  obtain ⟨fmt, flags, plen, route, link, aux⟩ := h
  have h1 := fmt.isLt
  have h2 := flags.isLt
  have h3 := plen.isLt
  have h4 := route.isLt
  have e : w0.toNat = 4 * 2 ^ 28 + wop * 2 ^ 24 + fmt.toNat * 2 ^ 20 + flags.toNat * 2 ^ 16 + plen.toNat + route.toNat * 2 ^ 32 := by
    subst h0
    simp only [WBlock.whdr, BitVec.toNat_ofNat]
    omega
  refine ⟨by omega, by omega, ?_⟩
  simp only [wblockOf, aux_joined, WBlock.mk.injEq, and_true]
  exact ⟨ofNat_eq _ _ _ (by omega), ofNat_eq _ _ _ (by omega), ofNat_eq _ _ _ (by omega), ofNat_eq _ _ _ (by omega)⟩

theorem parse_header (h : WBlock) (k : WBlock → Instr) (wop : Nat) (hw : wop < 16) (ht : wopTable[wop]? = some k) :
    parseHeader (h.header wop) = .ok (k h) := by
  obtain ⟨h1, h2, h3⟩ := wblockOf_body h wop hw _ rfl
  simp only [WBlock.header, WBlock.body, List.cons_append, List.nil_append, parseHeader]
  rw [if_neg (by rw [h1]; simp), if_neg (by simp), h2, ht]
  simp only [h3]

theorem decodeHeader_ok {i : Instr} {ws : List Word64} (hp : parseHeader ws = .ok i) (hc : wfCode i = 0) (hh : toHeader i = some ws) :
    decodeHeader ws = .ok i := by
  unfold decodeHeader
  rw [hp]
  simp only [hc, hh, ne_eq, not_true_eq_false, if_false, if_true]

theorem of_block {h : WBlock} (k : WBlock → Instr) (wop : Nat) (hw : wop < 16) (ht : wopTable[wop]? = some k) (hn : toWord (k h) = none)
    (hh : toHeader (k h) = some (h.header wop)) : Statement (k h) := by
  intro hwf
  have hc : wfCode (k h) = 0 := by simpa [wf] using hwf
  rw [hn, hh]
  exact decodeHeader_ok (parse_header h k wop hw ht) hc hh

/-! ### The constructors -/

theorem br (g : Gate) (off : BitVec 24) : Statement (.br g off) := of_parse rfl <| by
  obtain ⟨h1, h2, h3⟩ := fields_packB 0x1 g.code off (by decide)
  simp only [parse, h1, h2, h3, gateOf_code]

theorem call (g : Gate) (off : BitVec 24) : Statement (.call g off) := of_parse rfl <| by
  obtain ⟨h1, h2, h3⟩ := fields_packB 0x2 g.code off (by decide)
  simp only [parse, h1, h2, h3, gateOf_code]

theorem wdrive (g : Gate) (off : BitVec 24) : Statement (.wdrive g off) := of_parse rfl <| by
  obtain ⟨h1, h2, h3⟩ := fields_packB 0x3 g.code off (by decide)
  simp only [parse, h1, h2, h3, gateOf_code]

theorem brn (g : Gate) : Statement (.brn g) := of_parse rfl <| by
  rw [parse_exit]
  simp [parseExit, guardCode, gateOf_code]

theorem brnDec (g : Gate) : Statement (.brnDec g) := of_parse rfl <| by
  rw [parse_exit]
  simp [parseExit, guardCode, gateOf_code]

theorem bri (g : Gate) : Statement (.bri g) := of_parse rfl <| by
  rw [parse_exit]
  simp [parseExit, guardCode, gateOf_code]

theorem calli (g : Gate) : Statement (.calli g) := of_parse rfl <| by
  rw [parse_exit]
  simp [parseExit, guardCode, gateOf_code]

theorem ret (g : Gate) : Statement (.ret g) := of_parse rfl <| by
  rw [parse_exit]
  simp [parseExit, guardCode, gateOf_code]

theorem iter (g : Gate) (t0 t1 : Target) : Statement (.iter g t0 t1) := of_parse rfl <| by
  rw [parse_exit]
  simp [parseExit, guardCode, gateOf_code, targetOf_code]

theorem halt (g : Gate) : Statement (.halt g) := of_parse rfl <| by
  rw [parse_exit]
  simp [parseExit, guardCode, gateOf_code]

theorem mov (g : Gate) (t0 t1 : Target) : Statement (.mov g t0 t1) := of_parse rfl <| by
  rw [parse_token]
  simp [parseToken, guardCode, gateOf_code, targetOf_code]

theorem null (g : Gate) (t0 t1 : Target) : Statement (.null g t0 t1) := of_parse rfl <| by
  rw [parse_token]
  simp [parseToken, guardCode, gateOf_code, targetOf_code]

theorem steer (t0 t1 : Target) : Statement (.steer t0 t1) := of_parse rfl <| by
  rw [parse_token]
  simp [parseToken, guardCode, targetOf_code, gateOf_arc]

theorem select (t0 t1 : Target) : Statement (.select t0 t1) := of_parse rfl <| by
  rw [parse_token]
  simp [parseToken, guardCode, targetOf_code, gateOf_arc]

theorem merge (t0 t1 : Target) : Statement (.merge t0 t1) := of_parse rfl <| by
  rw [parse_token]
  simp [parseToken, guardCode, targetOf_code, gateOf_none]

theorem join (g : Gate) (n : BitVec 7) (t0 : Target) : Statement (.join g n t0) := of_parse rfl <| by
  rw [parse_token]
  simp [parseToken, guardCode, gateOf_code, targetOf_code, low 7 512 n (by decide), (n.isLt : n.toNat < 128)]

theorem joinOr (g : Gate) (n : BitVec 7) (t0 : Target) : Statement (.joinOr g n t0) := of_parse rfl <| by
  rw [parse_token]
  simp [parseToken, guardCode, gateOf_code, targetOf_code, low 7 512 n (by decide), (n.isLt : n.toNat < 128)]

theorem ctl (g : Gate) (t0 t1 : Target) : Statement (.ctl g t0 t1) := of_parse rfl <| by
  rw [parse_token]
  simp [parseToken, gateOf_code, targetOf_code]

theorem ctlNz (g : Gate) (t0 t1 : Target) : Statement (.ctlNz g t0 t1) := of_parse rfl <| by
  rw [parse_token]
  simp [parseToken, gateOf_code, targetOf_code]

theorem movi (g : Gate) (v : BitVec 10) (t0 : Target) : Statement (.movi g v t0) := of_parse rfl <| by
  rw [parse_register]
  simp [parseRegister, gateOf_code, targetOf_code]

theorem lit (g : Gate) (j : BitVec 7) (t0 : Target) : Statement (.lit g j t0) := of_parse rfl <| by
  rw [parse_register]
  simp [parseRegister, guardCode, gateOf_code, targetOf_code, low 7 1024 j (by decide), (j.isLt : j.toNat < 128)]

theorem read (g : Gate) (r : BitVec 6) (t0 : Target) : Statement (.read g r t0) := of_parse rfl <| by
  rw [parse_register]
  simp [parseRegister, guardCode, gateOf_code, targetOf_code, low 6 1024 r (by decide), (r.isLt : r.toNat < 64)]

theorem readT (g : Gate) (r : BitVec 6) (t0 : Target) : Statement (.readT g r t0) := of_parse rfl <| by
  rw [parse_register]
  simp [parseRegister, guardCode, gateOf_code, targetOf_code, low 6 1024 r (by decide), (r.isLt : r.toNat < 64)]

theorem write (g : Gate) (r : BitVec 6) : Statement (.write g r) := of_parse rfl <| by
  rw [parse_register]
  simp [parseRegister, guardCode, gateOf_code, low 6 1024 r (by decide), (r.isLt : r.toNat < 64)]

theorem itag (g : Gate) (l : BitVec 3) (t0 : Target) : Statement (.itag g l t0) := of_parse rfl <| by
  rw [parse_register]
  simp [parseRegister, guardCode, gateOf_code, targetOf_code, low 3 1024 l (by decide), (l.isLt : l.toNat < 8)]

theorem nest (g : Gate) (c : BitVec 3) : Statement (.nest g c) := of_parse rfl <| by
  rw [parse_register]
  simp [parseRegister, guardCode, gateOf_code, low 3 1024 c (by decide), (c.isLt : c.toNat < 8)]

theorem unnest (g : Gate) : Statement (.unnest g) := of_parse rfl <| by
  rw [parse_register]
  simp [parseRegister, guardCode, gateOf_code]

theorem cfgld (g : Gate) (t0 : Target) : Statement (.cfgld g t0) := of_parse rfl <| by
  rw [parse_config]
  simp [parseConfig, guardCode, gateOf_code, targetOf_code]

theorem decide (g : Gate) (t0 t1 : Target) : Statement (.decide g t0 t1) := of_parse rfl <| by
  rw [parse_config]
  simp [parseConfig, gateOf_code, targetOf_code]

theorem decideRgn (g : Gate) (t0 t1 : Target) : Statement (.decideRgn g t0 t1) := of_parse rfl <| by
  rw [parse_config]
  simp [parseConfig, gateOf_code, targetOf_code]

theorem add (w : Width) (g : Gate) (t0 t1 : Target) : Statement (.add w g t0 t1) := of_parse rfl <| by
  rw [parse_int2]
  simp only [gateOf_code, targetOf_code]
  rfl

theorem sub (w : Width) (g : Gate) (t0 t1 : Target) : Statement (.sub w g t0 t1) := of_parse rfl <| by
  rw [parse_int2]
  simp only [gateOf_code, targetOf_code]
  rfl

theorem mul (w : Width) (g : Gate) (t0 t1 : Target) : Statement (.mul w g t0 t1) := of_parse rfl <| by
  rw [parse_int2]
  simp only [gateOf_code, targetOf_code]
  rfl

theorem mulh (w : Width) (g : Gate) (t0 t1 : Target) : Statement (.mulh w g t0 t1) := of_parse rfl <| by
  rw [parse_int2]
  simp only [gateOf_code, targetOf_code]
  rfl

theorem mulhn (w : Width) (g : Gate) (t0 t1 : Target) : Statement (.mulhn w g t0 t1) := of_parse rfl <| by
  rw [parse_int2]
  simp only [gateOf_code, targetOf_code]
  rfl

theorem div (w : Width) (g : Gate) (t0 t1 : Target) : Statement (.div w g t0 t1) := of_parse rfl <| by
  rw [parse_int2]
  simp only [gateOf_code, targetOf_code]
  rfl

theorem divn (w : Width) (g : Gate) (t0 t1 : Target) : Statement (.divn w g t0 t1) := of_parse rfl <| by
  rw [parse_int2]
  simp only [gateOf_code, targetOf_code]
  rfl

theorem rem (w : Width) (g : Gate) (t0 t1 : Target) : Statement (.rem w g t0 t1) := of_parse rfl <| by
  rw [parse_int2]
  simp only [gateOf_code, targetOf_code]
  rfl

theorem remn (w : Width) (g : Gate) (t0 t1 : Target) : Statement (.remn w g t0 t1) := of_parse rfl <| by
  rw [parse_int2]
  simp only [gateOf_code, targetOf_code]
  rfl

theorem and (w : Width) (g : Gate) (t0 t1 : Target) : Statement (.and w g t0 t1) := of_parse rfl <| by
  rw [parse_int2]
  simp only [gateOf_code, targetOf_code]
  rfl

theorem or (w : Width) (g : Gate) (t0 t1 : Target) : Statement (.or w g t0 t1) := of_parse rfl <| by
  rw [parse_int2]
  simp only [gateOf_code, targetOf_code]
  rfl

theorem xor (w : Width) (g : Gate) (t0 t1 : Target) : Statement (.xor w g t0 t1) := of_parse rfl <| by
  rw [parse_int2]
  simp only [gateOf_code, targetOf_code]
  rfl

theorem andn (w : Width) (g : Gate) (t0 t1 : Target) : Statement (.andn w g t0 t1) := of_parse rfl <| by
  rw [parse_int2]
  simp only [gateOf_code, targetOf_code]
  rfl

theorem shl (w : Width) (g : Gate) (t0 t1 : Target) : Statement (.shl w g t0 t1) := of_parse rfl <| by
  rw [parse_int2]
  simp only [gateOf_code, targetOf_code]
  rfl

theorem shr (w : Width) (g : Gate) (t0 t1 : Target) : Statement (.shr w g t0 t1) := of_parse rfl <| by
  rw [parse_int2]
  simp only [gateOf_code, targetOf_code]
  rfl

theorem sra (w : Width) (g : Gate) (t0 t1 : Target) : Statement (.sra w g t0 t1) := of_parse rfl <| by
  rw [parse_int2]
  simp only [gateOf_code, targetOf_code]
  rfl

theorem rotl (w : Width) (g : Gate) (t0 t1 : Target) : Statement (.rotl w g t0 t1) := of_parse rfl <| by
  rw [parse_int2]
  simp only [gateOf_code, targetOf_code]
  rfl

theorem min (w : Width) (g : Gate) (t0 t1 : Target) : Statement (.min w g t0 t1) := of_parse rfl <| by
  rw [parse_int2]
  simp only [gateOf_code, targetOf_code]
  rfl

theorem max (w : Width) (g : Gate) (t0 t1 : Target) : Statement (.max w g t0 t1) := of_parse rfl <| by
  rw [parse_int2]
  simp only [gateOf_code, targetOf_code]
  rfl

theorem minn (w : Width) (g : Gate) (t0 t1 : Target) : Statement (.minn w g t0 t1) := of_parse rfl <| by
  rw [parse_int2]
  simp only [gateOf_code, targetOf_code]
  rfl

theorem maxn (w : Width) (g : Gate) (t0 t1 : Target) : Statement (.maxn w g t0 t1) := of_parse rfl <| by
  rw [parse_int2]
  simp only [gateOf_code, targetOf_code]
  rfl

theorem clz (w : Width) (g : Gate) (t0 t1 : Target) : Statement (.clz w g t0 t1) := of_parse rfl <| by
  rw [parse_int1]
  simp [parseInt1, entry, int1Table, gateOf_code, targetOf_code]

theorem ctz (w : Width) (g : Gate) (t0 t1 : Target) : Statement (.ctz w g t0 t1) := of_parse rfl <| by
  rw [parse_int1]
  simp [parseInt1, entry, int1Table, gateOf_code, targetOf_code]

theorem popc (w : Width) (g : Gate) (t0 t1 : Target) : Statement (.popc w g t0 t1) := of_parse rfl <| by
  rw [parse_int1]
  simp [parseInt1, entry, int1Table, gateOf_code, targetOf_code]

theorem sext (w : Width) (g : Gate) (t0 t1 : Target) : Statement (.sext w g t0 t1) := of_parse rfl <| by
  rw [parse_int1]
  simp [parseInt1, entry, int1Table, gateOf_code, targetOf_code]

theorem zext (w : Width) (g : Gate) (t0 t1 : Target) : Statement (.zext w g t0 t1) := of_parse rfl <| by
  rw [parse_int1]
  simp [parseInt1, entry, int1Table, gateOf_code, targetOf_code]

theorem bfx (w : Width) (g : Gate) (p : BitVec 6) (t0 : Target) : Statement (.bfx w g p t0) := of_parse rfl <| by
  rw [parse_int1]
  simp [parseInt1, guardCode, gateOf_code, targetOf_code, low 6 512 p (by decide), (p.isLt : p.toNat < 64)]

theorem bfi (w : Width) (g : Gate) (p : BitVec 6) (t0 : Target) : Statement (.bfi w g p t0) := of_parse rfl <| by
  rw [parse_int1]
  simp [parseInt1, guardCode, gateOf_code, targetOf_code, low 6 512 p (by decide), (p.isLt : p.toNat < 64)]

theorem lea (g : Gate) (sh : BitVec 3) (t0 : Target) : Statement (.lea g sh t0) := of_parse rfl <| by
  have h := parse_int1 .w64 7 g.code (BitVec.ofNat 9 sh.toNat) t0.code
  refine Eq.trans h ?_
  simp [parseInt1, guardCode, gateOf_code, targetOf_code, low 3 512 sh (by decide), (sh.isLt : sh.toNat < 8)]

theorem cmpEq (w : Width) (g : Gate) (t0 t1 : Target) : Statement (.cmpEq w g t0 t1) := of_parse rfl <| by
  rw [parse_int1]
  simp [parseInt1, entry, cmpTable, gateOf_code, targetOf_code]

theorem cmpNe (w : Width) (g : Gate) (t0 t1 : Target) : Statement (.cmpNe w g t0 t1) := of_parse rfl <| by
  rw [parse_int1]
  simp [parseInt1, entry, cmpTable, gateOf_code, targetOf_code]

theorem cmpLt (w : Width) (g : Gate) (t0 t1 : Target) : Statement (.cmpLt w g t0 t1) := of_parse rfl <| by
  rw [parse_int1]
  simp [parseInt1, entry, cmpTable, gateOf_code, targetOf_code]

theorem cmpLe (w : Width) (g : Gate) (t0 t1 : Target) : Statement (.cmpLe w g t0 t1) := of_parse rfl <| by
  rw [parse_int1]
  simp [parseInt1, entry, cmpTable, gateOf_code, targetOf_code]

theorem cmpLtn (w : Width) (g : Gate) (t0 t1 : Target) : Statement (.cmpLtn w g t0 t1) := of_parse rfl <| by
  rw [parse_int1]
  simp [parseInt1, entry, cmpTable, gateOf_code, targetOf_code]

theorem cmpLen (w : Width) (g : Gate) (t0 t1 : Target) : Statement (.cmpLen w g t0 t1) := of_parse rfl <| by
  rw [parse_int1]
  simp [parseInt1, entry, cmpTable, gateOf_code, targetOf_code]

theorem addi (w : Width) (g : Gate) (v : BitVec 10) (t0 : Target) : Statement (.addi w g v t0) := of_parse rfl <| by
  rw [parse_imm]
  simp only [gateOf_code, targetOf_code]
  rfl

theorem andi (w : Width) (g : Gate) (v : BitVec 10) (t0 : Target) : Statement (.andi w g v t0) := of_parse rfl <| by
  rw [parse_imm]
  simp only [gateOf_code, targetOf_code]
  rfl

theorem ori (w : Width) (g : Gate) (v : BitVec 10) (t0 : Target) : Statement (.ori w g v t0) := of_parse rfl <| by
  rw [parse_imm]
  simp only [gateOf_code, targetOf_code]
  rfl

theorem xori (w : Width) (g : Gate) (v : BitVec 10) (t0 : Target) : Statement (.xori w g v t0) := of_parse rfl <| by
  rw [parse_imm]
  simp only [gateOf_code, targetOf_code]
  rfl

theorem shli (w : Width) (g : Gate) (v : BitVec 10) (t0 : Target) : Statement (.shli w g v t0) := of_parse rfl <| by
  rw [parse_imm]
  simp only [gateOf_code, targetOf_code]
  rfl

theorem shri (w : Width) (g : Gate) (v : BitVec 10) (t0 : Target) : Statement (.shri w g v t0) := of_parse rfl <| by
  rw [parse_imm]
  simp only [gateOf_code, targetOf_code]
  rfl

theorem srai (w : Width) (g : Gate) (v : BitVec 10) (t0 : Target) : Statement (.srai w g v t0) := of_parse rfl <| by
  rw [parse_imm]
  simp only [gateOf_code, targetOf_code]
  rfl

theorem muli (w : Width) (g : Gate) (v : BitVec 10) (t0 : Target) : Statement (.muli w g v t0) := of_parse rfl <| by
  rw [parse_imm]
  simp only [gateOf_code, targetOf_code]
  rfl

theorem cmpiEq (w : Width) (g : Gate) (v : BitVec 10) (t0 : Target) : Statement (.cmpiEq w g v t0) := of_parse rfl <| by
  rw [parse_imm]
  simp only [gateOf_code, targetOf_code]
  rfl

theorem cmpiNe (w : Width) (g : Gate) (v : BitVec 10) (t0 : Target) : Statement (.cmpiNe w g v t0) := of_parse rfl <| by
  rw [parse_imm]
  simp only [gateOf_code, targetOf_code]
  rfl

theorem cmpiLt (w : Width) (g : Gate) (v : BitVec 10) (t0 : Target) : Statement (.cmpiLt w g v t0) := of_parse rfl <| by
  rw [parse_imm]
  simp only [gateOf_code, targetOf_code]
  rfl

theorem cmpiLe (w : Width) (g : Gate) (v : BitVec 10) (t0 : Target) : Statement (.cmpiLe w g v t0) := of_parse rfl <| by
  rw [parse_imm]
  simp only [gateOf_code, targetOf_code]
  rfl

theorem cmpiLtn (w : Width) (g : Gate) (v : BitVec 10) (t0 : Target) : Statement (.cmpiLtn w g v t0) := of_parse rfl <| by
  rw [parse_imm]
  simp only [gateOf_code, targetOf_code]
  rfl

theorem cmpiLen (w : Width) (g : Gate) (v : BitVec 10) (t0 : Target) : Statement (.cmpiLen w g v t0) := of_parse rfl <| by
  rw [parse_imm]
  simp only [gateOf_code, targetOf_code]
  rfl

theorem ld (sp : Space) (wd : MWidth) (g : Gate) (off : BitVec 7) (t0 : Target) : Statement (.ld sp wd g off t0) := of_parse rfl <| by
  rw [parse_memory 0x18 (by decide)]
  simp [parseMemory, gateOf_code, targetOf_code]

theorem ldWait (sp : Space) (wd : MWidth) (g : Gate) (off : BitVec 7) (t0 : Target) : Statement (.ldWait sp wd g off t0) := of_parse rfl <| by
  rw [parse_memory 0x18 (by decide)]
  simp [parseMemory, gateOf_code, targetOf_code]

theorem ldTake (sp : Space) (wd : MWidth) (g : Gate) (off : BitVec 7) (t0 : Target) : Statement (.ldTake sp wd g off t0) := of_parse rfl <| by
  rw [parse_memory 0x18 (by decide)]
  simp [parseMemory, gateOf_code, targetOf_code]

theorem lds (sp : Space) (wd : MWidth) (fe : BitVec 2) (g : Gate) (off : BitVec 7) (t0 : Target) : Statement (.lds sp wd fe g off t0) := of_parse rfl <| by
  rw [parse_memory 0x19 (by decide)]
  simp [parseMemory, gateOf_code, targetOf_code]

theorem ldRaw (sp : Space) (wd : MWidth) (fe : BitVec 2) (g : Gate) (off : BitVec 7) (t0 : Target) : Statement (.ldRaw sp wd fe g off t0) := of_parse rfl <| by
  rw [parse_memory 0x1d (by decide)]
  simp [parseMemory, gateOf_code, targetOf_code]

theorem st (sp : Space) (wd : MWidth) (g : Gate) (off : BitVec 7) (t0 : Target) : Statement (.st sp wd g off t0) := of_parse rfl <| by
  rw [parse_memory 0x1a (by decide)]
  simp [parseMemory, gateOf_code, targetOf_code]

theorem fill (sp : Space) (wd : MWidth) (g : Gate) (off : BitVec 7) (t0 : Target) : Statement (.fill sp wd g off t0) := of_parse rfl <| by
  rw [parse_memory 0x1a (by decide)]
  simp [parseMemory, gateOf_code, targetOf_code]

theorem empty (sp : Space) (wd : MWidth) (g : Gate) (off : BitVec 7) (t0 : Target) : Statement (.empty sp wd g off t0) := of_parse rfl <| by
  rw [parse_memory 0x1b (by decide)]
  simp [parseMemory, gateOf_code, targetOf_code]

theorem wcvLoad (sp : Space) (wd : MWidth) (g : Gate) (off : BitVec 7) (t0 : Target) : Statement (.wcvLoad sp wd g off t0) := fun h => by
  have ht : (t0.code == 0) = false := by
    rw [targetOf_code_zero]
    cases t0 <;> simp_all [wf, wfCode, failIf]
  refine of_parse rfl ?_ h
  rw [parse_memory 0x1C (by decide)]
  simp_all [parseMemory, gateOf_code, targetOf_code]

theorem wcvStore (sp : Space) (wd : MWidth) (g : Gate) (off : BitVec 7) : Statement (.wcvStore sp wd g off) := of_parse rfl <| by
  rw [parse_memory 0x1c (by decide)]
  simp [parseMemory, gateOf_code]

theorem atomAdd (sp : Space) (wd : MWidth) (g : Gate) (t0 : Target) : Statement (.atomAdd sp wd g t0) := of_parse rfl <| by
  rw [parse_atomic 0x20 (by decide)]
  simp [parseAtomic, entry, atomTable, gateOf_code, targetOf_code]

theorem atomEsum (sp : Space) (wd : MWidth) (g : Gate) (t0 : Target) : Statement (.atomEsum sp wd g t0) := of_parse rfl <| by
  rw [parse_atomic 0x20 (by decide)]
  simp [parseAtomic, entry, atomTable, gateOf_code, targetOf_code]

theorem atomAnd (sp : Space) (wd : MWidth) (g : Gate) (t0 : Target) : Statement (.atomAnd sp wd g t0) := of_parse rfl <| by
  rw [parse_atomic 0x20 (by decide)]
  simp [parseAtomic, entry, atomTable, gateOf_code, targetOf_code]

theorem atomOr (sp : Space) (wd : MWidth) (g : Gate) (t0 : Target) : Statement (.atomOr sp wd g t0) := of_parse rfl <| by
  rw [parse_atomic 0x20 (by decide)]
  simp [parseAtomic, entry, atomTable, gateOf_code, targetOf_code]

theorem atomXor (sp : Space) (wd : MWidth) (g : Gate) (t0 : Target) : Statement (.atomXor sp wd g t0) := of_parse rfl <| by
  rw [parse_atomic 0x20 (by decide)]
  simp [parseAtomic, entry, atomTable, gateOf_code, targetOf_code]

theorem atomMin (sp : Space) (wd : MWidth) (g : Gate) (t0 : Target) : Statement (.atomMin sp wd g t0) := of_parse rfl <| by
  rw [parse_atomic 0x20 (by decide)]
  simp [parseAtomic, entry, atomTable, gateOf_code, targetOf_code]

theorem atomMax (sp : Space) (wd : MWidth) (g : Gate) (t0 : Target) : Statement (.atomMax sp wd g t0) := of_parse rfl <| by
  rw [parse_atomic 0x20 (by decide)]
  simp [parseAtomic, entry, atomTable, gateOf_code, targetOf_code]

theorem atomMinn (sp : Space) (wd : MWidth) (g : Gate) (t0 : Target) : Statement (.atomMinn sp wd g t0) := of_parse rfl <| by
  rw [parse_atomic 0x20 (by decide)]
  simp [parseAtomic, entry, atomTable, gateOf_code, targetOf_code]

theorem atomMaxn (sp : Space) (wd : MWidth) (g : Gate) (t0 : Target) : Statement (.atomMaxn sp wd g t0) := of_parse rfl <| by
  rw [parse_atomic 0x20 (by decide)]
  simp [parseAtomic, entry, atomTable, gateOf_code, targetOf_code]

theorem atomFmin (sp : Space) (wd : MWidth) (g : Gate) (t0 : Target) : Statement (.atomFmin sp wd g t0) := of_parse rfl <| by
  rw [parse_atomic 0x20 (by decide)]
  simp [parseAtomic, entry, atomTable, gateOf_code, targetOf_code]

theorem atomFmax (sp : Space) (wd : MWidth) (g : Gate) (t0 : Target) : Statement (.atomFmax sp wd g t0) := of_parse rfl <| by
  rw [parse_atomic 0x20 (by decide)]
  simp [parseAtomic, entry, atomTable, gateOf_code, targetOf_code]

theorem atomSwap (sp : Space) (wd : MWidth) (g : Gate) (t0 : Target) : Statement (.atomSwap sp wd g t0) := of_parse rfl <| by
  rw [parse_atomic 0x20 (by decide)]
  simp [parseAtomic, entry, atomTable, gateOf_code, targetOf_code]

theorem cas (sp : Space) (wd : MWidth) (g : Gate) (t0 : Target) : Statement (.cas sp wd g t0) := of_parse rfl <| by
  rw [parse_atomic 0x21 (by decide)]
  simp [parseAtomic, guardCode, gateOf_code, targetOf_code]

theorem step (g : Gate) (n : BitVec 6) : Statement (.step g n) := of_parse rfl <| by
  rw [parse_sync]
  simp [parseSync, guardCode, gateOf_code, low 6 1024 n (by decide), (n.isLt : n.toNat < 64)]

theorem barr (g : Gate) (n : BitVec 5) : Statement (.barr g n) := of_parse rfl <| by
  rw [parse_sync]
  simp [parseSync, guardCode, gateOf_code, low 5 1024 n (by decide), (n.isLt : n.toNat < 32)]

theorem bwait (g : Gate) (n : BitVec 5) (t0 : Target) : Statement (.bwait g n t0) := of_parse rfl <| by
  rw [parse_sync]
  simp [parseSync, guardCode, gateOf_code, targetOf_code, low 5 1024 n (by decide), (n.isLt : n.toNat < 32)]

theorem fenceCore (g : Gate) (t0 : Target) : Statement (.fenceCore g t0) := of_parse rfl <| by
  rw [parse_sync]
  simp [parseSync, entry, fenceTable, guardCode, gateOf_code, targetOf_code]

theorem fenceClus (g : Gate) (t0 : Target) : Statement (.fenceClus g t0) := of_parse rfl <| by
  rw [parse_sync]
  simp [parseSync, entry, fenceTable, guardCode, gateOf_code, targetOf_code]

theorem fenceDie (g : Gate) (t0 : Target) : Statement (.fenceDie g t0) := of_parse rfl <| by
  rw [parse_sync]
  simp [parseSync, entry, fenceTable, guardCode, gateOf_code, targetOf_code]

theorem fencePkg (g : Gate) (t0 : Target) : Statement (.fencePkg g t0) := of_parse rfl <| by
  rw [parse_sync]
  simp [parseSync, entry, fenceTable, guardCode, gateOf_code, targetOf_code]

theorem fenceSys (g : Gate) (t0 : Target) : Statement (.fenceSys g t0) := of_parse rfl <| by
  rw [parse_sync]
  simp [parseSync, entry, fenceTable, guardCode, gateOf_code, targetOf_code]

theorem combAdd (g : Gate) (v : Bool) (n : BitVec 7) (t0 : Target) : Statement (.combAdd g v n t0) := of_parse rfl <| by
  rw [parse_comb]
  simp [entry, combTable, isOne_bit, guardCode, gateOf_code, targetOf_code, low 7 512 n (by decide), (n.isLt : n.toNat < 128)]

theorem combMin (g : Gate) (v : Bool) (n : BitVec 7) (t0 : Target) : Statement (.combMin g v n t0) := of_parse rfl <| by
  rw [parse_comb]
  simp [entry, combTable, isOne_bit, guardCode, gateOf_code, targetOf_code, low 7 512 n (by decide), (n.isLt : n.toNat < 128)]

theorem combMax (g : Gate) (v : Bool) (n : BitVec 7) (t0 : Target) : Statement (.combMax g v n t0) := of_parse rfl <| by
  rw [parse_comb]
  simp [entry, combTable, isOne_bit, guardCode, gateOf_code, targetOf_code, low 7 512 n (by decide), (n.isLt : n.toNat < 128)]

theorem combMinn (g : Gate) (v : Bool) (n : BitVec 7) (t0 : Target) : Statement (.combMinn g v n t0) := of_parse rfl <| by
  rw [parse_comb]
  simp [entry, combTable, isOne_bit, guardCode, gateOf_code, targetOf_code, low 7 512 n (by decide), (n.isLt : n.toNat < 128)]

theorem combMaxn (g : Gate) (v : Bool) (n : BitVec 7) (t0 : Target) : Statement (.combMaxn g v n t0) := of_parse rfl <| by
  rw [parse_comb]
  simp [entry, combTable, isOne_bit, guardCode, gateOf_code, targetOf_code, low 7 512 n (by decide), (n.isLt : n.toNat < 128)]

theorem combAnd (g : Gate) (v : Bool) (n : BitVec 7) (t0 : Target) : Statement (.combAnd g v n t0) := of_parse rfl <| by
  rw [parse_comb]
  simp [entry, combTable, isOne_bit, guardCode, gateOf_code, targetOf_code, low 7 512 n (by decide), (n.isLt : n.toNat < 128)]

theorem combOr (g : Gate) (v : Bool) (n : BitVec 7) (t0 : Target) : Statement (.combOr g v n t0) := of_parse rfl <| by
  rw [parse_comb]
  simp [entry, combTable, isOne_bit, guardCode, gateOf_code, targetOf_code, low 7 512 n (by decide), (n.isLt : n.toNat < 128)]

theorem combXor (g : Gate) (v : Bool) (n : BitVec 7) (t0 : Target) : Statement (.combXor g v n t0) := of_parse rfl <| by
  rw [parse_comb]
  simp [entry, combTable, isOne_bit, guardCode, gateOf_code, targetOf_code, low 7 512 n (by decide), (n.isLt : n.toNat < 128)]

theorem combFadd (g : Gate) (v : Bool) (n : BitVec 7) (t0 : Target) : Statement (.combFadd g v n t0) := of_parse rfl <| by
  rw [parse_comb]
  simp [entry, combTable, isOne_bit, guardCode, gateOf_code, targetOf_code, low 7 512 n (by decide), (n.isLt : n.toNat < 128)]

theorem combFmin (g : Gate) (v : Bool) (n : BitVec 7) (t0 : Target) : Statement (.combFmin g v n t0) := of_parse rfl <| by
  rw [parse_comb]
  simp [entry, combTable, isOne_bit, guardCode, gateOf_code, targetOf_code, low 7 512 n (by decide), (n.isLt : n.toNat < 128)]

theorem combFmax (g : Gate) (v : Bool) (n : BitVec 7) (t0 : Target) : Statement (.combFmax g v n t0) := of_parse rfl <| by
  rw [parse_comb]
  simp [entry, combTable, isOne_bit, guardCode, gateOf_code, targetOf_code, low 7 512 n (by decide), (n.isLt : n.toNat < 128)]

theorem redF32 (g : Gate) (t : BitVec 6) : Statement (.redF32 g t) := of_parse rfl <| by
  rw [parse_red]
  simp [parseRed, guardCode, gateOf_code, low 6 1024 t (by decide), (t.isLt : t.toNat < 64)]

theorem redXs (g : Gate) (t : BitVec 6) : Statement (.redXs g t) := of_parse rfl <| by
  rw [parse_red]
  simp [parseRed, guardCode, gateOf_code, low 6 1024 t (by decide), (t.isLt : t.toNat < 64)]

theorem vadd (f : Fmt) (rm : Rm) (g : Gate) (t0 t1 : Target) : Statement (.vadd f rm g t0 t1) := of_parse rfl <| by
  rw [parse_vector]
  cases rm <;> simp [parseVector, Rm.code, rmOf, gateOf_code, targetOf_code]

theorem vsub (f : Fmt) (rm : Rm) (g : Gate) (t0 t1 : Target) : Statement (.vsub f rm g t0 t1) := of_parse rfl <| by
  rw [parse_vector]
  cases rm <;> simp [parseVector, Rm.code, rmOf, gateOf_code, targetOf_code]

theorem vmul (f : Fmt) (rm : Rm) (g : Gate) (t0 t1 : Target) : Statement (.vmul f rm g t0 t1) := of_parse rfl <| by
  rw [parse_vector]
  cases rm <;> simp [parseVector, Rm.code, rmOf, gateOf_code, targetOf_code]

theorem vfma (f : Fmt) (rm : Rm) (t0 t1 : Target) : Statement (.vfma f rm t0 t1) := of_parse rfl <| by
  rw [parse_vector]
  cases rm <;> simp [parseVector, guardCode, Rm.code, rmOf, targetOf_code, gateOf_none]

theorem vfms (f : Fmt) (rm : Rm) (t0 t1 : Target) : Statement (.vfms f rm t0 t1) := of_parse rfl <| by
  rw [parse_vector]
  cases rm <;> simp [parseVector, guardCode, Rm.code, rmOf, targetOf_code, gateOf_none]

theorem vmax (f : Fmt) (g : Gate) (t0 t1 : Target) : Statement (.vmax f g t0 t1) := of_parse rfl <| by
  rw [parse_vector]
  simp [parseVector, guardCode, gateOf_code, targetOf_code]

theorem vmin (f : Fmt) (g : Gate) (t0 t1 : Target) : Statement (.vmin f g t0 t1) := of_parse rfl <| by
  rw [parse_vector]
  simp [parseVector, guardCode, gateOf_code, targetOf_code]

theorem vabs (f : Fmt) (g : Gate) (t0 t1 : Target) : Statement (.vabs f g t0 t1) := of_parse rfl <| by
  rw [parse_vector]
  simp [parseVector, guardCode, gateOf_code, targetOf_code]

theorem vneg (f : Fmt) (g : Gate) (t0 t1 : Target) : Statement (.vneg f g t0 t1) := of_parse rfl <| by
  rw [parse_vector]
  simp [parseVector, guardCode, gateOf_code, targetOf_code]

theorem vrcp (f : Fmt) (rm : Rm) (g : Gate) (t0 t1 : Target) : Statement (.vrcp f rm g t0 t1) := of_parse rfl <| by
  rw [parse_vector]
  cases rm <;> simp [parseVector, Rm.code, rmOf, gateOf_code, targetOf_code]

theorem vrsq (f : Fmt) (rm : Rm) (g : Gate) (t0 t1 : Target) : Statement (.vrsq f rm g t0 t1) := of_parse rfl <| by
  rw [parse_vector]
  cases rm <;> simp [parseVector, Rm.code, rmOf, gateOf_code, targetOf_code]

theorem vsqrt (f : Fmt) (rm : Rm) (g : Gate) (t0 t1 : Target) : Statement (.vsqrt f rm g t0 t1) := of_parse rfl <| by
  rw [parse_vector]
  cases rm <;> simp [parseVector, Rm.code, rmOf, gateOf_code, targetOf_code]

theorem vexp2 (f : Fmt) (rm : Rm) (g : Gate) (t0 t1 : Target) : Statement (.vexp2 f rm g t0 t1) := of_parse rfl <| by
  rw [parse_vector]
  cases rm <;> simp [parseVector, Rm.code, rmOf, gateOf_code, targetOf_code]

theorem vlog2 (f : Fmt) (rm : Rm) (g : Gate) (t0 t1 : Target) : Statement (.vlog2 f rm g t0 t1) := of_parse rfl <| by
  rw [parse_vector]
  cases rm <;> simp [parseVector, Rm.code, rmOf, gateOf_code, targetOf_code]

theorem vtanh (f : Fmt) (rm : Rm) (g : Gate) (t0 t1 : Target) : Statement (.vtanh f rm g t0 t1) := of_parse rfl <| by
  rw [parse_vector]
  cases rm <;> simp [parseVector, Rm.code, rmOf, gateOf_code, targetOf_code]

theorem vcmp (f : Fmt) (c : VCond) (g : Gate) (t0 t1 : Target) : Statement (.vcmp f c g t0 t1) := of_parse rfl <| by
  rw [parse_vector]
  cases c <;> simp [parseVector, VCond.code, condOf, gateOf_code, targetOf_code]

theorem vsel (t0 t1 : Target) : Statement (.vsel t0 t1) := of_parse rfl <| by
  rw [parse_lane]
  simp [parseLane, guardCode, targetOf_code, gateOf_none]

theorem vbcastW32 (g : Gate) (t0 t1 : Target) : Statement (.vbcastW32 g t0 t1) := of_parse rfl <| by
  rw [parse_lane]
  simp [parseLane, entry, laneTable, gateOf_code, targetOf_code]

theorem vbcastW16 (g : Gate) (t0 t1 : Target) : Statement (.vbcastW16 g t0 t1) := of_parse rfl <| by
  rw [parse_lane]
  simp [parseLane, entry, laneTable, gateOf_code, targetOf_code]

theorem vbcastW8 (g : Gate) (t0 t1 : Target) : Statement (.vbcastW8 g t0 t1) := of_parse rfl <| by
  rw [parse_lane]
  simp [parseLane, entry, laneTable, gateOf_code, targetOf_code]

theorem vpermW32 (g : Gate) (t0 t1 : Target) : Statement (.vpermW32 g t0 t1) := of_parse rfl <| by
  rw [parse_lane]
  simp [parseLane, entry, laneTable, gateOf_code, targetOf_code]

theorem vpermW16 (g : Gate) (t0 t1 : Target) : Statement (.vpermW16 g t0 t1) := of_parse rfl <| by
  rw [parse_lane]
  simp [parseLane, entry, laneTable, gateOf_code, targetOf_code]

theorem vpermW8 (g : Gate) (t0 t1 : Target) : Statement (.vpermW8 g t0 t1) := of_parse rfl <| by
  rw [parse_lane]
  simp [parseLane, entry, laneTable, gateOf_code, targetOf_code]

theorem vextrW32 (g : Gate) (l : BitVec 6) (t0 : Target) : Statement (.vextrW32 g l t0) := of_parse rfl <| by
  rw [parse_lane]
  simp [parseLane, entry, elementTable, guardCode, gateOf_code, targetOf_code, low 6 512 l (by decide), (l.isLt : l.toNat < 64)]

theorem vextrW16 (g : Gate) (l : BitVec 6) (t0 : Target) : Statement (.vextrW16 g l t0) := of_parse rfl <| by
  rw [parse_lane]
  simp [parseLane, entry, elementTable, guardCode, gateOf_code, targetOf_code, low 6 512 l (by decide), (l.isLt : l.toNat < 64)]

theorem vextrW8 (g : Gate) (l : BitVec 6) (t0 : Target) : Statement (.vextrW8 g l t0) := of_parse rfl <| by
  rw [parse_lane]
  simp [parseLane, entry, elementTable, guardCode, gateOf_code, targetOf_code, low 6 512 l (by decide), (l.isLt : l.toNat < 64)]

theorem vinsW32 (g : Gate) (l : BitVec 6) (t0 : Target) : Statement (.vinsW32 g l t0) := of_parse rfl <| by
  rw [parse_lane]
  simp [parseLane, entry, elementTable, guardCode, gateOf_code, targetOf_code, low 6 512 l (by decide), (l.isLt : l.toNat < 64)]

theorem vinsW16 (g : Gate) (l : BitVec 6) (t0 : Target) : Statement (.vinsW16 g l t0) := of_parse rfl <| by
  rw [parse_lane]
  simp [parseLane, entry, elementTable, guardCode, gateOf_code, targetOf_code, low 6 512 l (by decide), (l.isLt : l.toNat < 64)]

theorem vinsW8 (g : Gate) (l : BitVec 6) (t0 : Target) : Statement (.vinsW8 g l t0) := of_parse rfl <| by
  rw [parse_lane]
  simp [parseLane, entry, elementTable, guardCode, gateOf_code, targetOf_code, low 6 512 l (by decide), (l.isLt : l.toNat < 64)]

theorem vrsum (f : Fmt) (g : Gate) (t0 t1 : Target) : Statement (.vrsum f g t0 t1) := of_parse rfl <| by
  rw [parse_reduce]
  cases f <;> simp [parseReduce, entry, reduceTable, Fmt.code, fmtOf, gateOf_code, targetOf_code]

theorem vrmax (f : Fmt) (g : Gate) (t0 t1 : Target) : Statement (.vrmax f g t0 t1) := of_parse rfl <| by
  rw [parse_reduce]
  cases f <;> simp [parseReduce, entry, reduceTable, Fmt.code, fmtOf, gateOf_code, targetOf_code]

theorem vrmin (f : Fmt) (g : Gate) (t0 t1 : Target) : Statement (.vrmin f g t0 t1) := of_parse rfl <| by
  rw [parse_reduce]
  cases f <;> simp [parseReduce, entry, reduceTable, Fmt.code, fmtOf, gateOf_code, targetOf_code]

theorem vamax (f : Fmt) (g : Gate) (t0 t1 : Target) : Statement (.vamax f g t0 t1) := of_parse rfl <| by
  rw [parse_reduce]
  cases f <;> simp [parseReduce, entry, reduceTable, Fmt.code, fmtOf, gateOf_code, targetOf_code]

theorem vexpo (f : Fmt) (g : Gate) (t0 t1 : Target) : Statement (.vexpo f g t0 t1) := of_parse rfl <| by
  rw [parse_reduce]
  cases f <;> simp [parseReduce, entry, reduceTable, Fmt.code, fmtOf, gateOf_code, targetOf_code]

theorem vexpoSc (f : Fmt) (g : Gate) (t0 t1 : Target) : Statement (.vexpoSc f g t0 t1) := of_parse rfl <| by
  rw [parse_reduce]
  cases f <;> simp [parseReduce, guardCode, Fmt.code, fmtOf, gateOf_code, targetOf_code]

theorem vldexp (f : Fmt) (g : Gate) (t0 t1 : Target) : Statement (.vldexp f g t0 t1) := of_parse rfl <| by
  rw [parse_reduce]
  cases f <;> simp [parseReduce, entry, reduceTable, Fmt.code, fmtOf, gateOf_code, targetOf_code]

theorem vcvt (g : Gate) (dst src : BitVec 3) (ovf : BitVec 2) (rm : Rm) (t0 : Target) : Statement (.vcvt g dst src ovf rm t0) := of_parse rfl <| by
  have hd := dst.isLt
  have hs := src.isLt
  have ho := ovf.isLt
  have hr : rm.code < 4 := by cases rm <;> decide
  have h1 : (BitVec.ofNat 10 (dst.toNat * 128 + src.toNat * 16 + ovf.toNat * 4 + rm.code)).toNat = dst.toNat * 128 + src.toNat * 16 + ovf.toNat * 4 + rm.code := by rw [BitVec.toNat_ofNat]; omega
  have h2 : BitVec.ofNat 3 ((dst.toNat * 128 + src.toNat * 16 + ovf.toNat * 4 + rm.code) / 128) = dst := ofNat_eq 3 _ _ (by omega)
  have h3 : BitVec.ofNat 3 ((dst.toNat * 128 + src.toNat * 16 + ovf.toNat * 4 + rm.code) / 16) = src := ofNat_eq 3 _ _ (by omega)
  have h4 : BitVec.ofNat 2 ((dst.toNat * 128 + src.toNat * 16 + ovf.toNat * 4 + rm.code) / 4) = ovf := ofNat_eq 2 _ _ (by omega)
  have h5 : (dst.toNat * 128 + src.toNat * 16 + ovf.toNat * 4 + rm.code) % 4 = rm.code := by omega
  have h6 : rmOf rm.code = rm := by cases rm <;> rfl
  rw [parse_vcvt, h1]
  simp only [h2, h3, h4, h5, h6, gateOf_code, targetOf_code]

theorem vscale (g : Gate) (e : Bool) (t0 t1 : Target) : Statement (.vscale g e t0 t1) := of_parse rfl <| by
  rw [parse_scale]
  simp [parseScale, isOne_bit, gateOf_code, targetOf_code]

theorem sacc (e : Bool) (t0 t1 : Target) : Statement (.sacc e t0 t1) := of_parse rfl <| by
  rw [parse_scale]
  simp [parseScale, isOne_bit, guardCode, targetOf_code, gateOf_none]

theorem vpack (g : Gate) (k : BitVec 3) (t0 : Target) : Statement (.vpack g k t0) := of_parse rfl <| by
  rw [parse_scale]
  simp [parseScale, guardCode, gateOf_code, targetOf_code, low 3 512 k (by decide), (k.isLt : k.toNat < 8)]

theorem vunpackLo (g : Gate) (src : BitVec 4) (t0 : Target) : Statement (.vunpackLo g src t0) := of_parse rfl <| by
  rw [parse_scale]
  simp [parseScale, guardCode, gateOf_code, targetOf_code, low 4 512 src (by decide), (src.isLt : src.toNat < 16)]

theorem vunpackHi (g : Gate) (src : BitVec 4) (t0 : Target) : Statement (.vunpackHi g src t0) := of_parse rfl <| by
  rw [parse_scale]
  simp [parseScale, guardCode, gateOf_code, targetOf_code, low 4 512 src (by decide), (src.isLt : src.toNat < 16)]

theorem eaddF32 (g : Gate) (n : BitVec 3) (t0 : Target) : Statement (.eaddF32 g n t0) := of_parse rfl <| by
  rw [parse_exact]
  simp [parseExact, guardCode, gateOf_code, targetOf_code, low 3 1024 n (by decide), (n.isLt : n.toNat < 8)]

theorem eaddBf16 (g : Gate) (n : BitVec 3) (t0 : Target) : Statement (.eaddBf16 g n t0) := of_parse rfl <| by
  rw [parse_exact]
  simp [parseExact, guardCode, gateOf_code, targetOf_code, low 3 1024 n (by decide), (n.isLt : n.toNat < 8)]

theorem eroundF32 (g : Gate) (n : BitVec 3) (t0 : Target) : Statement (.eroundF32 g n t0) := of_parse rfl <| by
  rw [parse_exact]
  simp [parseExact, guardCode, gateOf_code, targetOf_code, low 3 1024 n (by decide), (n.isLt : n.toNat < 8)]

theorem eroundBf16 (g : Gate) (n : BitVec 3) (t0 : Target) : Statement (.eroundBf16 g n t0) := of_parse rfl <| by
  rw [parse_exact]
  simp [parseExact, guardCode, gateOf_code, targetOf_code, low 3 1024 n (by decide), (n.isLt : n.toNat < 8)]

theorem eclr (g : Gate) (n : BitVec 3) : Statement (.eclr g n) := of_parse rfl <| by
  rw [parse_exact]
  simp [parseExact, guardCode, gateOf_code, low 3 1024 n (by decide), (n.isLt : n.toNat < 8)]

theorem mma (acc : BitVec 2) (f : BitVec 2) (g : Gate) (t0 t1 : Target) : Statement (.mma acc f g t0 t1) := of_parse rfl <| by
  have ha := acc.isLt
  have hf := f.isLt
  have h1 : (BitVec.ofNat 5 (acc.toNat * 8 + 0 + f.toNat)).toNat = acc.toNat * 8 + f.toNat := by rw [BitVec.toNat_ofNat]; omega
  have h2 : (acc.toNat * 8 + f.toNat) / 8 = acc.toNat := by omega
  have h3 : (acc.toNat * 8 + f.toNat) % 8 = f.toNat := by omega
  have h4 : BitVec.ofNat 2 (acc.toNat * 8 + f.toNat) = f := ofNat_eq 2 _ _ (by omega)
  have h5 : f.toNat < 4 := f.isLt
  rw [parse_tile, h1]
  simp [parseMatrix, h2, h3, h4, h5, gateOf_code, targetOf_code]

theorem mmaG (acc : BitVec 2) (f : BitVec 2) (t0 t1 : Target) : Statement (.mmaG acc f t0 t1) := of_parse rfl <| by
  have ha := acc.isLt
  have hf := f.isLt
  have h1 : (BitVec.ofNat 5 (acc.toNat * 8 + 4 + f.toNat)).toNat = acc.toNat * 8 + 4 + f.toNat := by rw [BitVec.toNat_ofNat]; omega
  have h2 : (acc.toNat * 8 + 4 + f.toNat) / 8 = acc.toNat := by omega
  have h3 : (acc.toNat * 8 + 4 + f.toNat) % 8 = 4 + f.toNat := by omega
  have h4 : BitVec.ofNat 2 (acc.toNat * 8 + 4 + f.toNat) = f := ofNat_eq 2 _ _ (by omega)
  have h5 : f.toNat < 4 := f.isLt
  rw [parse_tile, h1]
  simp [parseMatrix, guardCode, h2, h3, h4, targetOf_code, gateOf_none]

theorem mmaCb (acc : BitVec 2) (g : Gate) (t0 t1 : Target) : Statement (.mmaCb acc g t0 t1) := of_parse rfl <| by
  have ha := acc.isLt
  have h1 : (BitVec.ofNat 5 (acc.toNat * 8 + 0)).toNat = acc.toNat * 8 := by rw [BitVec.toNat_ofNat]; omega
  have h2 : (acc.toNat * 8) / 8 = acc.toNat := by omega
  have h3 : (acc.toNat * 8) % 8 = 0 := by omega
  rw [parse_tile, h1]
  simp [parseMatrix, guardCode, h2, h3, gateOf_code, targetOf_code]

theorem accclr (acc : BitVec 2) (g : Gate) (t0 : Target) : Statement (.accclr acc g t0) := of_parse rfl <| by
  have ha := acc.isLt
  have h1 : (BitVec.ofNat 5 (acc.toNat * 8 + 0)).toNat = acc.toNat * 8 := by rw [BitVec.toNat_ofNat]; omega
  have h2 : (acc.toNat * 8) / 8 = acc.toNat := by omega
  have h3 : (acc.toNat * 8) % 8 = 0 := by omega
  rw [parse_acc, h1]
  simp [parseMatrix, guardCode, h2, h3, gateOf_code, targetOf_code]

theorem accrd (acc : BitVec 2) (g : Gate) (t0 t1 : Target) : Statement (.accrd acc g t0 t1) := of_parse rfl <| by
  have ha := acc.isLt
  have h1 : (BitVec.ofNat 5 (acc.toNat * 8 + 1)).toNat = acc.toNat * 8 + 1 := by rw [BitVec.toNat_ofNat]; omega
  have h2 : (acc.toNat * 8 + 1) / 8 = acc.toNat := by omega
  have h3 : (acc.toNat * 8 + 1) % 8 = 1 := by omega
  rw [parse_acc, h1]
  simp [parseMatrix, h2, h3, gateOf_code, targetOf_code]

theorem accrdSt (acc : BitVec 2) (g : Gate) (t0 : Target) : Statement (.accrdSt acc g t0) := of_parse rfl <| by
  have ha := acc.isLt
  have h1 : (BitVec.ofNat 5 (acc.toNat * 8 + 2)).toNat = acc.toNat * 8 + 2 := by rw [BitVec.toNat_ofNat]; omega
  have h2 : (acc.toNat * 8 + 2) / 8 = acc.toNat := by omega
  have h3 : (acc.toNat * 8 + 2) % 8 = 2 := by omega
  rw [parse_acc, h1]
  simp [parseMatrix, guardCode, h2, h3, gateOf_code, targetOf_code]

theorem accwr (acc : BitVec 2) (g : Gate) (t0 : Target) : Statement (.accwr acc g t0) := of_parse rfl <| by
  have ha := acc.isLt
  have h1 : (BitVec.ofNat 5 (acc.toNat * 8 + 3)).toNat = acc.toNat * 8 + 3 := by rw [BitVec.toNat_ofNat]; omega
  have h2 : (acc.toNat * 8 + 3) / 8 = acc.toNat := by omega
  have h3 : (acc.toNat * 8 + 3) % 8 = 3 := by omega
  rw [parse_acc, h1]
  simp [parseMatrix, guardCode, h2, h3, gateOf_code, targetOf_code]

theorem tdset (g : Gate) (fld : BitVec 6) (m : BitVec 4) : Statement (.tdset g fld m) := of_parse rfl <| by
  have hl := m.isLt
  have hh := fld.isLt
  have h1 : (BitVec.ofNat 10 (fld.toNat * 16 + m.toNat)).toNat = fld.toNat * 16 + m.toNat := by rw [BitVec.toNat_ofNat]; omega
  have h2 : (fld.toNat * 16 + m.toNat) / 16 = fld.toNat := by omega
  have h3 : BitVec.ofNat 4 (fld.toNat * 16 + m.toNat) = m := ofNat_eq 4 _ _ (by omega)
  rw [parse_tdset]
  simp [parseTdset, guardCode, h1, h2, h3, gateOf_code]

theorem copy (g : Gate) (t0 t1 : Target) : Statement (.copy g t0 t1) := of_parse rfl <| by
  rw [parse_streamer]
  simp [parseStreamer, guardCode, gateOf_code, targetOf_code]

theorem copyMc (g : Gate) (t0 t1 : Target) : Statement (.copyMc g t0 t1) := of_parse rfl <| by
  rw [parse_streamer]
  simp [parseStreamer, guardCode, gateOf_code, targetOf_code]

theorem stage (g : Gate) : Statement (.stage g) := of_parse rfl <| by
  rw [parse_streamer]
  simp [parseStreamer, guardCode, gateOf_code]

theorem xform (g : Gate) (t0 : Target) : Statement (.xform g t0) := of_parse rfl <| by
  rw [parse_streamer]
  simp [parseStreamer, guardCode, gateOf_code, targetOf_code]

theorem fprint (g : Gate) (core : Bool) (t0 t1 : Target) : Statement (.fprint g core t0 t1) := of_parse rfl <| by
  rw [parse_streamer]
  simp [parseStreamer, isOne_bit, gateOf_code, targetOf_code]

theorem dedup (g : Gate) (t0 : Target) : Statement (.dedup g t0) := of_parse rfl <| by
  rw [parse_streamer]
  simp [parseStreamer, guardCode, gateOf_code, targetOf_code]

theorem gatherRows (g : Gate) (t0 t1 : Target) : Statement (.gatherRows g t0 t1) := of_parse rfl <| by
  rw [parse_gather]
  simp [parseGather, entry, gatherTable, guardCode, gateOf_code, targetOf_code]

theorem gatherSum (g : Gate) (t0 t1 : Target) : Statement (.gatherSum g t0 t1) := of_parse rfl <| by
  rw [parse_gather]
  simp [parseGather, entry, gatherTable, guardCode, gateOf_code, targetOf_code]

theorem gatherMean (g : Gate) (t0 t1 : Target) : Statement (.gatherMean g t0 t1) := of_parse rfl <| by
  rw [parse_gather]
  simp [parseGather, entry, gatherTable, guardCode, gateOf_code, targetOf_code]

theorem gatherWsum (g : Gate) (t0 t1 : Target) : Statement (.gatherWsum g t0 t1) := of_parse rfl <| by
  rw [parse_gather]
  simp [parseGather, entry, gatherTable, guardCode, gateOf_code, targetOf_code]

theorem scatterAdd (g : Gate) (t0 t1 : Target) : Statement (.scatterAdd g t0 t1) := of_parse rfl <| by
  rw [parse_gather]
  simp [parseGather, entry, scatterTable, guardCode, gateOf_code, targetOf_code]

theorem scatterMax (g : Gate) (t0 t1 : Target) : Statement (.scatterMax g t0 t1) := of_parse rfl <| by
  rw [parse_gather]
  simp [parseGather, entry, scatterTable, guardCode, gateOf_code, targetOf_code]

theorem scatterMin (g : Gate) (t0 t1 : Target) : Statement (.scatterMin g t0 t1) := of_parse rfl <| by
  rw [parse_gather]
  simp [parseGather, entry, scatterTable, guardCode, gateOf_code, targetOf_code]

theorem scatterOvw (g : Gate) (t0 t1 : Target) : Statement (.scatterOvw g t0 t1) := of_parse rfl <| by
  rw [parse_gather]
  simp [parseGather, entry, scatterTable, guardCode, gateOf_code, targetOf_code]

theorem attn (g : Gate) (t0 t1 : Target) : Statement (.attn g t0 t1) := of_parse rfl <| by
  rw [parse_gather]
  simp [parseGather, guardCode, gateOf_code, targetOf_code]

theorem randN64 (n : BitVec 2) (g : Gate) (v : Bool) (t0 t1 : Target) : Statement (.randN64 n g v t0 t1) := of_parse rfl <| by
  have hn := n.isLt
  have h1 : (BitVec.ofNat 5 (0 + n.toNat)).toNat = 0 + n.toNat := by rw [BitVec.toNat_ofNat]; omega
  have h2 : (0 + n.toNat) / 4 = 0 := by omega
  have h3 : BitVec.ofNat 2 (0 + n.toNat) = n := ofNat_eq 2 _ _ (by omega)
  rw [parse_random, h1]
  simp only [parseRandom, h2, h3, isOne_bit, gateOf_code, targetOf_code]

theorem randF32 (n : BitVec 2) (g : Gate) (v : Bool) (t0 t1 : Target) : Statement (.randF32 n g v t0 t1) := of_parse rfl <| by
  have hn := n.isLt
  have h1 : (BitVec.ofNat 5 (8 + n.toNat)).toNat = 8 + n.toNat := by rw [BitVec.toNat_ofNat]; omega
  have h2 : (8 + n.toNat) / 4 = 2 := by omega
  have h3 : BitVec.ofNat 2 (8 + n.toNat) = n := ofNat_eq 2 _ _ (by omega)
  rw [parse_random, h1]
  simp only [parseRandom, h2, h3, isOne_bit, gateOf_code, targetOf_code]

theorem rskip (n : BitVec 2) (g : Gate) (t0 : Target) : Statement (.rskip n g t0) := of_parse rfl <| by
  have hn := n.isLt
  have h1 : (BitVec.ofNat 5 (16 + n.toNat)).toNat = 16 + n.toNat := by rw [BitVec.toNat_ofNat]; omega
  have h2 : (16 + n.toNat) / 4 = 4 := by omega
  have h3 : BitVec.ofNat 2 (16 + n.toNat) = n := ofNat_eq 2 _ _ (by omega)
  rw [parse_random, h1]
  simp only [parseRandom, h2, h3, gateOf_code, targetOf_code]
  rfl

theorem spawn (g : Gate) : Statement (.spawn g) := of_parse rfl <| by
  rw [parse_task]
  simp [parseTask, guardCode, gateOf_code]

theorem alloc (g : Gate) (t0 : Target) : Statement (.alloc g t0) := of_parse rfl <| by
  rw [parse_task]
  simp [parseTask, guardCode, gateOf_code, targetOf_code]

theorem free (g : Gate) : Statement (.free g) := of_parse rfl <| by
  rw [parse_task]
  simp [parseTask, guardCode, gateOf_code]

theorem stopk (g : Gate) (n : BitVec 4) (t0 : Target) : Statement (.stopk g n t0) := of_parse rfl <| by
  rw [parse_soft]
  simp [parseSoft, guardCode, gateOf_code, targetOf_code, low 4 1024 n (by decide), (n.isLt : n.toNat < 16)]

theorem smix (g : Gate) (n : BitVec 4) (t0 : Target) : Statement (.smix g n t0) := of_parse rfl <| by
  rw [parse_soft]
  simp [parseSoft, guardCode, gateOf_code, targetOf_code, low 4 1024 n (by decide), (n.isLt : n.toNat < 16)]

theorem shid (g : Gate) (n : BitVec 4) (t0 : Target) : Statement (.shid g n t0) := of_parse rfl <| by
  rw [parse_soft]
  simp [parseSoft, guardCode, gateOf_code, targetOf_code, low 4 1024 n (by decide), (n.isLt : n.toNat < 16)]

theorem semb (g : Gate) (n : BitVec 4) (t0 : Target) : Statement (.semb g n t0) := of_parse rfl <| by
  have h2 : n.toNat / 16 = 0 := by have := n.isLt; omega
  rw [parse_soft]
  simp [parseSoft, guardCode, h2, gateOf_code, targetOf_code, low 4 1024 n (by decide)]

theorem sembProj (g : Gate) (n : BitVec 4) (t0 : Target) : Statement (.sembProj g n t0) := of_parse rfl <| by
  have hl := n.isLt
  have h1 : (BitVec.ofNat 10 (16 + n.toNat)).toNat = 16 + n.toNat := by rw [BitVec.toNat_ofNat]; omega
  have h2 : (16 + n.toNat) / 16 = 1 := by omega
  have h3 : BitVec.ofNat 4 (16 + n.toNat) = n := ofNat_eq 4 _ _ (by omega)
  rw [parse_soft]
  simp [parseSoft, guardCode, h1, h2, h3, gateOf_code, targetOf_code]

theorem scollArgmax (g : Gate) (n : BitVec 4) (t0 : Target) : Statement (.scollArgmax g n t0) := of_parse rfl <| by
  rw [parse_soft]
  simp [parseSoft, guardCode, gateOf_code, targetOf_code, low 4 1024 n (by decide), (n.isLt : n.toNat < 16)]

theorem scollSample (g : Gate) (m : BitVec 2) (n : BitVec 4) (t0 : Target) : Statement (.scollSample g m n t0) := of_parse rfl <| by
  have hl := n.isLt
  have hh := m.isLt
  have h1 : (BitVec.ofNat 10 (m.toNat * 16 + n.toNat)).toNat = m.toNat * 16 + n.toNat := by rw [BitVec.toNat_ofNat]; omega
  have h2 : (m.toNat * 16 + n.toNat) / 16 = m.toNat := by omega
  have h3 : BitVec.ofNat 4 (m.toNat * 16 + n.toNat) = n := ofNat_eq 4 _ _ (by omega)
  rw [parse_soft]
  simp [parseSoft, guardCode, h1, h2, h3, (hh : m.toNat < 4), gateOf_code, targetOf_code]

theorem scollConf (g : Gate) (n : BitVec 4) (t0 : Target) : Statement (.scollConf g n t0) := of_parse rfl <| by
  rw [parse_soft]
  simp [parseSoft, guardCode, gateOf_code, targetOf_code, low 4 1024 n (by decide), (n.isLt : n.toNat < 16)]

theorem slog (g : Gate) (r : BitVec 6) (n : BitVec 4) (t0 : Target) : Statement (.slog g r n t0) := of_parse rfl <| by
  have hl := n.isLt
  have hh := r.isLt
  have h1 : (BitVec.ofNat 10 (r.toNat * 16 + n.toNat)).toNat = r.toNat * 16 + n.toNat := by rw [BitVec.toNat_ofNat]; omega
  have h2 : (r.toNat * 16 + n.toNat) / 16 = r.toNat := by omega
  have h3 : BitVec.ofNat 4 (r.toNat * 16 + n.toNat) = n := ofNat_eq 4 _ _ (by omega)
  rw [parse_soft]
  simp [parseSoft, h1, h2, h3, gateOf_code, targetOf_code]

theorem scmp (g : Gate) (t0 : Target) : Statement (.scmp g t0) := of_parse rfl <| by
  rw [parse_soft]
  simp [parseSoft, guardCode, gateOf_code, targetOf_code]

theorem srpl (g : Gate) (n : BitVec 4) (t0 : Target) : Statement (.srpl g n t0) := of_parse rfl <| by
  rw [parse_soft]
  simp [parseSoft, guardCode, gateOf_code, targetOf_code, low 4 1024 n (by decide), (n.isLt : n.toNat < 16)]

theorem sget (g : Gate) (fld : BitVec 3) (n : BitVec 4) (t0 : Target) : Statement (.sget g fld n t0) := of_parse rfl <| by
  have hl := n.isLt
  have hh := fld.isLt
  have h1 : (BitVec.ofNat 10 (fld.toNat * 16 + n.toNat)).toNat = fld.toNat * 16 + n.toNat := by rw [BitVec.toNat_ofNat]; omega
  have h2 : (fld.toNat * 16 + n.toNat) / 16 = fld.toNat := by omega
  have h3 : BitVec.ofNat 4 (fld.toNat * 16 + n.toNat) = n := ofNat_eq 4 _ _ (by omega)
  rw [parse_soft]
  simp [parseSoft, guardCode, h1, h2, h3, (hh : fld.toNat < 8), gateOf_code, targetOf_code]

theorem nop (g : Gate) (t0 : Target) : Statement (.nop g t0) := of_parse rfl <| by
  rw [parse_system]
  simp [parseSystem, guardCode, gateOf_code, targetOf_code]

theorem trap (g : Gate) (c : BitVec 8) (t0 : Target) : Statement (.trap g c t0) := of_parse rfl <| by
  rw [parse_system]
  simp [parseSystem, guardCode, gateOf_code, targetOf_code, low 8 1024 c (by decide), (c.isLt : c.toNat < 256)]

theorem brk (g : Gate) (c : BitVec 8) (t0 : Target) : Statement (.brk g c t0) := of_parse rfl <| by
  rw [parse_system]
  simp [parseSystem, guardCode, gateOf_code, targetOf_code, low 8 1024 c (by decide), (c.isLt : c.toNat < 256)]

theorem rdsr (g : Gate) (r : SysReg) (t0 : Target) : Statement (.rdsr g r t0) := of_parse rfl <| by
  rw [parse_system]
  simp [parseSystem, sysRegOf_code, gateOf_code, targetOf_code]

theorem wrsr (g : Gate) (r : SysReg) : Statement (.wrsr g r) := of_parse rfl <| by
  rw [parse_system]
  simp [parseSystem, sysRegOf_code, guardCode, gateOf_code]

theorem flags (g : Gate) (m : BitVec 7) (t0 : Target) : Statement (.flags g m t0) := of_parse rfl <| by
  rw [parse_system]
  simp [parseSystem, guardCode, gateOf_code, targetOf_code, low 7 1024 m (by decide), (m.isLt : m.toNat < 128)]

theorem perf (g : Gate) (t0 : Target) : Statement (.perf g t0) := of_parse rfl <| by
  rw [parse_system]
  simp [parseSystem, guardCode, gateOf_code, targetOf_code]

theorem safe (g : Gate) (t0 : Target) : Statement (.safe g t0) := of_parse rfl <| by
  rw [parse_system]
  simp [parseSystem, guardCode, gateOf_code, targetOf_code]

theorem fixreq (g : Gate) (t0 : Target) : Statement (.fixreq g t0) := of_parse rfl <| by
  rw [parse_system]
  simp [parseSystem, guardCode, gateOf_code, targetOf_code]

theorem wMac (h : WBlock) : Statement (.wMac h) := of_block .wMac 0 (by decide) rfl rfl rfl

theorem wCb (h : WBlock) : Statement (.wCb h) := of_block .wCb 1 (by decide) rfl rfl rfl

theorem wO4 (h : WBlock) : Statement (.wO4 h) := of_block .wO4 2 (by decide) rfl rfl rfl

theorem wBook (h : WBlock) : Statement (.wBook h) := of_block .wBook 3 (by decide) rfl rfl rfl

theorem wSwitch (h : WBlock) : Statement (.wSwitch h) := of_block .wSwitch 4 (by decide) rfl rfl rfl

theorem wEmit (h : WBlock) : Statement (.wEmit h) := of_block .wEmit 5 (by decide) rfl rfl rfl

theorem wExit (h : WBlock) : Statement (.wExit h) := of_block .wExit 6 (by decide) rfl rfl rfl

theorem instanceBegin (c : Nat) : Statement (.instanceBegin c) := of_event rfl rfl

theorem instanceCommit (c : Nat) : Statement (.instanceCommit c) := of_event rfl rfl

theorem decisionArrive (c : Nat) : Statement (.decisionArrive c) := of_event rfl rfl

theorem stepSwap (part sg : Nat) : Statement (.stepSwap part sg) := of_event rfl rfl

theorem stepTimeout (part sg : Nat) : Statement (.stepTimeout part sg) := of_event rfl rfl

theorem barrierTimeout (clus b : Nat) : Statement (.barrierTimeout clus b) := of_event rfl rfl

theorem bufferedAccessPerform (c k : Nat) : Statement (.bufferedAccessPerform c k) := of_event rfl rfl

theorem granuleWaitTimeout (k : Nat) : Statement (.granuleWaitTimeout k) := of_event rfl rfl

theorem syncFaultDelivery (c : Nat) : Statement (.syncFaultDelivery c) := of_event rfl rfl

theorem asyncDeliveryTimeout (c : Nat) : Statement (.asyncDeliveryTimeout c) := of_event rfl rfl

theorem matrixTileStep (core acc : Nat) : Statement (.matrixTileStep core acc) := of_event rfl rfl

theorem engineCompletion (k : Nat) : Statement (.engineCompletion k) := of_event rfl rfl

theorem attnAccept (k : Nat) : Statement (.attnAccept k) := of_event rfl rfl

theorem attnUnit (k : Nat) : Statement (.attnUnit k) := of_event rfl rfl

theorem attnResultWrite (k : Nat) : Statement (.attnResultWrite k) := of_event rfl rfl

theorem driveExit (c : Nat) : Statement (.driveExit c) := of_event rfl rfl

theorem redNodeCombine (k node : Nat) : Statement (.redNodeCombine k node) := of_event rfl rfl

theorem redNodeTimeout (k node : Nat) : Statement (.redNodeTimeout k node) := of_event rfl rfl

theorem overflowTokenReturn (core : Nat) : Statement (.overflowTokenReturn core) := of_event rfl rfl

theorem parkresReplay (die e : Nat) : Statement (.parkresReplay die e) := of_event rfl rfl

theorem parkresFail (die e : Nat) : Statement (.parkresFail die e) := of_event rfl rfl

theorem parkTimeout (die e : Nat) : Statement (.parkTimeout die e) := of_event rfl rfl

theorem tinvPage (die asid sz : Nat) : Statement (.tinvPage die asid sz) := of_event rfl rfl

theorem tinvAsid (die asid : Nat) : Statement (.tinvAsid die asid) := of_event rfl rfl

theorem tinvAll (die : Nat) : Statement (.tinvAll die) := of_event rfl rfl

theorem slabMoveStart (die n : Nat) (v : Word64) : Statement (.slabMoveStart die n v) := of_event rfl rfl

theorem slabMoveUnit (die n : Nat) : Statement (.slabMoveUnit die n) := of_event rfl rfl

theorem fwdDisable (die n : Nat) : Statement (.fwdDisable die n) := of_event rfl rfl

theorem homeUnitBatch (frame : Nat) : Statement (.homeUnitBatch frame) := of_event rfl rfl

theorem rowMigration (part table row : Nat) (src dst : Word64) (len : Nat) : Statement (.rowMigration part table row src dst len) := of_event rfl rfl

theorem codeTableInstall (die : Nat) : Statement (.codeTableInstall die) := of_event rfl rfl

theorem cmpRelearn (die : Nat) : Statement (.cmpRelearn die) := of_event rfl rfl

theorem cmpGenFree (die : Nat) : Statement (.cmpGenFree die) := of_event rfl rfl

theorem patrolScrub (frame : Nat) (uncorrectable : Bool) : Statement (.patrolScrub frame uncorrectable) := of_event rfl rfl

theorem evcntThreshold (k : Nat) : Statement (.evcntThreshold k) := of_event rfl rfl

theorem fixGo (v : Word64) : Statement (.fixGo v) := of_event rfl rfl

theorem fixCont : Statement .fixCont := of_event rfl rfl

theorem fixKill : Statement .fixKill := of_event rfl rfl

theorem fixReadoutDone : Statement .fixReadoutDone := of_event rfl rfl

theorem thermalThrottle : Statement .thermalThrottle := of_event rfl rfl

theorem thermalFix : Statement .thermalFix := of_event rfl rfl

theorem powerThrottle : Statement .powerThrottle := of_event rfl rfl

theorem prectlDrain (part : Nat) (v : Word64) : Statement (.prectlDrain part v) := of_event rfl rfl

theorem drainComplete (part : Nat) : Statement (.drainComplete part) := of_event rfl rfl

theorem drainTimeout (part : Nat) : Statement (.drainTimeout part) := of_event rfl rfl

theorem prectlFreeze (part : Nat) (v : Word64) : Statement (.prectlFreeze part v) := of_event rfl rfl

theorem prectlRestore (part : Nat) (v : Word64) : Statement (.prectlRestore part v) := of_event rfl rfl

theorem partclWrite (die k : Nat) (v : Word64) : Statement (.partclWrite die k v) := of_event rfl rfl

theorem qgpartWrite (q : Nat) (v : Word64) : Statement (.qgpartWrite q v) := of_event rfl rfl

theorem dswinWrite (die part : Nat) (v : Word64) : Statement (.dswinWrite die part v) := of_event rfl rfl

theorem fdispWrite (die part : Nat) (v : Word64) : Statement (.fdispWrite die part v) := of_event rfl rfl

theorem qtailWrite (q : Nat) (v : Word64) : Statement (.qtailWrite q v) := of_event rfl rfl

theorem qctlWrite (q : Nat) (v : Word64) : Statement (.qctlWrite q v) := of_event rfl rfl

theorem launchRecordRead (q : Nat) : Statement (.launchRecordRead q) := of_event rfl rfl

theorem nodePlace (part : Nat) : Statement (.nodePlace part) := of_event rfl rfl

theorem readyPriorityPromote (l node : Nat) : Statement (.readyPriorityPromote l node) := of_event rfl rfl

theorem nodeDispatch (l node : Nat) : Statement (.nodeDispatch l node) := of_event rfl rfl

theorem nodeEnd (l node : Nat) : Statement (.nodeEnd l node) := of_event rfl rfl

theorem hostMemWrite (own : Bool) (pa : Nat) (bytes : List Byte) : Statement (.hostMemWrite own pa bytes) := of_event rfl rfl

theorem hostMemRead (pa : Nat) : Statement (.hostMemRead pa) := of_event rfl rfl

theorem peerAccess (a : PeerReq) : Statement (.peerAccess a) := of_event rfl rfl

theorem rcvgo : Statement .rcvgo := of_event rfl rfl

theorem attgo : Statement .attgo := of_event rfl rfl

theorem powerGood : Statement .powerGood := of_event rfl rfl

theorem packageReset : Statement .packageReset := of_event rfl rfl

theorem regWrite (die off : Nat) (v : Word64) : Statement (.regWrite die off v) := of_event rfl rfl

theorem firmwarePolicyResume (c : Nat) (resume : Bool) : Statement (.firmwarePolicyResume c resume) := of_event rfl rfl

end Sys2Proof.Laws.RoundTrip
end

