-- ==== Sys2Proof/Tests/Slice0.lean ====
section
/-! SUPPORT. Tests: words that the spec writes out and what they decode to, terms that the well-formedness check refuses, the spec's tables of edge values, single steps,
and for each statement with hypotheses a state that meets them. Each expected value is the spec's, or worked out by hand from its rule. -/

namespace Sys2Proof.Tests

set_option Elab.async false

open Sys2Proof Sys2Proof.Machine

/-! ### Decoding: words from the spec's examples, or written out from R37 to R46 -/

theorem test_decode_read : (decode 0x24400A81).toOption = some (.read .none 5 (.slot .a 1)) := by decide +kernel
theorem test_decode_addi : (decode 0x50000282).toOption = some (.addi .w64 .none 1 (.slot .a 2)) := by decide +kernel
theorem test_decode_mov : (decode 0x20010883).toOption = some (.mov .none (.slot .a 3) (.slot .a 4)) := by decide +kernel
theorem test_decode_write : (decode 0x24800A00).toOption = some (.write .none 5) := by decide +kernel
theorem test_decode_halt : (decode 0x10A00000).toOption = some (.halt .none) := by decide +kernel
theorem test_decode_movi : (decode 0x24032082).toOption = some (.movi .none 400 (.slot .a 2)) := by decide +kernel
theorem test_decode_movi_negative : (decode 0x24038083).toOption = some (.movi .none 0x1C0 (.slot .a 3)) := by decide +kernel
theorem test_decode_cmpLt : (decode 0x49400185).toOption = some (.cmpLt .w64 .none (.slot .g 5) .none) := by decide +kernel
theorem test_decode_select : (decode 0x20780086).toOption = some (.select (.slot .a 6) .none) := by decide +kernel
theorem test_decode_divn : (decode 0x44C21287).toOption = some (.divn .w16 .none (.slot .a 7) (.slot .b 9)) := by decide +kernel
theorem test_decode_srai : (decode 0x5CC00E83).toOption = some (.srai .w8 .none 7 (.slot .a 3)) := by decide +kernel
theorem test_decode_lea : (decode 0x48E00684).toOption = some (.lea .none 3 (.slot .a 4)) := by decide +kernel
theorem test_decode_ldTake : (decode 0x60280085).toOption = some (.ldTake .core .w32 .none 0 (.slot .a 5)) := by decide +kernel
theorem test_decode_ld_param : (decode 0x6330030A).toOption = some (.ld .param .w64 .none 1 (.slot .b 10)) := by decide +kernel
theorem test_decode_nest : (decode 0x24C00400).toOption = some (.nest .none 2) := by decide +kernel
theorem test_decode_atomFmax : (decode 0x81A0A083).toOption = some (.atomFmax .main .w32 .none (.slot .a 3)) := by decide +kernel
theorem test_decode_atomAdd : (decode 0x81B00084).toOption = some (.atomAdd .main .w64 .none (.slot .a 4)) := by decide +kernel
theorem test_decode_cas : (decode 0x85B00082).toOption = some (.cas .main .w64 .none (.slot .a 2)) := by decide +kernel
theorem test_decode_combAdd : (decode 0x8C000689).toOption = some (.combAdd .none false 3 (.slot .a 9)) := by decide +kernel
theorem test_decode_step : (decode 0x88000600).toOption = some (.step .none 3) := by decide +kernel
theorem test_decode_fenceClus : (decode 0x88800184).toOption = some (.fenceClus .none (.slot .g 4)) := by decide +kernel
theorem test_decode_redXs : (decode 0x90200A00).toOption = some (.redXs .none 5) := by decide +kernel
theorem test_decode_redF32 : (decode 0x90080000).toOption = some (.redF32 .onTrue 0) := by decide +kernel
theorem test_decode_steer : (decode 0x2058008F).toOption = some (.steer (.slot .a 15) .none) := by decide +kernel
theorem test_decode_br : (decode 0x06000002).toOption = some (.br .onFalse 2) := by decide +kernel
theorem test_decode_iter : (decode 0x10880000).toOption = some (.iter .onTrue .none .none) := by decide +kernel
theorem test_decode_ldWait : (decode 0x60350087).toOption = some (.ldWait .core .w64 .onTrue 0 (.slot .a 7)) := by decide +kernel
theorem test_decode_fill : (decode 0x68340000).toOption = some (.fill .core .w64 .none 0 .none) := by decide +kernel
theorem test_decode_vfma : (decode 0xA06000AD).toOption = some (.vfma .f32 .rne (.slot .a 45) .none) := by decide +kernel
theorem test_decode_vfma_rz : (decode 0xA06400AD).toOption = some (.vfma .f32 .rz (.slot .a 45) .none) := by decide +kernel
theorem test_decode_vrsq : (decode 0xA74000B0).toOption = some (.vrsq .bf16 .ru .none (.slot .a 48) .none) := by decide +kernel
theorem test_decode_vextr : (decode 0xACE000BA).toOption = some (.vextrW32 .none 0 (.slot .a 58)) := by decide +kernel
theorem test_decode_vexpoSc : (decode 0xB08400B9).toOption = some (.vexpoSc .f32 .none (.slot .a 57) .none) := by decide +kernel
theorem test_decode_eadd : (decode 0xBC000589).toOption = some (.eaddF32 .none 2 (.slot .g 9)) := by decide +kernel
theorem test_decode_vcvt : (decode 0xB40308C1).toOption = some (.vcvt .none 3 0 1 .rne (.slot .a 65)) := by decide +kernel
theorem test_decode_vpack : (decode 0xB8400544).toOption = some (.vpack .none 2 (.slot .b 68)) := by decide +kernel
theorem test_decode_mma : (decode 0xD1180000).toOption = some (.mma 1 0 .arc .none .none) := by decide +kernel
theorem test_decode_mmaCb : (decode 0xD2040000).toOption = some (.mmaCb 2 .none .none .none) := by decide +kernel
theorem test_decode_accrd : (decode 0xD620008C).toOption = some (.accrd 2 .none (.slot .a 12) .none) := by decide +kernel
theorem test_decode_tdset : (decode 0xD8006600).toOption = some (.tdset .none 3 3) := by decide +kernel
theorem test_decode_gatherSum : (decode 0xE0200082).toOption = some (.gatherSum .none (.slot .a 2) .none) := by decide +kernel
theorem test_decode_scatterAdd : (decode 0xE1180088).toOption = some (.scatterAdd .arc (.slot .a 8) .none) := by decide +kernel
theorem test_decode_attn : (decode 0xE2000000).toOption = some (.attn .none .none .none) := by decide +kernel
theorem test_decode_alloc : (decode 0xE8200000).toOption = some (.alloc .none .none) := by decide +kernel
theorem test_decode_stopk : (decode 0xF018019C).toOption = some (.stopk .arc 0 (.slot .g 28)) := by decide +kernel
theorem test_decode_shid : (decode 0xF05802A1).toOption = some (.shid .arc 1 (.slot .a 33)) := by decide +kernel
theorem test_decode_slog : (decode 0xF0F94200).toOption = some (.slog .arc 10 1 .none) := by decide +kernel
theorem test_decode_scmp : (decode 0xF1000105).toOption = some (.scmp .none (.slot .b 5)) := by decide +kernel
theorem test_decode_srpl : (decode 0xF1200489).toOption = some (.srpl .none 2 (.slot .a 9)) := by decide +kernel
theorem test_decode_trap : (decode 0xF8204200).toOption = some (.trap .none 33 .none) := by decide +kernel
theorem test_decode_brk : (decode 0xF8400200).toOption = some (.brk .none 1 .none) := by decide +kernel
theorem test_decode_flags : (decode 0xF8A0FE85).toOption = some (.flags .none 127 (.slot .a 5)) := by decide +kernel
theorem test_decode_wrsr : (decode 0xF8804000).toOption = some (.wrsr .none (.rndkey 0)) := by decide +kernel
theorem test_decode_fprint : (decode 0xDC840084).toOption = some (.fprint .none true (.slot .a 4) .none) := by decide +kernel
theorem test_decode_randF32 : (decode 0xE5440087).toOption = some (.randF32 2 .none true (.slot .a 7) .none) := by decide +kernel
theorem test_decode_rskip : (decode 0xE6080000).toOption = some (.rskip 0 .onTrue .none) := by decide +kernel
theorem test_decode_dedup : (decode 0xDCB80113).toOption = some (.dedup .arc (.slot .b 19)) := by decide +kernel
theorem test_decode_bfx : (decode 0x4CA44082).toOption = some (.bfx .w8 .none 32 (.slot .a 2)) := by decide +kernel
theorem test_decode_ld_main : (decode 0x61A3010A).toOption = some (.ld .main .w32 .arc 0 (.slot .b 10)) := by decide +kernel
theorem test_decode_st : (decode 0x68200400).toOption = some (.st .core .w32 .none 2 .none) := by decide +kernel
theorem test_decode_wdrive : (decode 0x0C000002).toOption = some (.wdrive .none 2) := by decide +kernel
/-- A weight block's header as its eight words. -/
def header (w0 w1 w2 hchk : Word64) : List Word64 := [w0, w1, w2, 0, 0, 0, 0, hchk]

-- The chain of 07's worked example: head tile block, switch, and an emit with its shape word.
theorem test_decode_wMac : (decodeHeader (header 0x40440180 0 0 0x40440180)).toOption = some (.wMac ⟨4, 4, 0x180, 0, 0, 0⟩) := by decide +kernel
theorem test_decode_wSwitch : (decodeHeader (header 0x0000000544000002 0x8000000000000001 0 0x0000000544000001)).toOption
    = some (.wSwitch ⟨0, 0, 2, 5, 0x8000000000000001, 0⟩) := by decide +kernel
theorem test_decode_wEmit : (decodeHeader (header 0x0000002145000000 0xC000000000000000 0x8000000000002000 0x8000002145008003)).toOption
    = some (.wEmit ⟨0, 0, 0, 0x21, 0xC000000000000000, 0x8000000000002000⟩) := by decide +kernel
theorem test_header_check_sum : (decodeHeader (header 0x40440180 0 0 0x40440181)).toOption = none := by decide +kernel

/-! ### Encodings that are refused, by the code of R47 -/

/-- The code under which a word is refused, or 0. -/
def refusal (w : Word32) : Nat := match decode w with
  | .ok _ => 0
  | .error c => c

theorem test_refused_words : [refusal 0x1A0000FF, refusal 0x4DE00082, refusal 0x48E00E84, refusal 0x5CC01083, refusal 0x24400A07]
    = [0x01, 0x01, 0x01, 0x02, 0x04] := by decide +kernel

/-- Terms that an encoding could carry and the spec does not assign. -/
def illFormed : List (Instr × Nat) :=
  [(.nest .none 7, 0x02), (.decide .none .none .none, 0x04), (.bfx .w8 .none 57 .none, 0x01), (.bfi .w64 .none 1 .none, 0x01), (.lea .none 7 .none, 0x01),
   (.shli .w16 .none 16 .none, 0x02), (.ldWait .main .w64 .none 0 .none, 0x03), (.lds .core .w64 3 .none 0 .none, 0x03), (.lds .core .v512 0 .none 0 .none, 0x12),
   (.ldRaw .host .w64 1 .none 0 .none, 0x03), (.fill .param .w64 .none 0 .none, 0x03), (.wcvLoad .main .w64 .none 0 .none, 0x04), (.atomAdd .main .w8 .none .none, 0x12),
   (.atomAdd .host .w32 .none .none, 0x12), (.atomEsum .main .w64 .none .none, 0x12), (.atomFmin .main .w64 .none .none, 0x12), (.cas .param .w64 .none .none, 0x12),
   (.vextrW32 .none 16 .none, 0x01), (.vinsW16 .none 32 .none, 0x01), (.vcvt .none 0 0 0 .rne .none, 0x02), (.vcvt .none 0 1 1 .rne .none, 0x02),
   (.vcvt .none 1 0 3 .rne .none, 0x02), (.vpack .none 4 .none, 0x13), (.vunpackLo .none 6 .none, 0x01), (.eroundF32 .none 0 .none, 0x13),
   (.accrd 0 .none .none .none, 0x14), (.tdset .none 10 0, 0x02), (.semb .none 0 .none, 0x15), (.sget .none 6 0 .none, 0x15), (.rdsr .none .cycle .none, 0x19)]

theorem test_ill_formed : illFormed.map (fun e => wfCode e.1) = illFormed.map (·.2) := by decide +kernel

/-- A weight block is refused for its format, its flags, its length, its route or its link. -/
theorem test_ill_formed_blocks : ([(.wMac ⟨7, 0, 192, 0, 0, 0⟩), (.wMac ⟨4, 1, 192, 0, 0, 0⟩), (.wMac ⟨4, 0, 191, 0, 0, 0⟩), (.wMac ⟨4, 0, 192, 4, 0, 0⟩),
    (.wMac ⟨4, 0, 192, 0, 0x8000000000000001, 0⟩), (.wCb ⟨8, 8, 1, 0, 0, 0⟩), (.wO4 ⟨4, 0, 192, 0, 0, 0⟩), (.wBook ⟨0, 1, 1, 0, 0, 0⟩), (.wSwitch ⟨0, 0, 2, 5, 0, 0⟩),
    (.wEmit ⟨0, 2, 0, 0, 0, 0⟩), (.wExit ⟨0, 0, 0, 0, 0, 0⟩)] : List Instr).map wf = List.replicate 11 false := by decide +kernel

/-! ### Integer results: the table of edge values in 05 -/

def scalarTok (v : Nat) : Token := ⟨.scalar, BitVec.ofNat 512 v, false, false, false⟩
def vectorTok (v : Nat) (s : Bool := true) : Token := ⟨.vector, BitVec.ofNat 512 v, s, false, false⟩
def controlTok (p : Bool) : Token := ⟨.control, if p then 1 else 0, false, false, false⟩

/-- The machine whose context 0 runs a block of `i` and one `mov`, with these operands at `i`. -/
def before (i : Instr) (l : List (Slot × Token)) : State :=
  let w := (toWord i).getD 0
  let s := State.reset.withFetchWord 32 w.toNat
  { s with
    ctxs := [(0, { Ctx.reset with mode := .running, runs := [{ probeRun w with toks := l.map (fun e => ⟨0, e.1, e.2⟩) }] })]
    cores := [(0, { Core.reset with placed := [{ probeBlock w with words := [w, 0x20010000] }] })] }

/-- The token that arrives at `i01.a` and the flags that the run has gathered. -/
def afterStep (s : State) : Option Token × Nat :=
  match step s with
  | .next t => match (t.ctx 0).run? 0 with
    | some b => (b.tok? 1 .a, b.flags.toNat)
    | none => (none, 128)
  | _ => (none, 255)

def after (i : Instr) (l : List (Slot × Token)) : Option Token × Nat := afterStep (before i l)

/-- The scalar that a node with these scalar operands delivers, and its flags. -/
def value (i : Instr) (a : Nat) (b : Option Nat) : Nat × Nat :=
  let r := after i ((.a, scalarTok a) :: (b.map (fun v => (Slot.b, scalarTok v))).toList)
  ((r.1.map (·.data.toNat)).getD (2 ^ 64), r.2)

abbrev to1 : Target := .slot .a 1

theorem test_integer_edges_1 : [value (.add .w32 .none to1 .none) 0x1FFFFFFFF (some 1), value (.div .w32 .none to1 .none) 0x80000000 (some 0xFFFFFFFF),
    value (.rem .w32 .none to1 .none) 0x80000000 (some 0xFFFFFFFF), value (.div .w8 .none to1 .none) 0xF9 (some 2), value (.rem .w8 .none to1 .none) 0xF9 (some 2)]
    = [(0, 0), (0x80000000, 0), (0, 0), (0xFD, 0), (0xFF, 0)] := by decide +kernel
theorem test_integer_edges_2 : [value (.divn .w16 .none to1 .none) 0x1234 (some 0), value (.remn .w16 .none to1 .none) 0x1234 (some 0),
    value (.mulh .w8 .none to1 .none) 0x80 (some 0xFF), value (.mulhn .w8 .none to1 .none) 0x80 (some 0xFF)] = [(0, 2), (0x1234, 2), (0, 0), (0x7F, 0)] := by decide +kernel
theorem test_integer_edges_3 : [value (.sra .w16 .none to1 .none) 0x8001 (some 20), value (.shr .w16 .none to1 .none) 0x8001 (some 20),
    value (.rotl .w8 .none to1 .none) 0x81 (some 9), value (.clz .w16 .none to1 .none) 0x10000 none, value (.sext .w8 .none to1 .none) 0xFD none]
    = [(0xFFFF, 0), (0, 0), (3, 0), (16, 0), (0xFFFFFFFFFFFFFFFD, 0)] := by decide +kernel
theorem test_integer_edges_4 : [value (.bfx .w8 .none 12 to1) 0xAB000 none, value (.bfi .w8 .none 12 to1) 0xAB000 (some 0xC5D), value (.lea .none 3 to1) 0x1000 (some 5),
    value (.addi .w8 .none 300 to1) 0 none] = [(0xAB, 0), (0x5D000, 0), (0x1028, 0), (44, 0)] := by decide +kernel
theorem test_compare_edges : [(after (.cmpLt .w8 .none to1 .none) [(.a, scalarTok 0x80), (.b, scalarTok 1)]).1,
    (after (.cmpLtn .w8 .none to1 .none) [(.a, scalarTok 0x80), (.b, scalarTok 1)]).1, (after (.cmpiLtn .w8 .none 1000 to1) [(.a, scalarTok 0xFF)]).1]
    = [some (controlTok true), some (controlTok false), some (controlTok true)] := by decide +kernel

/-! ### Number formats: the tables and examples in 06 -/

-- R146, rounded from FP32 under nearest even: BF16 is code 1, FP16 code 2, E4M3 code 3, E5M2 code 4 of `vcvt`.
theorem test_rounding_table : [cvtElem 1 0 0 .rne 0x3F808000, cvtElem 1 0 0 .rne 0x3F818000, cvtElem 3 0 0 .rne 0x43E80000, cvtElem 3 0 0 .rne 0x43F00000,
    cvtElem 3 0 1 .rne 0x43F00000, cvtElem 3 0 1 .rne 0xFF800000, cvtElem 3 0 0 .rne 0x3A800000, cvtElem 3 0 0 .rne 0xBA800000, cvtElem 4 0 0 .rne 0x47700000,
    cvtElem 2 0 0 .rne 0x33400000, cvtElem 2 0 0 .rne 0x33000000, cvtElem 1 0 0 .rne 0x7FA00000]
    = [⟨0x3F80, flagNX⟩, ⟨0x3F82, flagNX⟩, ⟨0x7E, flagNX⟩, ⟨0x7F, flagOF ||| flagNX⟩, ⟨0x7E, flagOF ||| flagNX ||| flagSAT⟩, ⟨0xFE, flagSAT⟩,
       ⟨0x00, flagUF ||| flagNX⟩, ⟨0x80, flagUF ||| flagNX⟩, ⟨0x7C, flagOF ||| flagNX⟩, ⟨0x0001, flagUF ||| flagNX⟩, ⟨0x0000, flagUF ||| flagNX⟩, ⟨0x7FC0, flagNV⟩] := by
  decide +kernel

-- R147's example word; elements are E4M3 codes: 3 is 0x44, 24 is 0x5C, −1 is 0xB8, −2 is 0xC0. A marker at slot 6 or 7 is malformed.
theorem test_o4_word : o4Word 0xC08F5C83 = some [0x44, 0x5C, 0, 0, 0xB8, 0xC0, 0, 0] := by decide +kernel
theorem test_o4_malformed : [o4Word 0x08000000, o4Word 0x80000000, o4Word 0x88000000] = [none, none, none] := by decide +kernel

-- R151's example: 64 and three products of 2^-18 round once to 64 + 2 ulp.
theorem test_group_rounding : groupSum 0x42800000 (List.replicate 3 (.fin false 1 (-18) false)) = 0x42800002 := by decide +kernel

-- R154's example, and the states with flags.
theorem test_exact_sum : xsRound .f32 ([0x4B800000, 0x3F800000, 0xCB800000].foldl (fun x v => (xsAdd x (FloatFmt.f32.read v)).1) ⟨0, false, false, false⟩) = ⟨0x3F800000, 0⟩ := by
  decide +kernel
theorem test_exact_sum_flags : [xsRound .f32 ⟨0, true, true, false⟩, xsRound .bf16 ⟨0, true, false, false⟩, xsRound .f32 ⟨0, false, true, false⟩, xsRound .bf16 ⟨0, false, false, true⟩]
    = [⟨0x7FC00000, flagNV⟩, ⟨0x7F80, 0⟩, ⟨0xFF800000, 0⟩, ⟨0x7FC0, 0⟩] := by decide +kernel

/-! ### What the witnesses are made of -/

/-- The node of `i` may fire and no rule decides it. -/
def actsNow (s : State) (i : Instr) : Bool :=
  match (s.ctx s.site.c).run? s.site.iid with
  | some b => s.mayFire s.site.c (s.ctx s.site.c) b s.site.idx (shape i) && (fireOf s.site.c (s.ctx s.site.c) b s.site.idx (shape i)).rules.isNone
  | none => false

def firesNow (s : State) (i : Instr) : Bool :=
  match (s.ctx s.site.c).run? s.site.iid with
  | some b => s.mayFire s.site.c (s.ctx s.site.c) b s.site.idx (shape i)
  | none => false

/-- The firing of `i` at the site. -/
def theFire (s : State) (i : Instr) : Fire :=
  fireOf s.site.c (s.ctx s.site.c) (((s.ctx s.site.c).run? s.site.iid).getD (probeRun 0)) s.site.idx (shape i)

theorem fires_of_now (s : State) (i : Instr) (h : firesNow s i = true) : Fires s i (theFire s i) := by
  unfold firesNow at h
  cases hb : (s.ctx s.site.c).run? s.site.iid with
  | none => simp [hb] at h
  | some b => exact ⟨b, hb, by simpa [hb] using h, by simp [theFire, hb]⟩

theorem acts_of_now (s : State) (i : Instr) (h : actsNow s i = true) : Acts s i (theFire s i) := by
  unfold actsNow at h
  cases hb : (s.ctx s.site.c).run? s.site.iid with
  | none => simp [hb] at h
  | some b =>
    simp only [hb, Bool.and_eq_true, Option.isNone_iff_eq_none] at h
    exact ⟨⟨b, hb, h.1, by simp [theFire, hb]⟩, by simpa [theFire, hb] using h.2⟩

theorem not_fires_of_now (s : State) (i : Instr) (h : firesNow s i = false) : ∀ f, ¬ Fires s i f := by
  rintro f ⟨b, hb, hm, -⟩
  simp [firesNow, hb, hm] at h

theorem ok_of_some {α : Type} {x : Except Nat α} {a : α} (h : x.toOption = some a) : x = .ok a := by
  cases x with
  | error e => simp [Except.toOption] at h
  | ok b => simpa [Except.toOption] using h

/-- The machine about to run one word, with the operands that its slots take. -/
def probe (i : Instr) : State := State.reset.withFetchWord 32 ((toWord i).getD 0).toNat

/-- Context 0 of a machine changed. -/
def State.tweak (s : State) (f : Ctx → Ctx) : State := { s with ctxs := SMap.set s.ctxs Ctx.reset 0 (f (s.ctx 0)) }
/-- Its one run changed. -/
def State.tweakRun (s : State) (f : BlockRun → BlockRun) : State := State.tweak s (fun x => { x with runs := x.runs.map f })

/-- Main memory mapped by three table entries under group 0: 1 GiB at address 0 for reads and writes, 1 GiB from there on for code; the page of `bump` (02, "A block, encoded")
carries the grant of R88, and `bump` stands at its start. -/
def mapped : State :=
  let words : List (Nat × Nat) := [(0x100000, 0x200001), (0x200000, 0xE0D), (0x200008, 0x40000E35), (0x40000000, 0x24400A810080408B), (0x40000008, 0x2001088350000282),
    (0x40000010, 0x10A0000024800A00)]
  { State.reset with
    dcb := [(0x080000, 0x100001)]
    frames := [(0x40000, ⟨1, 0, true, true, 1⟩)]
    mem := words.flatMap (fun e => ((List.range 8).map (fun j => (mainKey (e.1 + j), BitVec.ofNat 8 (e.2 / 256 ^ j)))).filter (fun p => p.2 != 0)) }

/-- A machine that runs one word, over the mapped memory. -/
def mappedProbe (i : Instr) (l : List (Slot × Token)) : State :=
  { before i l with dcb := mapped.dcb, frames := mapped.frames, mem := mapped.mem }

/-! ### Decoding and stepping: what meets the hypotheses -/

theorem witness_encoding : wf (.addi .w64 .none 1 (.slot .a 2)) = true ∧ wf (.wMac ⟨4, 4, 0x180, 0, 0, 0⟩) = true ∧ wf (.instanceBegin 0) = true := by decide +kernel
theorem witness_word : ∃ i, decode 0x50000282 = .ok i := ⟨_, ok_of_some test_decode_addi⟩
theorem witness_header : ∃ i, decodeHeader (header 0x40440180 0 0 0x40440180) = .ok i := ⟨_, ok_of_some test_decode_wMac⟩

theorem witness_no_act : State.reset.acts = [] := by decide +kernel
theorem witness_one_act : (probe (.movi .none 1 .none)).acts = [.fire ⟨0, 0, 0⟩] := by decide +kernel
/-- Two nodes that may both fire. -/
def twoNodes : State :=
  { probe (.movi .none 1 .none) with cores := [(0, { Core.reset with placed := [{ probeBlock 0x24000000 with words := [0x24000000, 0x24000000] }] })] }
theorem witness_two_acts : 2 ≤ twoNodes.acts.length := by decide +kernel
/-- Two ready nodes of one PE in deterministic mode: nodes 0 and 64 of a block. -/
def detPair : State :=
  { State.tweakRun (probe (.movi .none 1 .none)) (fun b => { b with det := true }) with
    cores := [(0, { Core.reset with placed := [{ probeBlock 0x24000000 with words := List.replicate 65 0x24000000 }] })] }
theorem witness_det_choice : detPair.chosen [⟨0, 0, 64⟩, ⟨0, 0, 0⟩] = [⟨0, 0, 0⟩] ∧ (detPair.readyAt ⟨0, 0, 64⟩).map (fun x => (x.at', x.det)) = (detPair.readyAt ⟨0, 0, 0⟩).map (fun x => (x.at', x.det))
    ∧ (detPair.readyAt ⟨0, 0, 0⟩).any (fun x => x.det) = true := by decide +kernel
theorem witness_node : ∃ (b : BlockRun) (w : Word32) (i : Instr), ((probe (.movi .none 1 .none)).ctx 0).run? 0 = some b
    ∧ (probe (.movi .none 1 .none)).wordAt 0 b 0 = some w ∧ decode w = .ok i :=
  ⟨probeRun ((toWord (.movi .none 1 .none)).getD 0), (toWord (.movi .none 1 .none)).getD 0, .movi .none 1 .none, by decide +kernel, by decide +kernel,
    ok_of_some (by decide +kernel)⟩
theorem witness_input : ({ State.reset with inputs := [.packageReset] } : State).inputs = .packageReset :: [] := rfl
theorem witness_drive : ∃ (s : State) (d : Drive) (i : Instr), (s.ctx 0).drive = some d ∧ d.fault = none ∧ d.head = false ∧ d.hdr ≠ []
    ∧ decodeHeader (quadsOf d.hdr) = .ok i :=
  ⟨State.reset.withFetchWord 512 (0x40440180 + 0x40440180 * 2 ^ 448), probeDrive (leBytes 64 (0x40440180 + 0x40440180 * 2 ^ 448)), .wMac ⟨4, 4, 0x180, 0, 0, 0⟩,
    by decide +kernel, by decide +kernel, by decide +kernel, by decide +kernel, ok_of_some (by decide +kernel)⟩
/-- A next state that meets a condition. -/
def nextHas (o : Host.Outcome State Fault Refusal) (p : State → Bool) : Bool :=
  match o with
  | .next t => p t
  | _ => false
theorem next_of {o : Host.Outcome State Fault Refusal} {p : State → Bool} (h : nextHas o p = true) : ∃ t, o = .next t ∧ p t = true := by
  cases o with
  | next t => exact ⟨t, rfl, h⟩
  | fault _ => simp [nextHas] at h
  | refused _ => simp [nextHas] at h
/-- A word for each format, and each header, runs as the first instruction after reset. -/
theorem test_first_words : ∀ w ∈ [0x24400A81, 0x50000282, 0x20010883, 0x10A00000, 0x06000002, 0x61A3010A, 0xA06000AD, 0xF8400200],
    ∃ t, step (State.reset.withFetchWord 32 w) = .next t ∧ decide (t.acts.length ≤ 8) = true := by
  have h : [0x24400A81, 0x50000282, 0x20010883, 0x10A00000, 0x06000002, 0x61A3010A, 0xA06000AD, 0xF8400200].all
      (fun w => nextHas (step (State.reset.withFetchWord 32 w)) (fun t => decide (t.acts.length ≤ 8))) = true := by decide +kernel
  exact fun w hw => next_of (List.all_eq_true.mp h w hw)

theorem witness_invariants : Regular State.reset = true ∧ Memory.wf State.reset.mem = true ∧ ∃ t, step State.reset = .next t := ⟨by decide +kernel, by decide, _, rfl⟩

/-! ### Firings -/

/-- Every instruction of a list fires somewhere, and no rule decides it there. -/
def AllAct (l : List Instr) : Prop := ∀ i ∈ l, ∃ f, Acts (probe i) i f

theorem allAct_of (l : List Instr) (h : l.all (fun i => actsNow (probe i) i) = true) : AllAct l :=
  fun i hi => ⟨_, acts_of_now _ _ (List.all_eq_true.mp h i hi)⟩

theorem witness_frame : ∃ (i : Instr) (s t : State), plain i = true ∧ Regular s = true ∧ exec i s = .next t :=
  ⟨.movi .none 1 .none, probe (.movi .none 1 .none), _, by decide, by decide +kernel, rfl⟩
theorem witness_recorded : ∃ (s : State) (i : Instr) (f : Fire) (o : NodeOut) (t : Token), Regular s = true ∧ Fires s i f ∧ o.wait = false ∧ o.keep = none
    ∧ (shape i).t0 = .slot .a 1 ∧ (shape i).t1 = .none ∧ o.t0 = some t ∧ s.overflows f.c f.b 1 = false ∧ f.b.at' 1 .a = []
    ∧ 0 < slotCapacity (((s.instrAt f.c f.b 1).map shape).getD {}) .a := by
  refine ⟨before (.movi .none 1 to1) [], .movi .none 1 to1, theFire (before (.movi .none 1 to1) []) (.movi .none 1 to1), { t0 := some (scalarTok 1), t1 := none }, scalarTok 1,
    ?_, fires_of_now _ _ ?_, ?_, ?_, ?_, ?_, ?_, ?_, ?_, ?_⟩ <;> decide +kernel
theorem witness_waits : single (.add .w64 .none .none .none) = true ∧ ∀ f, ¬ Fires (before (.add .w64 .none .none .none) [(.a, scalarTok 1)]) (.add .w64 .none .none .none) f :=
  ⟨by decide, not_fires_of_now _ _ (by decide +kernel)⟩

/-- A firing of `i` on these operands that meets `p`. -/
def Meets (i : Instr) (l : List (Slot × Token)) (p : Fire → Bool) : Prop := ∃ f, Fires (before i l) i f ∧ p f = true

theorem meets_of (i : Instr) (l : List (Slot × Token)) (p : Fire → Bool) (h : (firesNow (before i l) i && p (theFire (before i l) i)) = true) : Meets i l p := by
  simp only [Bool.and_eq_true] at h
  exact ⟨_, fires_of_now _ _ h.1, h.2⟩

def errorTok (k : Kind) : Token := ⟨k, 0x0800000000000000, false, true, false⟩
def nullTok (k : Kind) : Token := ⟨k, 0, false, false, true⟩

theorem witness_rule_gate_kind : Meets (.addi .w64 .onTrue 1 .none) [(.a, scalarTok 1), (.g, scalarTok 1)] (fun f => f.g.kind != .control) := meets_of _ _ _ (by decide +kernel)
theorem witness_rule_polarity : Meets (.addi .w64 .onTrue 1 .none) [(.a, scalarTok 1), (.g, controlTok false)]
    (fun f => f.g.kind == .control && !f.g.e && !f.g.polarity) := meets_of _ _ _ (by decide +kernel)
theorem witness_rule_error : Meets (.addi .w64 .none 1 .none) [(.a, errorTok .scalar)] (fun f => !f.mismatch && f.operands.any (fun t => t.e)) := meets_of _ _ _ (by decide +kernel)
theorem witness_rule_error_side : Meets (.st .core .w64 .none 0 .none) [(.a, scalarTok 8), (.b, errorTok .scalar)]
    (fun f => !f.mismatch && f.operands.any (fun t => t.e) && f.sh.side) := meets_of _ _ _ (by decide +kernel)
theorem witness_rule_null : Meets (.addi .w64 .none 1 .none) [(.a, nullTok .scalar)]
    (fun f => !f.mismatch && !f.operands.any (fun t => t.e) && f.dataOperands.any (fun t => t.n)) := meets_of _ _ _ (by decide +kernel)
theorem witness_rule_kind : Meets (.addi .w64 .none 1 .none) [(.a, vectorTok 1)]
    (fun f => !f.mismatch && !f.operands.any (fun t => t.e) && !f.dataOperands.any (fun t => t.n) && !f.a.e && !f.kindsOk) := meets_of _ _ _ (by decide +kernel)
theorem witness_rule_scale : Meets (.vadd .f32 .rne .none .none .none) [(.a, vectorTok 1 true), (.b, vectorTok 1 false)]
    (fun f => f.kindsOk && f.sh.scaled && f.scaleDiffers && !f.dataOperands.any (fun t => t.n)) := meets_of _ _ _ (by decide +kernel)

theorem acts_integer : AllAct ([.add .w8 .none .none .none, .sub .w16 .none .none .none, .mul .w32 .none .none .none, .mulh .w64 .none .none .none, .mulhn .w8 .none .none .none,
    .and .w8 .none .none .none, .or .w8 .none .none .none, .xor .w8 .none .none .none, .andn .w8 .none .none .none, .min .w8 .none .none .none, .max .w8 .none .none .none,
    .minn .w8 .none .none .none, .maxn .w8 .none .none .none, .div .w8 .none .none .none, .divn .w8 .none .none .none, .rem .w8 .none .none .none, .remn .w8 .none .none .none,
    .shl .w8 .none .none .none, .shr .w8 .none .none .none, .sra .w8 .none .none .none, .rotl .w8 .none .none .none]) := allAct_of _ (by decide +kernel)
theorem acts_bits_and_compares : AllAct ([.clz .w8 .none .none .none, .ctz .w8 .none .none .none, .popc .w8 .none .none .none, .sext .w8 .none .none .none,
    .zext .w8 .none .none .none, .bfx .w8 .none 56 .none, .bfi .w64 .none 0 .none, .lea .none 6 .none, .cmpEq .w8 .none .none .none, .cmpNe .w8 .none .none .none,
    .cmpLt .w8 .none .none .none, .cmpLe .w8 .none .none .none, .cmpLtn .w8 .none .none .none, .cmpLen .w8 .none .none .none]) := allAct_of _ (by decide +kernel)
theorem acts_immediates : AllAct ([.addi .w8 .none 1023 .none, .andi .w8 .none 1 .none, .ori .w8 .none 1 .none, .xori .w8 .none 1 .none, .muli .w8 .none 1 .none,
    .shli .w8 .none 7 .none, .shri .w64 .none 63 .none, .srai .w8 .none 0 .none, .cmpiEq .w8 .none 1 .none, .cmpiNe .w8 .none 1 .none, .cmpiLt .w8 .none 1 .none,
    .cmpiLe .w8 .none 1 .none, .cmpiLtn .w8 .none 1 .none, .cmpiLen .w8 .none 1 .none]) := allAct_of _ (by decide +kernel)
theorem acts_tokens : AllAct ([.mov .none .none .none, .null .none .none .none, .steer .none .none, .select .none .none, .ctl .none .none .none, .ctlNz .none .none .none,
    .nop .none .none, .movi .none 1 .none, .lit .none 0 .none, .write .none 5, .itag .none 0 .none, .nest .none 1, .unnest .none, .trap .none 0 .none,
    .brk .none 0 .none, .safe .none .none, .fixreq .none .none, .flags .none 0 to1, .wrsr .none .mode, .rdsr .none .cycle to1, .decide .none to1 .none, .decideRgn .none to1 .none]) :=
  allAct_of _ (by decide +kernel)
theorem acts_vectors : AllAct ([.vadd .f32 .rne .none .none .none, .vsub .bf16 .rz .none .none .none, .vmul .f16 .ru .none .none .none, .vfma .f32 .rd .none .none,
    .vfms .f32 .rne .none .none, .vmax .f32 .none .none .none, .vmin .f32 .none .none .none, .vabs .f32 .none .none .none, .vneg .f32 .none .none .none,
    .vrcp .f32 .rne .none .none .none, .vrsq .f32 .rne .none .none .none, .vsqrt .f32 .rne .none .none .none, .vexp2 .f32 .rne .none .none .none,
    .vlog2 .f32 .rne .none .none .none, .vtanh .f32 .rne .none .none .none, .vcmp .f32 .eq .none .none .none, .vsel .none .none, .vbcastW32 .none .none .none,
    .vbcastW16 .none .none .none, .vbcastW8 .none .none .none, .vpermW32 .none .none .none, .vpermW16 .none .none .none, .vpermW8 .none .none .none]) :=
  allAct_of _ (by decide +kernel)
theorem acts_lanes : AllAct ([.vextrW32 .none 15 .none, .vextrW16 .none 31 .none, .vextrW8 .none 63 .none, .vinsW32 .none 15 .none, .vinsW16 .none 31 .none,
    .vinsW8 .none 63 .none, .vrsum .f32 .none .none .none, .vrmax .f32 .none .none .none, .vrmin .f32 .none .none .none, .vamax .f32 .none .none .none,
    .vexpo .f32 .none .none .none, .vexpoSc .f32 .none .none .none, .vldexp .f32 .none .none .none, .vcvt .none 1 0 0 .rne .none, .vscale .none false .none .none,
    .sacc false .none .none, .vpack .none 3 .none, .vunpackLo .none 7 .none, .vunpackHi .none 2 .none, .eaddF32 .none 7 .none, .eaddBf16 .none 0 .none, .eclr .none 0,
    .eroundF32 .none 0 to1, .eroundBf16 .none 0 to1]) := allAct_of _ (by decide +kernel)

/-- A node acts, and its firing meets `p`. -/
def Stands (s : State) (i : Instr) (p : Fire → Bool) : Prop := ∃ f, Acts s i f ∧ p f = true

theorem stands_of (s : State) (i : Instr) (p : Fire → Bool) (h : (actsNow s i && p (theFire s i)) = true) : Stands s i p := by
  simp only [Bool.and_eq_true] at h
  exact ⟨_, acts_of_now _ _ h.1, h.2⟩

/-! ### Tokens, registers and exits -/

theorem witness_merge_a : Meets (.merge .none .none) [(.a, scalarTok 1), (.b, scalarTok 2)] (fun f => f.b.tok? f.idx .a == some (scalarTok 1) && (f.b.counting f.idx).seen == 0
    && (f.b.toks.find? (fun e => e.idx == f.idx)).map (·.slot) == some .a) := meets_of _ _ _ (by decide +kernel)
theorem witness_merge_b : Meets (.merge .none .none) [(.b, nullTok .scalar)] (fun f => f.b.tok? f.idx .b == some (nullTok .scalar) && f.b.tok? f.idx .a == none
    && (f.b.counting f.idx).seen / 2 % 2 == 0) := meets_of _ _ _ (by decide +kernel)

/-- What `Arrives` asks, decided. -/
def arrivesNow (s : State) (i : Instr) (t : Token) : Bool :=
  let f := theFire s i
  firesNow s i && (f.b.at' f.idx .a)[(f.b.counting f.idx).seen]? == some t && !t.e && !t.n && (shape i).a.contains t.kind && (shape i).gate == .none
    && (f.b.counting f.idx).err == none

theorem arrives_of (s : State) (i : Instr) (t : Token) (h : arrivesNow s i t = true) : Arrives s i (theFire s i) t := by
  simp only [arrivesNow, Bool.and_eq_true, beq_iff_eq, Bool.not_eq_true'] at h
  obtain ⟨⟨⟨⟨⟨⟨h1, h2⟩, h3⟩, h4⟩, h5⟩, h6⟩, h7⟩ := h
  exact ⟨fires_of_now _ _ h1, h2, h3, h4, h5, .inl h6, h7⟩

/-- A counting node of two arrivals that already holds one. -/
def holding (i : Instr) (h t : Token) : State :=
  State.tweakRun (before i [(.a, h), (.a, t)]) (fun b => { b with counts := [⟨0, 1, 0, some h, none⟩] })

theorem witness_join : ∃ s f t, Arrives s (.join .none 1 .none) f t ∧ (f.b.counting f.idx).held = none :=
  ⟨_, _, _, arrives_of (before (.join .none 1 .none) [(.a, controlTok true)]) _ (controlTok true) (by decide +kernel), by decide +kernel⟩
theorem witness_join_last : ∃ s f t, Arrives s (.joinOr .none 1 .none) f t ∧ (f.b.counting f.idx).seen + 1 = (shape (.joinOr .none 1 .none)).count :=
  ⟨_, _, _, arrives_of (holding (.joinOr .none 1 .none) (controlTok false) (controlTok true)) _ (controlTok true) (by decide +kernel), by decide +kernel⟩
theorem witness_join_nulls : Meets (.join .none 0 .none) [(.a, nullTok .control)] (fun f => (f.b.at' f.idx .a)[(f.b.counting f.idx).seen]? == some (nullTok .control)
    && (f.b.counting f.idx).seen == 0 && (f.b.counting f.idx).held == none && (f.b.counting f.idx).err == none) := meets_of _ _ _ (by decide +kernel)

/-- Every scalar and vector form of `comb` meets a held value of its own S, and one of another. -/
theorem witness_comb : ∀ i ∈ ([.combAdd .none false 1 .none, .combMin .none false 1 .none, .combMax .none false 1 .none, .combMinn .none false 1 .none, .combMaxn .none false 1 .none,
    .combAnd .none false 1 .none, .combOr .none false 1 .none, .combXor .none false 1 .none, .combFadd .none false 1 .none, .combFmin .none false 1 .none,
    .combFmax .none false 1 .none] : List Instr), ∃ s f t, Arrives s i f t ∧ (f.b.counting f.idx).held = some (scalarTok 5) ∧ (scalarTok 5).s = t.s := by
  intro i hi
  have h : ∀ i ∈ ([.combAdd .none false 1 .none, .combMin .none false 1 .none, .combMax .none false 1 .none, .combMinn .none false 1 .none, .combMaxn .none false 1 .none,
      .combAnd .none false 1 .none, .combOr .none false 1 .none, .combXor .none false 1 .none, .combFadd .none false 1 .none, .combFmin .none false 1 .none,
      .combFmax .none false 1 .none] : List Instr), (arrivesNow (holding i (scalarTok 5) (scalarTok 7)) i (scalarTok 7)
        && ((theFire (holding i (scalarTok 5) (scalarTok 7)) i).b.counting 0).held == some (scalarTok 5)) = true := by decide +kernel
  have := h i hi
  simp only [Bool.and_eq_true, beq_iff_eq] at this
  exact ⟨_, _, _, arrives_of _ _ _ this.1, this.2, rfl⟩
theorem witness_comb_scale : ∃ s f t h, Arrives s (.combAdd .none true 1 .none) f t ∧ (f.b.counting f.idx).held = some h ∧ h.s ≠ t.s :=
  ⟨_, _, _, vectorTok 1 true, arrives_of (holding (.combAdd .none true 1 .none) (vectorTok 1 true) (vectorTok 1 false)) _ (vectorTok 1 false) (by decide +kernel),
    by decide +kernel, by decide⟩

theorem test_comb_wraps : (afterStep (holding (.combAdd .none false 1 to1) (scalarTok (2 ^ 64 - 1)) (scalarTok 2))).1 = some (scalarTok 1) := by decide +kernel
theorem test_join_or : (afterStep (holding (.joinOr .none 1 to1) (controlTok false) (controlTok true))).1 = some (controlTok true) := by decide +kernel

theorem witness_read_full : Stands (before (.read .none 63 to1) []) (.read .none 63 to1) (fun f => f.x.isFull 63) := stands_of _ _ _ (by decide +kernel)
theorem witness_read_empty : Stands (State.tweak (before (.read .none 5 to1) []) (fun x => { x with gEmpty := [(5, 1)] })) (.read .none 5 to1) (fun f => !f.x.isFull 5) :=
  stands_of _ _ _ (by decide +kernel)
theorem witness_readT_empty : Stands (State.tweak (before (.readT .none 5 to1) []) (fun x => { x with gEmpty := [(5, 1)] })) (.readT .none 5 to1) (fun f => !f.x.isFull 5) :=
  stands_of _ _ _ (by decide +kernel)
theorem witness_perf : Stands (before (.perf .none to1) []) (.perf .none to1) (fun f => perfCounter f.c (f.x.perfsel.toNat % 64) == some (coreCounter 0 0)
    && !timedSource ((State.reset.dcbAt 0 (coreCounter 0 0 + 8)).toNat % 256)) := stands_of _ _ _ (by decide +kernel)
theorem witness_perf_timed : Stands { before (.perf .none to1) [] with dcb := [(dcbKey 0 (coreCounter 0 0 + 8), 0x29)] } (.perf .none to1) (fun f =>
    perfCounter f.c (f.x.perfsel.toNat % 64) == some (coreCounter 0 0) && timedSource ((State.dcbAt { State.reset with dcb := [(dcbKey 0 (coreCounter 0 0 + 8), 0x29)] } 0
      (coreCounter 0 0 + 8)).toNat % 256)) := stands_of _ _ _ (by decide +kernel)
theorem witness_perf_none : Stands (State.tweak (before (.perf .none to1) []) (fun x => { x with perfsel := 48 })) (.perf .none to1)
    (fun f => perfCounter f.c (f.x.perfsel.toNat % 64) == none) := stands_of _ _ _ (by decide +kernel)

theorem witness_cfgld_range : Stands (before (.cfgld .none to1) [(.a, scalarTok 0), (.b, scalarTok (15 * 4 + 64))]) (.cfgld .none to1)
    (fun f => decide (16 < (f.b'.word.extractLsb' 2 4).toNat + ((f.b'.word.extractLsb' 6 4).toNat + 1))) := stands_of _ _ _ (by decide +kernel)
/-- The block `bump`, fetched through the tables from the bytes that the spec prints: five words, two outputs, next block at the next unit. -/
theorem witness_cfgld_block : Stands (mappedProbe (.cfgld .none to1) [(.a, scalarTok 0x40000000), (.b, scalarTok 1)]) (.cfgld .none to1) (fun f =>
    let s := mappedProbe (.cfgld .none to1) [(.a, scalarTok 0x40000000), (.b, scalarTok 1)]
    s.slotBars f 1 0 == (false, false) && f.b.denied == [] && match ((Run.start s).fetchBlock (s.agent f.c) 0x40000000).2 with
      | .ok b => b.bad == none && b.words == [0x24400A81, 0x50000282, 0x20010883, 0x24800A00, 0x10A00000] && b.nout == 2 && b.next' == some 0x40000040
      | _ => false) := stands_of _ _ _ (by decide +kernel)
theorem witness_cfgld_fault : Stands (mappedProbe (.cfgld .none to1) [(.a, scalarTok 0), (.b, scalarTok 1)]) (.cfgld .none to1) (fun f =>
    let s := mappedProbe (.cfgld .none to1) [(.a, scalarTok 0), (.b, scalarTok 1)]
    s.slotBars f 1 0 == (false, false) && ((Run.start s).fetchBlock (s.agent f.c) 0).2 == .fault 0x09 0x03 0) := stands_of _ _ _ (by decide +kernel)

/-- An exit that is the first of its run to fire leaves the tag of its run. -/
theorem leaves_of (s : State) (i : Instr) (n : BitVec 56) (w : NestRec) (h : (actsNow s i && (theFire s i).b.exit == none && !(theFire s i).b.begun
    && s.nestsFired (theFire s i).c (theFire s i).b && (tagAfter (theFire s i).b).toOption == some (n, w)) = true) : Leaves s i (theFire s i) n w := by
  simp only [Bool.and_eq_true, beq_iff_eq, Bool.not_eq_true'] at h
  obtain ⟨⟨⟨⟨h1, h2⟩, h3⟩, h4⟩, h5⟩ := h
  refine ⟨acts_of_now _ _ h1, h2, h3, h4, ?_⟩
  revert h5
  cases tagAfter (theFire s i).b with
  | error e => simp [Except.toOption]
  | ok v => simp [Except.toOption]

theorem witness_exits : ∀ i ∈ ([.br .none 0x800000, .brn .none, .halt .none, .call .none 1] : List Instr), ∃ f, Regular (probe i) = true ∧ Leaves (probe i) i f 0 []
    ∧ (probe i).placedOf 0 f.b ≠ none := by
  intro i hi
  have h : ∀ i ∈ ([.br .none 0x800000, .brn .none, .halt .none, .call .none 1] : List Instr), Regular (probe i) = true ∧ (actsNow (probe i) i && (theFire (probe i) i).b.exit == none
      && !(theFire (probe i) i).b.begun && (probe i).nestsFired (theFire (probe i) i).c (theFire (probe i) i).b
      && (tagAfter (theFire (probe i) i).b).toOption == some (0, [])) = true ∧ (probe i).placedOf 0 (theFire (probe i) i).b ≠ none := by decide +kernel
  exact ⟨_, (h i hi).1, leaves_of _ _ _ _ (h i hi).2.1, (h i hi).2.2⟩
theorem witness_bri : ∃ s f, Leaves s (.bri .none) f 0 [] ∧ f.a.word.toNat % 64 = 0 ∧ f.a.word.toNat < 2 ^ 56 ∧ f.b.tok? f.idx .a = some f.a :=
  ⟨_, _, leaves_of (before (.bri .none) [(.a, scalarTok (2 ^ 56 - 64))]) _ _ _ (by decide +kernel), by decide +kernel, by decide +kernel, by decide +kernel⟩
theorem witness_calli : ∃ s f, Leaves s (.calli .none) f 0 [] ∧ f.a.word.toNat % 64 = 0 ∧ f.a.word.toNat < 2 ^ 56 ∧ f.b.tok? f.idx .a = some f.a
    ∧ (s.ctx 0).stack.length = 31 :=
  ⟨_, _, leaves_of (State.tweak (before (.calli .none) [(.a, scalarTok 64)]) (fun x => { x with stack := List.replicate 31 ⟨0, 0, []⟩ })) _ _ _ (by decide +kernel),
    by decide +kernel, by decide +kernel, by decide +kernel, by decide +kernel⟩
theorem witness_iter : ∃ s f n w n', Leaves s (.iter .none .none .none) f n w ∧ incLevel n w = .ok n' :=
  ⟨_, _, 0, [1], BitVec.ofNat 56 (2 ^ (56 - widthBits 1)), leaves_of (State.tweakRun (before (.iter .none .none .none) []) (fun b => { b with widths := [1] })) _ _ _ (by decide +kernel),
    ok_of_some (by decide +kernel)⟩
theorem witness_brnDec : ∃ s f p, Leaves s (.brnDec .none) f 0 [] ∧ (s.ctx 0).isOldest f.b.iid = true ∧ (s.ctx 0).latch = some (3, 15)
    ∧ (s.core 0).placedAt 3 15 = some p ∧ p.pin = some 0 :=
  ⟨{ State.tweak (before (.brnDec .none) []) (fun x => { x with latch := some (3, 15) }) with
      cores := [(0, { Core.reset with placed := [probeBlock 0x10400000, { probeBlock 0x10A00000 with cfg := 3, slot := 15, addr := 0x4000, pin := some 0 }] })] },
    _, { probeBlock 0x10A00000 with cfg := 3, slot := 15, addr := 0x4000, pin := some 0 }, leaves_of _ _ _ _ (by decide +kernel), by decide +kernel, by decide +kernel,
    by decide +kernel, rfl⟩
theorem witness_wdrive : ∃ s f, Leaves s (.wdrive .none 2) f 0 [] ∧ f.a.word.toNat % 64 = 0 ∧ f.a.word.toNat < 2 ^ 56 ∧ f.b'.word.toNat % 64 = 0
    ∧ f.b'.word.toNat + 64 = coreLimit :=
  ⟨_, _, leaves_of (before (.wdrive .none 2) [(.a, scalarTok 64), (.b, scalarTok 0x2BFFC0)]) _ _ _ (by decide +kernel), by decide +kernel, by decide +kernel, by decide +kernel,
    by decide +kernel⟩
theorem witness_ret : ∃ s f e, Leaves s (.ret .none) f 0 [] ∧ (s.ctx 0).atHandlerDepth = false ∧ (s.ctx 0).stack.getLast? = some e :=
  ⟨State.tweak (before (.ret .none) []) (fun x => { x with stack := [⟨64, 0, []⟩] }), _, ⟨64, 0, []⟩, leaves_of _ _ _ _ (by decide +kernel), by decide +kernel, by decide +kernel⟩
theorem witness_ret_empty : ∃ s f, Leaves s (.ret .none) f 0 [] ∧ (s.ctx 0).atHandlerDepth = false ∧ (s.ctx 0).stack = [] ∧ (s.ctx 0).spill = 0 :=
  ⟨before (.ret .none) [], _, leaves_of _ _ _ _ (by decide +kernel), by decide +kernel, by decide +kernel, by decide +kernel⟩
theorem witness_ret_handler : ∃ s f, Leaves s (.ret .none) f 0 [] ∧ (s.ctx 0).atHandlerDepth = true :=
  ⟨State.tweak (before (.ret .none) []) (fun x => { x with hndl := true }), _, leaves_of _ _ _ _ (by decide +kernel), by decide +kernel⟩
theorem witness_second_exit : Stands (State.tweakRun (before (.br .none 2) []) (fun b => { b with exit := some (1, .br), begun := true })) (.br .none 2)
    (fun f => f.b.exit == some (1, .br) && f.idx == 0) := stands_of _ _ _ (by decide +kernel)
theorem witness_bri_misaligned : Stands (before (.bri .none) [(.a, scalarTok 63)]) (.bri .none) (fun f => f.b.exit == none && f.a.word.toNat % 64 != 0) :=
  stands_of _ _ _ (by decide +kernel)
theorem witness_calli_space : Stands (before (.calli .none) [(.a, scalarTok (2 ^ 56))]) (.calli .none)
    (fun f => f.b.exit == none && f.a.word.toNat % 64 == 0 && decide (2 ^ 56 ≤ f.a.word.toNat)) := stands_of _ _ _ (by decide +kernel)

/-! ### Memory and synchronisation -/

/-- Where an access lies, and whether its bytes are free of poison. -/
def placeOf (s : State) (f : Fire) (sp : Space) (ea n : Nat) (need : Need) : Option Nat :=
  let r := (Run.start s).locate (s.agent f.c) sp ea need
  match r.2 with
  | .key k => if (r.1.st.poisonAt k n).isNone then some k else none
  | _ => none

-- The last address that each check admits, and the first that it does not.
theorem test_access_limits : [fireCheck State.reset (State.reset.agent 0) .core 0x2BFFF8 8 true .load, fireCheck State.reset (State.reset.agent 0) .core 0x2C0000 8 true .load,
    fireCheck State.reset (State.reset.agent 0) .core 0x2BFFF9 8 true .load, fireCheck State.reset (State.reset.agent 0) .clus 0x7FFFFC 4 true .store,
    fireCheck State.reset (State.reset.agent 0) .clus 0x800000 1 true .store, fireCheck State.reset (State.reset.agent 0) .main (2 ^ 56) 8 true .store]
    = [none, some (0x08, 0), some (0x07, 0), none, some (0x08, 0), some (0x08, 0)] := by decide +kernel
theorem test_access_param : [fireCheck State.reset (State.reset.agent 0) .param 0 0 true .load, fireCheck State.reset (State.reset.agent 0) .param 0 8 true .load,
    fireCheck { State.reset with launches := [{ newLaunch 0 0 [] with pool := [1, 2, 3, 4] }] } (State.reset.agent 0) .param 0 4 true .store]
    = [none, some (0x08, 0), some (0x09, 0x02)] := by decide +kernel

/-- A plain load acts on the last word of a core store, and on main memory through the tables. -/
theorem witness_load : ∀ i ∈ ([.ld .core .w64 .none 0 to1, .lds .core .w64 0 .none 0 to1, .ldRaw .core .w64 0 .none 0 to1] : List Instr),
    Stands (before i [(.a, scalarTok 0x2BFFF8)]) i (fun f => f.b.denied == [] && (f.b.effs == []) && fireCheck (before i [(.a, scalarTok 0x2BFFF8)]) ((before i
      [(.a, scalarTok 0x2BFFF8)]).agent 0) .core 0x2BFFF8 8 true .load == none && (placeOf (before i [(.a, scalarTok 0x2BFFF8)]) f .core 0x2BFFF8 8 .r).isSome
      && !(before i [(.a, scalarTok 0x2BFFF8)]).ownBars ((before i [(.a, scalarTok 0x2BFFF8)]).ctx 0) f.b .core 0x2BFFF8 8 false) := by
  intro i hi
  simp only [List.mem_cons, List.not_mem_nil, or_false] at hi
  rcases hi with rfl | rfl | rfl <;> exact stands_of _ _ _ (by decide +kernel)
theorem witness_load_main : Stands (mappedProbe (.ld .main .w64 .none 1 to1) [(.a, scalarTok 0xFFFF8)]) (.ld .main .w64 .none 1 to1) (fun f =>
    placeOf (mappedProbe (.ld .main .w64 .none 1 to1) [(.a, scalarTok 0xFFFF8)]) f .main 0x100000 8 .r == some (mainKey 0x100000)) := stands_of _ _ _ (by decide +kernel)
/-- The load reads the table entry that maps it. -/
theorem test_load_main : (afterStep (mappedProbe (.ld .main .w64 .none 1 to1) [(.a, scalarTok 0xFFFF8)])).1 = some ⟨.scalar, 0x200001, true, false, false⟩ := by decide +kernel
theorem test_load_signed : (afterStep { before (.lds .core .w16 0 .none 0x7F to1) [(.a, scalarTok 0x22)] with mem := [(0x21, 0x80)] }).1
    = some ⟨.scalar, 0xFFFFFFFFFFFF8000, true, false, false⟩ := by decide +kernel
theorem witness_load_param : Stands { before (.ld .param .w32 .none 0 to1) [(.a, scalarTok 0)] with launches := [{ newLaunch 0 0 [] with pool := [1, 2, 3, 4] }] }
    (.ld .param .w32 .none 0 to1) (fun f => f.b.denied == [] && f.b.effs == [] && (State.poolOf { before (.ld .param .w32 .none 0 to1) [(.a, scalarTok 0)] with
      launches := [{ newLaunch 0 0 [] with pool := [1, 2, 3, 4] }] } 0).length == 4) := stands_of _ _ _ (by decide +kernel)
/-- The bytes of the next piece of an unaligned load that has `got`, when every check of it passes. -/
def nextPiece (s : State) (f : Fire) (ea n : Nat) (got : List Byte) : Option Nat :=
  match (pieces ea n).find? (fun p => p.1 == ea + got.length) with
  | some p =>
    if fireCheck s (s.agent f.c) .core p.1 p.2 false .load = none ∧ s.ownBars (s.ctx f.c) f.b .core p.1 p.2 false = false then
      match ((Run.start s).readPiece (s.agent f.c) .core p.1 p.2 .r (s.seenBy f.c f.b f.idx)).2 with
      | .bytes bs => some bs.length
      | _ => none
    else none
  | none => none
def wcvProbe (got : List Byte) : State :=
  State.tweakRun (before (.wcvLoad .core .w64 .none 0 to1) [(.a, scalarTok 3)]) (fun b => { b with partly := if got.isEmpty then [] else [(0, got)] })
theorem witness_wcv : Stands (wcvProbe []) (.wcvLoad .core .w64 .none 0 to1) (fun f => f.b.denied == [] && nextPiece (wcvProbe []) f 3 8 (SMap.get f.b.partly [] 0) == some 1) :=
  stands_of _ _ _ (by decide +kernel)
theorem witness_wcv_last : Stands (wcvProbe (List.replicate 7 1)) (.wcvLoad .core .w64 .none 0 to1) (fun f =>
    (SMap.get f.b.partly [] 0).length == 7 && nextPiece (wcvProbe (List.replicate 7 1)) f 3 8 (SMap.get f.b.partly [] 0) == some 1) := stands_of _ _ _ (by decide +kernel)
/-- The last piece lies beyond the core store. -/
theorem witness_wcv_fault : Stands (State.tweakRun (before (.wcvLoad .core .w64 .none 0 to1) [(.a, scalarTok 0x2BFFFD)]) (fun b => { b with partly := [(0, [1, 2, 3])] }))
    (.wcvLoad .core .w64 .none 0 to1) (fun f => (pieces 0x2BFFFD 8).find? (fun p => p.1 == 0x2BFFFD + (SMap.get f.b.partly [] 0).length) == some (0x2C0000, 4)
      && fireCheck State.reset (State.reset.agent 0) .core 0x2C0000 4 false .load == some (0x08, 0)) := stands_of _ _ _ (by decide +kernel)
theorem test_wcv : (afterStep { wcvProbe [1, 2, 3, 4, 5, 6, 7] with mem := [(10, 0x80)] }).1 = some ⟨.scalar, 0x8007060504030201, true, false, false⟩ := by decide +kernel
theorem witness_memory_frames : ∃ s t t', Regular s = true ∧ exec (.ld .core .w64 .none 0 to1) s = .next t
    ∧ (probe (.atomAdd .core .w64 .none to1)).siteRun ≠ none ∧ exec (.atomAdd .core .w64 .none to1) (probe (.atomAdd .core .w64 .none to1)) = .next t' :=
  ⟨probe (.ld .core .w64 .none 0 to1), _, _, by decide +kernel, rfl, by decide +kernel, rfl⟩

/-- A waiting load on a full granule, on an empty one, and with its answer. -/
def waitingProbe (i : Instr) (full : SMap Bool) (rs : List Reader) : State := { before i [(.a, scalarTok 0x10)] with full := full, readers := rs }
theorem witness_wait_full : ∀ i ∈ ([.ldWait .core .w64 .none 0 to1, .ldTake .core .w64 .none 0 to1, .lds .core .w64 1 .none 0 to1, .lds .core .w64 2 .none 0 to1,
    .ldRaw .core .w64 1 .none 0 to1, .ldRaw .core .w64 2 .none 0 to1] : List Instr), Stands (waitingProbe i [(1, true)] []) i (fun f =>
      (waitingProbe i [(1, true)] []).readerOf f == none && placeOf (waitingProbe i [(1, true)] []) f .core 0x10 8 .r == some 0x10
        && (granules 0x10 8).all (waitingProbe i [(1, true)] []).isFull) := by
  intro i hi
  simp only [List.mem_cons, List.not_mem_nil, or_false] at hi
  rcases hi with rfl | rfl | rfl | rfl | rfl | rfl <;> exact stands_of _ _ _ (by decide +kernel)
theorem witness_wait_empty : Stands (waitingProbe (.ldWait .core .w64 .none 0 to1) [] []) (.ldWait .core .w64 .none 0 to1) (fun f =>
    placeOf (waitingProbe (.ldWait .core .w64 .none 0 to1) [] []) f .core 0x10 8 .r == some 0x10
      && (granules 0x10 8).find? (fun n => !(waitingProbe (.ldWait .core .w64 .none 0 to1) [] []).isFull n) == some 1) := stands_of _ _ _ (by decide +kernel)
theorem witness_wait_answered : Stands (waitingProbe (.ldWait .core .w64 .none 0 to1) [] [⟨1, 0x10, 8, 0, 0, 0, false, 0, false, some (List.replicate 8 7), false, (0, 0)⟩])
    (.ldWait .core .w64 .none 0 to1) (fun f => ((waitingProbe (.ldWait .core .w64 .none 0 to1) [] [⟨1, 0x10, 8, 0, 0, 0, false, 0, false, some (List.replicate 8 7), false, (0, 0)⟩]).readerOf f).isSome) :=
  stands_of _ _ _ (by decide +kernel)

/-- An empty granule that a fill of the same run, on which the load depends, makes full first. -/
def filledProbe : State :=
  State.tweakRun (waitingProbe (.ldWait .core .w64 .none 0 to1) [] []) (fun b => { b with effs := [⟨5, .access ⟨.fill, .core, .w64, 0x10, 7⟩⟩], ancest := [(0, 1 <<< 5)] })
theorem witness_wait_filled : Stands filledProbe (.ldWait .core .w64 .none 0 to1) (fun f => (granules 0x10 8).all (fun n => (filledProbe.filledBefore f .core).contains n)
    && !filledProbe.ownBars (filledProbe.ctx f.c) f.b .core 0x10 8 true) := stands_of _ _ _ (by decide +kernel)
theorem test_wait_filled : (afterStep filledProbe).1 = some ⟨.scalar, 7, true, false, false⟩ := by decide +kernel
theorem witness_wait_failed : ∀ e ∈ ([(none, true, (0, 0)), (some (List.replicate 8 7), false, (0x0F, 0x01))] : List (Option (List Byte) × Bool × (Nat × Nat))),
    Stands (waitingProbe (.ldTake .core .w64 .none 0 to1) [] [⟨1, 0x10, 8, 0, 0, 0, true, 0, false, e.1, e.2.1, e.2.2⟩]) (.ldTake .core .w64 .none 0 to1)
      (fun f => ((waitingProbe (.ldTake .core .w64 .none 0 to1) [] [⟨1, 0x10, 8, 0, 0, 0, true, 0, false, e.1, e.2.1, e.2.2⟩]).readerOf f).isSome) := by
  intro e he
  simp only [List.mem_cons, List.not_mem_nil, or_false] at he
  rcases he with rfl | rfl <;> exact stands_of _ _ _ (by decide +kernel)
theorem witness_stores : ∀ e ∈ ([(.st .core .w64 .none 0 .none, [(.a, scalarTok 0x2BFFF8), (.b, scalarTok 1)]), (.fill .core .w64 .none 0 .none, [(.a, scalarTok 0x2BFFF8), (.b, scalarTok 1)]),
    (.empty .core .w64 .none 0 .none, [(.a, scalarTok 0x2BFFF8)])] : List (Instr × List (Slot × Token))), Stands (before e.1 e.2) e.1 (fun f =>
      fireCheck (before e.1 e.2) ((before e.1 e.2).agent f.c) .core f.a.word.toNat 8 true .store == none) := by
  intro e he
  simp only [List.mem_cons, List.not_mem_nil, or_false] at he
  rcases he with rfl | rfl | rfl <;> exact stands_of _ _ _ (by decide +kernel)
theorem witness_store_fault : Stands (before (.st .core .w64 .none 0 .none) [(.a, scalarTok 0x2C0000), (.b, scalarTok 1)]) (.st .core .w64 .none 0 .none) (fun f =>
    fireCheck State.reset (State.reset.agent f.c) .core f.a.word.toNat 8 true .store == some (0x08, 0)) := stands_of _ _ _ (by decide +kernel)
theorem witness_wcv_store : Stands (before (.wcvStore .core .w64 .none 0) [(.a, scalarTok 3), (.b, scalarTok 1)]) (.wcvStore .core .w64 .none 0) (fun f =>
    (pieces f.a.word.toNat 8).all (fun p => fireCheck State.reset (State.reset.agent f.c) .core p.1 p.2 false .store == none)) := stands_of _ _ _ (by decide +kernel)

theorem witness_wcv_store_fault : Stands (before (.wcvStore .core .w64 .none 0) [(.a, scalarTok 0x2BFFFD), (.b, scalarTok 1)]) (.wcvStore .core .w64 .none 0) (fun f =>
    pieces f.a.word.toNat 8 == [(0x2BFFFD, 1), (0x2BFFFE, 2)] ++ (0x2C0000, 4) :: [(0x2C0004, 1)]
      && [(0x2BFFFD, 1), (0x2BFFFE, 2)].all (fun p => fireCheck State.reset (State.reset.agent 0) .core p.1 p.2 false .store == none)
      && fireCheck State.reset (State.reset.agent 0) .core 0x2C0000 4 false .store == some (0x08, 0)) := stands_of _ _ _ (by decide +kernel)
/-- The atomics over the core store, posted and returning. -/
def atomics (t : Target) : List Instr :=
  [.atomAdd .core .w64 .none t, .atomAnd .core .w64 .none t, .atomOr .core .w64 .none t, .atomXor .core .w64 .none t, .atomMin .core .w64 .none t, .atomMax .core .w64 .none t,
   .atomMinn .core .w64 .none t, .atomMaxn .core .w64 .none t, .atomFmin .core .w32 .none t, .atomFmax .core .w16 .none t, .atomSwap .core .w64 .none t,
   .atomEsum .core .v512 .none t, .cas .core .w64 .none t]
theorem witness_atomics : ∀ i ∈ atomics .none ++ atomics to1, Stands (probe i) i (fun f => fireCheck (probe i) ((probe i).agent f.c) .core f.a.word.toNat 64 true .atomic == none
    && f.b.denied == [] && !(probe i).ownPending ((probe i).ctx f.c) .core 0 64 && (placeOf (probe i) f .core 0 64 .rw).isSome) := by
  have h : (atomics .none ++ atomics to1).all (fun i => actsNow (probe i) i && (fireCheck (probe i) ((probe i).agent (theFire (probe i) i).c) .core
      (theFire (probe i) i).a.word.toNat 64 true .atomic == none && (theFire (probe i) i).b.denied == []
      && !(probe i).ownPending ((probe i).ctx (theFire (probe i) i).c) .core 0 64 && (placeOf (probe i) (theFire (probe i) i) .core 0 64 .rw).isSome)) = true := by decide +kernel
  exact fun i hi => stands_of _ _ _ (List.all_eq_true.mp h i hi)
/-- An old value of all ones, and 2 added: the old value comes back with S = 0, and memory wraps to 1. -/
theorem test_atomic_wraps : (match step { before (.atomAdd .core .w32 .none to1) [(.a, scalarTok 0x20), (.b, scalarTok 2)] with
      mem := [(0x20, 0xFF), (0x21, 0xFF), (0x22, 0xFF), (0x23, 0xFF)] } with
    | .next t => ((t.ctx 0).run? 0).bind (fun b => (b.tok? 1 .a).map (fun v => (v.data.toNat, v.s, t.num 0x20 8)))
    | _ => none) = some (0xFFFFFFFF, false, 1) := by decide +kernel

theorem witness_writes : Regular State.reset = true ∧ (∀ n ∈ granules 0x20 8, State.reset.waiting n = [] ∧ State.reset.taken n = false)
    ∧ (∃ n ∈ granules 0x20 8, ({ State.reset with full := [(2, true)] } : State).isFull n = true)
    ∧ ∃ n ∈ granules 0x20 8, ({ State.reset with readers := [⟨2, 0x20, 8, 1, 0, 0, false, 0, false, none, false, (0, 0)⟩] } : State).waiting n ≠ [] := by decide +kernel

/-- A tree of one node whose leaf is rank 0, of kind `xs` and length 64. -/
def smallTree (xs : Bool) : Tree :=
  ⟨0, 0, 5, xs, 64, 1, 0, 0, 64, 0, [⟨0, 0, none, [(true, 0)], [[]]⟩], [], [], [], false⟩
theorem witness_red : Stands { before (.redXs .none 5) [(.a, vectorTok 1)] with trees := [smallTree true] } (.redXs .none 5) (fun f =>
    (State.treeOf { before (.redXs .none 5) [(.a, vectorTok 1)] with trees := [smallTree true] } (Ctx.reset) 5).any (fun t => t.xs && t.len == 64) && f.a.kind == .vector) :=
  stands_of _ _ _ (by decide +kernel)
theorem witness_red_kind : Stands { before (.redF32 .none 5) [(.a, vectorTok 1)] with trees := [smallTree true] } (.redF32 .none 5) (fun _ =>
    (State.treeOf { before (.redF32 .none 5) [(.a, vectorTok 1)] with trees := [smallTree true] } (Ctx.reset) 5).any (fun t => t.xs)) := stands_of _ _ _ (by decide +kernel)
theorem witness_red_none : Stands (before (.redF32 .none 63) [(.a, vectorTok 1)]) (.redF32 .none 63) (fun f => (State.reset.treeOf f.x 63).isNone) := stands_of _ _ _ (by decide +kernel)
/-- A handle of one row of 16 FP32 elements in the core store. -/
def rowHandle : Token := ⟨.handle, BitVec.ofNat 512 (2 ^ 56 + 16 * 2 ^ 160 + 2 ^ 176), true, false, false⟩
theorem witness_red_handle : Stands { before (.redF32 .none 5) [(.a, rowHandle)] with trees := [smallTree false] } (.redF32 .none 5) (fun f =>
    f.a.kind == .handle && redHandleOk f.a.data && shRows (f.a.data.setWidth 256) * shCols (f.a.data.setWidth 256) * 4 == 64) := stands_of _ _ _ (by decide +kernel)
theorem witness_step : Stands { before (.step .none 63) [] with groups := [(63, { StepGroup.reset with conf := true, members := [0] })] } (.step .none 63) (fun f =>
    isMember { before (.step .none 63) [] with groups := [(63, { StepGroup.reset with conf := true, members := [0] })] } ((probe (.step .none 63)).agent f.c) 63) :=
  stands_of _ _ _ (by decide +kernel)
theorem witness_barr : Stands { before (.barr .none 31) [] with barriers := [(31, { Barrier.reset with armed := true, expect := 2 })] } (.barr .none 31) (fun f =>
    (State.barrier { before (.barr .none 31) [] with barriers := [(31, { Barrier.reset with armed := true, expect := 2 })] } f.c 31).armed
      && !((probe (.barr .none 31)).ctx f.c).arrivedAt f.b 31 && f.b.effs == []) := stands_of _ _ _ (by decide +kernel)
theorem witness_barr_idle : Stands (probe (.barr .none 31)) (.barr .none 31) (fun f => !((probe (.barr .none 31)).barrier f.c 31).armed) := stands_of _ _ _ (by decide +kernel)
theorem witness_bwait : Stands (before (.bwait .none 0 to1) []) (.bwait .none 0 to1) (fun f => f.b.denied == []) := stands_of _ _ _ (by decide +kernel)
theorem witness_step_none : Stands (probe (.step .none 63)) (.step .none 63) (fun f => !isMember (probe (.step .none 63)) ((probe (.step .none 63)).agent f.c) 63) := stands_of _ _ _ (by decide +kernel)
theorem witness_barr_again : Stands { State.tweak (before (.barr .none 31) []) (fun x => { x with arrivals := [(1, 31)] }) with
      barriers := [(31, { Barrier.reset with armed := true, expect := 2 })] } (.barr .none 31) (fun f =>
    (State.tweak (before (.barr .none 31) []) (fun x => { x with arrivals := [(1, 31)] })).ctx f.c |>.arrivedAt f.b 31) := stands_of _ _ _ (by decide +kernel)
theorem witness_barr_own : Stands { State.tweakRun (before (.barr .none 31) []) (fun b => { b with effs := [⟨4, .barr 31⟩] }) with
      barriers := [(31, { Barrier.reset with armed := true, expect := 2 })] } (.barr .none 31) (fun f => f.b.effs == [⟨4, .barr 31⟩]) := stands_of _ _ _ (by decide +kernel)
theorem witness_bwait_waits : Stands (State.tweak (before (.bwait .none 0 to1) []) (fun x => { x with arrivals := [(1, 0)] })) (.bwait .none 0 to1) (fun f =>
    f.b.denied == [] && ((State.tweak (before (.bwait .none 0 to1) []) (fun x => { x with arrivals := [(1, 0)] })).ctx f.c).arrivedAt f.b 0) := stands_of _ _ _ (by decide +kernel)
theorem witness_bwait_late : Stands (State.tweakRun (before (.bwait .none 0 to1) []) (fun b => { b with denied := [(0, 0x11, 0x02)] })) (.bwait .none 0 to1) (fun f =>
    f.b.denied.find? (fun d => d.1 == f.idx) == some (f.idx, 0x11, 0x02)) := stands_of _ _ _ (by decide +kernel)
def fences : List Instr := [.fenceCore .none to1, .fenceClus .none to1, .fenceDie .none to1, .fencePkg .none to1, .fenceSys .none to1]
theorem witness_fences : ∀ i ∈ fences, Stands (probe i) i (fun f => ((probe i).ctx f.c).isOldest f.b.iid && !((probe i).ctx f.c).writesPending) := by
  have h : fences.all (fun i => actsNow (probe i) i && (((probe i).ctx (theFire (probe i) i).c).isOldest (theFire (probe i) i).b.iid
    && !((probe i).ctx (theFire (probe i) i).c).writesPending)) = true := by decide +kernel
  exact fun i hi => stands_of _ _ _ (List.all_eq_true.mp h i hi)
/-- A fence of a context that still has a store to perform. -/
def fencing (i : Instr) : State := State.tweak (probe i) (fun x => { x with pend := [⟨7, 0, 0, 0, 0, 0, 0, 0, [], .access ⟨.store, .core, .w64, 0x40, 5⟩, false, none, false, 0⟩] })
theorem witness_fence_waits : ∀ i ∈ fences, Stands (fencing i) i (fun f => ((fencing i).ctx f.c).writesPending) := by
  have h : fences.all (fun i => actsNow (fencing i) i && ((fencing i).ctx (theFire (fencing i) i).c).writesPending) = true := by decide +kernel
  exact fun i hi => stands_of _ _ _ (List.all_eq_true.mp h i hi)

/-! ### Vectors, exact sums and draws -/

/-- A signalling NaN, an infinity, zeros of both signs, two numbers in order, and an element that rounds to itself. -/
theorem witness_selection : (FloatFmt.f32.read 0x7FA00000).isNan = true ∧ (FloatFmt.f32.read 0x7FA00000).isSignalling = true ∧ (FloatFmt.f32.read 0x3F800000).isNan = false
    ∧ (FloatFmt.f32.read 0x3F800000).lt (FloatFmt.f32.read 0x40000000) = true ∧ FloatFmt.f32.read 0x80000000 = .zero true ∧ FloatFmt.f32.read 0 = .zero false
    ∧ (FloatFmt.f32.read 0x7F7FFFFF).isInf = false ∧ (∃ sg, FloatFmt.f32.read 0x7FC00000 = .nan sg) ∧ ∃ p, FloatFmt.f32.read 0xFF800000 = .inf p :=
  ⟨by decide +kernel, by decide +kernel, by decide +kernel, by decide +kernel, by decide +kernel, by decide +kernel, by decide +kernel, ⟨false, by decide +kernel⟩, ⟨true, by decide +kernel⟩⟩
theorem test_int_round : [intRound .rne false 5 1 false, intRound .rne false 7 1 false, intRound .rz true 7 1 false, intRound .ru false 1 3 false, intRound .rd true 1 3 false, intRound .ru true 1 3 false]
    = [(2, false), (4, false), (3, false), (1, false), (1, false), (0, false)] := by decide +kernel
theorem witness_unpack_o4 : Stands (before (.vunpackLo .none 7 to1) [(.a, vectorTok 0xC08F5C83)]) (.vunpackLo .none 7 to1) (fun f =>
    (List.range 8).all (fun j => (o4Word (elemAt 32 f.a.data j)).isSome)) := stands_of _ _ _ (by decide +kernel)
theorem witness_unpack_o4_malformed : Stands (before (.vunpackLo .none 7 to1) [(.a, vectorTok (0x08000000 * 2 ^ 224))]) (.vunpackLo .none 7 to1) (fun f =>
    (List.range 7).all (fun j => (o4Word (elemAt 32 f.a.data j)).isSome) && (o4Word (elemAt 32 f.a.data 7)).isNone) := stands_of _ _ _ (by decide +kernel)
theorem witness_insert_scale : Stands (before (.vinsW32 .none 15 to1) [(.a, vectorTok 1 true), (.b, scalarTok 1)]) (.vinsW32 .none 15 to1) (fun f => f.a.s != f.b'.s) :=
  stands_of _ _ _ (by decide +kernel)
theorem witness_insert : Stands (probe (.vinsW8 .none 63 .none)) (.vinsW8 .none 63 .none) (fun f => f.a.s == f.b'.s) := stands_of _ _ _ (by decide +kernel)
theorem witness_eadd : Stands (before (.eaddF32 .none 7 .none) [(.a, vectorTok 1)]) (.eaddF32 .none 7 .none) (fun f => f.a.s) := stands_of _ _ _ (by decide +kernel)
theorem witness_eadd_raw : Stands (before (.eaddBf16 .none 0 .none) [(.a, vectorTok 1 false)]) (.eaddBf16 .none 0 .none) (fun f => !f.a.s) := stands_of _ _ _ (by decide +kernel)
theorem witness_exact_sum : (-160 : Int) ≤ -160 ∧ (0x7F7FFFFF : Nat) < 2 ^ FloatFmt.f32.bits ∧ (FloatFmt.f32.read 0x7F7FFFFF).isNan = false ∧ FloatFmt.f32.read 0x7F7FFFFF ≠ .zero true := by
  decide +kernel
theorem acts_draws : AllAct [.randN64 3 .none false .none .none, .randN64 0 .none true .none .none, .randF32 0 .none false .none .none, .randF32 0 .none true .none .none,
    .rskip 0 .none .none] := allAct_of _ (by decide +kernel)
theorem witness_draw : Stands (probe (.randN64 3 .none false .none .none)) (.randN64 3 .none false .none .none) (fun f => !(probe (.randN64 3 .none false .none .none)).earlierDraw f 3) :=
  stands_of _ _ _ (by decide +kernel)
/-- Two draws of one stream in a block: the second waits for the first. -/
def twoDraws : State :=
  let w := (toWord (.randN64 3 .none false .none .none)).getD 0
  { probe (.randN64 3 .none false .none .none) with
    site := ⟨0, 0, 1⟩
    cores := [(0, { Core.reset with placed := [{ probeBlock w with words := [w, w] }] })] }
theorem witness_earlier_draw : Stands twoDraws (.randN64 3 .none false .none .none) (fun f => twoDraws.earlierDraw f 3) := stands_of _ _ _ (by decide +kernel)

/-! ### Engines and soft tokens -/

theorem acts_posted : AllAct ([.mma 3 0 .none .none .none, .mmaG 0 3 .none .none, .mmaCb 0 .none .none .none, .accclr 0 .none .none, .accrdSt 0 .none .none, .accwr 0 .none .none,
    .tdset .none 0 0, .copy .none .none .none, .copyMc .none .none .none, .stage .none, .xform .none .none, .dedup .none .none, .gatherRows .none .none .none,
    .gatherSum .none .none .none, .gatherMean .none .none .none, .gatherWsum .none .none .none, .scatterAdd .none .none .none, .scatterMax .none .none .none,
    .scatterMin .none .none .none, .scatterOvw .none .none .none, .attn .none .none .none, .spawn .none, .alloc .none .none, .free .none]) := allAct_of _ (by decide +kernel)
theorem acts_waited : AllAct ([.mma 3 0 .none to1 .none, .mmaG 0 3 to1 .none, .mmaCb 0 .none to1 .none, .accclr 0 .none to1, .accrd 3 .none to1 .none, .accrdSt 0 .none to1,
    .accwr 0 .none to1, .copy .none to1 .none, .copyMc .none to1 .none, .xform .none to1, .fprint .none true to1 .none, .dedup .none to1, .gatherRows .none to1 .none,
    .gatherSum .none to1 .none, .gatherMean .none to1 .none, .gatherWsum .none to1 .none, .scatterAdd .none to1 .none, .scatterMax .none to1 .none,
    .scatterMin .none to1 .none, .scatterOvw .none to1 .none, .attn .none to1 .none, .alloc .none to1]) := allAct_of _ (by decide +kernel)
theorem witness_waited : Regular (probe (.accrd 3 .none to1 .none)) = true ∧ (shape (.accrd 3 .none to1 .none)).t0 ≠ .none ∧ Command (.accrd 3 .none to1 .none) (.accrd 3)
    ∧ ∀ o ∈ (probe (.copy .none to1 .none)).ops, o.id ≠ (probe (.copy .none to1 .none)).uid + 1 := ⟨by decide +kernel, by decide +kernel, .accrd _ _ _ _, by decide +kernel⟩
theorem witness_gather : ∀ i ∈ ([.gatherRows .none to1 .none, .scatterAdd .none to1 .none] : List Instr), Stands (probe i) i (fun f => ((probe i).ctx f.c).mode == .running
    && match descCopy (probe i) f.c f.b f.idx f.a.word.toNat 128 with
      | .ok d => gShmap d == 0
      | .error _ => true) := by
  intro i hi
  simp only [List.mem_cons, List.not_mem_nil, or_false] at hi
  rcases hi with rfl | rfl <;> exact stands_of _ _ _ (by decide +kernel)
theorem witness_tdset_range : [tdInRange 0 (2 ^ 56 - 1), tdInRange 0 (2 ^ 56)] = [true, false] := by decide +kernel

theorem witness_groups : (∃ t ∈ FloatFmt.f32.read 0x7FC00000 :: [Ext.fin false 1 0 false], t.isNan = true) ∧ Ext.inf true ∈ FloatFmt.f32.read 0xFF800000 :: [Ext.inf false]
    ∧ (∀ t ∈ FloatFmt.f32.read 0x80000000 :: [Ext.zero true], t = .zero true)
    ∧ (∀ t ∈ FloatFmt.f32.read 0x42800000 :: [Ext.fin false 1 (-18) false], t.isNan = false ∧ t.isInf = false ∧ ∀ e, t.exponent = some e → -18 ≤ e) := by
  refine ⟨⟨_, List.mem_cons_self, by decide +kernel⟩, ?_, ?_, ?_⟩
  · exact List.mem_cons.mpr (.inl (by decide +kernel))
  · intro t ht; simp only [List.mem_cons, List.not_mem_nil, or_false] at ht; rcases ht with rfl | rfl
    · decide +kernel
    · rfl
  · intro t ht; simp only [List.mem_cons, List.not_mem_nil, or_false] at ht
    have h : FloatFmt.f32.read 0x42800000 = .fin false 0x800000 (-17) false := by decide +kernel
    rcases ht with rfl | rfl
    · rw [h]; exact ⟨rfl, rfl, fun e he => by simp [Ext.exponent] at he; omega⟩
    · exact ⟨rfl, rfl, fun e he => by simp [Ext.exponent] at he; omega⟩
-- Equal logits: the lower index first.
theorem test_top : topOf 3 [0x3F800000, 0x40000000, 0x3F800000, 0xBF800000] = [(1, 0x40000000), (0, 0x3F800000), (2, 0x3F800000)] := by decide +kernel

/-- A vector of 16 FP32 elements at address 0 of the core store, and a machine whose soft register 0 holds an image. -/
def vref : Token := scalarTok (16 * 2 ^ 32)
def softProbe (i : Instr) (im : BitVec 1024) (l : List (Slot × Token)) : State := State.tweak (before i l) (fun x => { x with soft := [(0, im)] })
def mixImage : BitVec 1024 := softImage 2 0 2 7 0 (mixPayload [(4, 0x3F000000), (9, 0x3F000000)])
theorem witness_stopk : Stands (before (.stopk .none 0 to1) [(.a, vref), (.b, scalarTok 8)]) (.stopk .none 0 to1) (fun f =>
    let s := before (.stopk .none 0 to1) [(.a, vref), (.b, scalarTok 8)]
    vrefOk f.a.word && decide ((f.b'.word.extractLsb' 0 4).toNat = 8 ∧ 8 ≤ vrefElems f.a.word) && f.b.effs == []
      && match ((Run.start s).softRead f .core (vrefAddr f.a.word) (vrefBytes f.a.word)).2 with
        | .ok bs => bs.length == 64
        | _ => false) := stands_of _ _ _ (by decide +kernel)
theorem witness_smix : Stands (softProbe (.smix .none 0 to1) (softImage 2 16 2 7 0 (mixPayload [(4, 0x3F000000), (9, 0x3F000000)])) [(.b, scalarTok 0x3F800000)]) (.smix .none 0 to1)
    (fun f => imgFlag (f.soft 0) 16 && FloatFmt.f32.read (f.b'.word.toNat % 2 ^ 32) == .fin false 0x800000 (-23) false) := stands_of _ _ _ (by decide +kernel)
theorem witness_shid : Stands (before (.shid .none 0 to1) [(.a, vref), (.b, scalarTok (5 * 2 ^ 32))]) (.shid .none 0 to1) (fun f =>
    let s := before (.shid .none 0 to1) [(.a, vref), (.b, scalarTok (5 * 2 ^ 32))]
    vrefOk f.a.word && vrefElems f.a.word == 16 && !imgFlag (f.soft 0) 32 && match ((Run.start s).softRead f .core (vrefAddr f.a.word) (vrefBytes f.a.word)).2 with
        | .ok _ => true
        | _ => false) := stands_of _ _ _ (by decide +kernel)
theorem witness_scoll : ∀ i ∈ ([.scollArgmax .none 0 to1, .scollSample .none 0 0 to1] : List Instr),
    Stands (softProbe i mixImage []) i (fun f => imgKind (f.soft 0) == 2 && !imgFlag (f.soft 0) 16 && !imgFlag (f.soft 0) 32 && !(softProbe i mixImage []).earlierDraw f 0) := by
  intro i hi
  simp only [List.mem_cons, List.not_mem_nil, or_false] at hi
  rcases hi with rfl | rfl <;> exact stands_of _ _ _ (by decide +kernel)
theorem witness_scoll_conf : Stands (softProbe (.scollConf .none 0 to1) mixImage [(.b, scalarTok 0x3F000000)]) (.scollConf .none 0 to1) (fun f => imgKind (f.soft 0) == 2) :=
  stands_of _ _ _ (by decide +kernel)
theorem witness_scoll_text : Stands (softProbe (.scollArgmax .none 0 to1) (softImage 1 1 1 0 4 0) []) (.scollArgmax .none 0 to1) (fun f => imgKind (f.soft 0) == 1) :=
  stands_of _ _ _ (by decide +kernel)
theorem acts_sget : ∀ k ∈ [0, 1, 3, 4, 5], Stands (probe (.sget .none k 15 to1)) (.sget .none k 15 to1) (fun _ => true) := by
  have h : ([0, 1, 3, 4, 5] : List (BitVec 3)).all (fun k => actsNow (probe (.sget .none k 15 to1)) (.sget .none k 15 to1) && true) = true := by decide +kernel
  exact fun k hk => stands_of _ _ _ (List.all_eq_true.mp h k hk)
theorem witness_sget_weight : Stands (before (.sget .none 2 0 to1) [(.a, scalarTok 8)]) (.sget .none 2 0 to1) (fun f => decide (7 < f.a.word.toNat)) := stands_of _ _ _ (by decide +kernel)
theorem witness_slog : Stands (softProbe (.slog .none 63 0 to1) mixImage [(.a, scalarTok 0)]) (.slog .none 63 0 to1) (fun f => f.x.isFull 63 && imgKind (f.soft 0) == 2) := stands_of _ _ _ (by decide +kernel)
theorem witness_slog_empty : Stands (State.tweak (softProbe (.slog .none 63 0 to1) mixImage [(.a, scalarTok 0)]) (fun x => { x with gEmpty := [(63, 1)] })) (.slog .none 63 0 to1) (fun f => !f.x.isFull 63) :=
  stands_of _ _ _ (by decide +kernel)

/-- A log of one TEXT record at 0x10000: descriptor, record area at 0x10040, index at 0x10080. -/
def loggedMem : SMap Byte :=
  let words : List (Nat × Nat) := [(0x10000, 0x10040), (0x10008, 0x10080), (0x10010, 0x4000000001), (0x10018, 0x100000000004), (0x10040, 0x0000000700010101), (0x10048, 42)]
  words.flatMap (fun e => ((List.range 8).map (fun j => (mainKey (e.1 + j), BitVec.ofNat 8 (e.2 / 256 ^ j)))).filter (fun p => p.2 != 0)) ++ mapped.mem
def logged (i : Instr) (l : List (Slot × Token)) : State := { mappedProbe i l with mem := loggedMem }
theorem witness_scmp : Stands (logged (.scmp .none to1) [(.a, scalarTok 0x10000), (.b, scalarTok 0x10000)]) (.scmp .none to1) (fun f =>
    let s := logged (.scmp .none to1) [(.a, scalarTok 0x10000), (.b, scalarTok 0x10000)]
    !slogPending (s.ctx 0) f.b && match (Run.start s).readLog f 0x10000 with
      | (r₁, .ok dx) => match r₁.readLog f 0x10000 with
        | (r₂, .ok dy) => match (r₂.prefixFrom f (logOf dx) (logOf dy) 1 0 false).2 with
          | .ok (n, _) => n == 1
          | _ => false
        | _ => false
      | _ => false) := stands_of _ _ _ (by decide +kernel)
theorem witness_srpl : Stands (logged (.srpl .none 0 to1) [(.a, scalarTok 0x10000), (.b, scalarTok 0)]) (.srpl .none 0 to1) (fun f =>
    let s := logged (.srpl .none 0 to1) [(.a, scalarTok 0x10000), (.b, scalarTok 0)]
    !slogPending (s.ctx 0) f.b && match (Run.start s).readLog f 0x10000 with
      | (r₁, .ok db) => match (r₁.readRecord f (logOf db) 0).2 with
        | .ok h => fieldAt h 0 1 == 1 && fieldAt h 8 8 == 42
        | _ => false
      | _ => false) := stands_of _ _ _ (by decide +kernel)
theorem witness_semb : Stands (softProbe (.semb .none 0 to1) mixImage [(.a, scalarTok 0)]) (.semb .none 0 to1) (fun f => imgKind (f.soft 0) == 2 && !imgFlag (f.soft 0) 16) :=
  stands_of _ _ _ (by decide +kernel)
/-- A HIDDEN register, and a shape of 16 rows and one column in the core store for its projection. -/
def projProbe : State :=
  let s := softProbe (.sembProj .none 0 to1) (softImage 3 0 16 0 0 0) [(.a, scalarTok 0), (.b, scalarTok 0)]
  { s with cores := [(0, { s.core 0 with td := [(0, BitVec.ofNat 256 (2 ^ 56 + 2 ^ 160 + 16 * 2 ^ 176))] })] }
theorem witness_semb_proj : Stands projProbe (.sembProj .none 0 to1) (fun f => imgKind (f.soft 0) == 3 && imgCount (f.soft 0) == 16
    && match shapesOf (projProbe.core 0) ⟨.semb 0 true, f.a.data, f.a.kind, f.b'.data, f.b'.kind, f.g.data⟩ with
      | .ok [w] => shSpace w == 0 && shFmt w == 1 && shRows w == 16
      | _ => false) := stands_of _ _ _ (by decide +kernel)

theorem witness_semb_desc : ∀ s ∈ [softProbe (.semb .none 0 to1) mixImage [(.a, scalarTok 0)], projProbe], Regular s = true ∧ (∀ o ∈ s.ops, o.id ≠ s.uid + 1)
    ∧ (match descCopy s 0 ((s.ctx 0).runs.headD (probeRun 0)) 0 0 128 with
      | .ok d => gShmap d == 0 && decide (1 * ((fmtBits (fieldAt d 14 1)).getD 32 / 8) ≤ fieldAt d 12 2) == (fieldAt d 12 2 != 0)
      | .error _ => false) = true := by decide +kernel

/-! ### Weight blocks -/

/-- A drive at a block in the mapped code pages: operand record a0 of one row of 192 E4M3 elements, output record o0 of one row of 128 FP32 elements. -/
def chainDrive (tile : Nat) (offs : Option (List Nat)) : Drive :=
  { probeDrive [] with
    desc := [0x80, 0, 0, 0, 0, 0, 0, 0, 0x80] ++ List.replicate 55 0
    recs := [(0, BitVec.ofNat 256 (4 * 2 ^ 56 + 192 * 2 ^ 160 + 2 ^ 176)), (8, BitVec.ofNat 256 (2 ^ 56 + 128 * 2 ^ 160 + 2 ^ 176))]
    blk := 0x40000000
    tile := tile
    offs := offs }
def chained (d : Drive) : State :=
  { mapped with
    frames := (List.range 7).map (fun k => (0x40000 + k, ⟨1, 0, true, true, 1⟩))
    ctxs := [(0, { Ctx.reset with mode := .running, wdrv := true, accmap := 1, drive := some d })] }
def twoTiles : WBlock := ⟨4, 0, 384, 0, 0, 0⟩

theorem witness_block_checked : headerFault 0 twoTiles = none ∧ (chainDrive 1 none).tile < twoTiles.plen.toNat / 192
    ∧ slotFault ((chained (chainDrive 1 none)).ctx 0) (chainDrive 1 none) 0 twoTiles 2 = false
    ∧ ((chained (chainDrive 1 none)).ctx 0).drive = some (chainDrive 1 none) ∧ (chainDrive 1 none).offs = none := by decide +kernel
theorem witness_block_refused : headerFault 0 ⟨7, 0, 192, 0, 0, 0⟩ ≠ none ∧ headerFault 2 ⟨7, 0, 192, 4, 0, 0⟩ ≠ none ∧ headerFault 3 ⟨0, 1, 0, 0, 0, 0⟩ = none ∧ headerFault 6 ⟨0, 0, 0, 0, 0xC000000000000000, 0⟩ = none := by decide +kernel

/-- A read of weights either hands bytes on, or does the same whatever waits for them. -/
theorem readWeight_cases {s0 : State} (r : Run s0) (c : Nat) (d : Drive) (idx va n : Nat) :
    (∃ r' bs, ∀ k, r.readWeight c d idx va n k = k r' bs) ∨ ∃ r', ∀ k, r.readWeight c d idx va n k = r' := by
  unfold Run.readWeight
  dsimp only
  cases d.denied with
  | some e => exact .inr ⟨_, fun _ => rfl⟩
  | none =>
    cases d.aheadOf va n with
    | some e =>
      dsimp only
      cases e.bad with
      | some x => exact .inr ⟨_, fun _ => rfl⟩
      | none => exact .inl ⟨r, e.bytes.take n, fun _ => rfl⟩
    | none =>
      dsimp only
      generalize r.weightBytes c va n = x
      obtain ⟨r', g⟩ := x
      cases g with
      | bytes bs => exact .inl ⟨r', bs, fun _ => rfl⟩
      | park v =>
        dsimp only
        generalize Run.parkOn _ _ _ _ _ _ _ = y
        cases y <;> exact .inr ⟨_, fun _ => rfl⟩
      | fault q w v => exact .inr ⟨_, fun _ => rfl⟩

/-- It hands bytes on where what waits for them makes a difference. -/
theorem readWeight_of {s0 : State} (r : Run s0) (c : Nat) (d : Drive) (idx va n : Nat)
    (h : (r.readWeight c d idx va n (fun r bs => r.put (.ringParked [bs.length]))).st.ringParked
      ≠ (r.readWeight c d idx va n (fun r bs => r.put (.ringParked [bs.length + 1]))).st.ringParked) : ∃ r' bs, ∀ k, r.readWeight c d idx va n k = k r' bs := by
  rcases readWeight_cases r c d idx va n with h' | ⟨r', h'⟩
  · exact h'
  · rw [h', h'] at h; exact absurd rfl h

/-- The bytes of a tile through the pages with WX; the columns that they make and the row of A are well-formed, and the accumulator's queue is empty. -/
theorem witness_tile : let s := chained (chainDrive 1 (some [0, 12288]))
    (∃ r' bs, ∀ k, (Run.start s).readWeight 0 (chainDrive 1 (some [0, 12288])) 1 (0x40000000 + 64 + 12288) 12288 k = k r' bs)
    ∧ s.accFree 0 0 = true ∧ (s.core 0).isPoisoned 0 = false ∧ (chainDrive 1 none).tile ≠ 0 := by
  refine ⟨readWeight_of _ _ _ _ _ _ ?_, ?_, ?_, ?_⟩ <;> decide +kernel
theorem witness_columns : (payloadColumns 0 0 none (List.replicate 12288 0)).toOption.isSome = true := by decide +kernel
theorem witness_rows : ((Run.start (chained (chainDrive 1 none))).tileRows ((chainDrive 1 none).op 0 Ctx.reset) 0 96 [96]).2.toOption.isSome = true := by decide +kernel
/-- `w.book` from memory, and `w.switch` by a register through a table whose first entry names a block. -/
theorem witness_book : ∃ r' bs, ∀ k, (Run.start (chained (chainDrive 0 (some [])))).readWeight 0 (chainDrive 0 (some [])) 255 0x40000020 32 k = k r' bs :=
  readWeight_of _ _ _ _ _ _ (by decide +kernel)
def switching : State :=
  let s := chained (chainDrive 0 (some []))
  { s with mem := SMap.set (SMap.set s.mem 0 (mainKey 0x40000040) 0x80) 0 (mainKey 0x40000047) 0x40 }
theorem witness_switch : (∃ r' bs, ∀ k, (Run.start switching).readWeight 0 { chainDrive 0 (some []) with value := some 0 } 255 (0x40000000 + 64 + 8 * 0) 8 k = k r' bs)
    ∧ leNat ((List.range 8).map (fun j => switching.byte (mainKey (0x40000040 + j)))) / 2 ^ 62 = 1 ∧ (switching.ctx 0).isFull 5 = true := by
  refine ⟨readWeight_of _ _ _ _ _ _ ?_, ?_, ?_⟩ <;> decide +kernel
theorem witness_emit : shRows (SMap.get (chainDrive 0 none).recs 0 8) = 1 ∧ fillsReg 0 = none
    ∧ ((Run.start (chained (chainDrive 0 (some [])))).engineWrite ((chainDrive 0 (some [])).op 0 ((chained (chainDrive 0 (some []))).ctx 0)) 0 .core 0
      (accRowBytes ((chained (chainDrive 0 (some []))).core 0) 0 0 128 false)).2 = .done := by decide +kernel
/-- A block whose ACLR clears accumulator 0 before its first tile. -/
theorem witness_block_clears : headerFault 0 ⟨4, 4, 384, 0, 0, 0⟩ = none ∧ wbAclr ⟨4, 4, 384, 0, 0, 0⟩ = true ∧ (chainDrive 0 none).tile = 0
    ∧ slotFault ((chained (chainDrive 0 none)).ctx 0) (chainDrive 0 none) 0 ⟨4, 4, 384, 0, 0, 0⟩ 2 = false ∧ (chained (chainDrive 0 none)).accFree 0 (wbAcc ⟨4, 4, 384, 0, 0, 0⟩) = true := by decide +kernel
/-- One row of an emit either lets what follows run, or does the same whatever follows. -/
theorem emitRows_cases {s0 : State} (r : Run s0) (c : Nat) (d : Drive) (h : WBlock) (o : EngOp) (w : BitVec 256) (phys : Nat) :
    (∃ r', ∀ k, r.emitRows c d h o w phys 1 0 k = k r') ∨ ∃ r', ∀ k, r.emitRows c d h o w phys 1 0 k = r' := by
  simp only [Run.emitRows]
  generalize Run.engineWrite _ _ _ _ _ _ = y
  obtain ⟨r', p⟩ := y
  cases p
  case done => exact .inl ⟨r', fun _ => rfl⟩
  all_goals exact .inr ⟨_, fun _ => rfl⟩
theorem witness_emit_rows : ∃ r', ∀ k, (Run.start (chained (chainDrive 0 (some [])))).emitRows 0 (chainDrive 0 (some [])) ⟨0, 0, 0, 0, 0, 0⟩
    ((chainDrive 0 (some [])).op 0 ((chained (chainDrive 0 (some []))).ctx 0)) (SMap.get (chainDrive 0 none).recs 0 8) 0 1 0 k = k r' := by
  rcases emitRows_cases (Run.start (chained (chainDrive 0 (some [])))) 0 (chainDrive 0 (some [])) ⟨0, 0, 0, 0, 0, 0⟩
    ((chainDrive 0 (some [])).op 0 ((chained (chainDrive 0 (some []))).ctx 0)) (SMap.get (chainDrive 0 none).recs 0 8) 0 with h | ⟨r', h⟩
  · exact h
  · have h1 := congrArg (fun r => r.st.ringParked) (h (fun r => r.put (.ringParked [1])))
    have h2 := congrArg (fun r => r.st.ringParked) (h (fun r => r.put (.ringParked [2])))
    have : ((Run.start (chained (chainDrive 0 (some [])))).emitRows 0 (chainDrive 0 (some [])) ⟨0, 0, 0, 0, 0, 0⟩
      ((chainDrive 0 (some [])).op 0 ((chained (chainDrive 0 (some []))).ctx 0)) (SMap.get (chainDrive 0 none).recs 0 8) 0 1 0 (fun r => r.put (.ringParked [1]))).st.ringParked
      ≠ ((Run.start (chained (chainDrive 0 (some [])))).emitRows 0 (chainDrive 0 (some [])) ⟨0, 0, 0, 0, 0, 0⟩
      ((chainDrive 0 (some [])).op 0 ((chained (chainDrive 0 (some []))).ctx 0)) (SMap.get (chainDrive 0 none).recs 0 8) 0 1 0 (fun r => r.put (.ringParked [2]))).st.ringParked := by
      decide +kernel
    exact absurd (h1.trans h2.symm) this
theorem witness_drive_leaves : ((chained { chainDrive 0 none with leaving := true }).ctx 0).drive = some { chainDrive 0 none with leaving := true }
    ∧ (chainDrive 0 none).dropDone = true := by decide +kernel

/-! ### Faults, block runs and synchronisation -/

/-- A run whose store has failed its check, over the mapped memory with a handler table at 0x20000 whose entry for the space class names `bump`. -/
def faultingState (handler : Word64) (hndl : Bool) : State :=
  let s := mappedProbe (.st .core .w64 .none 0 .none) []
  { State.tweak s (fun x => { x with
      handler := handler
      faultptr := 0x30000
      hndl := hndl
      runs := x.runs.map (fun b => { b with faults := [⟨0, 0x08, 0, 0, 0, 0, 0x2C0000, none⟩] }) }) with
    mem := SMap.set (SMap.set s.mem 0 (mainKey 0x20040) 1) 0 (mainKey 0x20043) 0x40
    dcb := SMap.set s.dcb 0 0x081E00 handler }
theorem witness_sync_fault : Regular (faultingState 0x20000 false) = true ∧ (match (faultingState 0x20000 false).faulting 0 with
    | some (b, f) => f.cls == 0x08 && ((Run.start (faultingState 0x20000 false)).planDelivery 0 (f.record b)).2 == .run false 0x40000000
    | none => false) = true := by decide +kernel
theorem witness_sync_fault_escalates : Regular (faultingState 0 false) = true ∧ ((faultingState 0 false).faulting 0).isSome = true ∧ ((faultingState 0 false).ctx 0).handler = 0
    ∧ SMap.wf (FaultRec.of 0 0) (faultingState 0 false).escalated = true := by decide +kernel
/-- The step delivers the fault: the record stands at FAULTPTR with its class, the handler block is next, HNDL and LASTCLASS are set. -/
theorem test_sync_fault : (match step (faultingState 0x20000 false) with
    | .next t => ((t.ctx 0).hndl, (t.ctx 0).lastclass, (t.ctx 0).runs, (t.ctx 0).next.map (·.addr), t.num (mainKey 0x30000) 4, t.num (mainKey 0x30028) 8)
    | _ => (false, 0, [], none, 0, 0)) = (true, 0x08, [], some 0x40000000, 8, 0x2C0000) := by decide +kernel

def overdueState (handler : Word64) : State :=
  { State.tweak (faultingState handler false) (fun x => { x with runs := [], asyncs := [FaultRec.of 0x08 0], pendBit := true }) with clk := 1000000 }
theorem witness_async : Regular (overdueState 0x20000) = true ∧ (overdueState 0x20000).asyncOverdue 0 = true ∧ ((overdueState 0x20000).ctx 0).asyncs = [FaultRec.of 0x08 0]
    ∧ ((Run.start (overdueState 0x20000)).planDelivery 0 (FaultRec.of 0x08 0)).2 = .run false 0x40000000 ∧ ((overdueState 0x20000).ctx 0).strays = [] := by decide +kernel
theorem witness_async_escalates : Regular (overdueState 0) = true ∧ (overdueState 0).asyncOverdue 0 = true ∧ ((overdueState 0).ctx 0).handler = 0
    ∧ SMap.wf (FaultRec.of 0 0) (overdueState 0).escalated = true := by decide +kernel

/-- A successor at `bump`, to be fetched, or on a placed copy. -/
def beginState (placed : Bool) : State :=
  { State.tweak (mappedProbe (.halt .none) []) (fun x => { x with runs := [], next := some ⟨0x40000000, .other, 0, [], 0, [], 0, 255, none⟩ }) with
    cores := if placed then [(0, { Core.reset with placed := [{ probeBlock 0x10A00000 with addr := 0x40000000 }] })] else [] }
theorem witness_begin : Regular (beginState true) = true ∧ (beginState true).mayBegin 0 = true ∧ (beginState true).draining 0 = false
    ∧ (∃ n, ((beginState true).ctx 0).next = some n ∧ (beginState true).copyFor 0 n ≠ none) ∧ ∀ y ∈ ((beginState true).ctx 0).runs, y.iid ≠ (beginState true).uid + 1 :=
  ⟨by decide +kernel, by decide +kernel, by decide +kernel, ⟨⟨0x40000000, .other, 0, [], 0, [], 0, 255, none⟩, by decide +kernel, by decide +kernel⟩, by decide +kernel⟩
theorem witness_begin_fetched : Regular (beginState false) = true ∧ (beginState false).mayBegin 0 = true
    ∧ (beginState false).copyFor 0 ⟨0x40000000, .other, 0, [], 0, [], 0, 255, none⟩ = none ∧ (match (Run.start (beginState false)).fetchBlock ((beginState false).agent 0) 0x40000000 with
      | (r, .ok g) => g.bad.isNone && (r.st.roomForBlock 0).isSome
      | _ => false) = true := by decide +kernel
theorem witness_begin_allowed : ((beginState false).ctx 0).fetchDenied = none ∧ ((beginState false).ctx 0).next = some ⟨0x40000000, .other, 0, [], 0, [], 0, 255, none⟩
    ∧ ∀ y ∈ ((beginState false).ctx 0).runs, y.iid ≠ (Run.start (beginState false)).st.uid + 1 := by decide +kernel
theorem test_begin : (match step (beginState false) with
    | .next t => (t.ctx 0).runs.map (fun b => (b.addr, b.cfg, b.slot, b.fired))
    | _ => []) = [(0x40000000, 0, 0, [])] := by decide +kernel

/-- A run whose exit has fired and whose outputs are all there. -/
def committingState (k : ExitKind) (l : List Buffered) : State :=
  State.tweak (probe (.br .none 0)) (fun x => { x with runs := x.runs.map (fun b => { b with exit := some (0, k), begun := true, outs := 1, fired := [0], effs := l })
                                                       next := if k = .halt ∨ k = .handlerReturn then none else some ⟨0, .other, 0, [], 0, [], 0, 0, none⟩
                                                       hndl := decide (k = .handlerReturn), resume := if k = .handlerReturn then .block 64 0 [] [] else .none })
theorem witness_commit : ∀ e ∈ [(ExitKind.br, []), (.br, [⟨0, Eff.gwrite 5 7⟩]), (.halt, []), (.handlerReturn, [])], Regular (committingState e.1 e.2) = true
    ∧ (((committingState e.1 e.2).committing 0).map (fun x => x.2.2)) = some e.1 ∧ ((committingState e.1 e.2).ctx 0).asyncs = []
    ∧ (committingState e.1 e.2).draining 0 = false ∧ ((committingState e.1 e.2).ctx 0).drive = none ∧ SMap.wf 0 ((committingState e.1 e.2).ctx 0).g = true
    ∧ (((committingState e.1 e.2).committing 0).map (fun x => (trapsOf x.1, spillWritten x.1))) = some ([], none) := by decide +kernel
theorem test_commit : (match exec (.instanceCommit 0) (committingState .br [⟨0, Eff.gwrite 5 7⟩]) with
    | .next t => ((t.ctx 0).runs, (t.ctx 0).seq, (t.ctx 0).reg 5)
    | _ => ([], 0, 0)) = ([], 1, 7) := by decide +kernel

theorem witness_decision : ∃ s : State, Regular s = true ∧ (s.ctx 0).latch = none ∧ (s.ctx 0).held = [(3, 15)] :=
  ⟨State.tweak (probe (.halt .none)) (fun x => { x with held := [(3, 15)] }), by decide +kernel, by decide +kernel, by decide +kernel⟩
theorem witness_firmware : ∃ s : State, Regular s = true ∧ (SMap.keys s.escalated).contains 0 = true ∧ (s.ctx 0).mode = .stopped ∧ (s.ctx 0).resume = .block 64 0 [] []
    ∧ (s.ctx 0).drive = none ∧ SMap.wf (FaultRec.of 0 0) s.escalated = true :=
  ⟨{ State.tweak State.reset (fun x => { x with mode := .stopped, resume := .block 64 0 [] [] }) with escalated := [(0, FaultRec.of 8 0)] },
    by decide +kernel, by decide +kernel, by decide +kernel, by decide +kernel, by decide +kernel, by decide +kernel⟩

/-- A step group of one member that has arrived, with two adds of 4 bytes to one element at address 0x40 of core 0. -/
def contribution (v : Nat) : Contribution := ⟨0x40, 0x40, 4, 1, 0, 0, 0, 0, 0, 0, 0, 0, 0, false, [], 0, v⟩
def swapping : State :=
  { State.tweak State.reset (fun x => { x with mode := .running, arrivals := [(0, 0)] }) with
    groups := [(0, { StepGroup.reset with conf := true, members := [0], arrived := [0], next := [contribution 3, contribution 0xFFFFFFFF] })] }
theorem witness_swap : Regular swapping = true ∧ (swapping.group 0 0).swaps = true ∧ (swapping.group 0 0).copies = [] ∧ (swapping.group 0 0).next ≠ []
    ∧ ∀ e ∈ (swapping.group 0 0).next, e.key = 0x40 ∧ e.width = 4 ∧ e.rule = 1 ∧ e.seed = 0 := by decide +kernel
theorem test_swap : (match exec (.stepSwap 0 0) swapping with
    | .next t => (t.num 0x40 8, (t.group 0 0).phase, (t.group 0 0).arrived, (t.ctx 0).arrivals)
    | _ => (0, 0, [], [])) = (2, 1, [], []) := by decide +kernel
def late : State :=
  { State.tweak State.reset (fun x => { x with mode := .running, arrivals := [(0, 0), (1, 0)] }) with
    clk := 100000000
    groups := [(0, { StepGroup.reset with conf := true, members := [0, 1], arrived := [0], first := 1 })]
    barriers := [(0, { Barrier.reset with armed := true, expect := 2, arrived := [0], first := 1 })] }
theorem witness_overdue : Regular late = true ∧ late.stepOverdue 0 0 = true ∧ late.barrierOverdue 0 0 = true ∧ (late.ctx 0).mode = .running ∧ (late.ctx 0).asyncs.length < 8 := by decide +kernel

/-- Both timeouts have come, and one of them takes place. -/
theorem witness_presses : 2 ≤ late.acts.length ∧ late.acts.all late.presses = true := by decide +kernel

/-- A pending store, append and arrival of a committed run. -/
def pendingState (e : Eff) : State :=
  { State.tweak mapped (fun x => { x with mode := .running, pend := [⟨7, 0, 0, 0, 0, 0, 0, 0, [], e, false, none, false, 0⟩] }) with
    mem := loggedMem
    groups := [(0, { StepGroup.reset with conf := true, members := [0] })] }
def storeEff : Eff := .access ⟨.store, .core, .w64, 0x40, 5⟩
theorem witness_pending : ∀ e ∈ [storeEff, .step 0], Regular (pendingState e) = true ∧ (((pendingState e).ctx 0).pend.find? (fun p => p.id == 7)).any (fun p => p.eff == e
    && (pendingState e).mayPerform 0 p) = true := by decide +kernel
theorem witness_pending_store : (match ((pendingState storeEff).ctx 0).pend.find? (fun p => p.id == 7) with
    | some p => ((Run.start (pendingState storeEff)).performAccess ((pendingState storeEff).agent 0) ⟨.store, .core, .w64, 0x40, 5⟩ false p.issuer).2 == .done
    | none => false) = true := by decide +kernel
theorem witness_pending_slog : (match ((pendingState (.slog 0x10000 0 (softImage 1 1 1 0 4 0) true)).ctx 0).pend.find? (fun p => p.id == 7) with
    | some p => (pendingState p.eff).mayPerform 0 p && match ((Run.start (pendingState p.eff)).reserveRecord ((pendingState p.eff).agent 0) 0x10000 0 (softImage 1 1 1 0 4 0) true false).2 with
      | .writes l none => !l.isEmpty
      | _ => false
    | none => false) = true := by decide +kernel
theorem witness_pending_event : (∃ p, ((pendingState (.step 0)).ctx 0).pend.find? (fun p => p.id == 7) = some p ∧ p.denied = none) ∧ isMember (pendingState (.step 0)) ((pendingState (.step 0)).agent 0) 0 = true
    ∧ ((pendingState (.step 0)).group ((pendingState (.step 0)).ctx 0).part 0).failed = false :=
  ⟨⟨⟨7, 0, 0, 0, 0, 0, 0, 0, [], .step 0, false, none, false, 0⟩, by decide +kernel, rfl⟩, by decide +kernel, by decide +kernel⟩
theorem witness_reserve : let s := pendingState (.slog 0x10000 0 (softImage 1 1 1 0 4 0) true)
    Regular s = true ∧ fireCheck s (s.agent 0) .main 0x10000 64 true .atomic = none
    ∧ (match (Run.start s).locate (s.agent 0) .main 0x10000 .rw with
      | (r, .key k) => r.st.poisonAt k 64 == none && decide (fieldAt (r.st.bytes k 64) 16 4 < fieldAt (r.st.bytes k 64) 24 4
        ∧ fieldAt (r.st.bytes k 64) 20 4 + (recordBytes (softImage 1 1 1 0 4 0) 0 true).length ≤ fieldAt (r.st.bytes k 64) 28 4)
      | _ => false) = true := by decide +kernel
theorem witness_reader : ∃ (s : State) (e : Reader), s.readers[0]? = some e ∧ s.readerOverdue e = true :=
  ⟨{ State.reset with clk := 100000000, readers := [⟨1, 0x10, 8, 0, 0, 0, false, 0, false, none, false, (0, 0)⟩] }, ⟨1, 0x10, 8, 0, 0, 0, false, 0, false, none, false, (0, 0)⟩, rfl, by decide +kernel⟩

/-- A tree of two nodes: node 1 gathers ranks 0 and 1 and hands on to node 0, the root. -/
def packet (v : Nat) : Packet := ⟨0, List.replicate 16 ⟨BitVec.ofNat 320 v, false, false, false⟩, [], true, false, [], 1, false, 0, 1⟩
def tallTree (l : List (List Packet)) (root : List Packet) : Tree :=
  ⟨0, 0, 5, true, 64, 4, 0, 0, 64, 0, [⟨0, 40, none, [(false, 1)], [root]⟩, ⟨0, 0, some 0, [(true, 0), (true, 1)], l⟩], [], [], [], false⟩
theorem witness_tree : (tallTree [[packet 1], [packet 2]] []).complete 1 = true ∧ (tallTree [[packet 1], [packet 2]] [packet 3]).complete 0 = true
    ∧ ((tallTree [[packet 1], []] []).nodes[1]?).any (fun n => ((tallTree [[packet 1], []] []).combined n).any (fun p => p.miss == [1] && p.inc)) = true
    ∧ State.treeExpired { State.reset with clk := 100000000, trees := [tallTree [[packet 1], []] []] } (tallTree [[packet 1], []] []) 1 = true := by decide +kernel
theorem witness_tree_parent : let y := tallTree [[packet 1], [packet 2]] []
    (y.nodes[1]?).map (·.parent) = some (some 0) ∧ ((y.nodes[0]?).map (·.children)).bind (fun cs => cs.findIdx? (· == (false, 1))) = some 0 ∧ (y.nodes[0]?).map (·.parent) = some none := by decide +kernel
theorem witness_overflow : ∃ (s : State) (c : Nat) (b : BlockRun) (a : Arrived), Regular s = true ∧ s.returning 0 = some (c, b, a) ∧ (s.ctx c).run? b.iid = some b ∧ a.idx < 128 :=
  ⟨State.tweakRun (before (.add .w64 .none to1 .none) []) (fun b => { b with spilled := [⟨0, .a, scalarTok 1⟩] }), 0,
    { probeRun ((toWord (.add .w64 .none to1 .none)).getD 0) with toks := [], spilled := [⟨0, .a, scalarTok 1⟩] }, ⟨0, .a, scalarTok 1⟩,
    by decide +kernel, by decide +kernel, by decide +kernel, by decide⟩

/-! ### Engines -/

/-- An operation of context 0 with this command and its word in A. -/
def opOf (k : CmdKind) (a b : Nat) : EngOp where
  id := 1
  ticket := 0
  c := 0
  core := 0
  launch := 0
  node := 0
  part := 0
  grp := 0
  rank := 0
  iid := 0
  seq := 0
  blk := 0
  tag := 0
  widths := []
  idx := 0
  nodeNo := 0
  ancest := 0
  after := []
  cmd := ⟨k, BitVec.ofNat 512 a, .scalar, BitVec.ofNat 512 b, .scalar, 0⟩
  waited := false
  t0 := .none
  t1 := .none
  shapes := []
  desc := []
  phase := 0
  row := 0
  drops := 0
  failmap := 0
  parked := false
  denied := none
  attn := none
  data := []
  wrote := 0
  sent := 0
  failed := none
  at' := 0
  grant := 3

/-- The operation is under way, at the head of the queue of accumulator 0. -/
def engaged (o : EngOp) : State := { mapped with ops := [o], cores := [(0, { Core.reset with queues := [(0, [.engine 1])] })] }
def underWay (o : EngOp) : State := { mapped with ops := [o] }

theorem witness_accumulators : ∀ k ∈ [CmdKind.accclr 0, .accrd 0], (engaged (opOf k 1023 0)).queueHead 0 0 = some (opOf k 1023 0) ∧ Regular (engaged (opOf k 1023 0)) = true
    ∧ ((engaged (opOf k 1023 0)).core 0).isPoisoned 0 = false ∧ (opOf k 1023 0).cmd.a.toNat % 2 ^ 64 < 1024 := by decide +kernel
/-- One row of A and 96 rows of B, all E4M3, of zeros in the core store. -/
def tileOp : EngOp :=
  { opOf (.mma 0 0) 0 0 with shapes := [BitVec.ofNat 256 (4 * 2 ^ 56 + 96 * 2 ^ 160 + 2 ^ 176), BitVec.ofNat 256 (0x1000 + 4 * 2 ^ 56 + 128 * 2 ^ 96 + 128 * 2 ^ 160 + 96 * 2 ^ 176)] }
theorem witness_tile_step : (engaged tileOp).queueHead 0 0 = some tileOp ∧ tileOp.denied = none ∧ ((Run.start (engaged tileOp)).tileOf tileOp 0).2.toOption.isSome = true := by decide +kernel

theorem witness_fprint : (underWay (opOf (.fprint true) 0 16)).op? 1 = some (opOf (.fprint true) 0 16) ∧ (underWay (opOf (.fprint true) 0 16)).completes (opOf (.fprint true) 0 16) = true
    ∧ (match ((Run.start (underWay (opOf (.fprint true) 0 16))).engineRead (opOf (.fprint true) 0 16) .core 8 8).2 with
      | .bytes bs => bs.length == 8
      | _ => false) = true ∧ (underWay { opOf (.fprint true) 0 16 with row := 2 }).completes { opOf (.fprint true) 0 16 with row := 2 } = true := by decide +kernel
/-- A launch with one ordinary node and one spawnable one. -/
def nodeOf (spawn : Bool) (st : NState) : GNode := ⟨0, spawn, 1, 0, [], 0, 0, 0, 0, 0, [], 0, st, 0, 0⟩
def launched : Launch := { newLaunch 5 0 (List.replicate 256 0) with accepted := true, started := true, nodes := [nodeOf false .run, nodeOf true .wait] }
theorem witness_spawn : ∃ (s : State) (o : EngOp), s.op? 1 = some o ∧ s.completes o = true ∧ o.cmd.kind = .spawn ∧ s.launches.find? (fun y => y.id == o.launch) = some launched
    ∧ (launched.nodes[o.cmd.a.toNat % 2 ^ 64]?).any (fun n => n.spawn) = true :=
  ⟨{ underWay { opOf .spawn 1 0 with launch := 5 } with launches := [launched] }, { opOf .spawn 1 0 with launch := 5 }, by decide +kernel, by decide +kernel, rfl, by decide +kernel,
    by decide +kernel⟩

/-- A request for attention: one query row of 64 E4M3 elements over one shared slab of 130 keys, no mask, result rows of FP32. -/
def requestBlock : List Byte :=
  leBytes 128 (0x1000 + 64 * 2 ^ 32 + 2 ^ 48 + 4 * 2 ^ 64 + 2 ^ 72 + 2 ^ 80 + 3 * 2 ^ 88 + 127 * 2 ^ 96 + 127 * 2 ^ 104 + 2 ^ 112 + 0x3F800000 * 2 ^ 128 + 0x2000 * 2 ^ 160
    + 256 * 2 ^ 192 + 0x20000 * 2 ^ 448 + 0x3000 * 2 ^ 576 + 0x3040 * 2 ^ 608)
def attnOp : EngOp := { opOf .attn 0 0 with desc := requestBlock }
def attnMem : SMap Byte := [(0x3002, 0x04), (0x300A, 0x05), (0x3014, 0x82), (0x3018, 0x01), (0x3041, 0x01)] ++ mapped.mem
def requested (o : EngOp) : State := { underWay o with mem := attnMem }
theorem witness_accept : let s := requested attnOp
    s.op? 1 = some attnOp ∧ s.attnReady attnOp [0] = true ∧ s.attnAtHead attnOp = true ∧ requestOk requestBlock = true
    ∧ (accSetOf requestBlock).length = 1 + ceilDiv (aqDim requestBlock) 128 ∧ (∀ a ∈ accSetOf requestBlock, attnOp.grant.getLsbD a = true)
    ∧ (∀ e ∈ [(aqAddr requestBlock, 64), (aqResult requestBlock, 64), (aqCkpt requestBlock, 64), (aqSlabAt requestBlock, 32), (aqMapAt requestBlock, 16)], e.1 % e.2 = 0) := by decide +kernel
theorem witness_accept_reads : let s := requested attnOp
    (match (Run.start s).engineRead attnOp .core (aqSlabAt requestBlock) 32 with
      | (r1, .bytes sl) => slabOk 1 sl && (slabOf sl).1 == 0x40000 && (slabOf sl).2.1 == 0x50000 && (match r1.engineRead attnOp .core (aqMapAt requestBlock) 16 with
        | (r2, .bytes mp) => mapOk 1 mp && (match r2.engineRead attnOp .main (aqCkpt requestBlock) 64 with
          | (r3, .bytes h) => fieldAt h 0 1 % 2 == 0 && r3.st.op? 1 == some attnOp && (match (r3.engineRead attnOp .core 0x1000 64).2 with
            | .bytes bs => bs.length == 64
            | _ => false)
          | _ => false)
        | _ => false)
      | _ => false) = true := by decide +kernel
/-- The step accepts it: two units to come. -/
theorem test_accept : (match exec (.attnAccept 1) (requested attnOp) with
    | .next t => (t.op? 1).bind (fun o => o.attn.map (fun st => (o.phase, st.unit, st.total)))
    | _ => none) = some (1, 0, 2) := by decide +kernel
/-- The request under way, under a mask that admits everything or nothing. -/
def unitOp (w : Word32) : EngOp :=
  { attnOp with
    phase := 1
    attn := some { qrows := [List.replicate 64 0], slabs := [(0x40000, 0x50000, 0, 130, 1)], groups := [(0, 1, 0)], words := [w], docs := [], unit := 1, total := 2,
                   m := [0xFF800000], l := [0], acc := [List.replicate 64 0], adm := 0, nfull := 1, npart := 0, nempty := 0, accSet := 3, accPhys := [0, 1], resumed := false } }
theorem witness_unit : ∀ e ∈ [((9 <<< 27 : Word32), TileClass.full), (10 <<< 27, .empty)], (requested (unitOp e.1)).attnReady (unitOp e.1) [1, 3, 5] = true
    ∧ (requested (unitOp e.1)).draining 0 = false ∧ (match (unitOp e.1).attn with
      | some st => unitOf (slabOrder st.slabs) st.unit == some ((0x40000, 0x50000, 0, 130, 1), 128, 130) && unitClass (unitClasses st (0x40000, 0x50000, 0, 130, 1) 128 130) == e.2
      | none => false) = true := by decide +kernel
theorem witness_unit_reads : (match (Run.start (requested (unitOp (9 <<< 27)))).engineRead (unitOp (9 <<< 27)) .main (0x40000 + 128 * 64) 128 with
    | (r, .bytes kb) => kb.length == 128 && (match (r.engineRead (unitOp (9 <<< 27)) .main (0x50000 + 128 * 64) 128).2 with
      | .bytes vb => vb.length == 128
      | _ => false)
    | _ => false) = true := by decide +kernel
theorem witness_result : let o := { unitOp (9 <<< 27) with phase := 2 }
    (requested o).attnReady o [2] = true ∧ o.wrote < aqRows o.desc
    ∧ ((Run.start (requested o)).engineWrite o 0 .core (aqResult o.desc) (List.replicate 256 0)).2 = .done := by decide +kernel

theorem witness_completion_here : (underWay (opOf (.fprint true) 0 16)).homeQueued (.op 1) = false ∧ (engaged tileOp).homeQueued (.op 1) = false := by decide +kernel
/-- A piece of a unit's keys, and its last piece of values. -/
theorem witness_unit_piece : pieceAfter (0x40000 + 128 * 64) 128 0 = some (0x40000 + 128 * 64, 64) ∧ pieceAfter (0x50000 + 128 * 64) 128 64 = some (0x50000 + 128 * 64 + 64, 64)
    ∧ (match ((Run.start (requested (unitOp (9 <<< 27)))).engineRead (unitOp (9 <<< 27)) .main (0x50000 + 128 * 64 + 64) 64).2 with
      | .bytes b => b.length == 64
      | _ => false) = true := by decide +kernel

/-! ### Translation and the device -/

/-- Die 0 has partition 0 with cluster 0, and queue group 0 belongs to it. -/
def assigned (l : List (Nat × Word64)) : SMap Word64 := l.foldl (fun m e => SMap.set m 0 e.1 e.2) [(0x080000, 0x100001), (0x082600, 0x10100), (0x082700, 0x100)]
def parked : State :=
  { State.tweak mapped (fun x => { x with fetchParked := true }) with
    clk := 1000000000
    ops := [{ opOf (.fprint false) 0x80000000 8 with parked := true }]
    ptt := [(511, ⟨0x80000000, 0, 16, 0, 0, [.op 1, .fetch 0]⟩)] }
theorem witness_park : Regular parked = true ∧ (parked.park 0 511).live = true ∧ parked.parkOverdue 0 511 = true ∧ Waiter.op 1 ∈ (parked.park 0 511).ws
    ∧ Waiter.fetch 0 ∈ (parked.park 0 511).ws := by decide +kernel
def moving (l : List (Nat × Word64)) : State := { mapped with dcb := assigned l }
theorem witness_move_start : Regular (moving [(0x0821E8, 0x220000)]) = true
    ∧ Forward.refused (moving [(0x0821E8, 0x220000)]) 0 15 { (moving [(0x0821E8, 0x220000)]).fwd 0 15 with en := true, mover := true, old := 0x210000, log2 := 12, st := 1 } = false
    ∧ (BitVec.ofNat 64 (2 ^ 63 + 2 ^ 60 + 0x21000C)).getLsbD 63 = true ∧ (BitVec.ofNat 64 (2 ^ 63 + 2 ^ 60 + 0x21000C)).getLsbD 60 = true := by decide +kernel
def midMove (wm : Word64) : State := moving [(0x082000, 0xB00000000021000C), (0x082008, 0x220000), (0x082010, wm)]
theorem witness_move_unit : Regular (midMove 0) = true ∧ (midMove 0).moveDue 0 0 = true ∧ ((midMove 0).fwd 0 0).log2 = 12 ∧ ((midMove 0).fwd 0 0).wm = 0
    ∧ (match moverAt (midMove 0) ((midMove 0).rootOf 0) 0 0x210000 .r with
      | .phys _ _ => true
      | _ => false) = true
    ∧ (match moverAt (midMove 0) ((midMove 0).rootOf 0) 0 0x220000 .w with
      | .phys _ leaf => !leafS leaf
      | _ => false) = true ∧ (midMove 0).poisonAt (mainKey 0x210000) 4096 = none := by decide +kernel
theorem witness_move_end : (midMove 4096).moveDue 0 0 = true ∧ 2 ^ ((midMove 4096).fwd 0 0).log2 ≤ ((midMove 4096).fwd 0 0).wm := by decide +kernel
theorem witness_no_mover : (midMove 0).movers = [] ∧ (midMove 4096).movers = [] := by decide +kernel
/-- Two writes of frame 5 that wait at its home unit, in a batch or before it. -/
def homing (begun : Bool) : State :=
  { State.reset with home := [⟨5, 0, 2, 0, 0, .pend 0 7, begun⟩, ⟨5, 1, 0, 0, 0, .pend 1 8, begun⟩] }
theorem witness_home : (∀ q ∈ (homing false).home, q.frame = 5 → q.batch = false) ∧ (∃ q ∈ (homing true).home, q.frame = 5 ∧ q.batch = true) := by decide +kernel
/-- A planed region under a configured group, and the two places of a row of 100 bytes in it. -/
def migrating : State :=
  { mapped with
    dcb := assigned []
    groups := [(0, { StepGroup.reset with conf := true, launch := 5, members := [0] })]
    launches := [{ launched with regions := [⟨0x210000, 2, false, 4, 1, 0, 0⟩] }] }
theorem witness_migration : Regular migrating = true ∧ migrating.migration 0 0x210000 0x220000 100 = some (0, 0)
    ∧ (migrating.rowCopies (partyOf migrating 0 0) 0x210000 0x220000 100).length = (rowUnits 100).length ∧ migrating.directoryFull 0 65535 0 = false := by decide +kernel

def learning (phase lines gen : Nat) : State :=
  { State.reset with learned := if phase = 0 then [(0, lines)] else [(1, phase)], dcb := if gen = 0 then [] else [(0x082408, BitVec.ofNat 64 gen)] }
theorem witness_learning : Regular (learning 0 0x400000 0) = true ∧ SMap.wf 0 (learning 0 0x400000 0).learned = true ∧ SMap.wf [] (learning 0 0x400000 0).codeLens = true
    ∧ (learning 0 0x400000 0).learns 0 = true ∧ (learning 1 0 0x4F).cmpPhase 0 ≠ 2 ∧ cmpGen (learning 1 0 0x4F) 0 % 16 = 15 ∧ (learning 2 0 0x4F).frees 0 = true := by decide +kernel
theorem witness_threshold : ∃ s : State, Regular s = true ∧ s.thresholdDue 0x090000 = true ∧ bitsOf (s.dcbAt 0 0x090008).toNat 30 2 = 2 :=
  ⟨{ State.reset with dcb := [(0x090000, 5), (0x090008, 0x80000002), (0x090010, 5)] }, by decide +kernel, by decide +kernel, by decide +kernel⟩
theorem witness_threshold_fix : ∃ s : State, Regular s = true ∧ s.thresholdDue 0x090000 = true ∧ bitsOf (s.dcbAt 0 0x090008).toNat 30 2 = 1 ∧ s.counterPart 0 0x090000 = some 0
    ∧ bitsOf s.fixctl 12 45 ≠ 0 ∧ s.fixed.contains 0 = false :=
  ⟨{ State.reset with dcb := assigned [(0x082500, 0x1000), (0x090000, 5), (0x090008, 0x40000002), (0x090010, 5)] }, by decide +kernel, by decide +kernel, by decide +kernel,
    by decide +kernel, by decide +kernel, by decide +kernel⟩
theorem witness_fix : State.reset.fixed.contains (fixScope 0) = false ∧ State.reset.inFirmware = false ∧ State.reset.fixed.contains 40 = false
    ∧ (State.fixctl { State.reset with dcb := [(0x082500, 2)], fixed := [0] }).testBit 1 = true
    ∧ List.contains ({ State.reset with dcb := [(0x082500, 2)], fixed := [0] } : State).fixed (fixScope (State.fixctl { State.reset with dcb := [(0x082500, 2)], fixed := [0] })) = true
    ∧ State.readsOut { State.reset with dcb := [(0x082500, 0x1000)], fixed := [0] } = true := by decide +kernel
theorem witness_partcl : let new := bitsOf 0x10127 16 8 * 2 ^ 16 + bitsOf 0x10127 8 2 * 256 + 0x10127 % 64
    0x10127 % 64 < 40 ∧ (bitsOf new 8 1 ≠ bitsOf (State.reset.partcl 39).toNat 8 1) ∧ (State.reset.partOf 39).any State.reset.busyPart = false
    ∧ ((State.reset.partcl 39).toNat.testBit 9 && new.testBit 8) = false := by decide +kernel
theorem witness_qgpart : (0x127 &&& 0x13F) % 64 < 40 ∧ 0x127 &&& 0x13F ≠ (State.reset.dcbAt (1023 / 256) (0x082700 + 8 * (1023 % 256))).toNat ∧ ∀ l ∈ State.reset.launches, l.q / 64 ≠ 1023 := by
  decide +kernel
theorem witness_dswin : ∀ q, q < 40 → q ≠ 39 → bitsOf (State.reset.dcbAt 3 (0x081400 + 8 * q)).toNat 8 6 = 0 := by decide +kernel
theorem witness_fdisp : ∃ s : State, Regular s = true ∧ (0x3009F03 : Nat).testBit 17 = false ∧ (0x29F03 : Nat).testBit 17 = true ∧ bitsOf 0x29F03 8 8 = 159 ∧ (s.ctx 639).mode = .stopped
    ∧ (s.ctx 639).drive = none ∧ (s.ctx 639).resume = .block 64 0 [] [] :=
  ⟨{ State.reset with ctxs := [(639, { Ctx.reset with mode := .stopped, resume := .block 64 0 [] [] })] }, by decide +kernel, by decide, by decide, by decide, by decide +kernel,
    by decide +kernel, by decide +kernel⟩
theorem witness_regWrite : kept 0 0x082510 0x3FFF = some 0x1FFF ∧ kept 3 0x0807F8 0xFFFFFFFFFFFFFFFF = some 0xFFFF00FFFFF00001 ∧ kept 0 0x081600 3 = some 10 := by decide +kernel
theorem witness_host_access : ([1, 2] : List Byte) ≠ [] ∧ 2 ^ 57 - 2 + ([1, 2] : List Byte).length ≤ 2 ^ 57 ∧ (∀ j, j < 8 → populated (0x10000 + j) = true) := by decide +kernel
theorem test_host_write : (match exec (.hostMemWrite false 0x10000 [1, 2]) State.reset with
    | .next t => (t.byte (mainKey 0x10000), t.byte (mainKey 0x10001), t.byte (mainKey 0x10002))
    | _ => (0, 0, 0)) = (1, 2, 0) := by decide +kernel
/-- A peer of device 7, partition 3, that may read in queue group 0. -/
def peering : State := { mapped with dcb := assigned [(0x0B0000, 0x3030007)] }
theorem witness_peer : peering.inFirmware = false ∧ peerEntry peering 7 3 = some (3, 0) ∧ fireCheck peering ⟨641, 0, 0, 0, 0, 0, 0⟩ .main 0x100000 8 false .load = none
    ∧ (peering.groupPart 0).getD 0 = 0 ∧ (match ((Run.start peering).readBytes ⟨641, 0, 0, 0, 0, 0, 0⟩ .main 0x100000 8 .r []).2 with
      | .bytes bs => leNat bs == 0x200001
      | _ => false) = true := by decide +kernel
theorem witness_scrub : (5 : Nat) < 2 ^ 28 ∧ 5 % 2 ^ 26 < framesPerDie ∧ (State.dcbAt { State.reset with dcb := [(dcbKey 0 (dieCounter 3 + 8), 0x48)] } 0 (dieCounter 3 + 8)).toNat % 256 = 0x48 := by decide +kernel
theorem witness_fix_scopes : State.reset.fixed = [] ∧ (State.fixing { State.reset with fixed := [0], fixFault := some (0x12, 3) }) = 0
    ∧ (State.fixctl { State.reset with dcb := [(0x082500, 2)], fixed := [0] }).testBit 1 = true ∧ SMap.wf 0 State.reset.stoppedFor = true
    ∧ ({ State.reset with fixed := [40] } : State).fixed.contains 40 = true := by decide +kernel
theorem witness_regWrite_dies : kept 2 (dieCounter 0) 0xFFFFFFFFFFFFFFFF = some 0x8000FFFFFFFFFFFF ∧ (kept 0 0x081008 0x100).isSome = true := by decide +kernel
/-- A write that crosses the edge of a window. -/
theorem witness_edge : ∃ pa, populated pa = true ∧ populated (pa + 1) = false := ⟨populatedSize - 1, by decide +kernel, by decide +kernel⟩
theorem witness_unlisted : listed 0 0x0A0004 = false ∧ listed 3 0x082500 = false ∧ listed 0 0x082500 = true := by decide +kernel
theorem witness_peer_answers : peerEntry peering 7 2 = none ∧ (3 : Nat).testBit 2 = false := by decide +kernel
theorem witness_disposable : let s := { State.reset with ctxs := [(639, { Ctx.reset with mode := .stopped, part := 0, resume := .block 64 0 [] [] })], escalated := [(639, FaultRec.of 8 0)] }
    s.disposable 3 0 639 = true ∧ s.disposable 2 0 639 = false ∧ s.disposable 3 1 639 = false ∧ 4 * bitsOf 0x29F03 8 8 + 0x29F03 % 4 = 639 := by decide +kernel
/-- The same peer with every grant. -/
def peeringAll : State := { mapped with dcb := assigned [(0x0B0000, 0xF030007)] }
theorem witness_peer_write : peerEntry peeringAll 7 3 = some (15, 0) ∧ fireCheck peeringAll ⟨641, 0, 0, 0, 0, 0, 0⟩ .main 0x300000 2 false .store = none
    ∧ ((Run.start peeringAll).writePieces ⟨641, 0, 0, 0, 0, 0, 0⟩ .main 0x300000 [1, 2] noIssuer).2 = .done ∧ fireCheck peeringAll ⟨641, 0, 0, 0, 0, 0, 0⟩ .main 0x300000 8 true .atomic = none
    ∧ (match ((Run.start peeringAll).locate ⟨641, 0, 0, 0, 0, 0, 0⟩ .main 0x300000 .rw).2 with
      | .key k => k == mainKey 0x300000
      | _ => false) = true := by decide +kernel
theorem test_peer_add : (match exec (.peerAccess ⟨7, 3, 0x100000, .atom .add .w64 5⟩) peeringAll with
    | .next t => (t.num (mainKey 0x100000) 8, t.replies.map (fun y => (leNat y.bytes, y.cls)))
    | _ => (0, [])) = (0x200006, [(0x200001, 0)]) := by decide +kernel
/-- A `cas` of 4 bytes whose expected value stands there. -/
theorem test_peer_cas : (match exec (.peerAccess ⟨7, 3, 0x100000, .cas .w32 0x900200001⟩) peeringAll with
    | .next t => (t.num (mainKey 0x100000) 8, t.replies.map (fun y => (leNat y.bytes, y.cls)))
    | _ => (0, [])) = (9, [(0x200001, 0)]) := by decide +kernel
/-- An error of a core's configuration (R369, R401). -/
theorem test_core_fails : (let r := (Run.start { State.reset with ctxs := [(17, { Ctx.reset with mode := .running })] }).coreFails 17
    (r.st.inService 1, r.st.inService 0, (r.st.ctx 17).asyncs.map (fun f => (f.cls, f.code)))) = (false, true, [(0x0F, 3)]) := by decide +kernel
theorem witness_rcvgo : (SMap.get State.reset.msgWin 0 0x10).toNat < 4096 ∧ (SMap.get ([(0x10, 4096)] : SMap Word64) 0 0x10).toNat = 4096 := by decide +kernel

/-! ### Launches and pre-emption -/

/-- Queue 0 enabled, active, of 16 entries in host memory (QCTL), with one record to read. -/
def queued : State := { mapped with dcb := assigned [(0x08, 0x50104), (0x18, 1)] }
theorem witness_queue : Regular queued = true ∧ queued.queueState 0 = 2 ∧ queued.queueReads 0 = true ∧ queued.undecided 0 = none ∧ queued.queueInHost 0 = true
    ∧ State.reset.queueState 65535 = 0 ∧ (queued.groupPart (63 / 64)).isSome = true ∧ queued.queueState 63 = 0 := by decide +kernel
/-- The same with its ring in main memory. -/
def queuedHere : State := { mapped with dcb := assigned [(0x00, 0x100000), (0x08, 0x50004), (0x18, 1)] }
theorem witness_ring : queuedHere.queueInHost 0 = false ∧ queuedHere.queueReads 0 = true ∧ queuedHere.queueBase 0 = 0x100000
    ∧ (match ((Run.start queuedHere).readBytes (queuedHere.queueParty 0) .main 0x100000 256 .r []).2 with
      | .bytes b => b.length == 256
      | _ => false) = true := by decide +kernel
theorem witness_undecided : ({ queued with launches := [newLaunch 5 0 []] } : State).undecided 0 = some (newLaunch 5 0 []) := by decide +kernel

/-- A launch of partition 0 with one pass of its first node. -/
def passOf (st : NState) (at' : Nat) (live : List Nat) : Pass := ⟨9, 0, st, at', 0, live, [], []⟩
def working (n : GNode) (p : Pass) (x : Ctx) : State :=
  { mapped with
    clk := 100000000
    dcb := assigned []
    ctxs := [(0, x)]
    launches := [{ launched with nodes := [n], work := [p] }] }
theorem witness_place : (working (nodeOf false .ready) (passOf .ready 100000000 []) { Ctx.reset with ticket := 1 }).places 0 = true
    ∧ ((working (nodeOf false .ready) (passOf .ready 100000000 []) { Ctx.reset with ticket := 1 }).servedAt 0).isSome = true := by decide +kernel
theorem witness_promote : Regular (working (nodeOf false .ready) (passOf .ready 0 []) { Ctx.reset with ticket := 1 }) = true
    ∧ (working (nodeOf false .ready) (passOf .ready 0 []) { Ctx.reset with ticket := 1 }).promotes 5 9 = true := by decide +kernel
theorem witness_dispatch : let s := working (nodeOf false .ready) (passOf .stage 0 [0]) { Ctx.reset with ticket := 1 }
    Regular s = true ∧ s.dispatches 5 9 = true ∧ ((s.pass? (5, 9)).bind (fun e => e.1.nodeOf e.2)) = some (nodeOf false .ready) ∧ ([0] : List Nat).Nodup := by decide +kernel
theorem witness_dispatch_engine : let s := working { nodeOf false .ready with kind := 2 } (passOf .stage 0 []) { Ctx.reset with ticket := 1 }
    s.dispatches 5 9 = true ∧ ((s.pass? (5, 9)).bind (fun e => (e.1.nodeOf e.2).map (·.kind))) = some 2 := by decide +kernel
theorem witness_node_end : let s := working (nodeOf false .ready) (passOf .run 0 [0]) { Ctx.reset with mode := .ended }
    Regular s = true ∧ (s.pass? (5, 9)).any (fun e => s.passEnds e.1 e.2) = true := by decide +kernel
theorem witness_launch_end : ∃ (s : State) (y : Launch), s.launch? 5 = some y ∧ y.pass 9 = none ∧ s.launchEnds y = true ∧ Regular s = true ∧ recCplSp y.rec' = 4 :=
  ⟨{ mapped with launches := [{ launched with ending := true, rec' := (List.range 256).map (fun k => if k = 96 then 4 else 0) }] },
    { launched with ending := true, rec' := (List.range 256).map (fun k => if k = 96 then 4 else 0) }, by decide +kernel, by decide +kernel, by decide +kernel, by decide +kernel,
    by decide +kernel⟩

def preempting (drains : List DrainState) : State := { mapped with clk := 1000000000, dcb := assigned [], drains := drains }
theorem witness_preempt : Regular (preempting []) = true ∧ (preempting []).opTaken 0 = true ∧ ∀ d ∈ (preempting []).drains, d.part ≠ 0 := by decide +kernel
theorem witness_drained : (preempting [⟨0, 0x30000, 0, [], false, false, none, 0⟩]).drained 0 = true ∧ (preempting [⟨0, 0x30000, 0, [], false, false, none, 0⟩]).drains.find? (fun d => d.part == 0)
    = some ⟨0, 0x30000, 0, [], false, false, none, 0⟩ := by decide +kernel
/-- A drain whose one context still has an access to perform. -/
theorem witness_drain_overdue : State.drainOverdue { State.tweak (preempting [⟨0, 0x30000, 0, [], false, false, none, 0⟩]) (fun x => { x with
    mode := .running, pend := [⟨7, 0, 0, 0, 0, 0, 0, 0, [], storeEff, false, none, false, 0⟩] }) with clk := 1000000000 } 0 = true := by decide +kernel
/-- An empty save area at 0x30000, as its header and the device's own record of it give it. -/
def emptySave : Saved := ⟨1, 0, 0, 0x6000, rx64 (quadsOf []), [], [], [], [], [], [], []⟩
def restorable : State :=
  { preempting [] with
    saved := [emptySave]
    mem := [(mainKey 0x30000, 1), (mainKey 0x30004, 1), (mainKey 0x30019, 0x60)] ++ mapped.mem.take 4 }
theorem witness_restore : Regular restorable = true ∧ restorable.opTaken 0 = true
    ∧ (match ((Run.start restorable).startOp 0 0x30000 3).savedAt 0 0x30000 with
      | (r, u) => u == some emptySave && r.st.idlePart 0 && (placeSaved r.st emptySave 0).isSome) = true := by decide +kernel
/-- An area at an address with no page. -/
theorem witness_restore_none : (((Run.start (preempting [])).startOp 0 0x8000000000 3).savedAt 0 0x8000000000).2 = none := by decide +kernel

/-- Reads of a ring: the first piece of a record, its last, one whose record is no longer the one that QTAIL covered, and one that was denied. -/
def reading (n : Nat) (cov : List Byte) : State := { queuedHere with ringGot := if n = 0 then [] else [(0, List.replicate n 0)], covered := if cov.isEmpty then [] else [(coverKey 0 0, cov)] }
def pieceOf (s : State) : Option (List Byte) := match ((Run.start s).readBytes (s.queueParty 0) .main (s.recordAt 0 (s.queueHead' 0) + (SMap.get s.ringGot [] 0).length) 64 .r []).2 with
  | .bytes b => some (SMap.get s.ringGot [] 0 ++ b)
  | _ => none
theorem witness_pieces : (pieceOf (reading 0 [])).any (fun g => decide (g.length < 256)) = true ∧ (pieceOf (reading 192 [])).any (fun g => g.length == 256) = true
    ∧ (let c := List.replicate 256 0; (pieceOf (reading 192 c)).any (fun g => g == SMap.get (reading 192 c).covered [] (coverKey 0 0))) = true
    ∧ (let c := List.replicate 256 1; (pieceOf (reading 192 c)).any (fun g => g != SMap.get (reading 192 c).covered [] (coverKey 0 0))) = true
    ∧ SMap.wf [] (reading 192 (List.replicate 256 1)).covered = true ∧ (reading 0 []).ringDenied.contains 0 = false
    ∧ ({ queuedHere with ringDenied := [0] } : State).queueReads 0 = true ∧ ({ queuedHere with ringDenied := [0] } : State).undecided 0 = none := by decide +kernel
theorem witness_cover : ((3 : Word64).toNat % 2 ^ 32 + 2 ^ 32 - queuedHere.queueTail 0) % 2 ^ 32 = 2 ∧ 2 ≤ queuedHere.queueSize 0 := by decide +kernel
theorem witness_host_ring : queued.queueInHost 0 = true ∧ queued.undecided 0 = none ∧ queued.ringDenied.contains 0 = false := by decide +kernel
theorem witness_completion_allowed : (newLaunch 5 0 []).denied = none := rfl
/-- Drains that save: one whose contexts are at safe points, one whose park failed, one of frozen contexts. -/
def drainOf (denied : Option (Nat × Nat)) (frozen : Bool) : DrainState := ⟨0, 0x30000, 0, [], frozen, false, denied, 0⟩
theorem witness_saves : (preempting [drainOf none false]).saves 0 = true ∧ (preempting [drainOf (some (0x0A, 1)) false]).saves 0 = true
    ∧ State.saves { preempting [drainOf none true] with dcb := assigned [(prectlOff 0, 0x30202)] } 0 = true := by decide +kernel

end Sys2Proof.Tests
end

/-! Registers and invariants of the machine state: what reset leaves, and what every step keeps. -/

namespace Sys2Proof.Machine

open Sys2Proof

@[simp] theorem State.reset_ctx (c : Nat) : State.reset.ctx c = Ctx.reset := rfl

@[simp] theorem State.reset_dcbAt (die off : Nat) : State.reset.dcbAt die off = dcbReset off := BitVec.zero_xor

/-- The registers of a die control block below offset 0x082400 are zero at reset. -/
theorem dcbReset_below {off : Nat} (h : off < 0x082400) : dcbReset off = 0 := by
  unfold dcbReset
  rw [if_neg (by omega), if_neg (by omega)]

theorem State.reset_steptmo {p : Nat} (h : p < 40) : State.reset.steptmo p = 10000 := by
  simp [State.steptmo, dcbReset_below (show 0x081600 + 8 * p < 0x082400 by omega)]

theorem State.reset_redtmo {p : Nat} (h : p < 40) : State.reset.redtmo p = 100 := by
  simp [State.redtmo, dcbReset_below (show 0x081A00 + 8 * p < 0x082400 by omega)]

/-- Settles O8: every step is a chain of updates, each of which keeps a state regular, and a regular state is bounded. -/
theorem stepKeepsRegistersBounded : Obligations.StepKeepsRegistersBounded := by
  unfold Obligations.StepKeepsRegistersBounded
  intro s t hs h
  have ht : Regular t = true := (step_reach h).regular hs
  exact ⟨ht, regular_bounded ht⟩

/-- Settles O9: every map of the reset state is empty, so each register reads as its default; the timeouts are those of a zero register. -/
theorem resetValues : Obligations.ResetValues := by
  unfold Obligations.ResetValues
  refine ⟨fun c n => ?_, fun c => ?_, fun k n => ⟨rfl, rfl⟩, fun k n => ⟨rfl, rfl, rfl, rfl⟩, fun p n => ⟨rfl, rfl, rfl, rfl⟩,
    fun p hp => ⟨State.reset_steptmo hp, State.reset_redtmo hp⟩, rfl⟩
  · rw [State.reset_ctx]
    exact ⟨rfl, beq_self_eq_true 0, rfl, rfl, rfl, fun _ => rfl⟩
  · rw [State.reset_ctx]
    exact ⟨rfl, rfl, rfl, rfl, rfl, rfl, rfl, rfl, rfl⟩
end Sys2Proof.Machine

/-! Firing: the nodes that fire once, the flag rules (R12, R70, R71), and what a plain firing leaves as it is. -/

namespace Sys2Proof.Machine

open Sys2Proof

/-! ### Instructions that fire once -/

/-- An instruction that fires once is the firing of a node with a meaning of its own: `cases h` leaves the constructors that `single` lists. -/
theorem exec_single {i : Instr} (h : single i = true) (s : State) : ∃ body : Run s → Fire → Run s × NodeOut, exec i s = .next (fireRun i body (Run.start s)).st := by
  cases i
  all_goals cases h
  all_goals exact ⟨_, rfl⟩

/-- A plain instruction that fires once changes nothing but its run as it fires. -/
theorem exec_plain_single {i : Instr} (h : (single i && plain i) = true) (s : State) : ∃ body : Fire → NodeOut, exec i s = fireNode i body s := by
  cases i
  all_goals cases h
  all_goals exact ⟨_, rfl⟩

/-- A flag rule decides the firing of any instruction that fires once. -/
theorem exec_rule {i : Instr} {s : State} {f : Fire} {o : NodeOut} (hi : single i = true) (h : Fires s i f) (hr : f.rules = some o) :
    exec i s = .next (fired s i f o) := by
  obtain ⟨body, hb⟩ := exec_single hi s
  rw [hb, fireRun_rule (r := Run.start s) h hr]
  rfl

/-- Settles O12: an instruction that fires once is one firing, and a firing that may not take place changes nothing. -/
theorem nodeWaits : Obligations.NodeWaits := by
  unfold Obligations.NodeWaits
  intro i s hi hf
  obtain ⟨body, hb⟩ := exec_single hi s
  rw [hb, fireRun_idle (r := Run.start s) hf, Run.start_st]

/-! ### The flag rules -/

theorem fires_sh {s : State} {i : Instr} {f : Fire} (h : Fires s i f) : f.sh = shape i := by
  obtain ⟨b, -, -, rfl⟩ := h
  rfl

/-- The operands that may not be errors: A passes through a node that passes A. -/
def Fire.checked (f : Fire) : List Token := if f.sh.passA then (if f.a.e then [] else f.operands.drop 1) else f.operands

/-- A gate of the other polarity, or a null one, is a mismatch. -/
theorem Fire.mismatch_of_gate {f : Fire} {p : Bool} (hg : f.sh.gate = (if p then .onTrue else .onFalse)) (he : f.g.e = false)
    (hp : f.g.n = true ∨ f.g.polarity ≠ p) : f.mismatch = true := by
  unfold Fire.mismatch
  cases p
  · simpa [hg, he] using hp
  · simpa [hg, he] using hp

theorem Fire.rules_gateKind {f : Fire} (hg : f.sh.gate ≠ .none) (hk : f.g.kind ≠ .control) : f.rules = some (f.fault 0x04 0x05) := by
  unfold Fire.rules
  rw [if_pos ⟨hg, hk⟩]

section
variable {f : Fire} (hg : f.sh.gate ≠ .none → f.g.kind = .control)
include hg

theorem Fire.rules_mismatch (hm : f.mismatch = true) : f.rules = some f.nulls := by
  unfold Fire.rules
  rw [if_neg (fun h => h.2 (hg h.1)), if_pos hm]

theorem Fire.rules_error (hm : f.mismatch = false) {t : Token} (ht : f.checked.find? (fun t => t.e) = some t) :
    f.rules = if f.sh.side then some { faults := [⟨f.idx, 0x0D, 0x00, descClass t.word, descCode t.word, descTicket t.word, 0, none⟩] }
      else some (NodeOut.of (errorToken f.retKind t.word)) := by
  unfold Fire.checked at ht
  unfold Fire.rules
  rw [if_neg (fun h => h.2 (hg h.1)), if_neg (by simp [hm]), ht]

/-- With a gate that matches and no error among the operands, nulls, kinds and scales decide. -/
theorem Fire.rules_noError (hm : f.mismatch = false) (he : f.checked.find? (fun t => t.e) = none) :
    f.rules = if f.dataOperands.any (fun t => t.n) && !f.sh.passA then some (if f.sh.ackNull then { NodeOut.of (control true) with outs := f.sh.outs } else f.nulls)
      else if !f.kindsOk then some (f.fault 0x04 0x05)
      else if f.sh.scaled && f.scaleDiffers then some (f.fault 0x06 0x00)
      else none := by
  unfold Fire.checked at he
  unfold Fire.rules
  rw [if_neg (fun h => h.2 (hg h.1)), if_neg (by simp [hm]), he]

end

theorem Fire.checked_noError {f : Fire} (he : f.operands.any (fun t => t.e) = false) : f.checked.find? (fun t => t.e) = none := by
  rw [List.any_eq_false] at he
  rw [List.find?_eq_none]
  intro t ht
  refine he t ?_
  unfold Fire.checked at ht
  split at ht
  · split at ht
    · cases ht
    · exact List.mem_of_mem_drop ht
  · exact ht

theorem Fire.checked_of_passA {f : Fire} (h : f.sh.passA = false) : f.checked = f.operands := by simp [Fire.checked, h]

/-- Settles O13: each clause is the flag rule that decides the firing, as the order of the rules has it. -/
theorem flagRules : Obligations.FlagRules := by
  unfold Obligations.FlagRules
  refine ⟨fun i s f hi hf => ?_, fun i s f hi hf hg hm he hn _ => ?_⟩
  · have fire : ∀ {o}, f.rules = some o → exec i s = .next (fired s i f o) := exec_rule hi hf
    have nulls : f.nulls = { t0 := some ⟨f.retKind, 0, false, false, true⟩, t1 := some ⟨f.retKind, 0, false, false, true⟩, outs := (shape i).outs } := by
      rw [← fires_sh hf]
      rfl
    rw [← nulls]
    simp only [← fires_sh hf]
    refine ⟨fun hg hk => fire (Fire.rules_gateKind hg hk), fun hg p hp he hn => fire (Fire.rules_mismatch hg (Fire.mismatch_of_gate hp he hn)),
      fun hg hm hpa t ht => ?_, fun hg hm hpa he hn hack => ?_⟩
    · rw [← Fire.checked_of_passA hpa] at ht
      have rule := Fire.rules_error hg hm ht
      refine ⟨fun hs => fire ?_, fun hs => fire ?_⟩
      · rw [rule, hs]
        rfl
      · rw [rule, hs]
        rfl
    · refine fire ?_
      rw [Fire.rules_noError hg hm (Fire.checked_noError he), hn, hpa, hack]
      rfl
  · have rule := Fire.rules_noError (by rwa [fires_sh hf]) hm (Fire.checked_noError he)
    rw [hn, fires_sh hf] at rule
    refine ⟨fun hk => exec_rule hi hf ?_, fun hk hs hd => exec_rule hi hf ?_⟩
    · rw [rule, hk]
      rfl
    · rw [rule, hk, hs, hd]
      rfl

/-! ### The frame of a plain firing -/

/-- A merge fires as its run alone is changed. -/
theorem execMerge_same {t0 t1 : Target} {s t : State} (hr : Regular s = true) (h : execMerge t0 t1 s = .next t) : SameBut s t s.site.c := by
  unfold execMerge at h
  dsimp only at h
  split at h
  · cases h
    exact ⟨rfl, fun _ _ => rfl, rfl⟩
  · split at h
    · cases h
      exact Run.finish_same (Run.start s) hr _ _ _ _ _
    · cases h
      exact ⟨rfl, fun _ _ => rfl, rfl⟩

/-- A counting node fires as its run alone is changed. -/
theorem countNode_same {ins : Instr} {k : Combine} {s t : State} (hr : Regular s = true) (h : countNode ins k s = .next t) : SameBut s t s.site.c := by
  unfold countNode at h
  dsimp only at h
  split at h
  · cases h
    exact ⟨rfl, fun _ _ => rfl, rfl⟩
  · split at h
    · cases h
      exact Run.finish_same (Run.start s) hr _ _ _ _ _
    · cases h
      exact ⟨rfl, fun _ _ => rfl, rfl⟩

/-- A plain instruction that does not fire once is `merge` or a counting node. -/
theorem exec_plain_counting {i : Instr} (h : (!single i && plain i) = true) (s : State) :
    (∃ t0 t1, exec i s = execMerge t0 t1 s) ∨ ∃ k, exec i s = countNode i k s := by
  cases i
  all_goals cases h
  case merge t0 t1 => exact .inl ⟨t0, t1, rfl⟩
  case join => rw [exec_join]; exact .inr ⟨_, rfl⟩
  case joinOr => rw [exec_joinOr]; exact .inr ⟨_, rfl⟩
  case combAdd => rw [exec_combAdd]; exact .inr ⟨_, rfl⟩
  case combMin => rw [exec_combMin]; exact .inr ⟨_, rfl⟩
  case combMax => rw [exec_combMax]; exact .inr ⟨_, rfl⟩
  case combMinn => rw [exec_combMinn]; exact .inr ⟨_, rfl⟩
  case combMaxn => rw [exec_combMaxn]; exact .inr ⟨_, rfl⟩
  case combAnd => rw [exec_combAnd]; exact .inr ⟨_, rfl⟩
  case combOr => rw [exec_combOr]; exact .inr ⟨_, rfl⟩
  case combXor => rw [exec_combXor]; exact .inr ⟨_, rfl⟩
  case combFadd => rw [exec_combFadd]; exact .inr ⟨_, rfl⟩
  case combFmin => rw [exec_combFmin]; exact .inr ⟨_, rfl⟩
  case combFmax => rw [exec_combFmax]; exact .inr ⟨_, rfl⟩

/-- A plain firing changes the block runs of its context, and the counters. -/
theorem exec_plain_same {i : Instr} {s t : State} (hp : plain i = true) (hr : Regular s = true) (h : exec i s = .next t) : SameBut s t s.site.c := by
  cases hs : single i
  · obtain ⟨t0, t1, e⟩ | ⟨k, e⟩ := exec_plain_counting (i := i) (by simp [hp, hs]) s
    · exact execMerge_same hr (e.symm.trans h)
    · exact countNode_same hr (e.symm.trans h)
  · obtain ⟨body, e⟩ := exec_plain_single (i := i) (by simp [hp, hs]) s
    exact fireNode_same hr (e.symm.trans h)

/-- Settles O10: what is no block run and no event counter is as before, so every byte and every register is. -/
theorem nodeFrame : Obligations.NodeFrame := by
  unfold Obligations.NodeFrame
  intro i s t hp hr h
  have same := exec_plain_same hp hr h
  obtain ⟨ht, hother, hown⟩ := same
  refine ⟨⟨ht, hother, hown⟩, fun k => ?_, fun c n => ?_⟩
  · rw [ht]
    rfl
  · by_cases hc : c = s.site.c
    · rw [hc, hown]
      exact ⟨rfl, rfl⟩
    · rw [hother c hc]
      exact ⟨rfl, rfl⟩

end Sys2Proof.Machine

/-! Register, tag and system nodes (R22, R80, R81, R378): what each comes to when it acts. -/

namespace Sys2Proof.Machine

open Sys2Proof

/-- A node that comes to `later` waits. -/
theorem fired_later {s : State} {i : Instr} {f : Fire} : fired s i f .later = s := by
  unfold fired
  rw [Run.finish_wait _ _ _ _ _ _ rfl, Run.start_st]

/-- What a node comes to that acts with effects of its own. -/
theorem fireWith_acts {ins : Instr} {body : {s0 : State} → Run s0 → Fire → Run s0 × NodeOut} {s : State} {f : Fire} (h : Acts s ins f) :
    fireWith ins body s = .next ((body (Run.start s) f).1.finish f.c f.b.iid f.idx (shape ins) (body (Run.start s) f).2).st := by
  unfold fireWith
  rw [fireRun_acts (r := Run.start s) h]

/-- `read` of a full register gives its value; of an empty one it waits (R22). -/
theorem execRead_acts {g : Gate} {n : BitVec 6} {t0 : Target} {s : State} {f : Fire} (h : Acts s (.read g n t0) f) :
    exec (.read g n t0) s = .next (if f.x.isFull n.toNat
      then fired s (.read g n t0) f { result64 (f.x.reg n.toNat) with took := f.x.tookFrom n.toNat } else s) := by
  rw [exec_read, execRead, fireNode_acts h]
  cases f.x.isFull n.toNat
  · rw [if_neg Bool.false_ne_true, if_neg Bool.false_ne_true, fired_later]
  · rfl

/-- The E token of an empty register: the register-empty code in its descriptor (R22). -/
theorem emptyToken_eq : errorToken .scalar (descriptor 0x0D 0x01 0) = ⟨.scalar, 0x0D01000000000000, false, true, false⟩ := by
  simp [errorToken, descriptor]

/-- `read.t` waits for no register: an empty one gives an E token (R22). -/
theorem execReadT_acts {g : Gate} {n : BitVec 6} {t0 : Target} {s : State} {f : Fire} (h : Acts s (.readT g n t0) f) :
    exec (.readT g n t0) s = .next (fired s (.readT g n t0) f (if f.x.isFull n.toNat
      then { result64 (f.x.reg n.toNat) with took := f.x.tookFrom n.toNat }
      else { t0 := some ⟨.scalar, 0x0D01000000000000, false, true, false⟩, t1 := some ⟨.scalar, 0x0D01000000000000, false, true, false⟩ })) := by
  rw [exec_readT, execReadT, fireNode_acts h, emptyToken_eq]
  rfl

/-- `perf` where PERFSEL names a counter: the counter as it reads. -/
theorem execPerf_some {g : Gate} {t0 : Target} {s : State} {f : Fire} {off : Nat} (h : Acts s (.perf g t0) f)
    (ho : perfCounter f.c (f.x.perfsel.toNat % 64) = some off) :
    exec (.perf g t0) s = .next (((Run.start s).readCounter (f.c / 160) off).1.finish f.c f.b.iid f.idx (shape (.perf g t0))
      (result64 ((Run.start s).readCounter (f.c / 160) off).2)).st := by
  rw [exec_perf, execPerf, fireWith_acts h, ho]
  rfl

/-- `perf` where PERFSEL names no counter. -/
theorem execPerf_none {g : Gate} {t0 : Target} {s : State} {f : Fire} (h : Acts s (.perf g t0) f)
    (ho : perfCounter f.c (f.x.perfsel.toNat % 64) = none) : exec (.perf g t0) s = .next (fired s (.perf g t0) f (result64 0)) := by
  rw [exec_perf, execPerf, fireWith_acts h, ho]
  rfl

variable {s0 : State}

theorem Run.readCounter_timed {r : Run s0} {die off : Nat} (h : timedSource ((r.st.dcbAt die (off + 8)).toNat % 256) = true) :
    r.readCounter die off = (r.chose, Config.freeWord r.choice &&& 0x8000FFFFFFFFFFFF) := by
  unfold Run.readCounter
  rw [if_pos h]

theorem Run.readCounter_kept {r : Run s0} {die off : Nat} (h : timedSource ((r.st.dcbAt die (off + 8)).toNat % 256) = false) :
    r.readCounter die off = (r, r.st.dcbAt die off) := by
  unfold Run.readCounter
  rw [if_neg (by simp [h])]

/-- The bits of a counter between its value and its top bit read zero (R391). -/
theorem counterMask_bits (v : Word64) : (v &&& 0x8000FFFFFFFFFFFF).extractLsb' 48 15 = 0 := by
  rw [BitVec.extractLsb'_and]
  exact BitVec.and_zero

/-- Settles O22: each node acts as its meaning says; `read` and `perf` by what the register, or the counter, holds. -/
theorem registerTagAndSystemNodes : Obligations.RegisterTagAndSystemNodes := by
  unfold Obligations.RegisterTagAndSystemNodes
  refine ⟨fun g t0 n => ⟨?_, ?_, ?_, ?_, ?_, ?_, ?_, ?_⟩, fun g t0 => ⟨?_, ?_, ?_, ?_, ?_, ?_, ?_⟩⟩
  · intro s f h hf
    rw [execRead_acts h, hf]
    rfl
  · intro s f h hf
    rw [execRead_acts h, hf]
    rfl
  · intro s f h hf
    rw [execReadT_acts h, hf]
    rfl
  · intro s f h hf
    rw [execReadT_acts h, hf]
    rfl
  · exact fun s f h => fireNode_acts h
  · exact fun l s f h => fireNode_acts h
  · exact fun c s f h => fireNode_acts h
  · exact fun s f h => fireNode_acts h
  · exact fun r s f h => fireNode_acts h
  · exact fun r s f h => fireNode_acts h
  · exact fun m s f h => fireNode_acts h
  · refine fun s f h => ⟨fun off ho ht => ?_, fun off ho ht => ?_, fun ho => execPerf_none h ho⟩
    · rw [execPerf_some h ho, Run.readCounter_kept (r := Run.start s) ht]
      rfl
    · refine ⟨_, counterMask_bits (Config.freeWord s.choice), ?_⟩
      rw [execPerf_some h ho, Run.readCounter_timed (r := Run.start s) ht]
      rfl
  · exact fun c => ⟨fun s f h => fireNode_acts h, fun s f h => fireNode_acts h⟩
  · exact fun s f h => fireNode_acts h
  · exact fun s f h => fireNode_acts h
end Sys2Proof.Machine

/-! One step (R17, R18, R20): the act that it takes, and what passes meanwhile. -/

namespace Sys2Proof.Machine

open Sys2Proof

/-! ### The act that a step takes -/

theorem step_none {s : State} (h : s.acts = []) : step s = .next (s.passed [] none) := by
  unfold step
  rw [h]

theorem step_one {s : State} {a : Act} (h : s.acts = [a]) : step s = perform a (s.passed [a] (some a)) := by
  unfold step
  rw [h]

theorem getElem?_mod_length {α : Type} {l : List α} (h : l ≠ []) (n : Nat) : ∃ a ∈ l, l[n % l.length]? = some a := by
  have hlt : n % l.length < l.length := Nat.mod_lt _ (List.length_pos_iff.mpr h)
  exact ⟨l[n % l.length], List.getElem_mem hlt, List.getElem?_eq_getElem hlt⟩

/-- Of several acts one is picked; it is one that no longer waits, when there is one. -/
theorem State.pick_some (s : State) {l : List Act} (h : l ≠ []) : ∃ a ∈ l, s.pick l = some a ∧ ((∃ b ∈ l, s.presses b = true) → s.presses a = true) := by
  unfold State.pick
  dsimp only
  cases hd : (l.filter s.presses).isEmpty
  · obtain ⟨a, ha, hp⟩ := getElem?_mod_length (l := l.filter s.presses) (by simpa using hd) (Config.schedule s.choice)
    obtain ⟨hl, hs⟩ := List.mem_filter.mp ha
    exact ⟨a, hl, hp, fun _ => hs⟩
  · obtain ⟨a, ha, hp⟩ := getElem?_mod_length h (Config.schedule s.choice)
    refine ⟨a, ha, hp, fun ⟨b, hb, hs⟩ => ?_⟩
    have : b ∈ l.filter s.presses := List.mem_filter.mpr ⟨hb, hs⟩
    rw [List.isEmpty_iff.mp hd] at this
    cases this

theorem step_many {s : State} (h : 2 ≤ s.acts.length) :
    ∃ a ∈ s.acts, step s = perform a (s.passed s.acts (some a)) ∧ ((∃ b ∈ s.acts, s.presses b = true) → s.presses a = true) := by
  unfold step
  generalize s.acts = l at h ⊢
  match l, h with
  | x :: y :: l, _ =>
    obtain ⟨a, ha, hp, hs⟩ := s.pick_some (l := x :: y :: l) (List.cons_ne_nil _ _)
    refine ⟨a, ha, ?_, hs⟩
    dsimp only
    rw [hp]
    rfl

/-- A node fires as the instruction that its word decodes to. -/
theorem perform_fire {s : State} {x : Site} {b : BlockRun} {w : Word32} {i : Instr} (hb : (s.ctx x.c).run? x.iid = some b)
    (hw : s.wordAt x.c b x.idx = some w) (hi : decode w = .ok i) : perform (.fire x) s = exec i { s with site := x } := by
  have h : s.instrAt x.c b x.idx = some i := by
    unfold State.instrAt
    rw [hw]
    simp [hi, Except.toOption]
  unfold perform
  dsimp only
  rw [hb, Option.bind_some, h]
  rfl

theorem perform_input {s : State} {i : Instr} {l : List Instr} (h : s.inputs = i :: l) : perform .input s = exec i { s with inputs := l } := by
  unfold perform
  dsimp only
  rw [h]
  rfl

/-! ### The operation that a station takes -/

theorem State.readyAt_site {s : State} {x : Site} {a : Ready} (h : s.readyAt x = some a) : a.site = x := by
  obtain ⟨b, -, rfl⟩ := Option.map_eq_some_iff.mp h
  dsimp only
  split <;> rfl

theorem State.readyAt_turn {s : State} {x : Site} {a : Ready} (h : s.readyAt x = some a) (hd : a.det = true) : a.turn = 0 := by
  obtain ⟨b, -, rfl⟩ := Option.map_eq_some_iff.mp h
  dsimp only at hd ⊢
  split
  · rfl
  · rename_i hb
    rw [if_neg hb] at hd
    cases hd

/-- Of two deterministic operations of a station the chosen one has the lower key, or the lower node number at one key (R18). -/
theorem State.chosen_least {s : State} {l : List Site} {x y : Site} {a b : Ready} (hx : x ∈ s.chosen l) (hy : y ∈ l) (ha : s.readyAt x = some a)
    (hb : s.readyAt y = some b) (hat : a.at' = b.at') (hda : a.det = true) (hdb : b.det = true) :
    a.key < b.key ∨ (a.key = b.key ∧ a.node ≤ b.node) := by
  unfold State.chosen at hx
  obtain ⟨r, hr, rfl⟩ := List.mem_map.mp hx
  obtain ⟨hr, hall⟩ := List.mem_filter.mp hr
  obtain ⟨z, -, hz⟩ := List.mem_filterMap.mp hr
  have hra : r = a := by
    rw [State.readyAt_site hz, hz] at ha
    exact Option.some.inj ha
  subst hra
  have := List.all_eq_true.mp hall b (List.mem_filterMap.mpr ⟨y, hy, hb⟩)
  simp only [hat, bne_self_eq_false, Bool.false_or, Bool.or_eq_true, beq_iff_eq] at this
  rcases this with rfl | h
  · exact .inr ⟨rfl, Nat.le_refl _⟩
  · simpa [Ready.before, hda, hdb, State.readyAt_turn ha hda, State.readyAt_turn hb hdb] using h

/-! ### What passes meanwhile -/

/-- Between the states nothing has passed but the counters, the turns of the stations and the stalls that cores have counted. -/
def Idles (s t : State) : Prop :=
  t = { s with turns := t.turns, dcb := t.dcb, cores := t.cores }
    ∧ (SMap.wf Core.reset s.cores = true → SMap.wf Core.reset t.cores = true ∧ ∀ k, t.core k = { s.core k with stalls := (t.core k).stalls })

theorem Idles.refl (s : State) : Idles s s := ⟨rfl, fun h => ⟨h, fun _ => rfl⟩⟩

theorem Idles.trans {s t u : State} (h : Idles s t) (k : Idles t u) : Idles s u := by
  obtain ⟨ht, hc⟩ := h
  obtain ⟨hu, kc⟩ := k
  refine ⟨?_, fun hs => ?_⟩
  · rw [hu, ht]
  · obtain ⟨htw, htc⟩ := hc hs
    obtain ⟨huw, huc⟩ := kc htw
    refine ⟨huw, fun k => ?_⟩
    rw [huc k, htc k]

theorem Idles.of_counters {s t : State} (h : t = { s with dcb := t.dcb }) : Idles s t := by
  rw [h]
  exact ⟨rfl, fun hs => ⟨hs, fun _ => rfl⟩⟩

theorem Idles.of_turns {s t : State} (h : t = { s with turns := t.turns }) : Idles s t := by
  rw [h]
  exact ⟨rfl, fun hs => ⟨hs, fun _ => rfl⟩⟩

variable {s0 : State}

theorem Idles.foldl {α : Type} {step : Run s0 → α → Run s0} (h : ∀ r a, Idles r.st (step r a).st) (l : List α) (r : Run s0) : Idles r.st (l.foldl step r).st := by
  induction l generalizing r with
  | nil => exact .refl _
  | cons a l ih => exact (h r a).trans (ih (step r a))

theorem Run.advance_idles (r : Run s0) (die off n : Nat) : Idles r.st (r.advance die off n).st := .of_counters (Run.advance_st r die off n)

theorem Run.count_idles (r : Run s0) (c : Nat) (pe : Option Nat) (src n : Nat) : Idles r.st (r.count c pe src n).st := .of_counters (Run.count_st r c pe src n)

/-- A core that counts stalls keeps all else. -/
theorem Run.modStalls_idles (r : Run s0) (k : Nat) (f : Core → SMap Nat) : Idles r.st (r.modCore k (fun y => { y with stalls := f y })).st := by
  refine ⟨rfl, fun hs => ⟨SMap.wf_set _ _ _ hs, fun j => ?_⟩⟩
  have core : (r.modCore k (fun y => { y with stalls := f y })).st.core j
      = if j = k then { r.st.core k with stalls := f (r.st.core k) } else r.st.core j := SMap.get_set _ hs k j _
  rw [core]
  split
  · rename_i e
    rw [e]
  · rfl

theorem Run.stall_idles (r : Run s0) (l : List Act) (n : Nat) (x : Site) : Idles r.st (r.stall l n x).st := by
  unfold Run.stall
  dsimp only
  split
  · exact .refl _
  · exact .refl _
  · exact (Run.modStalls_idles r _ _).trans (Run.count_idles _ _ _ _ _)

theorem Run.countIf_idles (r : Run s0) (p : Bool) (c : Nat) (pe : Option Nat) (src n : Nat) : Idles r.st (if p then r.count c pe src n else r).st := by
  split
  · exact Run.count_idles _ _ _ _ _
  · exact .refl _

/-- Clocks that pass leave all but the clock, the counters and the stalls. -/
theorem Run.pass_idles (r : Run s0) (l : List Act) (n : Nat) : Idles (r.put (.tick n)).st (r.pass l n).st := by
  unfold Run.pass
  dsimp only
  refine Idles.trans (Idles.foldl ?clocks _ _) (Idles.foldl ?stalls _ _)
  case clocks => exact fun r e => Run.advance_idles r e.1 e.2 n
  case stalls =>
    intro r c
    split
    · exact .refl _
    · refine Idles.trans (Idles.trans (Run.countIf_idles _ _ _ _ _ _) (Run.countIf_idles _ _ _ _ _ _)) (Idles.foldl ?_ _ _)
      exact fun r y => Run.stall_idles r l n y

theorem Run.takeTurns_idles (r : Run s0) (l : List Act) (a : Option Act) : Idles r.st (r.takeTurns l a).st := by
  unfold Run.takeTurns
  refine Idles.foldl (fun r y => ?_) l r
  dsimp only
  split
  · split
    · split
      · exact .refl _
      · split
        · exact .of_turns rfl
        · exact .of_turns rfl
    · exact .refl _
  · exact .refl _

/-- What passes as an act takes place: a free number of clocks, and what goes with them. -/
theorem State.passed_idles (s : State) (l : List Act) (a : Option Act) :
    ∃ n, Idles { s with clk := s.clk + n, choice := s.choice + 1, replays := (s.passed l a).replays } (s.passed l a) := by
  have time : ∃ n, Idles { s with clk := s.clk + n, choice := s.choice + 1 } (if s.fixed.contains 40 then (Run.start s).chose
      else ((Run.start s).chose.pass l (Config.clocks s.choice + (if s.choice % (Config.patience + 1) = 0 then 1 else 0))).takeTurns l a).st := by
    split
    · exact ⟨0, .refl _⟩
    · exact ⟨_, (Run.pass_idles _ _ _).trans (Run.takeTurns_idles _ _ _)⟩
  obtain ⟨n, hst, hcores⟩ := time
  refine ⟨n, ?_⟩
  unfold State.passed
  dsimp only
  generalize (if s.fixed.contains 40 then (Run.start s).chose
      else ((Run.start s).chose.pass l (Config.clocks s.choice + (if s.choice % (Config.patience + 1) = 0 then 1 else 0))).takeTurns l a) = r at hst hcores ⊢
  split
  · refine ⟨?_, hcores⟩
    rw [hst]
  · refine ⟨?_, hcores⟩
    rw [Run.put_st, hst]
    rfl

/-- Settles O4: the act of a step is the only one, or the one picked; a node runs the instruction its word decodes to; and what passes meanwhile leaves the rest. -/
theorem stepRunsTheDecodedInstruction : Obligations.StepRunsTheDecodedInstruction := by
  unfold Obligations.StepRunsTheDecodedInstruction
  refine ⟨fun s h => step_none h, fun s a h => step_one h, fun s h => step_many h, fun s x b w i hb hw hi => perform_fire hb hw hi,
    fun s i l h => perform_input h, fun s l x y a b hx hy ha hb hat hda hdb => State.chosen_least hx hy ha hb hat hda hdb, fun s l a => ?_⟩
  obtain ⟨n, hst, hcores⟩ := s.passed_idles l a
  exact ⟨n, hst, fun hs => (hcores (((regular_iff s).mp hs).2.2.2.2.2.1)).2⟩

end Sys2Proof.Machine

/-! Taking a fault (R13, R370 to R377): what the helm's accesses to main and a discard leave of the contexts, and what a delivery makes of its context. -/

namespace Sys2Proof.Machine

open Sys2Proof

variable {s0 : State}

/-! ### What leaves every context as it is -/

@[simp] theorem Run.advance_ctxs (r : Run s0) (die off n : Nat) : (r.advance die off n).st.ctxs = r.st.ctxs := by rw [Run.advance_st]

@[simp] theorem Run.countDie_ctxs (r : Run s0) (die src n : Nat) : (r.countDie die src n).st.ctxs = r.st.ctxs := by
  unfold Run.countDie
  refine Run.foldl_keeps State.ctxs _ (fun r i => ?_) _ _
  split
  · exact Run.advance_ctxs _ _ _ _
  · rfl

@[simp] theorem Run.write_ctxs (r : Run s0) (k : Nat) (bs : List Byte) : (r.write k bs).st.ctxs = r.st.ctxs := by
  unfold Run.write
  dsimp only
  rw [Run.foldl_keeps State.ctxs _ (fun _ _ => by rfl), Run.foldl_keeps State.ctxs _ (fun _ _ => by rfl)]

@[simp] theorem Run.codeLines_ctxs (r : Run s0) (c : Bool) (k n : Nat) : (r.codeLines c k n).st.ctxs = r.st.ctxs := by
  unfold Run.codeLines
  dsimp only
  split
  · rfl
  · refine Run.foldl_keeps State.ctxs _ (fun r i => ?_) _ _
    split <;> simp

@[simp] theorem Run.wroteLines_ctxs (r : Run s0) (a : Agent) (sp : Space) (ea k n : Nat) : (r.wroteLines a sp ea k n).st.ctxs = r.st.ctxs := by
  unfold Run.wroteLines
  split
  · exact Run.codeLines_ctxs _ _ _ _
  · rfl

@[simp] theorem Run.storer_ctxs (r : Run s0) (a : Agent) (g : StepGroup) (i : Issuer) : (r.storer a g i).1.st.ctxs = r.st.ctxs := by
  unfold Run.storer
  split <;> rfl

@[simp] theorem Run.contribute_ctxs (r : Run s0) (a : Agent) (g : Region) (k va : Nat) (bs : List Byte) (i : Issuer) :
    (r.contribute a g k va bs i).st.ctxs = r.st.ctxs := Run.storer_ctxs r a _ i

@[simp] theorem Run.deposit_ctxs (r : Run s0) (a : Agent) (sp : Space) (ea k : Nat) (bs : List Byte) (i : Issuer) :
    (r.deposit a sp ea k bs i).st.ctxs = r.st.ctxs := by
  unfold Run.deposit
  dsimp only
  split
  · exact Run.contribute_ctxs _ _ _ _ _ _ _
  · rw [Run.wroteLines_ctxs, Run.write_ctxs]

@[simp] theorem Run.translate_ctxs (r : Run s0) (a : Agent) (va : Nat) (need : Need) : (r.translate a va need).1.st.ctxs = r.st.ctxs := by
  unfold Run.translate Run.translateIn
  dsimp only
  repeat' split
  all_goals rfl

@[simp] theorem Run.locate_ctxs (r : Run s0) (a : Agent) (sp : Space) (ea : Nat) (need : Need) : (r.locate a sp ea need).1.st.ctxs = r.st.ctxs := by
  unfold Run.locate
  dsimp only
  split
  case h_5 => split <;> exact Run.translate_ctxs _ _ _ _
  all_goals repeat' split
  all_goals rfl

theorem Run.takeFrames_ctxs {r r' : Run s0} {a : Agent} {n f : Nat} (h : r.takeFrames a n = some (f, r')) : r'.st.ctxs = r.st.ctxs := by
  unfold Run.takeFrames at h
  split at h
  · obtain ⟨g, -, e⟩ := Option.map_eq_some_iff.mp h
    cases e
    rfl
  · dsimp only at h
    split at h
    · obtain ⟨g, -, e⟩ := Option.map_eq_some_iff.mp h
      cases e
      rfl
    · split at h
      · cases h
      · cases h
        rfl

@[simp] theorem Run.useFrames_ctxs (r : Run s0) (f n part : Nat) : (r.useFrames f n part).st.ctxs = r.st.ctxs := by
  unfold Run.useFrames
  exact Run.foldl_keeps State.ctxs _ (fun _ _ => by rfl) _ _

@[simp] theorem Run.copyMain_ctxs (r : Run s0) (src dst n : Nat) : (r.copyMain src dst n).st.ctxs = r.st.ctxs := by
  unfold Run.copyMain
  dsimp only
  refine Run.foldl_keeps State.ctxs _ (fun r i => ?_) _ _
  split <;> rfl

@[simp] theorem Run.dropRef_ctxs (r : Run s0) (f : Nat) : (r.dropRef f).st.ctxs = r.st.ctxs := by
  unfold Run.dropRef
  dsimp only
  split <;> rfl

@[simp] theorem Run.writeLeaf_ctxs (r : Run s0) (at' asid va sz : Nat) (w : Word64) : (r.writeLeaf at' asid va sz w).st.ctxs = r.st.ctxs := by
  unfold Run.writeLeaf Run.invalidate
  dsimp only
  exact Run.foldl_keeps State.ctxs _ (fun r _ => Run.write_ctxs r _ _) _ _

@[simp] theorem Run.readLines_ctxs (r : Run s0) (k n : Nat) : (r.readLines k n).st.ctxs = r.st.ctxs := by
  unfold Run.readLines
  dsimp only
  split
  · rfl
  · exact Run.foldl_keeps State.ctxs _ (fun r _ => Run.countDie_ctxs r _ _ _) _ _

@[simp] theorem Run.readPiece_ctxs (r : Run s0) (a : Agent) (sp : Space) (ea n : Nat) (need : Need) (ov : Overlay) :
    (r.readPiece a sp ea n need ov).1.st.ctxs = r.st.ctxs := by
  unfold Run.readPiece
  dsimp only
  repeat' split
  all_goals simp

theorem Run.readPieces_ctxs (r : Run s0) (a : Agent) (sp : Space) (ps : List (Nat × Nat)) (need : Need) (ov : Overlay) :
    (r.readPieces a sp ps need ov).1.st.ctxs = r.st.ctxs := by
  induction ps generalizing r with
  | nil => rfl
  | cons p ps ih =>
    have h := Run.readPiece_ctxs r a sp p.1 p.2 need ov
    unfold Run.readPieces
    dsimp only
    repeat' split
    · rw [ih, h]
    · rw [ih, h]
    · exact h

@[simp] theorem Run.readBytes_ctxs (r : Run s0) (a : Agent) (sp : Space) (ea n : Nat) (need : Need) (ov : Overlay) :
    (r.readBytes a sp ea n need ov).1.st.ctxs = r.st.ctxs := Run.readPieces_ctxs _ _ _ _ _ _

theorem Run.parkOn_ctxs {r r' : Run s0} {die grp va part : Nat} {kind : BitVec 5} {w : Waiter} (h : r.parkOn die grp va part kind w = some r') :
    r'.st.ctxs = r.st.ctxs := by
  unfold Run.parkOn at h
  obtain ⟨e, -, rfl⟩ := Option.map_eq_some_iff.mp h
  dsimp only
  split
  · rw [Run.count_ctxs]
    rfl
  · rfl

@[simp] theorem Run.takeFix_ctxs (r : Run s0) (scope cause : Nat) : (r.takeFix scope cause).st.ctxs = r.st.ctxs := by
  unfold Run.takeFix Run.setDcb
  dsimp only
  split
  · rfl
  · simp

@[simp] theorem Run.fixForFault_ctxs (r : Run s0) (part : Nat) (f : FaultRec) : (r.fixForFault part f).st.ctxs = r.st.ctxs := by
  unfold Run.fixForFault Run.fixPartition
  split
  · rw [Run.put_st, Upd.apply_ctxs]
    dsimp only
    split
    · rfl
    · exact Run.takeFix_ctxs _ _ _
  · rfl

/-! ### Parked accesses that wake -/

/-- Parked accesses of the context have parked or woken, and nothing else of it has changed. -/
def Woken (x y : Ctx) : Prop :=
  y = { x with runs := y.runs, pend := y.pend, fetchParked := y.fetchParked, helmParked := y.helmParked, helmDenied := y.helmDenied, drive := y.drive }
    ∧ (x.runs = [] → y.runs = [])

theorem Woken.refl (x : Ctx) : Woken x x := ⟨rfl, id⟩

theorem Woken.trans {x y z : Ctx} (h : Woken x y) (k : Woken y z) : Woken x z := by
  obtain ⟨hy, hr⟩ := h
  obtain ⟨hz, kr⟩ := k
  refine ⟨?_, fun e => kr (hr e)⟩
  rw [hz, hy]

theorem Woken.mode {x y : Ctx} (h : Woken x y) : y.mode = x.mode := by rw [h.1]

theorem Woken.faultptr {x y : Ctx} (h : Woken x y) : y.faultptr = x.faultptr := by rw [h.1]

theorem Woken.asyncs {x y : Ctx} (h : Woken x y) : y.asyncs = x.asyncs := by rw [h.1]

theorem Woken.strays {x y : Ctx} (h : Woken x y) : y.strays = x.strays := by rw [h.1]

theorem Woken.norm {x y : Ctx} (h : Woken x y) (hx : x.norm = x) : y.norm = y := by
  obtain ⟨hy, -⟩ := h
  calc y.norm = { x.norm with runs := y.runs, pend := y.pend, fetchParked := y.fetchParked, helmParked := y.helmParked, helmDenied := y.helmDenied, drive := y.drive } := by
        rw [hy]
        rfl
    _ = y := by rw [hx, ← hy]

/-- In every context parked accesses have parked or woken, and nothing else has changed. -/
def Rouses (s t : State) : Prop := ∀ c, Woken (s.ctx c) (t.ctx c)

theorem Rouses.refl (s : State) : Rouses s s := fun _ => .refl _

theorem Rouses.trans {s t u : State} (h : Rouses s t) (k : Rouses t u) : Rouses s u := fun c => (h c).trans (k c)

theorem Rouses.of_ctxs {s t : State} (h : t.ctxs = s.ctxs) : Rouses s t := fun c => by
  unfold State.ctx
  rw [h]
  exact .refl _

/-- A fold of steps that rouse rouses. -/
theorem Rouses.foldl {α β : Type} (g : β → State) {step : β → α → β} (h : ∀ b a, Rouses (g b) (g (step b a))) (l : List α) (b : β) :
    Rouses (g b) (g (l.foldl step b)) := by
  induction l generalizing b with
  | nil => exact .refl _
  | cons a l ih => exact (h b a).trans (ih (step b a))

/-- A context after it has been changed. -/
theorem Run.modCtx_ctx {r : Run s0} (hr : Regular r.st = true) (c d : Nat) (f : Ctx → Ctx) :
    (r.modCtx c f).st.ctx d = if d = c then (f (r.st.ctx c)).norm else r.st.ctx d := State.ctx_after hr c d _

theorem Run.modCtx_rouses {r : Run s0} (hr : Regular r.st = true) (c : Nat) {f : Ctx → Ctx} (hf : ∀ x, Woken x (f x)) : Rouses r.st (r.modCtx c f).st := fun d => by
  rw [Run.modCtx_ctx hr]
  split
  · rename_i e
    rw [e, (hf _).norm (regular_norm hr c)]
    exact hf _
  · exact .refl _

section
variable (h0 : Regular s0 = true)
include h0

theorem Run.wake_rouses (r : Run s0) (w : Waiter) : Rouses r.st (r.wake w).st := by
  have hr := r.regular h0
  cases w with
  | node c iid i => exact Run.modCtx_rouses hr c (fun x => ⟨rfl, fun e => by simp [e]⟩)
  | pend c k => exact Run.modCtx_rouses hr c (fun x => ⟨rfl, id⟩)
  | fetch c => exact Run.modCtx_rouses hr c (fun x => ⟨rfl, id⟩)
  | helm c => exact Run.modCtx_rouses hr c (fun x => ⟨rfl, id⟩)
  | drive c => exact Run.modCtx_rouses hr c (fun x => ⟨rfl, id⟩)
  | op id => exact .of_ctxs rfl
  | ring q => exact .of_ctxs rfl
  | accept l => exact .of_ctxs rfl
  | completion l => exact .of_ctxs rfl
  | peer id => exact .of_ctxs rfl
  | area p => exact .of_ctxs rfl
  | mover d n => exact .of_ctxs rfl

theorem Run.nowMapped_rouses (r : Run s0) (asid va k : Nat) : Rouses r.st (r.nowMapped asid va k).st := by
  unfold Run.nowMapped
  refine Rouses.foldl Run.st (fun r key => ?_) _ _
  dsimp only
  split
  · exact (Rouses.foldl Run.st (fun r w => Run.wake_rouses h0 r w) _ r).trans (.of_ctxs rfl)
  · exact .refl _

theorem Run.mapPage_rouses (r : Run s0) (at' asid va sz : Nat) (w : Word64) : Rouses r.st (r.mapPage at' asid va sz w).st :=
  (Rouses.of_ctxs (Run.writeLeaf_ctxs r at' asid va sz w)).trans (Run.nowMapped_rouses h0 _ _ _ _)

/-- A writer that takes frames of its own rouses those that wait on its page. -/
theorem Run.ownFrame_rouses {r r' : Run s0} {a : Agent} {va pa p : Nat} (h : r.ownFrame a va pa = some (r', p)) : Rouses r.st r'.st := by
  unfold Run.ownFrame Run.ownFrameAt at h
  dsimp only at h
  split at h
  · split at h
    · cases h
      exact .refl _
    · split at h
      · cases h
      · rename_i l at' _ _ f q hf
        cases h
        have drops : ∀ (q : Run s0) (b n : Nat), ((List.range n).foldl (fun r i => r.dropRef (b + i)) q).st.ctxs = q.st.ctxs :=
          fun q b n => Run.foldl_keeps State.ctxs _ (fun r i => Run.dropRef_ctxs r _) _ _
        refine Rouses.trans ?_ (.of_ctxs (drops _ _ _))
        refine Rouses.trans (.of_ctxs ?_) (Run.mapPage_rouses h0 _ _ _ _ _ _)
        rw [Run.codeLines_ctxs, Run.copyMain_ctxs, Run.useFrames_ctxs, Run.takeFrames_ctxs hf]
  · cases h
    exact .refl _

/-- The helm's writes to main change no context but that they rouse those that wait. -/
theorem Run.writePieces_rouses (r : Run s0) (a : Agent) (sp : Space) (ea : Nat) (bs : List Byte) (i : Issuer) : Rouses r.st (r.writePieces a sp ea bs i).1.st := by
  unfold Run.writePieces
  refine Rouses.foldl (fun acc => acc.1.st) (fun acc p => ?_) _ (r, Perf.done)
  have place : Rouses acc.1.st (acc.1.locate a sp p.1 .w).1.st := .of_ctxs (Run.locate_ctxs _ _ _ _ _)
  dsimp only
  split
  · split
    · exact place.trans (.of_ctxs (Run.deposit_ctxs _ _ _ _ _ _ _))
    · split
      · rename_i h
        exact place.trans ((Run.ownFrame_rouses h0 h).trans (.of_ctxs (Run.deposit_ctxs _ _ _ _ _ _ _)))
      · exact place
    · exact place
    · exact place
    · exact place
  · exact .refl _

theorem Run.helmNeeds_rouses (r : Run s0) (c : Nat) (needs : List (Nat × Need)) : Rouses r.st (r.helmNeeds c needs).1.st := by
  unfold Run.helmNeeds
  split
  · exact Run.modCtx_rouses (r.regular h0) c (fun x => ⟨rfl, id⟩)
  · refine Rouses.foldl (fun acc => acc.1.st) (fun acc n => ?_) _ (r, HelmGot.ok)
    have walk : Rouses acc.1.st (acc.1.translate (acc.1.st.agent c) n.1 n.2).1.st := .of_ctxs (Run.translate_ctxs _ _ _ _)
    dsimp only
    split
    · split
      · exact .refl _
      · split
        · exact walk
        · split
          · rename_i q hq
            exact walk.trans ((Rouses.of_ctxs (Run.parkOn_ctxs hq)).trans (Run.modCtx_rouses (q.regular h0) c (fun x => ⟨rfl, id⟩)))
          · exact walk
        · exact walk
    · exact .refl _

/-- Finding out how a delivery will go changes no context but in what the helm waits on. -/
theorem Run.planDelivery_rouses (r : Run s0) (c : Nat) (f : FaultRec) : Rouses r.st (r.planDelivery c f).1.st := by
  have entry := Run.helmNeeds_rouses h0 r c [((r.st.ctx c).handler.toNat + 8 * f.cls, .r)]
  have read := entry.trans (.of_ctxs (Run.readBytes_ctxs (r.helmNeeds c [((r.st.ctx c).handler.toNat + 8 * f.cls, .r)]).1 (r.st.agent c) .main
    ((r.st.ctx c).handler.toNat + 8 * f.cls) 8 .r []))
  unfold Run.planDelivery
  dsimp only
  split
  · exact .refl _
  · split
    · exact entry
    · exact entry
    · split
      all_goals
        split
        · exact read
        · split
          · exact read
          · split <;> exact read.trans (Run.helmNeeds_rouses h0 _ _ _)

end

/-! ### A context whose runs are discarded -/

/-- Every run of the context and its successor are gone; besides, only what they had taken has come back. -/
def Emptied (x y : Ctx) : Prop :=
  y = { x with runs := [], next := none, stack := y.stack, spill := y.spill, rspill := y.rspill, latch := y.latch, held := y.held,
               fetchParked := y.fetchParked, fetchDenied := y.fetchDenied }

theorem Emptied.runs {x y : Ctx} (h : Emptied x y) : y.runs = [] := by rw [h]

theorem Emptied.mode {x y : Ctx} (h : Emptied x y) : y.mode = x.mode := by rw [h]

theorem Emptied.faultptr {x y : Ctx} (h : Emptied x y) : y.faultptr = x.faultptr := by rw [h]

theorem Emptied.asyncs {x y : Ctx} (h : Emptied x y) : y.asyncs = x.asyncs := by rw [h]

theorem Emptied.strays {x y : Ctx} (h : Emptied x y) : y.strays = x.strays := by rw [h]

theorem Emptied.norm {x y : Ctx} (h : Emptied x y) (hx : x.norm = x) : Emptied x y.norm := by
  unfold Emptied at h ⊢
  calc y.norm = { x.norm with runs := [], next := none, stack := y.norm.stack, spill := y.spill, rspill := y.norm.rspill, latch := y.latch, held := y.held,
                              fetchParked := y.fetchParked, fetchDenied := y.fetchDenied } := by
        rw [h]
        rfl
    _ = _ := by rw [hx]; rfl

/-- A discard from the oldest run on. -/
theorem Ctx.discardFrom_oldest {x : Ctx} {b : BlockRun} {l : List BlockRun} (h : x.runs = b :: l) : Emptied x (x.discardFrom b.iid) := by
  have older : x.older b.iid = [] := by
    unfold Ctx.older
    rw [h, List.takeWhile_cons, if_neg (by simp)]
  unfold Ctx.discardFrom
  dsimp only
  rw [older, List.length_nil, List.drop_zero, h]
  rfl

/-- What a discard leaves alone besides its context, the withdrawn waits, the pins and the counters. -/
theorem Run.discardFrom_keeps {β : Type} (g : State → β) (r : Run s0) (c iid : Nat)
    (hg : ∀ (s : State) rd hm pt co d, g { s with readers := rd, home := hm, ptt := pt, cores := co, dcb := d } = g s) :
    g (r.discardFrom c iid).st = g (r.modCtx c (fun x => x.discardFrom iid)).st := by
  have readers : ∀ (q : Run s0) l, g (q.put (.readers l)).st = g q.st := fun q l => hg q.st l q.st.home q.st.ptt q.st.cores q.st.dcb
  have home : ∀ (q : Run s0) l, g (q.put (.home l)).st = g q.st := fun q l => hg q.st q.st.readers l q.st.ptt q.st.cores q.st.dcb
  have ptt : ∀ (q : Run s0) k p, g (q.put (.ptt k p)).st = g q.st := fun q k p => hg q.st q.st.readers q.st.home _ q.st.cores q.st.dcb
  have cores : ∀ (q : Run s0) k f, g (q.modCore k f).st = g q.st := fun q k f => hg q.st q.st.readers q.st.home q.st.ptt _ q.st.dcb
  unfold Run.discardFrom Run.unpin
  dsimp only
  rw [Run.count_keeps g (fun s d => hg s s.readers s.home s.ptt s.cores d), cores, Run.foldl_keeps g _ (fun q k => ptt q k _), home, readers]

/-- The state with a context of its own but without the waits, the pins and the counters that a discard withdraws. -/
theorem Run.discardAll_keeps {β : Type} (g : State → β) (r : Run s0) (c : Nat)
    (hg : ∀ (s : State) cs rd hm pt co d, g { s with ctxs := cs, readers := rd, home := hm, ptt := pt, cores := co, dcb := d } = g s) :
    g (r.discardAll c).st = g r.st := by
  have ctx : ∀ f, g (r.modCtx c f).st = g r.st := fun f => hg r.st _ r.st.readers r.st.home r.st.ptt r.st.cores r.st.dcb
  have ptt : ∀ (q : Run s0) k p, g (q.put (.ptt k p)).st = g q.st := fun q k p => hg q.st q.st.ctxs q.st.readers q.st.home _ q.st.cores q.st.dcb
  unfold Run.discardAll
  split
  · dsimp only
    rw [Run.foldl_keeps g _ (fun q k => ptt q k _), ctx]
  · rw [Run.discardFrom_keeps g _ _ _ (fun s rd hm pt co d => hg s s.ctxs rd hm pt co d), ctx]

theorem Run.discardAll_escalated (r : Run s0) (c : Nat) : (r.discardAll c).st.escalated = r.st.escalated :=
  Run.discardAll_keeps State.escalated r c (fun _ _ _ _ _ _ _ => by rfl)

theorem Run.discardAll_emptied {r : Run s0} (hr : Regular r.st = true) (c : Nat) : Emptied (r.st.ctx c) ((r.discardAll c).st.ctx c) := by
  unfold Run.discardAll
  split
  · rename_i h
    dsimp only
    rw [Run.foldl_keeps (fun s => s.ctx c) _ (fun q k => by rfl), Run.modCtx_ctx hr, if_pos rfl]
    refine Emptied.norm ?_ (regular_norm hr c)
    unfold Emptied
    rw [← h]
  · rename_i b l h
    rw [Run.discardFrom_keeps (fun s => s.ctx c) _ _ _ (fun _ _ _ _ _ _ => by rfl), Run.modCtx_ctx hr, if_pos rfl]
    exact (Ctx.discardFrom_oldest h).norm (regular_norm hr c)

/-! ### Completion tokens that are lost -/

/-- The context has been told of faults and has lost tokens, and nothing else of it has changed. -/
def Told (x y : Ctx) : Prop := y = { x with asyncs := y.asyncs, pendBit := y.pendBit, pendAt := y.pendAt, strays := y.strays }

theorem Told.mode {x y : Ctx} (h : Told x y) : y.mode = x.mode := by rw [h]

theorem Told.norm {x y : Ctx} (h : Told x y) (hx : x.norm = x) : Told x y.norm := by
  unfold Told at h ⊢
  calc y.norm = { x.norm with asyncs := y.norm.asyncs, pendBit := y.pendBit, pendAt := y.pendAt, strays := y.strays } := by
        rw [h]
        rfl
    _ = _ := by rw [hx]; rfl

/-- Context `c` has been told of faults; memory and the records with the firmware are as they were. -/
def Tells (c : Nat) (s t : State) : Prop := t.mem = s.mem ∧ t.escalated = s.escalated ∧ Told (s.ctx c) (t.ctx c)

theorem Tells.refl (c : Nat) (s : State) : Tells c s s := ⟨rfl, rfl, rfl⟩

theorem Tells.trans {c : Nat} {s t u : State} (h : Tells c s t) (k : Tells c t u) : Tells c s u := by
  obtain ⟨hm, he, hx⟩ := h
  obtain ⟨km, ke, kx⟩ := k
  refine ⟨km.trans hm, ke.trans he, ?_⟩
  unfold Told at hx kx ⊢
  rw [kx, hx]

theorem Run.modCtx_tells {r : Run s0} (hr : Regular r.st = true) (c : Nat) {f : Ctx → Ctx} (hf : Told (r.st.ctx c) (f (r.st.ctx c))) :
    Tells c r.st (r.modCtx c f).st := by
  refine ⟨rfl, rfl, ?_⟩
  rw [Run.modCtx_ctx hr, if_pos rfl]
  exact hf.norm (regular_norm hr c)

theorem Ctx.queueFault_told (x : Ctx) (clk : Nat) (f : FaultRec) : Told x (x.queueFault clk f) := by
  unfold Ctx.queueFault
  split <;> rfl

theorem Run.countIf_tells (r : Run s0) (p : Prop) [Decidable p] (c src n : Nat) : Tells c r.st (if p then r.count c none src n else r).st := by
  split
  · refine ⟨?_, ?_, ?_⟩
    · rw [Run.count_st]
    · rw [Run.count_st]
    · rw [Run.count_ctx]
      rfl
  · exact .refl _ _

section
variable (h0 : Regular s0 = true)
include h0

/-- A fault raised at a context that runs, or is stopped, is queued there. -/
theorem Run.raiseAsync_tells (r : Run s0) (c : Nat) (f : FaultRec) (hm : (r.st.ctx c).mode = .running ∨ (r.st.ctx c).mode = .stopped) :
    Tells c r.st (r.raiseAsync c f).st := by
  unfold Run.raiseAsync
  dsimp only
  have counted := Run.countIf_tells r ((f.rflags ||| rfAsync) / rfEngine % 2 = 1) c 0x2B 1
  generalize (if (f.rflags ||| rfAsync) / rfEngine % 2 = 1 then r.count c none 0x2B 1 else r) = q at counted ⊢
  have mode : (q.st.ctx c).mode = (r.st.ctx c).mode := counted.2.2.mode
  rw [if_pos (by rwa [mode])]
  exact counted.trans (Run.modCtx_tells (q.regular h0) c (Ctx.queueFault_told _ _ _))

/-- A context that runs, or is stopped, is told of its tokens that are lost. -/
theorem Run.dropStrays_tells (r : Run s0) (c : Nat) (hm : (r.st.ctx c).mode = .running ∨ (r.st.ctx c).mode = .stopped) : Tells c r.st (r.dropStrays c).st := by
  have told : ∀ (l : List Stray) (q : Run s0), ((q.st.ctx c).mode = .running ∨ (q.st.ctx c).mode = .stopped) →
      Tells c q.st (l.foldl (fun r t => r.raiseAsync c t.lost) q).st := by
    intro l
    induction l with
    | nil => exact fun q _ => .refl _ _
    | cons t l ih =>
      intro q hq
      have one := Run.raiseAsync_tells h0 q c t.lost hq
      have mode : ((q.raiseAsync c t.lost).st.ctx c).mode = (q.st.ctx c).mode := one.2.2.mode
      exact one.trans (ih _ (by rwa [mode]))
  have dropped : ∀ f : Ctx → List Stray, Tells c r.st (r.modCtx c (fun x => { x with strays := f x })).st :=
    fun f => Run.modCtx_tells (r.regular h0) c rfl
  unfold Run.dropStrays
  dsimp only
  refine Tells.trans (dropped _) (told _ _ ?_)
  rwa [(dropped _).2.2.mode]

theorem Run.dropStrays_none (r : Run s0) (c : Nat) (hs : (r.st.ctx c).strays = []) : (r.dropStrays c).st.ctx c = r.st.ctx c := by
  have hr := r.regular h0
  unfold Run.dropStrays
  dsimp only
  have same : ({ r.st.ctx c with strays := [] } : Ctx) = r.st.ctx c := by rw [← hs]
  rw [hs, List.filter_nil, List.foldl_nil, Run.modCtx_ctx hr, if_pos rfl, hs, List.filter_nil, same, regular_norm hr c]

end

/-! ### Deliveries -/

theorem State.escalationKey_congr {s t : State} (h : t.escalated = s.escalated) (c : Nat) : t.escalationKey c = s.escalationKey c := by
  unfold State.escalationKey
  rw [h]

/-- The context at the start of its handler (R375). -/
def Ctx.enterHandler (x : Ctx) (clk : Nat) (f : FaultRec) (latch : Latch) (blk : Nat) : Ctx :=
  { x with
    resume := latch
    hndl := true
    lastclass := BitVec.ofNat 8 f.cls
    pendBit := !x.asyncs.isEmpty
    pendAt := clk
    hDepth := x.stack.length + x.spill
    next := some ⟨BitVec.ofNat 64 blk, .dispatch, 0, [], 0, [], 0, 255, none⟩ }

section
variable (h0 : Regular s0 = true)
include h0

/-- A delivery that runs the handler: the records are written, and then the context enters it. -/
theorem Run.deliver_run (r : Run s0) (c : Nat) (f : FaultRec) (latch : Latch) (fix : Bool) (blk : Nat) :
    ∃ q : Run s0, Rouses r.st q.st ∧ r.deliver c f latch (.run fix blk) = q.modCtx c (fun x => x.enterHandler q.st.clk f latch blk)
      ∧ (fix = false → f.oprec = [] → q = (r.writePieces (r.st.agent c) .main (r.st.ctx c).faultptr.toNat (f.bytes 0) noIssuer).1) := by
  have fixed : ∀ p, Rouses r.st (if fix then r.fixForFault p f else r).st := fun p => by
    split
    · exact .of_ctxs (Run.fixForFault_ctxs _ _ _)
    · exact .refl _
  unfold Run.deliver
  dsimp only
  refine ⟨_, ?_, rfl, ?_⟩
  · refine Rouses.trans ?_ (Run.writePieces_rouses h0 _ _ _ _ _ _)
    split
    · exact fixed _
    · exact (fixed _).trans (Run.writePieces_rouses h0 _ _ _ _ _ _)
  · intro hf ho
    subst hf
    simp [ho]

theorem Run.deliver_handles (r : Run s0) (c : Nat) (f : FaultRec) (latch : Latch) (fix : Bool) (blk : Nat) (hruns : (r.st.ctx c).runs = [])
    (hm : (r.st.ctx c).mode = .running) :
    Handling (((r.deliver c f latch (.run fix blk)).dropStrays c).st.ctx c) f latch blk
      ∧ (fix = false → f.oprec = [] → ((r.deliver c f latch (.run fix blk)).dropStrays c).st.mem
          = (r.writePieces (r.st.agent c) .main (r.st.ctx c).faultptr.toNat (f.bytes 0) noIssuer).1.st.mem)
      ∧ ((r.st.ctx c).strays = [] → (((r.deliver c f latch (.run fix blk)).dropStrays c).st.ctx c).asyncs = (r.st.ctx c).asyncs
          ∧ (((r.deliver c f latch (.run fix blk)).dropStrays c).st.ctx c).pendBit = !(r.st.ctx c).asyncs.isEmpty) := by
  obtain ⟨q, hq, e, hmem⟩ := Run.deliver_run h0 r c f latch fix blk
  have woken := hq c
  have hqr := q.regular h0
  have qruns := woken.2 hruns
  have qmode : (q.st.ctx c).mode = .running := woken.mode.trans hm
  have qasyncs : (q.st.ctx c).asyncs = (r.st.ctx c).asyncs := woken.asyncs
  have qstrays : (q.st.ctx c).strays = (r.st.ctx c).strays := woken.strays
  rw [e]
  have entered : (q.modCtx c (fun x => x.enterHandler q.st.clk f latch blk)).st.ctx c = (q.st.ctx c).enterHandler q.st.clk f latch blk := by
    rw [Run.modCtx_ctx hqr, if_pos rfl]
    calc ((q.st.ctx c).enterHandler q.st.clk f latch blk).norm = { (q.st.ctx c).norm with
            resume := latch, hndl := true, lastclass := BitVec.ofNat 8 f.cls, pendBit := !(q.st.ctx c).asyncs.isEmpty, pendAt := q.st.clk,
            hDepth := (q.st.ctx c).stack.length + (q.st.ctx c).spill, next := some ⟨BitVec.ofNat 64 blk, .dispatch, 0, [], 0, [], 0, 255, none⟩ } := rfl
      _ = _ := by rw [regular_norm hqr c]; rfl
  obtain ⟨tmem, -, told⟩ := Run.dropStrays_tells h0 (q.modCtx c (fun x => x.enterHandler q.st.clk f latch blk)) c (by rw [entered]; exact .inl qmode)
  rw [entered] at told
  refine ⟨?_, fun hf ho => ?_, fun hs => ?_⟩
  · rw [told]
    exact ⟨qruns, rfl, rfl, rfl, rfl⟩
  · rw [tmem, ← hmem hf ho]
    rfl
  · rw [Run.dropStrays_none h0 _ c (by rw [entered]; exact qstrays.trans hs), entered]
    exact ⟨qasyncs, by rw [← qasyncs]; rfl⟩

/-- A delivery that escalates. -/
theorem Run.deliver_escalates (r : Run s0) (c : Nat) (f : FaultRec) (latch : Latch) (hm : (r.st.ctx c).mode = .running)
    (hw : SMap.wf (FaultRec.of 0 0) r.st.escalated = true) :
    Escalated ((r.deliver c f latch (.escalate false false none)).dropStrays c).st c (r.st.escalationKey c) f latch := by
  have hr := (r.discardAll c).regular h0
  have emptied := Run.discardAll_emptied (r.regular h0) c
  have kept := Run.discardAll_escalated r c
  have hmode : ((r.discardAll c).st.ctx c).mode = .running := emptied.mode.trans hm
  have hruns : ((r.discardAll c).st.ctx c).runs = [] := emptied.runs
  unfold Run.deliver Run.escalate
  simp only [Bool.false_eq_true, if_false, hmode, if_true]
  generalize hq : (r.discardAll c).modCtx c (fun x => { x with
    mode := .stopped, resume := latch, under := if x.hndl then x.resume else .none, pendBit := !x.asyncs.isEmpty, next := none }) = q
  have stopped : (q.st.ctx c).mode = .stopped ∧ (q.st.ctx c).runs = [] ∧ (q.st.ctx c).next = none ∧ (q.st.ctx c).resume = latch := by
    rw [← hq, Run.modCtx_ctx hr, if_pos rfl]
    exact ⟨rfl, hruns, rfl, rfl⟩
  have held : q.st.escalated = r.st.escalated := by
    rw [← hq]
    exact kept
  obtain ⟨hmo, hru, hne, hre⟩ := stopped
  obtain ⟨-, tesc, told⟩ := Run.dropStrays_tells h0 (q.put (.escalated (SMap.set q.st.escalated (FaultRec.of 0 0) (q.st.escalationKey c) f))) c (.inr hmo)
  unfold Escalated
  rw [told, tesc, ← State.escalationKey_congr held c]
  refine ⟨hmo, hru, hne, hre, ?_⟩
  exact (SMap.get_set _ (by rw [held]; exact hw) _ _ _).trans (if_pos rfl)

end

/-! ### The bytes of a record (R370) -/

@[simp] theorem leBytes_length (n x : Nat) : (leBytes n x).length = n := by
  induction n generalizing x with
  | zero => rfl
  | succ n ih => simp [leBytes, ih]

/-- The number that little-endian bytes give is the number they were made of, as far as they reach. -/
theorem leNat_leBytes (n x : Nat) : leNat (leBytes n x) = x % 256 ^ n := by
  induction n generalizing x with
  | zero => simp [leBytes, leNat, Nat.mod_one]
  | succ n ih =>
    rw [leBytes, leNat, ih, BitVec.toNat_ofNat, show 256 ^ (n + 1) = 256 * 256 ^ n from Nat.pow_succ']
    exact Nat.mod_mul.symm

/-- The field at the front of a record. -/
theorem fieldAt_front (n x : Nat) (l : List Byte) : fieldAt (leBytes n x ++ l) 0 n = x % 256 ^ n := by
  unfold fieldAt
  rw [List.drop_zero, List.take_left' (leBytes_length n x), leNat_leBytes]

theorem fieldAt_last (n x : Nat) : fieldAt (leBytes n x) 0 n = x % 256 ^ n := by
  rw [← fieldAt_front n x [], List.append_nil]

/-- A field that lies behind the first one. -/
theorem fieldAt_behind {m off : Nat} (y n : Nat) (l : List Byte) (h : m ≤ off) : fieldAt (leBytes m y ++ l) off n = fieldAt l (off - m) n := by
  unfold fieldAt
  rw [List.drop_append, leBytes_length, List.drop_eq_nil_of_le (by simpa using h), List.nil_append]

theorem FaultRec.bytes_length (f : FaultRec) (o : Nat) : (f.bytes o).length = 64 := by
  simp [FaultRec.bytes]

theorem FaultRec.bytes_fields (f : FaultRec) (o : Nat) :
    fieldAt (f.bytes o) 0 1 = f.cls % 256 ∧ fieldAt (f.bytes o) 1 1 = f.code % 256 ∧ fieldAt (f.bytes o) 2 1 = f.icls % 256
      ∧ fieldAt (f.bytes o) 3 1 = f.icode % 256 ∧ fieldAt (f.bytes o) 4 1 = f.idx % 256 ∧ fieldAt (f.bytes o) 5 1 = f.auxid % 256
      ∧ fieldAt (f.bytes o) 6 1 = f.rflags % 256 ∧ fieldAt (f.bytes o) 8 8 = f.blk.toNat ∧ fieldAt (f.bytes o) 16 8 = f.tag.toNat
      ∧ fieldAt (f.bytes o) 24 4 = f.ticket % 2 ^ 32 ∧ fieldAt (f.bytes o) 28 4 = f.auxn % 2 ^ 32 ∧ fieldAt (f.bytes o) 32 8 = o % 2 ^ 64
      ∧ fieldAt (f.bytes o) 40 8 = f.vaddr % 2 ^ 64 ∧ fieldAt (f.bytes o) 48 16 = f.map % 2 ^ 128 := by
  have blk : f.blk.toNat < 18446744073709551616 := f.blk.isLt
  have tag : f.tag.toNat < 18446744073709551616 := f.tag.isLt
  unfold FaultRec.bytes
  simp [fieldAt_behind, fieldAt_front, fieldAt_last, blk, tag]

/-! ### The events -/

theorem State.faulting_running {s : State} {c : Nat} {b : BlockRun} {f : NodeFault} (h : s.faulting c = some (b, f)) : (s.ctx c).mode = .running := by
  unfold State.faulting at h
  dsimp only at h
  split at h
  · rename_i hm
    exact hm.1
  · cases h

theorem State.asyncOverdue_running {s : State} {c : Nat} (h : s.asyncOverdue c = true) : (s.ctx c).mode = .running := by
  simp only [State.asyncOverdue, Bool.and_eq_true, decide_eq_true_eq, and_assoc] at h
  obtain ⟨hm, -⟩ := h
  exact hm

/-- Without a handler table a fault escalates (R377). -/
theorem Run.planDelivery_noTable {r : Run s0} {c : Nat} (f : FaultRec) (h : (r.st.ctx c).handler = 0 ∨ r.st.htab (r.st.ctx c).part = 0) :
    r.planDelivery c f = (r, .escalate false false none) := by
  unfold Run.planDelivery
  dsimp only
  rw [if_pos h]

/-- A delivery of a sync fault that does not wait. -/
theorem execSyncFaultDelivery_eq {s : State} {c : Nat} {b : BlockRun} {f : NodeFault} {r : Run s} {p : HelmPlan} (hf : s.faulting c = some (b, f))
    (hp : (Run.start s).planDelivery c (f.record b) = (r, p)) (hw : p ≠ .wait) :
    exec (.syncFaultDelivery c) s = .next (((r.discardAll c).deliver c (f.record b) (.block b.addr b.nest b.widths b.carried) p).dropStrays c).st := by
  rw [exec_syncFaultDelivery, execSyncFaultDelivery]
  dsimp only
  rw [hf]
  dsimp only
  rw [hp]
  cases p with
  | wait => exact absurd rfl hw
  | escalate fix double also => rfl
  | run fix blk => rfl

/-- A context whose first queued fault is taken as its runs are discarded. -/
def Run.takeQueued (r : Run s0) (c : Nat) : Run s0 := (r.discardAll c).modCtx c (fun x => { x with asyncs := x.asyncs.drop 1 })

theorem Run.takeQueued_ctx (h0 : Regular s0 = true) (r : Run s0) {c : Nat} {f : FaultRec} {l : List FaultRec} (h : (r.st.ctx c).asyncs = f :: l) :
    ((r.takeQueued c).st.ctx c).runs = [] ∧ ((r.takeQueued c).st.ctx c).mode = (r.st.ctx c).mode ∧ ((r.takeQueued c).st.ctx c).strays = (r.st.ctx c).strays
      ∧ ((r.takeQueued c).st.ctx c).asyncs = l := by
  have emptied := Run.discardAll_emptied (r.regular h0) c
  have few : (f :: l).length ≤ 8 := by
    obtain ⟨-, -, -, -, -, hl⟩ := regular_bounded (r.regular h0) c
    rwa [h] at hl
  unfold Run.takeQueued
  rw [Run.modCtx_ctx ((r.discardAll c).regular h0), if_pos rfl]
  refine ⟨emptied.runs, emptied.mode, emptied.strays, ?_⟩
  change (((r.discardAll c).st.ctx c).asyncs.drop 1).take 8 = l
  rw [emptied.asyncs, h]
  exact List.take_of_length_le (Nat.le_of_succ_le few)

/-- A delivery of an async fault that does not wait. -/
theorem execAsyncDeliveryTimeout_eq {s : State} {c : Nat} {f : FaultRec} {l : List FaultRec} {r : Run s} {p : HelmPlan} (ho : s.asyncOverdue c = true)
    (hf : (s.ctx c).asyncs = f :: l) (hr : (r.st.ctx c).asyncs = f :: l) (hp : (Run.start s).planDelivery c f = (r, p)) (hw : p ≠ .wait) :
    exec (.asyncDeliveryTimeout c) s
      = .next (((r.takeQueued c).deliver c f (s.ctx c).latchHere p).dropStrays c).st := by
  have queued : r.deliverQueued c (s.ctx c).latchHere p = ((r.takeQueued c).deliver c f (s.ctx c).latchHere p).dropStrays c := by
    unfold Run.deliverQueued Run.takeQueued
    rw [hr]
  rw [exec_asyncDeliveryTimeout, execAsyncDeliveryTimeout]
  dsimp only
  rw [ho, hf]
  dsimp only
  rw [hp, ← queued]
  cases p with
  | wait => exact absurd rfl hw
  | escalate fix double also => rfl
  | run fix blk => rfl

/-- Settles O54: a delivery discards the runs, and then it either enters the handler with the record written or escalates; what the helm writes and what the context is told of
touches neither. -/
theorem faultsAreTaken : Obligations.FaultsAreTaken := by
  unfold Obligations.FaultsAreTaken
  refine ⟨fun s c b f h0 hf => ⟨fun r fix blk hp => ?_, fun ht hw => ?_⟩, fun s c f l h0 ho hf => ⟨fun r fix blk hp => ?_, fun ht hw => ?_⟩,
    fun f o => ⟨f.bytes_length o, f.bytes_fields o⟩⟩
  · have planned : Woken (s.ctx c) (r.st.ctx c) := by
      have := Run.planDelivery_rouses h0 (Run.start s) c (f.record b) c
      rwa [hp] at this
    have emptied := Run.discardAll_emptied (r.regular h0) c
    obtain ⟨handling, written, -⟩ := Run.deliver_handles h0 (r.discardAll c) c (f.record b) (.block b.addr b.nest b.widths b.carried) fix blk emptied.runs
      (emptied.mode.trans (planned.mode.trans (State.faulting_running hf)))
    refine ⟨_, execSyncFaultDelivery_eq hf hp (by simp), handling, fun hfix => ?_⟩
    rw [written hfix rfl, emptied.faultptr]
  · have emptied := Run.discardAll_emptied (r := Run.start s) h0 c
    have kept : ((Run.start s).discardAll c).st.escalated = s.escalated := Run.discardAll_escalated _ c
    refine ⟨_, execSyncFaultDelivery_eq hf (Run.planDelivery_noTable _ ht) (by simp), ?_⟩
    rw [← State.escalationKey_congr kept c]
    exact Run.deliver_escalates h0 _ c _ _ (emptied.mode.trans (State.faulting_running hf)) (by rwa [kept])
  · have planned : Woken (s.ctx c) (r.st.ctx c) := by
      have := Run.planDelivery_rouses h0 (Run.start s) c f c
      rwa [hp] at this
    have queued : (r.st.ctx c).asyncs = f :: l := planned.asyncs.trans hf
    obtain ⟨hruns, hmode, hstrays, hasyncs⟩ := r.takeQueued_ctx h0 queued
    obtain ⟨handling, -, told⟩ := Run.deliver_handles h0 (r.takeQueued c) c f (s.ctx c).latchHere fix blk hruns
      (hmode.trans (planned.mode.trans (State.asyncOverdue_running ho)))
    rw [hstrays, planned.strays, hasyncs] at told
    exact ⟨_, execAsyncDeliveryTimeout_eq ho hf queued hp (by simp), handling, told⟩
  · obtain ⟨hruns, hmode, hstrays, hasyncs⟩ := (Run.start s).takeQueued_ctx h0 hf
    have kept : ((Run.start s).takeQueued c).st.escalated = s.escalated := Run.discardAll_escalated (Run.start s) c
    refine ⟨_, execAsyncDeliveryTimeout_eq ho hf (r := Run.start s) hf (Run.planDelivery_noTable _ ht) (by simp), ?_⟩
    rw [← State.escalationKey_congr kept c]
    exact Run.deliver_escalates h0 ((Run.start s).takeQueued c) c _ _ (hmode.trans (State.asyncOverdue_running ho)) (by rwa [kept])

end Sys2Proof.Machine

/-! Encodings (R37 to R47, R265 to R268): an instruction word or a header and its instruction determine each other. -/

namespace Sys2Proof.Laws.RoundTrip

open Sys2Proof

/-- The round trip of every instruction, from the lemma of each constructor in the order of the opcode table. -/
theorem statement_all : ∀ i : Instr, Statement i :=
  Instr.rec (motive := Statement) br call wdrive brn brnDec bri calli ret iter halt mov null steer select merge join joinOr ctl ctlNz movi lit read
    readT write itag nest unnest cfgld decide decideRgn add sub mul mulh mulhn div divn rem remn and or xor andn shl shr sra rotl min max minn maxn clz
    ctz popc sext zext bfx bfi lea cmpEq cmpNe cmpLt cmpLe cmpLtn cmpLen addi andi ori xori shli shri srai muli cmpiEq cmpiNe cmpiLt cmpiLe cmpiLtn
    cmpiLen ld ldWait ldTake lds ldRaw st fill empty wcvLoad wcvStore atomAdd atomEsum atomAnd atomOr atomXor atomMin atomMax atomMinn atomMaxn
    atomFmin atomFmax atomSwap cas step barr bwait fenceCore fenceClus fenceDie fencePkg fenceSys combAdd combMin combMax combMinn combMaxn combAnd
    combOr combXor combFadd combFmin combFmax redF32 redXs vadd vsub vmul vfma vfms vmax vmin vabs vneg vrcp vrsq vsqrt vexp2 vlog2 vtanh vcmp vsel
    vbcastW32 vbcastW16 vbcastW8 vpermW32 vpermW16 vpermW8 vextrW32 vextrW16 vextrW8 vinsW32 vinsW16 vinsW8 vrsum vrmax vrmin vamax vexpo vexpoSc
    vldexp vcvt vscale sacc vpack vunpackLo vunpackHi eaddF32 eaddBf16 eroundF32 eroundBf16 eclr mma mmaG mmaCb accclr accrd accrdSt accwr tdset copy
    copyMc stage xform fprint dedup gatherRows gatherSum gatherMean gatherWsum scatterAdd scatterMax scatterMin scatterOvw attn randN64 randF32 rskip
    spawn alloc free stopk smix shid semb sembProj scollArgmax scollSample scollConf slog scmp srpl sget nop trap brk rdsr wrsr flags perf safe fixreq
    wMac wCb wO4 wBook wSwitch wEmit wExit instanceBegin instanceCommit decisionArrive stepSwap stepTimeout barrierTimeout bufferedAccessPerform
    granuleWaitTimeout syncFaultDelivery asyncDeliveryTimeout matrixTileStep engineCompletion attnAccept attnUnit attnResultWrite driveExit
    redNodeCombine redNodeTimeout overflowTokenReturn parkresReplay parkresFail parkTimeout tinvPage tinvAsid tinvAll slabMoveStart slabMoveUnit
    fwdDisable homeUnitBatch rowMigration codeTableInstall cmpRelearn cmpGenFree patrolScrub evcntThreshold fixGo fixCont fixKill fixReadoutDone
    thermalThrottle thermalFix powerThrottle prectlDrain drainComplete drainTimeout prectlFreeze prectlRestore partclWrite qgpartWrite dswinWrite
    fdispWrite qtailWrite qctlWrite launchRecordRead nodePlace readyPriorityPromote nodeDispatch nodeEnd hostMemWrite hostMemRead peerAccess rcvgo
    attgo powerGood packageReset regWrite firmwarePolicyResume

/-- Settles O1: each constructor has its round trip. -/
theorem decodeOfEncodeIsTheInstruction : Obligations.DecodeOfEncodeIsTheInstruction := by
  unfold Obligations.DecodeOfEncodeIsTheInstruction
  exact statement_all

/-- What `decode` accepts: the word of a well-formed instruction, every bit of it. -/
theorem decode_ok {w : Word32} {i : Instr} (h : decode w = .ok i) : wf i = true ∧ toWord i = some w := by
  unfold decode at h
  split at h
  · cases h
  · split at h
    · cases h
    · rename_i hc
      split at h
      · rename_i hw
        cases h
        exact ⟨by simpa [wf] using hc, hw⟩
      · cases h

/-- What `decodeHeader` accepts: the header of a well-formed weight block, every bit of it. -/
theorem decodeHeader_accepts {ws : List Word64} {i : Instr} (h : decodeHeader ws = .ok i) : wf i = true ∧ toHeader i = some ws := by
  unfold decodeHeader at h
  split at h
  · cases h
  · split at h
    · cases h
    · rename_i hc
      split at h
      · rename_i hw
        cases h
        exact ⟨by simpa [wf] using hc, hw⟩
      · cases h

/-- Settles O2: `decode` and `decodeHeader` compare the encoding of what they parsed with what they read, and an instruction has one word. -/
theorem decodedWordIsItsEncoding : Obligations.DecodedWordIsItsEncoding := by
  unfold Obligations.DecodedWordIsItsEncoding
  refine ⟨fun w i h => decode_ok h, fun v w i hv hw => ?_, fun ws i h => decodeHeader_accepts h⟩
  have e : some v = some w := (decode_ok hv).2.symm.trans (decode_ok hw).2
  exact Option.some.inj e

/-- The word of a well-formed instruction decodes to it. -/
theorem decode_toWord {w : Word32} {i : Instr} (h : wf i = true) (hw : toWord i = some w) : decode w = .ok i := by
  have hs := statement_all i h
  rw [hw] at hs
  exact hs.2

theorem decode_toOption {w : Word32} {i : Instr} (h : wf i = true) (hw : toWord i = some w) : (decode w).toOption = some i := by
  rw [decode_toWord h hw]
  rfl

/-- Settles O3: each word is the encoding of the instruction it is given. -/
theorem specWordsDecode : Obligations.SpecWordsDecode := by
  unfold Obligations.SpecWordsDecode
  exact ⟨decode_toOption rfl rfl, decode_toOption rfl rfl, decode_toOption rfl rfl, decode_toOption rfl rfl, decode_toOption rfl rfl,
    decode_toOption rfl rfl, decode_toOption rfl rfl⟩

end Sys2Proof.Laws.RoundTrip

/-! Exits (R63, R65, R66, R72 to R75): what a run is when its exit has fired, and what the exit leaves of the state as it names its successor. -/

namespace Sys2Proof.Machine

open Sys2Proof

variable {s0 : State}

/-! ### The run whose exit has fired -/

/-- The run after its exit, node `i`, has fired with effect as `k`. -/
def BlockRun.left (b : BlockRun) (i outs : Nat) (k : ExitKind) : BlockRun :=
  { b with fired := i :: b.fired, denied := b.denied.filter (fun d => d.1 != i), outs := b.outs + outs, exit := some (i, k) }

/-- What the firing of an exit comes to: no token is sent (R66). -/
def leaveOut (k : ExitKind) (outs : Nat) : NodeOut := { exit := some k, outs := outs }

theorem Fire.leave_first {f : Fire} (h : f.b.exit = none) (k : ExitKind) : f.leave k = leaveOut k f.sh.outs := by
  unfold Fire.leave
  rw [h]
  rfl

theorem State.sendTo_none (s : State) (c : Nat) (src : Option Nat) (b : BlockRun) (t : Target) : s.sendTo c src b t none = b := by
  cases t <;> rfl

theorem State.record_leave (s : State) (c i : Nat) (sh : Shape) (k : ExitKind) (outs : Nat) (b : BlockRun) :
    s.record c i sh (leaveOut k outs) b = b.left i outs k := by
  simp [State.record, State.sendTo_none, leaveOut, BlockRun.left]

/-- A run with an exit whose tag neither overflows nor underflows is marked with no fault as its exit fires. -/
theorem State.checkRun_of_exit {s : State} {b : BlockRun} {p : BitVec 56 × NestRec} (he : b.exit.isSome = true) (ht : tagAfter b = .ok p) (c : Nat) :
    s.checkRun c b = b := by
  have hx : s.checkExit c b = b := by
    unfold State.checkExit
    split
    · rfl
    · rw [if_neg]
      rintro ⟨-, hn⟩
      rw [Option.isNone_iff_eq_none.mp hn] at he
      cases he
  unfold State.checkRun State.checkTag
  rw [hx, ht]

theorem tagAfter_left (b : BlockRun) (i outs : Nat) (k : ExitKind) : tagAfter (b.left i outs k) = tagAfter b := rfl

theorem State.checkRun_left {s : State} {b : BlockRun} {p : BitVec 56 × NestRec} (ht : tagAfter b = .ok p) (c i outs : Nat) (k : ExitKind) :
    s.checkRun c (b.left i outs k) = b.left i outs k := State.checkRun_of_exit (b := b.left i outs k) rfl ht c

theorem State.placedOf_congr {s t : State} (hc : t.cores = s.cores) {b b' : BlockRun} (hs : b'.cfg = b.cfg ∧ b'.slot = b.slot) (c : Nat) :
    t.placedOf c b' = s.placedOf c b := by
  unfold State.placedOf State.core
  rw [hc, hs.1, hs.2]

/-- Every `nest` and `unnest` has fired, and more nodes than before. -/
theorem State.nestsFired_mono {s t : State} (hc : t.cores = s.cores) {b b' : BlockRun} (hs : b'.cfg = b.cfg ∧ b'.slot = b.slot) (hf : b.fired ⊆ b'.fired)
    {c : Nat} (h : s.nestsFired c b = true) : t.nestsFired c b' = true := by
  have hp := State.placedOf_congr hc hs c
  have hi : ∀ i, t.instrAt c b' i = s.instrAt c b i := fun i => by
    unfold State.instrAt State.wordAt
    rw [hp]
  unfold State.nestsFired at h ⊢
  rw [List.all_eq_true] at h ⊢
  intro i hr
  rw [hp] at hr
  have := h i hr
  rw [hi]
  simp only [Bool.or_eq_true, List.contains_iff_mem] at this ⊢
  exact this.imp_left (fun m => hf m)

theorem State.settles_none {s : State} {b : BlockRun} (h : b.exit = none) (c i : Nat) : s.settles c b i = false := by
  unfold State.settles
  rw [h]

/-- The exit has fired and may name its successor. -/
theorem State.settles_left {s t : State} (hc : t.cores = s.cores) {b : BlockRun} {c i : Nat} (hb : b.begun = false) (hp : b.parked.contains i = false)
    (hn : s.nestsFired c b = true) (outs : Nat) (k : ExitKind) : t.settles c (b.left i outs k) i = true := by
  have hn' : t.nestsFired c (b.left i outs k) = true :=
    State.nestsFired_mono (b := b) (b' := b.left i outs k) hc ⟨rfl, rfl⟩ (List.subset_cons_self i b.fired) hn
  change (i == i && !b.begun && t.nestsFired c (b.left i outs k) && !b.parked.contains i) = true
  rw [hn', hb, hp, beq_self_eq_true]
  rfl

/-! ### What an exit leaves of the state -/

/-- The states differ in nothing but the block runs of context `c`, what `ch` changes there, and the event counters. -/
def Leaving (s : State) (c : Nat) (ch : Ctx → Ctx) (t : State) : Prop :=
  t = { s with ctxs := t.ctxs, dcb := t.dcb } ∧ (∀ d, d ≠ c → t.ctx d = s.ctx d) ∧ t.ctx c = { ch (s.ctx c) with runs := (t.ctx c).runs }

theorem Leaving.refl (s : State) (c : Nat) : Leaving s c id s := ⟨rfl, fun _ _ => rfl, rfl⟩

theorem Leaving.cores {s t : State} {c : Nat} {ch : Ctx → Ctx} (h : Leaving s c ch t) : t.cores = s.cores := by rw [h.1]

theorem Leaving.same {s t u : State} {c : Nat} {ch : Ctx → Ctx} (h : Leaving s c ch t) (k : SameBut t u c) : Leaving s c ch u := by
  obtain ⟨ht, ho, hx⟩ := h
  obtain ⟨ku, ko, kx⟩ := k
  refine ⟨?_, fun d hd => (ko d hd).trans (ho d hd), ?_⟩
  · rw [ku, ht]
  · rw [kx, hx]

/-- A change of one of its runs leaves everything else of the context. -/
theorem Run.modRun_same {r : Run s0} (hr : Regular r.st = true) (c iid : Nat) (f : BlockRun → BlockRun) : SameBut r.st (r.modRun c iid f).st c := by
  refine ⟨rfl, fun d hd => ?_, ?_⟩
  · rw [Run.modRun_ctx r hr, if_neg hd]
  · rw [Run.modRun_ctx r hr, if_pos rfl]
    rfl

theorem Ctx.norm_next {x : Ctx} (h : x.norm = x) (v : Option Succ) : ({ x with next := v } : Ctx).norm = { x with next := v } :=
  congrArg (fun y : Ctx => { y with next := v }) h

theorem Ctx.norm_latch {x : Ctx} (h : x.norm = x) (v : Option (Nat × Nat)) : ({ x with latch := v } : Ctx).norm = { x with latch := v } :=
  congrArg (fun y : Ctx => { y with latch := v }) h

/-- A change of the context that leaves its runs alone, and keeps its registers in bounds. -/
theorem Leaving.modCtx {s : State} {r : Run s0} (hr : Regular r.st = true) {c : Nat} {ch g : Ctx → Ctx} (h : Leaving s c ch r.st)
    (hg : ∀ (x : Ctx) l, g { x with runs := l } = { g x with runs := l }) (hn : (g (r.st.ctx c)).norm = g (r.st.ctx c)) :
    Leaving s c (fun x => g (ch x)) (r.modCtx c g).st := by
  obtain ⟨ht, ho, hx⟩ := h
  have hc : (r.modCtx c g).st.ctx c = g (r.st.ctx c) := by rw [Run.modCtx_ctx hr, if_pos rfl, hn]
  refine ⟨?_, fun d hd => ?_, ?_⟩
  · calc (r.modCtx c g).st = { r.st with ctxs := (r.modCtx c g).st.ctxs } := rfl
      _ = _ := by rw [ht]; rfl
  · rw [Run.modCtx_ctx hr, if_neg hd, ho d hd]
  · obtain ⟨l, hl⟩ : ∃ l, r.st.ctx c = { ch (s.ctx c) with runs := l } := ⟨_, hx⟩
    rw [hc, hl, hg]

/-- The runs of a context that a change leaves alone are found as before. -/
theorem Run.modCtx_run? {r : Run s0} (hr : Regular r.st = true) {c iid : Nat} {g : Ctx → Ctx} (hg : (g (r.st.ctx c)).runs = (r.st.ctx c).runs) :
    ((r.modCtx c g).st.ctx c).run? iid = (r.st.ctx c).run? iid := by
  rw [Run.modCtx_ctx hr, if_pos rfl]
  unfold Ctx.run? Ctx.norm
  rw [hg]

theorem Run.modRun_run? {r : Run s0} (hr : Regular r.st = true) {c iid : Nat} {f : BlockRun → BlockRun} {b : BlockRun}
    (h : (r.st.ctx c).run? iid = some b) (hf : (f b).iid = b.iid) : ((r.modRun c iid f).st.ctx c).run? iid = some (f b) := by
  rw [Run.modRun_ctx r hr, if_pos rfl, Ctx.run?_mapRun h hf]

/-- The run of an exit that has fired, whose tag is settled. -/
theorem Run.finish_run?_leave {r : Run s0} (hr : Regular r.st = true) {c iid : Nat} {b : BlockRun} {p : BitVec 56 × NestRec}
    (h : (r.st.ctx c).run? iid = some b) (ht : tagAfter b = .ok p) (i outs : Nat) (sh : Shape) (k : ExitKind) :
    ((r.finish c iid i sh (leaveOut k outs)).st.ctx c).run? iid = some (b.left i outs k) := by
  have e : r.st.checkRun c (r.st.record c i sh (leaveOut k outs) b) = b.left i outs k := by
    rw [State.record_leave, State.checkRun_left ht]
  rw [Run.finish_ctx r hr _ _ _ _ _ _ rfl, if_pos rfl, Ctx.run?_mapRun h (e ▸ rfl), e]

/-- The exit is settled as its run is marked as begun. -/
theorem exited_of_begun {s : State} {i : Instr} {f : Fire} {k : ExitKind} {ch : Ctx → Ctx} {r : Run s} {b : BlockRun} (hs : Regular s = true)
    (hx : exec i s = .next (r.modRun f.c f.b.iid (fun b => { b with begun := true })).st) (h : Leaving s f.c ch r.st)
    (hb : (r.st.ctx f.c).run? f.b.iid = some b) (he : b.exit = some (f.idx, k)) (hf : b.effs = f.b.effs) : Exited s i f k ch := by
  have hr := r.regular hs
  obtain ⟨ht, ho, hc⟩ := h.same (Run.modRun_same hr f.c f.b.iid (fun b => { b with begun := true }))
  exact ⟨_, hx, ht, ho, hc, _, Run.modRun_run? hr hb rfl, he, rfl, hf⟩

/-- The exit has named its successor: `next` holds it beside what `ch` has changed. -/
theorem exited_of_names {s : State} {i : Instr} {f : Fire} {k : ExitKind} {ch : Ctx → Ctx} {r : Run s} {b : BlockRun} {a : Word64} {by' : BegunBy}
    {n : BitVec 56} {w : NestRec} {fr : Nat} {toks : List Arrived} {copy : Option (Nat × Nat)} (hs : Regular s = true)
    (hx : exec i s = .next (r.names f.c f.b.iid f.idx a by' n w fr toks copy).st) (h : Leaving s f.c ch r.st)
    (hb : (r.st.ctx f.c).run? f.b.iid = some b) (he : b.exit = some (f.idx, k)) (hf : b.effs = f.b.effs) :
    Exited s i f k (fun x => { ch x with next := some ⟨a, by', n, w, fr, toks, f.b.iid, f.idx, copy⟩ }) := by
  have hr := r.regular hs
  refine exited_of_begun hs hx (h.modCtx hr (fun _ _ => rfl) (Ctx.norm_next (regular_norm hr f.c) _)) ?_ he hf
  rw [Run.modCtx_run? hr rfl, hb]

/-! ### The firing of an exit -/

theorem State.mayFire_notParked {s : State} {c i : Nat} {x : Ctx} {b : BlockRun} {sh : Shape} (h : s.mayFire c x b i sh = true) : b.parked.contains i = false := by
  unfold State.mayFire at h
  simp only [Bool.and_eq_true, Bool.not_eq_true'] at h
  obtain ⟨⟨⟨⟨⟨⟨⟨⟨⟨-, hparked⟩, -⟩, -⟩, -⟩, -⟩, -⟩, -⟩, -⟩, -⟩ := h
  exact hparked

/-- The node that fires stands at the site, in a run of its context, and waits on no translation. -/
theorem fires_run {s : State} {i : Instr} {f : Fire} (h : Fires s i f) : f.c = s.site.c ∧ f.idx = s.site.idx ∧ f.b.iid = s.site.iid
    ∧ (s.ctx f.c).run? f.b.iid = some f.b ∧ f.b.parked.contains f.idx = false := by
  obtain ⟨b, hb, hm, rfl⟩ := h
  have hi := Ctx.run?_iid hb
  exact ⟨rfl, rfl, hi, hi.symm ▸ hb, State.mayFire_notParked hm⟩

/-- The state in which an exit has fired with effect, and is yet to name its successor. -/
def Run.leaves (s : State) (i : Instr) (f : Fire) (k : ExitKind) : Run s := (Run.start s).finish f.c f.b.iid f.idx (shape i) (leaveOut k f.sh.outs)

/-- What is known of that state: nothing but the run of the exit has changed, and the run has left. -/
theorem Run.leaves_spec {s : State} {i : Instr} {f : Fire} {n : BitVec 56} {w : NestRec} (hs : Regular s = true) (h : Leaves s i f n w) (k : ExitKind) :
    Leaving s f.c id (Run.leaves s i f k).st ∧ ((Run.leaves s i f k).st.ctx f.c).run? f.b.iid = some (f.b.left f.idx f.sh.outs k) := by
  obtain ⟨⟨hf, -⟩, -, -, -, ht⟩ := h
  obtain ⟨-, -, -, hb, -⟩ := fires_run hf
  exact ⟨(Leaving.refl s f.c).same (Run.finish_same (Run.start s) hs _ _ _ _ _), Run.finish_run?_leave (r := Run.start s) hs hb ht _ _ _ _⟩

/-- An exit whose run has no other and whose meaning is to leave: it fires, and settles at once. -/
theorem exitNode_leaves {i : Instr} {body : Fire → NodeOut} {settle : Settle} {s : State} {f : Fire} {n : BitVec 56} {w : NestRec} {k : ExitKind}
    (hs : Regular s = true) (h : Leaves s i f n w) (hbody : body f = f.leave k) :
    exitNode i body settle s = .next (settle (Run.leaves s i f k) f.c (f.b.left f.idx f.sh.outs k) f.idx n w).st := by
  obtain ⟨hl, hrun⟩ := Run.leaves_spec hs h k
  obtain ⟨hacts, hexit, hbegun, hnests, htag⟩ := h
  obtain ⟨hc, hi, hid, hb, hp⟩ := fires_run hacts.1
  have hready := State.settles_none (s := s) hexit f.c f.idx
  have hfire : fireRun i (fun r f => (r, body f)) (Run.start s) = Run.leaves s i f k := by
    rw [fireRun_acts (r := Run.start s) hacts, hbody, Fire.leave_first hexit]
    rfl
  have hset := State.settles_left hl.cores hbegun hp hnests f.sh.outs k
  unfold exitNode
  simp only [← hc, ← hi, ← hid, hb, hready, Bool.false_eq_true, if_false, hfire, hrun, hset, if_true, tagAfter_left, htag]

/-- An exit that leaves and then names a successor. -/
theorem exited_names {i : Instr} {body : Fire → NodeOut} {settle : Settle} {s : State} {f : Fire} {n : BitVec 56} {w : NestRec} {k : ExitKind}
    {a : Word64} {by' : BegunBy} {m : BitVec 56} {fr : Nat} {toks : List Arrived} {copy : Option (Nat × Nat)}
    (hx : exec i s = exitNode i body settle s) (hs : Regular s = true) (h : Leaves s i f n w) (hbody : body f = f.leave k)
    (hsettle : settle (Run.leaves s i f k) f.c (f.b.left f.idx f.sh.outs k) f.idx n w
      = (Run.leaves s i f k).names f.c f.b.iid f.idx a by' m w fr toks copy) :
    Exited s i f k (fun x => { x with next := some ⟨a, by', m, w, fr, toks, f.b.iid, f.idx, copy⟩ }) := by
  obtain ⟨hl, hrun⟩ := Run.leaves_spec hs h k
  refine exited_of_names (ch := id) hs ?_ hl hrun rfl rfl
  rw [hx, exitNode_leaves hs h hbody, hsettle]

/-- An exit that leaves and names no successor. -/
theorem exited_namesNone {i : Instr} {body : Fire → NodeOut} {settle : Settle} {s : State} {f : Fire} {n : BitVec 56} {w : NestRec} {k : ExitKind}
    (hx : exec i s = exitNode i body settle s) (hs : Regular s = true) (h : Leaves s i f n w) (hbody : body f = f.leave k)
    (hsettle : settle (Run.leaves s i f k) f.c (f.b.left f.idx f.sh.outs k) f.idx n w = (Run.leaves s i f k).namesNone f.c f.b.iid) :
    Exited s i f k id := by
  obtain ⟨hl, hrun⟩ := Run.leaves_spec hs h k
  refine exited_of_begun hs ?_ hl hrun rfl rfl
  rw [hx, exitNode_leaves hs h hbody, hsettle]
  rfl

/-! ### `brn` and `brn.dec` -/

/-- The next sequential block is known (R33). -/
theorem withNext_named {go : Word64 → Settle} {r : Run s0} {c i : Nat} {b : BlockRun} {n : BitVec 56} {w : NestRec} {p : Placed} {a : Word64}
    (hp : r.st.placedOf c b = some p) (ha : p.next' = some a) : withNext go r c b i n w = go a r c b i n w := by
  unfold withNext Run.nextAfter
  simp only [hp, ha]

/-- The run with what it gives back of the decision latch when it is discarded (R84). -/
def BlockRun.decided (b : BlockRun) (e : Nat × Nat) : BlockRun := { b with undo := { b.undo with latch := some e } }

/-- The decision that `brn.dec` has taken: the latch is empty, and the run can give it back (R84). -/
def Run.decided (r : Run s0) (f : Fire) (e : Nat × Nat) : Run s0 :=
  (r.modCtx f.c (fun x => { x with latch := none })).modRun f.c f.b.iid (fun b => b.decided e)

theorem Run.takeDecision_pinned {r : Run s0} {f : Fire} {k j : Nat} {p : Placed} (ho : (r.st.ctx f.c).isOldest f.b.iid = true)
    (hl : (r.st.ctx f.c).latch = some (k, j)) (he : f.b.exit = none) (hp : (r.st.core (f.c / 4)).placedAt k j = some p) (hpin : p.pin = some f.c) :
    r.takeDecision f = (r.decided f (k, j), leaveOut .brnDec f.sh.outs) := by
  unfold Run.takeDecision
  simp only [ho, hl, he, hp, hpin, Bool.not_true, Bool.false_eq_true, if_false, Option.isSome_none, if_true, Fire.leave_first he]
  rfl

theorem Run.decided_spec {s : State} {f : Fire} (hs : Regular s = true) (hb : (s.ctx f.c).run? f.b.iid = some f.b) (e : Nat × Nat) :
    Leaving s f.c (fun x => { x with latch := none }) ((Run.start s).decided f e).st
      ∧ (((Run.start s).decided f e).st.ctx f.c).run? f.b.iid = some (f.b.decided e) := by
  have hr := ((Run.start s).modCtx f.c (fun x => { x with latch := none })).regular hs
  constructor
  · exact ((Leaving.refl s f.c).modCtx (r := Run.start s) hs (fun _ _ => rfl) (Ctx.norm_latch (regular_norm hs f.c) _)).same (Run.modRun_same hr _ _ _)
  · refine Run.modRun_run? hr (b := f.b) ?_ rfl
    rw [Run.modCtx_run? (r := Run.start s) hs rfl]
    exact hb

/-- `brn.dec` of the oldest run, with a blockslot in the latch that the context has pinned, takes the decision and names the block there (R84). -/
theorem exited_brnDec {s : State} {f : Fire} {g : Gate} {n : BitVec 56} {w : NestRec} {k j : Nat} {p : Placed} (hs : Regular s = true)
    (h : Leaves s (.brnDec g) f n w) (ho : (s.ctx f.c).isOldest f.b.iid = true) (hlatch : (s.ctx f.c).latch = some (k, j))
    (hp : (s.core (f.c / 4)).placedAt k j = some p) (hpin : p.pin = some f.c) : Exited s (.brnDec g) f .brnDec (fun x => { x with
      latch := none, next := some ⟨p.addr, .other, n, w, 0, [], f.b.iid, f.idx, some (k, j)⟩ }) := by
  obtain ⟨hacts, hexit, hbegun, hnests, htag⟩ := h
  obtain ⟨hc, hi, hid, hb, hparked⟩ := fires_run hacts.1
  obtain ⟨hl, hrun⟩ := Run.decided_spec hs hb (k, j)
  have hr := ((Run.start s).decided f (k, j)).regular hs
  have hready := State.settles_none (s := s) hexit f.c f.idx
  have hfire : fireRun (.brnDec g) (fun r f => r.takeDecision f) (Run.start s)
      = ((Run.start s).decided f (k, j)).finish f.c f.b.iid f.idx (shape (.brnDec g)) (leaveOut .brnDec f.sh.outs) := by
    rw [fireRun_acts (r := Run.start s) hacts, Run.takeDecision_pinned (r := Run.start s) ho hlatch hexit hp hpin]
  have hl' := hl.same (Run.finish_same _ hr f.c f.b.iid f.idx (shape (.brnDec g)) (leaveOut .brnDec f.sh.outs))
  have hrun' := Run.finish_run?_leave hr hrun htag f.idx f.sh.outs (shape (.brnDec g)) .brnDec
  generalize ((Run.start s).decided f (k, j)).finish f.c f.b.iid f.idx (shape (.brnDec g)) (leaveOut .brnDec f.sh.outs) = r at hfire hl' hrun'
  have hnests' : s.nestsFired f.c (f.b.decided (k, j)) = true := State.nestsFired_mono rfl ⟨rfl, rfl⟩ (List.Subset.refl _) hnests
  have hset := State.settles_left (b := f.b.decided (k, j)) hl'.cores hbegun hparked hnests' f.sh.outs .brnDec
  have htag' : tagAfter (f.b.decided (k, j)) = .ok (n, w) := htag
  have hp' : (r.st.core (f.c / 4)).placedAt k j = some p := by
    unfold State.core
    rw [hl'.cores]
    exact hp
  refine exited_of_names (ch := fun x => { x with latch := none }) hs ?_ hl' hrun' rfl rfl
  rw [exec_brnDec]
  unfold execBrnDec State.siteRun
  simp only [← hc, ← hi, ← hid, hb, hready, Bool.false_eq_true, if_false, hfire, hrun', hset, if_true, tagAfter_left, htag']
  simp only [BlockRun.left, BlockRun.decided, Option.getD_some, hp', Option.map_some]

/-- `wdrive` whose chain and descriptor pass their checks leaves (R261). -/
theorem driveChecks_leave {f : Fire} (ha : f.a.word.toNat % 64 = 0) (ha' : f.a.word.toNat < 2 ^ 56) (hb : f.b'.word.toNat % 64 = 0)
    (hb' : f.b'.word.toNat + 64 ≤ coreLimit) : driveChecks f = f.leave (.wdrive f.a.word f.b'.word) := by
  unfold driveChecks
  dsimp only
  rw [if_neg (by omega), if_neg (by omega), if_neg (by omega), if_neg (by omega)]

/-- `bri` to an address that passes its checks leaves (R72). -/
theorem indirect_leave {f : Fire} {k : ExitKind} (ha : f.a.word.toNat % 64 = 0) (ha' : f.a.word.toNat < 2 ^ 56) : indirect f k = f.leave k := by
  unfold indirect
  rw [if_neg (by omega), if_neg (by omega)]

/-- Settles O24: each exit leaves its run, and settles at once, since every `nest` and `unnest` has fired. -/
theorem branchesNameTheirSuccessor : Obligations.BranchesNameTheirSuccessor := by
  unfold Obligations.BranchesNameTheirSuccessor
  constructor
  · intro s f g n w hs
    refine ⟨fun off h => ?_, fun p a h hp ha => ?_, fun h ha ha' htok => ?_, fun t0 t1 n' h hn => ?_, fun k j p h ho hl hp hpin => ?_⟩
    · exact exited_names (exec_br g off s) hs h rfl rfl
    · have hp' := (State.placedOf_congr (b' := f.b.left f.idx f.sh.outs .brn) (Run.leaves_spec hs h .brn).1.cores ⟨rfl, rfl⟩ f.c).trans hp
      exact exited_names (exec_brn g s) hs h rfl (withNext_named hp' ha)
    · refine exited_names (exec_bri g s) hs h (indirect_leave ha ha') ?_
      have e : addressOf (f.b.left f.idx f.sh.outs .bri) f.idx = f.a.word := congrArg (fun t => (Option.map Token.word t).getD 0) htok
      exact congrArg (fun a => (Run.leaves s _ f .bri).names f.c f.b.iid f.idx a .other n w 0 [] none) e
    · refine exited_names (exec_iter g t0 t1 s) hs h rfl ?_
      simp only [hn]
      rfl
    · exact exited_brnDec hs h ho hl hp hpin
  · intro s f g n w hs
    refine ⟨fun h => ?_, fun off h ha ha' hb hb' => ?_⟩
    · exact exited_namesNone (exec_halt g s) hs h rfl rfl
    · exact exited_namesNone (exec_wdrive g off s) hs h (driveChecks_leave ha ha' hb hb') rfl

end Sys2Proof.Machine

/-! Loads (R42, R105 to R107, R112, R114): what a plain load and the load form of `wcv` deliver, and the bytes that the pieces in a core's store hold. -/

namespace Sys2Proof.Machine

open Sys2Proof

variable {s0 : State}

/-! ### The token of loaded bytes -/

/-- The low bits read in two's complement and made 64 wide are the sign extension. -/
theorem ofInt_signedOf {n : Nat} (x : Nat) : BitVec.ofInt 64 (signedOf n x) = (BitVec.ofNat n x).signExtend 64 := by
  have top : x % 2 ^ n < 2 ^ (n - 1) ↔ 2 * (x % 2 ^ n) < 2 ^ n := by
    cases n with
    | zero => simp [Nat.mod_one]
    | succ n =>
      rw [Nat.add_sub_cancel, Nat.pow_succ']
      omega
  unfold BitVec.signExtend signedOf
  rw [BitVec.toInt_eq_toNat_cond, BitVec.toNat_ofNat]
  simp only [top]

/-- The token of loaded bytes: a vector, or a scalar that is sign- or zero-extended (R112). -/
theorem loaded_eq (wd : MWidth) (signed s : Bool) (bs : List Byte) : loaded wd signed s bs
    = if wd = .v512 ∨ wd = .v256 then ⟨.vector, BitVec.ofNat 512 (leNat bs), s, false, false⟩
      else ⟨.scalar, (if signed then (BitVec.ofNat (8 * wd.bytes) (leNat bs)).signExtend 64 else BitVec.ofNat 64 (leNat bs)).setWidth 512, s, false, false⟩ := by
  unfold loaded scalar vector
  simp only [ofInt_signedOf]
  cases wd <;> rfl

theorem loaded_zero (wd : MWidth) (s : Bool) (bs : List Byte) : loaded wd false s bs
    = if wd = .v512 ∨ wd = .v256 then ⟨.vector, BitVec.ofNat 512 (leNat bs), s, false, false⟩
      else ⟨.scalar, (BitVec.ofNat 64 (leNat bs)).setWidth 512, s, false, false⟩ := loaded_eq wd false s bs

theorem loaded_sign (wd : MWidth) (s : Bool) (bs : List Byte) : loaded wd true s bs
    = if wd = .v512 ∨ wd = .v256 then ⟨.vector, BitVec.ofNat 512 (leNat bs), s, false, false⟩
      else ⟨.scalar, ((BitVec.ofNat (8 * wd.bytes) (leNat bs)).signExtend 64).setWidth 512, s, false, false⟩ := loaded_eq wd true s bs

/-! ### Plain loads -/

/-- The bytes of a read at a key: a granule that is empty and holds readers reads zero (R116). -/
def State.bytesAt (s : State) (sp : Space) (ov : Overlay) (k n : Nat) : List Byte :=
  (List.range n).map (fun j => if sp.granular = true ∧ s.isFull ((k + j) / 16) = false ∧ s.waiting ((k + j) / 16) ≠ [] then 0 else seenByte s ov (k + j))

theorem Run.readPiece_key {r r' : Run s0} {a : Agent} {sp : Space} {ea n k : Nat} {need : Need} (ov : Overlay) (hl : r.locate a sp ea need = (r', .key k))
    (hp : r'.st.poisonAt k n = none) : r.readPiece a sp ea n need ov = (r'.readLines k n, .bytes (r'.st.bytesAt sp ov k n)) := by
  unfold Run.readPiece State.bytesAt
  simp only [hl, hp, Bool.and_eq_true, Bool.not_eq_true', and_assoc, List.isEmpty_eq_false_iff]

theorem Run.readPiece_pool {r r' : Run s0} {a : Agent} {sp : Space} {ea n off : Nat} {need : Need} (ov : Overlay)
    (hl : r.locate a sp ea need = (r', .pool off)) : r.readPiece a sp ea n need ov = (r', .bytes (((r'.st.poolOf a.launch).drop off).take n)) := by
  unfold Run.readPiece
  simp only [hl]

theorem Fire.deniedHere_nil {f : Fire} (h : f.b.denied = []) : f.deniedHere = none := by
  unfold Fire.deniedHere BlockRun.deniedAt
  rw [h]
  rfl

/-- A plain load that passes its checks, waits for no write of its own context and meets no park delivers the bytes of its piece. -/
theorem Run.plainLoad_bytes {r r' : Run s0} {f : Fire} {sp : Space} {wd : MWidth} {ea : Nat} {bs : List Byte} (conv : List Byte → Token)
    (hc : fireCheck r.st (r.st.agent f.c) sp ea wd.bytes true .load = none) (hd : f.b.denied = [])
    (ho : r.st.ownBars (r.st.ctx f.c) f.b sp ea wd.bytes false = false)
    (hr : r.readPiece (r.st.agent f.c) sp ea wd.bytes .r (r.st.seenBy f.c f.b f.idx) = (r', .bytes bs)) :
    r.plainLoad f sp wd ea conv = (r', { NodeOut.of (conv bs) with took := r'.st.toldIn (r.st.agent f.c) sp ea wd.bytes }) := by
  unfold Run.plainLoad
  simp only [hc, Fire.deniedHere_nil hd, ho, Bool.false_eq_true, if_false, hr]

/-- The plain loads, each with what it makes of the bytes (R112). -/
def plainLoads (sp : Space) (wd : MWidth) (g : Gate) (off : BitVec 7) (t0 : Target) : List (Instr × (List Byte → Token)) :=
  [(.ld sp wd g off t0, loaded wd false true), (.lds sp wd 0 g off t0, loaded wd true true), (.ldRaw sp wd 0 g off t0, loaded wd false false)]

/-- A plain load is the firing of a node whose meaning is `Run.plainLoad`. -/
theorem exec_plainLoad {i : Instr} {sp : Space} {wd : MWidth} {g : Gate} {off : BitVec 7} {t0 : Target} {conv : List Byte → Token} {s : State} {f : Fire}
    (hi : (i, conv) ∈ plainLoads sp wd g off t0) (h : Acts s i f) :
    exec i s = .next (((Run.start s).plainLoad f sp wd (effective f wd off).toNat conv).1.finish f.c f.b.iid f.idx (shape i)
      ((Run.start s).plainLoad f sp wd (effective f wd off).toNat conv).2).st := by
  simp only [plainLoads, List.mem_cons, List.not_mem_nil, or_false, Prod.mk.injEq] at hi
  obtain ⟨rfl, rfl⟩ | ⟨rfl, rfl⟩ | ⟨rfl, rfl⟩ := hi
  · rw [exec_ld, execLd, fireWith_acts h]
  · rw [exec_lds, execLds, fireWith_acts h]
    rfl
  · rw [exec_ldRaw, execLdRaw, fireWith_acts h]
    rfl

/-- A plain load at a key of memory. -/
theorem exec_plainLoad_key {i : Instr} {sp : Space} {wd : MWidth} {g : Gate} {off : BitVec 7} {t0 : Target} {conv : List Byte → Token} {s : State} {f : Fire}
    {r : Run s} {k : Nat}
    (hi : (i, conv) ∈ plainLoads sp wd g off t0) (h : Acts s i f)
    (hc : fireCheck s (s.agent f.c) sp (effective f wd off).toNat wd.bytes true .load = none) (hd : f.b.denied = [])
    (ho : s.ownBars (s.ctx f.c) f.b sp (effective f wd off).toNat wd.bytes false = false)
    (hl : (Run.start s).locate (s.agent f.c) sp (effective f wd off).toNat .r = (r, .key k)) (hp : r.st.poisonAt k wd.bytes = none) :
    exec i s = .next ((r.readLines k wd.bytes).finish f.c f.b.iid f.idx (shape i)
      { NodeOut.of (conv (r.st.bytesAt sp (s.seenBy f.c f.b f.idx) k wd.bytes)) with
        took := (r.readLines k wd.bytes).st.toldIn (s.agent f.c) sp (effective f wd off).toNat wd.bytes }).st := by
  rw [exec_plainLoad hi h, Run.plainLoad_bytes (r := Run.start s) conv hc hd ho (Run.readPiece_key _ hl hp)]
  rfl

/-! ### Loads of param -/

/-- No planed region stands in param. -/
theorem regionAt_param (s : State) (a : Agent) (ea n : Nat) : regionAt s a .param ea n = none := by
  unfold regionAt
  rw [List.findSome?_eq_none_iff]
  intro l _
  split
  · rw [List.find?_eq_none]
    intro g _
    simp
  · rfl

/-- An aligned load within the pool passes its checks (R104, R105). -/
theorem fireCheck_param {s : State} {a : Agent} {ea n : Nat} (ha : ea % n = 0) (hn : ea + n ≤ (s.poolOf a.launch).length) :
    fireCheck s a .param ea n true .load = none := by
  have hs : spaceOk s a .param ea n = true := decide_eq_true hn
  unfold fireCheck homeSpace
  simp [ha, hs, regionAt_param]

theorem exec_ld_param {wd : MWidth} {g : Gate} {off : BitVec 7} {t0 : Target} {s : State} {f : Fire} (h : Acts s (.ld .param wd g off t0) f)
    (ha : (effective f wd off).toNat % wd.bytes = 0) (hn : (effective f wd off).toNat + wd.bytes ≤ (s.poolOf (s.agent f.c).launch).length)
    (hd : f.b.denied = []) (ho : s.ownBars (s.ctx f.c) f.b .param (effective f wd off).toNat wd.bytes false = false) :
    exec (.ld .param wd g off t0) s = .next (fired s (.ld .param wd g off t0) f
      (NodeOut.of (loaded wd false true (((s.poolOf (s.agent f.c).launch).drop (effective f wd off).toNat).take wd.bytes)))) := by
  have hl : (Run.start s).locate (s.agent f.c) .param (effective f wd off).toNat .r = (Run.start s, .pool (effective f wd off).toNat) := rfl
  rw [exec_plainLoad (List.mem_cons_self ..) h,
    Run.plainLoad_bytes (r := Run.start s) _ (fireCheck_param ha hn) hd ho (Run.readPiece_pool _ hl)]
  rfl

/-! ### Unaligned loads -/

theorem exec_wcvLoad_acts {sp : Space} {wd : MWidth} {g : Gate} {off : BitVec 7} {t0 : Target} {s : State} {f : Fire} (h : Acts s (.wcvLoad sp wd g off t0) f) :
    exec (.wcvLoad sp wd g off t0) s = .next (((Run.start s).pieceLoad f sp wd (effective f wd off).toNat (loaded wd false true)).1.finish f.c f.b.iid f.idx
      (shape (.wcvLoad sp wd g off t0)) ((Run.start s).pieceLoad f sp wd (effective f wd off).toNat (loaded wd false true)).2).st := by
  rw [exec_wcvLoad, execWcvLoad, fireWith_acts h]

section
variable {r : Run s0} {f : Fire} {sp : Space} {wd : MWidth} {ea : Nat} {p : Nat × Nat}
  (hp : (pieces ea wd.bytes).find? (fun p => p.1 == ea + (SMap.get f.b.partly [] f.idx).length) = some p)
include hp

/-- The piece that a check refuses (R105, R106). -/
theorem Run.pieceLoad_refused {c q : Nat} (conv : List Byte → Token) (hc : fireCheck r.st (r.st.agent f.c) sp p.1 p.2 false .load = some (c, q)) :
    r.pieceLoad f sp wd ea conv = (r, loadError wd c q) := by
  unfold Run.pieceLoad
  simp only [hp, hc]

/-- The piece that is read: the last one delivers all the bytes, and any other keeps what has been read (R114). -/
theorem Run.pieceLoad_bytes {r' : Run s0} {bs : List Byte} (conv : List Byte → Token)
    (hc : fireCheck r.st (r.st.agent f.c) sp p.1 p.2 false .load = none) (hd : f.b.denied = [])
    (ho : r.st.ownBars (r.st.ctx f.c) f.b sp p.1 p.2 false = false)
    (hr : r.readPiece (r.st.agent f.c) sp p.1 p.2 .r (r.st.seenBy f.c f.b f.idx) = (r', .bytes bs)) :
    r.pieceLoad f sp wd ea conv = if wd.bytes ≤ (SMap.get f.b.partly [] f.idx ++ bs).length
      then (r', { NodeOut.of (conv (SMap.get f.b.partly [] f.idx ++ bs)) with took := r'.st.toldIn (r.st.agent f.c) sp ea wd.bytes })
      else (r'.modRun f.c f.b.iid (fun b => { b with
        partly := SMap.set b.partly [] f.idx (SMap.get f.b.partly [] f.idx ++ bs), denied := b.denied.filter (fun d => d.1 != f.idx) }), .later) := by
  unfold Run.pieceLoad
  simp only [hp, hc, Fire.deniedHere_nil hd, ho, Bool.false_eq_true, if_false, hr]

end

/-- The error token of a load (R105). -/
theorem loadError_eq (wd : MWidth) (c q : Nat) : loadError wd c q
    = NodeOut.of ⟨if wd = .v512 ∨ wd = .v256 then .vector else .scalar, (descriptor c q 0).setWidth 512, false, true, false⟩ := by
  cases wd <;> rfl

/-! ### The pieces of an access in a core's store -/

theorem piecesFrom_nil (fuel ea : Nat) : piecesFrom fuel ea 0 = [] := by
  cases fuel <;> rfl

/-- The next piece is at least a byte, and no more than what is left. -/
theorem piecesFrom_cons (fuel ea : Nat) {left : Nat} (h : 0 < left) :
    ∃ p, 0 < p ∧ p ≤ left ∧ piecesFrom (fuel + 1) ea left = (ea, p) :: piecesFrom fuel (ea + p) (left - p) := by
  have hone : ([64, 32, 8, 4, 2, 1].find? (fun p => decide (p ≤ left) && ea % p == 0)).isSome = true := by
    rw [List.find?_isSome]
    exact ⟨1, by decide, by simpa [Nat.mod_one] using Nat.succ_le_of_lt h⟩
  obtain ⟨p, hp⟩ := Option.isSome_iff_exists.mp hone
  have hle : p ≤ left := by
    have := List.find?_some hp
    simp only [Bool.and_eq_true, decide_eq_true_eq] at this
    exact this.1
  have hpos : 0 < p := (by decide : ∀ p ∈ [64, 32, 8, 4, 2, 1], 0 < p) p (List.mem_of_find?_eq_some hp)
  refine ⟨p, hpos, hle, ?_⟩
  rw [piecesFrom, hp]

theorem Run.readPieces_cons {r r' r'' : Run s0} {a : Agent} {sp : Space} {p : Nat × Nat} {ps : List (Nat × Nat)} {need : Need} {ov : Overlay} {bs cs : List Byte}
    (h : r.readPiece a sp p.1 p.2 need ov = (r', .bytes bs)) (hs : r'.readPieces a sp ps need ov = (r'', .bytes cs)) :
    r.readPieces a sp (p :: ps) need ov = (r'', .bytes (bs ++ cs)) := by
  rw [Run.readPieces]
  simp only [h, hs]

theorem State.poisonAt_nil {s : State} (h : s.poison = []) (k n : Nat) : s.poisonAt k n = none := by
  unfold State.poisonAt
  rw [List.find?_eq_none, h]
  simp

theorem Run.readLines_below {k : Nat} (r : Run s0) (h : k < mainKey 0) (n : Nat) : r.readLines k n = r := by
  unfold Run.readLines
  rw [if_pos (.inl h)]

/-- With no readers and no write to see, a read gives the bytes of memory. -/
theorem State.bytesAt_plain {s : State} (h : s.readers = []) (sp : Space) (k n : Nat) :
    s.bytesAt sp [] k n = (List.range n).map (fun j => s.byte (k + j)) := by
  have hw : ∀ g, s.waiting g = [] := fun g => by
    unfold State.waiting
    rw [h, List.filter_nil]
  unfold State.bytesAt
  simp [hw, seenByte]

theorem coreKey_add (core a j : Nat) : coreKey core a + j = coreKey core (a + j) := Nat.add_assoc ..

theorem coreKey_below {core a : Nat} (hc : core < 160) (ha : a ≤ coreLimit) : coreKey core a < mainKey 0 := by
  unfold coreLimit at ha
  unfold coreKey mainKey
  omega

/-- One piece in a core's store. -/
theorem readPiece_core {s : State} {a : Agent} {ea n : Nat} (ha : a.core < 160) (hn : ea + n ≤ coreLimit) (hp : s.poison = []) (hr : s.readers = []) :
    (Run.start s).readPiece a .core ea n .r [] = (Run.start s, .bytes ((List.range n).map (fun j => s.byte (coreKey a.core (ea + j))))) := by
  have hl : (Run.start s).locate a .core ea .r = (Run.start s, .key (coreKey a.core ea)) := rfl
  rw [Run.readPiece_key [] hl (State.poisonAt_nil hp _ _), Run.readLines_below _ (coreKey_below ha (by omega)), Run.start_st, State.bytesAt_plain hr]
  simp only [coreKey_add]

/-- The pieces of an access in a core's store, taken in order, are its bytes. -/
theorem readPieces_core {s : State} {a : Agent} (ha : a.core < 160) (hp : s.poison = []) (hr : s.readers = []) (fuel : Nat) :
    ∀ {ea left : Nat}, left ≤ fuel → ea + left ≤ coreLimit → (Run.start s).readPieces a .core (piecesFrom fuel ea left) .r []
      = (Run.start s, .bytes ((List.range left).map (fun j => s.byte (coreKey a.core (ea + j))))) := by
  induction fuel with
  | zero =>
    intro ea left hf _
    obtain rfl : left = 0 := by omega
    rfl
  | succ fuel ih =>
    intro ea left hf hn
    rcases Nat.eq_zero_or_pos left with rfl | hpos
    · rw [piecesFrom_nil]
      rfl
    · obtain ⟨p, hp0, hle, hcons⟩ := piecesFrom_cons fuel ea hpos
      have hrest := ih (ea := ea + p) (left := left - p) (by omega) (by omega)
      have hsplit : List.range left = List.range p ++ (List.range (left - p)).map (p + ·) := by
        rw [← List.range_add, Nat.add_sub_cancel' hle]
      have hpiece := readPiece_core (n := p) ha (show ea + p ≤ coreLimit by omega) hp hr
      rw [hcons, Run.readPieces_cons (p := (ea, p)) hpiece hrest, hsplit, List.map_append, List.map_map]
      simp only [Function.comp_def, Nat.add_assoc]

/-! ### The obligation -/

/-- Settles O29: a load is its checks, the place of its bytes, and what its form makes of them. -/
theorem loadsReadMemory : Obligations.LoadsReadMemory := by
  unfold Obligations.LoadsReadMemory
  refine ⟨fun sp wd g off t0 s f r k => ⟨fun i v hi h hc hd ho hl hp => ?_, fun h ha hn hd ho => ⟨_, exec_ld_param h ha hn hd ho, rfl⟩⟩,
    fun sp wd g off t0 s f p h hpiece => ⟨fun c q hc => ?_, fun r bs hc hd ho hr => ⟨fun hlast => ?_, fun hmore => ?_⟩⟩,
    fun s a ea n ha hn hp hr => readPieces_core ha hp hr n (Nat.le_refl n) hn⟩
  · simp only [← loaded_zero, ← loaded_sign] at hi
    have hv : (i, v) ∈ (plainLoads sp wd g off t0).map (fun e => (e.1, e.2 (r.st.bytesAt sp (s.seenBy f.c f.b f.idx) k wd.bytes))) := hi
    obtain ⟨⟨j, conv⟩, hm, he⟩ := List.mem_map.mp hv
    cases he
    exact exec_plainLoad_key hm h hc hd ho hl hp
  · rw [exec_wcvLoad_acts h, effective, Run.pieceLoad_refused (r := Run.start s) hpiece _ hc, loadError_eq]
    rfl
  · rw [exec_wcvLoad_acts h, effective, Run.pieceLoad_bytes (r := Run.start s) hpiece _ hc hd ho hr, if_pos hlast]
    rfl
  · rw [exec_wcvLoad_acts h, effective, Run.pieceLoad_bytes (r := Run.start s) hpiece _ hc hd ho hr, if_neg (by omega), Run.finish_wait _ _ _ _ _ _ rfl]

end Sys2Proof.Machine

/-! Moving tokens, merging and joining them, decisions and pinned blocks (R76 to R79, R82, R83). -/

namespace Sys2Proof.Machine

open Sys2Proof

variable {s0 : State}

/-! ### Moving tokens -/

/-- The polarity that `ctl.nz` finds, by the kind of the token (R79). -/
theorem nonzero_eq (t : Token) : nonzero t = (match t.kind with
    | .scalar => decide (t.data.setWidth 64 ≠ 0)
    | .vector => decide (t.data ≠ 0)
    | .handle => true
    | .control => t.data.getLsbD 0) := by
  unfold nonzero
  cases t.kind
  case scalar => exact (decide_not ..).symm
  case vector => exact (decide_not ..).symm
  case handle => rfl
  case control => rfl

/-- `select` of two operands of one kind passes the one that G names (R76). -/
theorem execSelect_acts {t0 t1 : Target} {s : State} {f : Fire} (h : Acts s (.select t0 t1) f) :
    exec (.select t0 t1) s = .next (fired s (.select t0 t1) f (if f.a.kind ≠ f.b'.kind then f.fault 0x04 0x05
      else if f.g.polarity then NodeOut.of f.a else NodeOut.of f.b')) := by
  rw [exec_select, execSelect, fireNode_acts h, apply_ite NodeOut.of]

/-- Settles O19: each node is a firing whose meaning is the one stated; `select` and `ctl.nz` by the cases of what they read. -/
theorem tokenResults : Obligations.TokenResults := by
  unfold Obligations.TokenResults
  intro g t0 t1
  refine ⟨fun s f h => fireNode_acts h, fun s f h => fireNode_acts h, fun s f h => fireNode_acts h, fun s f h => execSelect_acts h, fun s f h => fireNode_acts h,
    fun s f h => ?_, fun s f h => fireNode_acts h, fun v s f h => fireNode_acts h, fun j s f h => fireNode_acts h⟩
  rw [exec_ctlNz, execCtlNz, fireNode_acts h, nonzero_eq]
  rfl

/-! ### Merging -/

/-- A slot that `merge` may take now (R77): it has a token of which no arrival has been counted. -/
def mergeLive (b : BlockRun) (i : Nat) : Slot → Bool
  | .a => (b.tok? i .a).isSome && (b.counting i).seen % 2 == 0
  | .b => (b.tok? i .b).isSome && (b.counting i).seen / 2 % 2 == 0
  | .g => false

/-- With one slot that it may take, `merge` takes that one; with two it takes A in deterministic mode, and else the one whose token came first. -/
theorem mergeSlot_eq (b : BlockRun) (i : Nat) : mergeSlot b i =
    if mergeLive b i .a && mergeLive b i .b then (if b.det then .a else ((b.toks.find? (fun e => e.idx == i)).map (·.slot)).getD .a)
    else if mergeLive b i .a then .a else .b := by
  unfold mergeSlot mergeLive
  dsimp only
  split
  · split
    · rfl
    · split <;> simp [*]
  · rfl

theorem mergeSlot_a {b : BlockRun} {i : Nat} (hk : (b.counting i).seen % 2 = 0) (ht : (b.tok? i .a).isSome = true)
    (hb : b.det = true ∨ (b.counting i).seen / 2 % 2 = 1 ∨ b.tok? i .b = none ∨ (b.toks.find? (fun e => e.idx == i)).map (·.slot) = some .a) : mergeSlot b i = .a := by
  have live : mergeLive b i .a = true := by simp [mergeLive, hk, ht]
  rw [mergeSlot_eq, live, Bool.true_and, if_pos rfl]
  split
  · rename_i both
    simp only [mergeLive, Bool.and_eq_true, beq_iff_eq] at both
    obtain hd | hs | hn | hf := hb
    · rw [if_pos hd]
    · omega
    · rw [hn] at both
      cases both.1
    · rw [hf, Option.getD_some, ite_self]
  · rfl

theorem mergeSlot_b {b : BlockRun} {i : Nat} (hk : (b.counting i).seen / 2 % 2 = 0) (ht : (b.tok? i .b).isSome = true)
    (ha : (b.counting i).seen % 2 = 1 ∨ b.tok? i .a = none ∨ (b.det = false ∧ (b.toks.find? (fun e => e.idx == i)).map (·.slot) = some .b)) : mergeSlot b i = .b := by
  have live : mergeLive b i .b = true := by simp [mergeLive, hk, ht]
  rw [mergeSlot_eq, live, Bool.and_true]
  obtain hs | hn | ⟨hd, hf⟩ := ha
  · have idle : mergeLive b i .a = false := by simp [mergeLive, hs]
    simp [idle]
  · have idle : mergeLive b i .a = false := by simp [mergeLive, hn]
    simp [idle]
  · rw [hf]
    cases mergeLive b i .a <;> simp [hd]

/-- What `merge` does with the token `t` of slot `sl` (R77): a value is sent and a null absorbed, but the second of two nulls is sent; both slots taken, it is done. -/
def mergeOut (k : Counting) (sl : Slot) (t : Token) : NodeOut :=
  let seen := k.seen + (if sl = .a then 1 else 2)
  let nulls := k.nulls + (if t.n then 1 else 0)
  let send := if t.n = false ∨ nulls = 2 then some t else none
  { t0 := send, t1 := send, keep := some { k with seen := seen, nulls := nulls }, done := seen == 3 }

/-- A value is sent, and the second of two nulls; the first is absorbed. -/
theorem mergeOut_eq (k : Counting) (sl : Slot) (t : Token) : mergeOut k sl t =
    { (if !t.n || k.nulls + (if t.n then 1 else 0) == 2 then NodeOut.of t else {}) with
      keep := some { k with seen := k.seen + (if sl = .a then 1 else 2), nulls := k.nulls + (if t.n then 1 else 0) }
      done := k.seen + (if sl = .a then 1 else 2) == 3 } := by
  unfold mergeOut
  by_cases h : t.n = false ∨ k.nulls + (if t.n then 1 else 0) = 2
  · simp only [if_pos h, if_pos (show (!t.n || k.nulls + (if t.n then 1 else 0) == 2) = true by simpa using h)]
    rfl
  · simp only [if_neg h, if_neg (show ¬ (!t.n || k.nulls + (if t.n then 1 else 0) == 2) = true by simpa using h)]

/-- `merge` fires on the token of the slot that it serves next. -/
theorem execMerge_fires {t0 t1 : Target} {s : State} {f : Fire} {t : Token} (h : Fires s (.merge t0 t1) f) (ht : f.b.tok? f.idx (mergeSlot f.b f.idx) = some t) :
    exec (.merge t0 t1) s = .next (fired s (.merge t0 t1) f (mergeOut (f.b.counting f.idx) (mergeSlot f.b f.idx) t)) := by
  obtain ⟨b, hb, hm, rfl⟩ := h
  have ht' : b.tok? s.site.idx (mergeSlot b s.site.idx) = some t := ht
  rw [exec_merge, mergeOut_eq]
  unfold execMerge State.siteRun
  simp only [hb, hm, if_true, ht', Option.getD_some]
  rfl

/-! ### Counting nodes -/

/-- What a counting node does once an arrival has made its record `k`: it keeps the record, and after the last arrival sends the error, the value or the null that it comes to
(R78, R125). -/
def countSent (f : Fire) (last : Bool) (k : Counting) (fl : FlagSet) : NodeOut :=
  { (if !last then {}
     else match k.err with
       | some e => NodeOut.of (errorToken f.retKind e.word)
       | none => match k.held with
         | some h => NodeOut.of h
         | none => NodeOut.of (nullToken f.retKind) : NodeOut) with
    keep := some { k with seen := k.seen + 1 }
    done := last
    flags := fl }

/-- A counting node whose record holds a value sends it after the last arrival. -/
theorem countSent_value (f : Fire) (last : Bool) {k : Counting} {v : Token} (fl : FlagSet) (he : k.err = none) (hv : k.held = some v) :
    countSent f last k fl = if last then { t0 := some v, t1 := some v, flags := fl, keep := some { k with seen := k.seen + 1 } }
      else { flags := fl, keep := some { k with seen := k.seen + 1 }, done := false } := by
  unfold countSent
  rw [he, hv]
  cases last <;> rfl

/-- A counting node of which every arrival was a null sends one. -/
theorem countSent_null (f : Fire) {k : Counting} (fl : FlagSet) (he : k.err = none) (hv : k.held = none) :
    countSent f true k fl = { NodeOut.of (nullToken f.retKind) with flags := fl, keep := some { k with seen := k.seen + 1 } } := by
  unfold countSent
  rw [he, hv]
  rfl

section
variable {i : Instr} {combine : Combine} {s : State} {f : Fire} {t : Token} (h : Fires s i f) (ht : (f.b.at' f.idx .a)[(f.b.counting f.idx).seen]? = some t) (he : t.e = false)
  (hg : (shape i).gate = .none ∨ (f.g.kind = .control ∧ f.g.e = false ∧ f.mismatch = false))
include h ht he hg

/-- With a gate that lets it pass, an arrival that is no error is a null, is of a kind that the node does not take, or is combined with what the node holds. -/
theorem countNode_passes : countNode i combine s = .next (fired s i f
    (if t.n then countSent { f with a := t } ((f.b.counting f.idx).seen + 1 == (shape i).count) { f.b.counting f.idx with nulls := (f.b.counting f.idx).nulls + 1 } 0
     else if !(shape i).a.contains t.kind then { f.fault 0x04 0x05 with
       keep := some { f.b.counting f.idx with seen := (f.b.counting f.idx).seen + 1 }, done := (f.b.counting f.idx).seen + 1 == (shape i).count }
     else match combine (f.b.counting f.idx).held t with
       | .ok (v, fl) => countSent { f with a := t } ((f.b.counting f.idx).seen + 1 == (shape i).count) { f.b.counting f.idx with held := some v } fl
       | .error (cls, code) => { f.fault cls code with
         keep := some { f.b.counting f.idx with seen := (f.b.counting f.idx).seen + 1 }, done := (f.b.counting f.idx).seen + 1 == (shape i).count })) := by
  have hgate : ¬ ((shape i).gate ≠ .none ∧ f.g.kind ≠ .control) := fun ⟨hn, hk⟩ => hg.elim hn (fun ⟨hk', _, _⟩ => hk hk')
  have hmis : f.mismatch = false := by
    obtain hn | ⟨-, -, hm⟩ := hg
    · unfold Fire.mismatch
      rw [fires_sh h, hn]
    · exact hm
  have herr : ¬ (t.e || ((shape i).gate != .none && f.g.e)) = true := by
    obtain hn | ⟨-, hge, -⟩ := hg
    · simp [he, hn]
    · simp [he, hge]
  obtain ⟨b, hb, hm, rfl⟩ := h
  have ht' : (b.at' s.site.idx .a).getD (b.counting s.site.idx).seen noToken = t := by
    rw [List.getD_eq_getElem?_getD]
    exact congrArg (fun o => o.getD noToken) ht
  have hmis' : ¬ Fire.mismatch { fireOf s.site.c (s.ctx s.site.c) b s.site.idx (shape i) with a := t } = true := Bool.eq_false_iff.mp hmis
  unfold countNode State.siteRun
  simp only [hb, hm, if_true, ht']
  rw [if_neg hgate, if_neg hmis', if_neg herr]
  rfl

end

/-- A counting node whose combination succeeds on the values that it may meet counts its arrivals. -/
theorem counts_of_combine {i : Instr} {combine : Combine} {ok : Token → Token → Prop} {op : Option Token → Token → Token × FlagSet}
    (hi : ∀ s, exec i s = countNode i combine s) (hop : ∀ h t, (∀ x, h = some x → ok x t) → combine h t = .ok (op h t)) : Counts i ok op := by
  intro s f t ha hok
  obtain ⟨hf, ht, he, hn, hk, hg, herr⟩ := ha
  dsimp only
  rw [hi, countNode_passes hf ht he hg, hn, hk, hop _ _ hok]
  simp only [Bool.false_eq_true, if_false, Bool.not_true]
  rw [countSent_value (k := { f.b.counting f.idx with held := some (op (f.b.counting f.idx).held t).1 }) _ _ _ herr rfl]
  simp only [beq_iff_eq]

/-- A counting node all of whose arrivals were nulls sends a null (R78). -/
theorem countNode_lastNull {i : Instr} {combine : Combine} {s : State} {f : Fire} {t : Token} (hf : Fires s i f) (hg : (shape i).gate = .none)
    (ht : (f.b.at' f.idx .a)[(f.b.counting f.idx).seen]? = some t) (he : t.e = false) (hn : t.n = true) (hlast : (f.b.counting f.idx).seen + 1 = (shape i).count)
    (hheld : (f.b.counting f.idx).held = none) (herr : (f.b.counting f.idx).err = none) :
    countNode i combine s = .next (fired s i f { NodeOut.of (nullToken ({ f with a := t } : Fire).retKind) with
      keep := some { f.b.counting f.idx with seen := (f.b.counting f.idx).seen + 1, nulls := (f.b.counting f.idx).nulls + 1 } }) := by
  rw [countNode_passes hf ht he (.inl hg), if_pos hn, hlast, beq_self_eq_true,
    countSent_null (k := { f.b.counting f.idx with nulls := (f.b.counting f.idx).nulls + 1 }) _ _ herr hheld, ← hlast]
  rfl

/-- Settles O20: `merge` serves the slot that the statement names, and `join` and `join.or` count their arrivals as every counting node does. -/
theorem mergeAndJoinCountArrivals : Obligations.MergeAndJoinCountArrivals := by
  unfold Obligations.MergeAndJoinCountArrivals
  refine ⟨fun s f t0 t1 sl t hf ht => ?_, fun g n t0 => ⟨?_, ?_, ?_⟩⟩
  · intro k hserves
    have serves : mergeSlot f.b f.idx = sl := by
      obtain ⟨rfl, hk, hb⟩ | ⟨rfl, hk, ha⟩ := hserves
      · exact mergeSlot_a hk (Option.isSome_of_eq_some ht) hb
      · exact mergeSlot_b hk (Option.isSome_of_eq_some ht) ha
    subst serves
    exact execMerge_fires hf ht
  · exact counts_of_combine (exec_join g n t0) (fun _ _ _ => rfl)
  · exact counts_of_combine (exec_joinOr g n t0) (fun _ _ _ => rfl)
  · intro i hi s f t hf hg ht he hn hseen hheld herr
    have null : ∀ (i : Instr) (combine : Combine), exec i s = countNode i combine s → shape i = shape (.join g n t0) → Fires s i f → exec i s = .next (fired s i f {
        t0 := some ⟨.control, 0, false, false, true⟩, t1 := some ⟨.control, 0, false, false, true⟩,
        keep := some { f.b.counting f.idx with seen := n.toNat + 1, nulls := (f.b.counting f.idx).nulls + 1 } }) := by
      intro i combine hx hs hf
      have kind : ({ f with a := t } : Fire).retKind = .control := by
        unfold Fire.retKind
        rw [show ({ f with a := t } : Fire).sh = shape (.join g n t0) from (fires_sh hf).trans hs]
        rfl
      rw [hx, countNode_lastNull hf (by rw [hs]; exact hg) ht he hn (by rw [hs, hseen]; rfl) hheld herr, kind, hseen]
      rfl
    simp only [List.mem_cons, List.not_mem_nil, or_false] at hi
    obtain rfl | rfl := hi
    · exact null _ _ (exec_join g n t0 s) rfl hf
    · exact null _ _ (exec_joinOr g n t0 s) rfl hf

/-! ### Decisions and pinned blocks -/

/-- A field of a word is a remainder of a quotient of it. -/
theorem field_toNat (w : Word64) (p n : Nat) : (w.extractLsb' p n).toNat = w.toNat / 2 ^ p % 2 ^ n := by
  rw [BitVec.extractLsb'_toNat, Nat.shiftRight_eq_div_pow]

/-- `cfgld` of the `n` blockslots from `j` of set `k` on (R82): the checks of B and A, then the blockslots, then the blocks one after the other. -/
def Run.loadBlocks (r : Run s0) (f : Fire) (k j n : Nat) : Run s0 × NodeOut :=
  if 16 < j + n ∨ 1024 ≤ f.b'.word.toNat then (r, f.fault 0x08 0x00)
  else if f.a.word.toNat % 64 ≠ 0 then (r, f.fault 0x07 0x00 f.a.word.toNat)
  else if ((List.range n).map (fun i => r.st.slotBars f k (j + i))).any (·.1) then (r, f.fault 0x08 0x00)
  else if ((List.range n).map (fun i => r.st.slotBars f k (j + i))).any (·.2) then (r, .later)
  else r.pinBlocks f k j n f.a.word.toNat

/-- What `cfgld` comes to, by the fields of B (R82). -/
theorem execCfgld_acts {g : Gate} {t0 : Target} {s : State} {f : Fire} (h : Acts s (.cfgld g t0) f) {o : Run s × NodeOut}
    (ho : (Run.start s).loadBlocks f (f.b'.word.extractLsb' 0 2).toNat (f.b'.word.extractLsb' 2 4).toNat ((f.b'.word.extractLsb' 6 4).toNat + 1) = o) :
    exec (.cfgld g t0) s = .next (o.1.finish f.c f.b.iid f.idx (shape (.cfgld g t0)) o.2).st := by
  simp only [field_toNat, Nat.pow_zero, Nat.div_one] at ho
  rw [exec_cfgld, execCfgld, fireWith_acts h, ← ho]
  rfl

/-- A range past blockslot 15, or reserved bits of B. -/
theorem Run.loadBlocks_range {r : Run s0} {f : Fire} {k j n : Nat} (h : 16 < j + n ∨ 1024 ≤ f.b'.word.toNat) : r.loadBlocks f k j n = (r, f.fault 0x08 0x00) := if_pos h

/-- One block at an aligned address, for a blockslot that nothing bars. -/
theorem Run.loadBlocks_one {r : Run s0} {f : Fire} {k j : Nat} (hj : j + 1 ≤ 16) (hb : f.b'.word.toNat < 1024) (ha : f.a.word.toNat % 64 = 0)
    (hs : r.st.slotBars f k j = (false, false)) : r.loadBlocks f k j 1 = r.pinBlocks f k j 1 f.a.word.toNat := by
  have slots : (List.range 1).map (fun i => r.st.slotBars f k (j + i)) = [(false, false)] := by
    rw [List.range_one, List.map_singleton, Nat.add_zero, hs]
  unfold Run.loadBlocks
  rw [if_neg (by omega), if_neg (by omega), slots]
  rfl

/-- A fetch of which a check fails (R82). -/
theorem Run.pinBlocks_fault {r r' : Run s0} {f : Fire} {va cl co v : Nat} (k j : Nat) (hd : f.b.denied = []) (hf : r.fetchBlock (r.st.agent f.c) va = (r', .fault cl co v)) :
    r.pinBlocks f k j 1 va = (r', NodeOut.of (errorToken .control (descriptor cl co 0))) := by
  unfold Run.pinBlocks
  simp only [hd, List.find?_nil, hf]

/-- The last block is placed in its blockslot and pinned (R82). -/
theorem Run.pinBlocks_last {r r' : Run s0} {f : Fire} {va : Nat} {b : Fetched} (k j : Nat) (hd : f.b.denied = []) (hf : r.fetchBlock (r.st.agent f.c) va = (r', .ok b))
    (hb : b.bad = none) : r.pinBlocks f k j 1 va
      = (r'.place f.c (b.placed k j (BitVec.ofNat 64 va) (r'.st.ctx f.c).grp (some f.c) f.b.iid), NodeOut.of (control true)) := by
  unfold Run.pinBlocks
  simp only [hd, List.find?_nil, hf, hb]
  rfl

/-- Settles O23: a decision is an effect of its run, by the fields of A and B; `cfgld` of one block is its checks, the fetch, and the block placed. -/
theorem decisionsAndPinnedBlocks : Obligations.DecisionsAndPinnedBlocks := by
  unfold Obligations.DecisionsAndPinnedBlocks
  refine ⟨fun g t0 t1 => ⟨fun s f h => ?_, fun s f h => ?_⟩, fun g t0 s f h => ⟨fun hr => ?_, fun hj hb ha hn hs hd r gt hf => ⟨fun cl co va hg => ?_, fun b hg hbad => ?_⟩⟩⟩
  · simp only [field_toNat, Nat.pow_zero, Nat.div_one]
    exact fireNode_acts h
  · simp only [field_toNat, Nat.pow_zero, Nat.div_one]
    exact fireNode_acts h
  · exact execCfgld_acts h (Run.loadBlocks_range hr)
  · subst hg
    refine execCfgld_acts h (o := (r, NodeOut.of (errorToken .control (descriptor cl co 0)))) ?_
    rw [hn, Run.loadBlocks_one (r := Run.start s) (by omega) hb ha hs, Run.pinBlocks_fault _ _ hd hf]
  · subst hg
    refine execCfgld_acts h (o := (r.place f.c (b.placed _ _ f.a.word (r.st.ctx f.c).grp (some f.c) f.b.iid), NodeOut.of (control true))) ?_
    rw [hn, Run.loadBlocks_one (r := Run.start s) (by omega) hb ha hs, Run.pinBlocks_last _ _ hd hf hbad, BitVec.ofNat_toNat, BitVec.setWidth_eq]

end Sys2Proof.Machine

/-! Calls, returns and the faults of exits (R66, R72, R73, R376). -/

namespace Sys2Proof.Machine

open Sys2Proof

variable {s0 : State}

/-! ### Calls -/

/-- A normal context stays so under a return stack of no more than 32 entries. -/
theorem Ctx.norm_stack {x : Ctx} (h : x.norm = x) {l : List StackEntry} (hl : l.length ≤ 32) : ({ x with stack := l } : Ctx).norm = { x with stack := l } := by
  calc ({ x with stack := l } : Ctx).norm = { x.norm with stack := l.drop (l.length - 32) } := rfl
    _ = { x with stack := l } := by rw [h, Nat.sub_eq_zero_of_le hl, List.drop_zero]

/-- What a firing exit leaves alone of its context. -/
theorem Leaving.ctx_eq {s t : State} {c : Nat} (h : Leaving s c id t) : t.ctx c = { s.ctx c with runs := (t.ctx c).runs } := h.2.2

/-- A push that finds room on chip (R73). -/
theorem Run.push_room {r : Run s0} {c : Nat} (h : (r.st.ctx c).stack.length < 32) (b : BlockRun) (i : Nat) (e : StackEntry) :
    r.push c b i e = (r.modCtx c (fun x => { x with stack := x.stack ++ [e] }), .done none) := if_pos h

/-- A call whose return block is known, with room on chip, pushes its return entry and names its target (R72, R73). -/
theorem callTo_room {r : Run s0} {c i : Nat} {b : BlockRun} {n : BitVec 56} {w : NestRec} {p : Placed} {a : Word64} (addr : Word64)
    (hp : r.st.placedOf c b = some p) (ha : p.next' = some a) (h : (r.st.ctx c).stack.length < 32) :
    callTo addr r c b i n w = (r.modCtx c (fun x => { x with stack := x.stack ++ [⟨a, n, w⟩] })).names c b.iid i addr .other n w 0 [] none := by
  unfold callTo
  rw [withNext_named hp ha, Run.push_room h]

/-- A call that leaves. -/
theorem exited_call {i : Instr} {body : Fire → NodeOut} {dest : BlockRun → Nat → Word64} {s : State} {f : Fire} {n : BitVec 56} {w : NestRec} {k : ExitKind}
    {p : Placed} {a t : Word64} (hx : exec i s = exitNode i body (fun r c b j n w => callTo (dest b j) r c b j n w) s) (hs : Regular s = true) (h : Leaves s i f n w)
    (hbody : body f = f.leave k) (hp : s.placedOf f.c f.b = some p) (ha : p.next' = some a) (hroom : (s.ctx f.c).stack.length < 32)
    (hdest : dest (f.b.left f.idx f.sh.outs k) f.idx = t) :
    Exited s i f k (fun x => { x with stack := x.stack ++ [⟨a, n, w⟩], next := some ⟨t, .other, n, w, 0, [], f.b.iid, f.idx, none⟩ }) := by
  obtain ⟨hl, hrun⟩ := Run.leaves_spec hs h k
  have hr := (Run.leaves s i f k).regular hs
  have hp' := (State.placedOf_congr (b' := f.b.left f.idx f.sh.outs k) hl.cores ⟨rfl, rfl⟩ f.c).trans hp
  have hroom' : ((Run.leaves s i f k).st.ctx f.c).stack.length < 32 := by rwa [hl.ctx_eq]
  have hpush := hl.modCtx hr (g := fun x => { x with stack := x.stack ++ [⟨a, n, w⟩] }) (fun _ _ => rfl)
    (Ctx.norm_stack (regular_norm hr f.c) (by rw [List.length_append]; exact hroom'))
  refine exited_of_names hs ?_ hpush ((Run.modCtx_run? hr rfl).trans hrun) rfl rfl
  rw [hx, exitNode_leaves hs h hbody, callTo_room _ hp' ha hroom', hdest]
  rfl

/-- The address that has arrived in A of an exit stands there after it has fired. -/
theorem addressOf_left {f : Fire} (h : f.b.tok? f.idx .a = some f.a) (outs : Nat) (k : ExitKind) : addressOf (f.b.left f.idx outs k) f.idx = f.a.word :=
  congrArg (fun t => (Option.map Token.word t).getD 0) h

/-- Settles O25: `call` and `calli` are calls that leave, to their offset and to the address in A. -/
theorem callsPush : Obligations.CallsPush := by
  unfold Obligations.CallsPush
  intro s f g n w p a hs hp ha hroom
  refine ⟨fun off h => ?_, fun h hal hlt htok => ?_⟩
  · exact exited_call (dest := fun b _ => branchTarget b off) (exec_call g off s) hs h rfl hp ha hroom rfl
  · exact exited_call (dest := addressOf) (exec_calli g s) hs h (indirect_leave hal hlt) hp ha hroom (addressOf_left htok _ _)

/-! ### Returns -/

theorem Run.pop_entry {r : Run s0} {c : Nat} {e : StackEntry} (h : (r.st.ctx c).stack.getLast? = some e) (b : BlockRun) (i : Nat) :
    r.pop c b i = (r.modCtx c (fun x => { x with stack := x.stack.dropLast }), .done (some e)) := by
  unfold Run.pop
  simp only [h]

theorem Run.pop_empty {r : Run s0} {c : Nat} (h : (r.st.ctx c).stack = []) (hs : (r.st.ctx c).spill = 0) (b : BlockRun) (i : Nat) :
    r.pop c b i = (r, .fault 0x04 0x03 0) := by
  unfold Run.pop
  simp only [h, List.getLast?_nil, hs, if_true]

section
variable {g : Gate} {s : State} {f : Fire} {n : BitVec 56} {w : NestRec} (hs : Regular s = true) (h : Leaves s (.ret g) f n w)
include hs h

theorem Run.leaves_atHandlerDepth : ((Run.leaves s (.ret g) f .ret).st.ctx f.c).atHandlerDepth = (s.ctx f.c).atHandlerDepth := by
  rw [(Run.leaves_spec hs h .ret).1.ctx_eq]
  rfl

/-- At the depth of its handler `ret` is a handler return (R376). -/
theorem execRet_handler (hd : (s.ctx f.c).atHandlerDepth = true) :
    exec (.ret g) s = .next ((Run.leaves s (.ret g) f .ret).modRun f.c f.b.iid (fun b => { b with begun := true, exit := some (f.idx, .handlerReturn) })).st := by
  rw [exec_ret, execRet, exitNode_leaves hs h rfl, Run.leaves_atHandlerDepth hs h, if_pos hd]
  rfl

/-- Elsewhere it goes on by what its pop comes to (R73). -/
theorem execRet_pops (hd : (s.ctx f.c).atHandlerDepth = false) {r : Run s} {o : Stacked}
    (hp : (Run.leaves s (.ret g) f .ret).pop f.c (f.b.left f.idx f.sh.outs .ret) f.idx = (r, o)) :
    exec (.ret g) s = .next (match o with
      | .done (some e) => r.names f.c f.b.iid f.idx e.addr .ret e.nest e.widths 0 [] none
      | .done none => r
      | .wait => r
      | .fault k q v => r.exitFault f.c f.b.iid f.idx k q v).st := by
  rw [exec_ret, execRet, exitNode_leaves hs h rfl, Run.leaves_atHandlerDepth hs h, if_neg (by rw [hd]; decide)]
  simp only [hp]
  rfl

/-- A `ret` that pops names the block of the entry (R73). -/
theorem exited_ret {e : StackEntry} (hd : (s.ctx f.c).atHandlerDepth = false) (he : (s.ctx f.c).stack.getLast? = some e) :
    Exited s (.ret g) f .ret (fun x => { x with
      stack := x.stack.dropLast, next := some ⟨e.addr, .ret, e.nest, e.widths, 0, [], f.b.iid, f.idx, none⟩ }) := by
  obtain ⟨hl, hrun⟩ := Run.leaves_spec hs h .ret
  have hr := (Run.leaves s (.ret g) f .ret).regular hs
  have he' : ((Run.leaves s (.ret g) f .ret).st.ctx f.c).stack.getLast? = some e := by rwa [hl.ctx_eq]
  have few : ((Run.leaves s (.ret g) f .ret).st.ctx f.c).stack.dropLast.length ≤ 32 := by
    obtain ⟨-, -, -, -, hst, -⟩ := regular_bounded hr f.c
    rw [List.length_dropLast]
    omega
  have hpop := hl.modCtx hr (g := fun x => { x with stack := x.stack.dropLast }) (fun _ _ => rfl) (Ctx.norm_stack (regular_norm hr f.c) few)
  exact exited_of_names hs (execRet_pops hs h hd (Run.pop_entry he' _ _)) hpop ((Run.modCtx_run? hr rfl).trans hrun) rfl rfl

/-- A `ret` with nothing to pop marks its run (R73). -/
theorem execRet_empty (hd : (s.ctx f.c).atHandlerDepth = false) (he : (s.ctx f.c).stack = []) (hsp : (s.ctx f.c).spill = 0) : ∃ t b, exec (.ret g) s = .next t
    ∧ (t.ctx f.c).run? f.b.iid = some b ∧ b.faults = f.b.faults ++ [⟨f.idx, 0x04, 0x03, 0, 0, 0, 0, none⟩] ∧ (t.ctx f.c).next = (s.ctx f.c).next := by
  obtain ⟨hl, hrun⟩ := Run.leaves_spec hs h .ret
  have hr := (Run.leaves s (.ret g) f .ret).regular hs
  have he' : ((Run.leaves s (.ret g) f .ret).st.ctx f.c).stack = [] := by rwa [hl.ctx_eq]
  have hsp' : ((Run.leaves s (.ret g) f .ret).st.ctx f.c).spill = 0 := by rwa [hl.ctx_eq]
  refine ⟨_, _, execRet_pops hs h hd (Run.pop_empty he' hsp' _ _), Run.modRun_run? (Run.regular _ hs) (Run.modRun_run? hr hrun rfl) rfl, rfl, ?_⟩
  have hl' := (hl.same (Run.modRun_same hr f.c f.b.iid (fun b => { b with faults := b.faults ++ [⟨f.idx, 0x04, 0x03, 0, 0, 0, 0, none⟩] }))).same
    (Run.modRun_same (Run.regular _ hs) f.c f.b.iid (fun b => { b with begun := true }))
  have hnext := congrArg Ctx.next hl'.ctx_eq
  exact hnext

/-- A handler return that leaves (R376). -/
theorem exited_handlerReturn (hd : (s.ctx f.c).atHandlerDepth = true) : Exited s (.ret g) f .handlerReturn id := by
  obtain ⟨hl, hrun⟩ := Run.leaves_spec hs h .ret
  have hr := (Run.leaves s (.ret g) f .ret).regular hs
  obtain ⟨ht, ho, hc⟩ := hl.same (Run.modRun_same hr f.c f.b.iid (fun b => { b with begun := true, exit := some (f.idx, .handlerReturn) }))
  exact ⟨_, execRet_handler hs h hd, ht, ho, hc, _, Run.modRun_run? hr hrun rfl, rfl, rfl, rfl⟩

end

/-- Settles O26: a `ret` at the depth of its handler returns from it, and any other goes by what its pop comes to. -/
theorem returnsPop : Obligations.ReturnsPop := by
  unfold Obligations.ReturnsPop
  intro s f g n w hs h
  exact ⟨fun e hd he => exited_ret hs h hd he, execRet_empty hs h, exited_handlerReturn hs h⟩

/-! ### Faults of exits -/

/-- A value other than the default stands in the map once set, canonical or not. -/
theorem SMap.get_set_of_ne {α : Type} [DecidableEq α] {d v : α} (hv : v ≠ d) (m : SMap α) (k : Nat) : SMap.get (SMap.set m d k v) d k = v := by
  induction m with
  | nil =>
    unfold SMap.set
    rw [if_neg hv, SMap.get_cons, if_pos rfl]
  | cons e m ih =>
    obtain ⟨a, x⟩ := e
    unfold SMap.set
    by_cases hlt : k < a
    · rw [if_pos hlt, if_neg hv, SMap.get_cons, if_pos rfl]
    · rw [if_neg hlt]
      by_cases heq : k = a
      · rw [if_pos heq, if_neg hv, SMap.get_cons, if_pos rfl]
      · rw [if_neg heq, SMap.get_cons, if_neg (Ne.symm heq), ih]

theorem BlockRun.faultOnce_keeps (b : BlockRun) (i k q : Nat) : (b.faultOnce i k q).iid = b.iid ∧ (b.faultOnce i k q).exit = b.exit := by
  unfold BlockRun.faultOnce
  split <;> exact ⟨rfl, rfl⟩

/-- What a firing makes plain of its run is no more than faults of it. -/
theorem State.checkRun_keeps (s : State) (c : Nat) (b : BlockRun) : (s.checkRun c b).iid = b.iid ∧ (s.checkRun c b).exit = b.exit := by
  have hexit : (s.checkExit c b).iid = b.iid ∧ (s.checkExit c b).exit = b.exit := by
    unfold State.checkExit
    split
    · exact ⟨rfl, rfl⟩
    · split
      · exact BlockRun.faultOnce_keeps ..
      · exact ⟨rfl, rfl⟩
  have htag : (s.checkTag c (s.checkExit c b)).iid = (s.checkExit c b).iid ∧ (s.checkTag c (s.checkExit c b)).exit = (s.checkExit c b).exit := by
    unfold State.checkTag
    split
    · exact ⟨rfl, rfl⟩
    · split
      · exact BlockRun.faultOnce_keeps ..
      · exact ⟨rfl, rfl⟩
  obtain ⟨hid, hx⟩ := hexit
  obtain ⟨hid', hx'⟩ := htag
  exact ⟨hid'.trans hid, hx'.trans hx⟩

/-- What an exit comes to as its only effect is a fault of its run. -/
def faultOut (l : List NodeFault) (outs : Nat) : NodeOut := { faults := l, outs := outs }

theorem State.record_fault (s : State) (c i : Nat) (sh : Shape) (l : List NodeFault) (outs : Nat) (b : BlockRun) :
    (s.record c i sh (faultOut l outs) b).iid = b.iid ∧ (s.record c i sh (faultOut l outs) b).exit = b.exit := by
  unfold State.record faultOut
  simp only [State.sendTo_none, and_self]

/-- The run of a firing after it, in any state: regular or not. -/
theorem Run.finish_run? {r : Run s0} {c iid i : Nat} {sh : Shape} {o : NodeOut} {b : BlockRun} (ho : o.wait = false) (h : (r.st.ctx c).run? iid = some b)
    (hid : (r.st.checkRun c (r.st.record c i sh o b)).iid = b.iid) :
    ((r.finish c iid i sh o).st.ctx c).run? iid = some (r.st.checkRun c (r.st.record c i sh o b)) := by
  have hrun := Ctx.run?_mapRun (f := fun b => r.st.checkRun c (r.st.record c i sh o b)) h hid
  have hne : ((r.st.ctx c).mapRun iid (fun b => r.st.checkRun c (r.st.record c i sh o b))).norm ≠ Ctx.reset := fun e => by
    have hnone := (congrArg (fun x => x.run? iid) e).symm.trans hrun
    cases hnone
  unfold State.ctx
  rw [Run.finish_st r c iid i sh o ho, SMap.get_set_of_ne hne]
  exact hrun

/-- After a firing that only faults, the run has the exit that it had. -/
theorem Run.finish_fault_exit (r : Run s0) {c iid : Nat} {b : BlockRun} (h : (r.st.ctx c).run? iid = some b) (i : Nat) (sh : Shape) (l : List NodeFault) (outs : Nat) :
    ∃ b', ((r.finish c iid i sh (faultOut l outs)).st.ctx c).run? iid = some b' ∧ b'.exit = b.exit := by
  obtain ⟨hid, hexit⟩ := State.checkRun_keeps r.st c (r.st.record c i sh (faultOut l outs) b)
  obtain ⟨hid', hexit'⟩ := State.record_fault r.st c i sh l outs b
  exact ⟨_, Run.finish_run? rfl h (hid.trans hid'), hexit.trans hexit'⟩

/-- The exit of the run, when it has one, is not this node. -/
def NoneToSettle (b : BlockRun) (i : Nat) : Prop := ∀ j k, b.exit = some (j, k) → j ≠ i

theorem State.settles_noneTo {b : BlockRun} {i : Nat} (h : NoneToSettle b i) (s : State) (c : Nat) : s.settles c b i = false := by
  unfold State.settles
  split
  · next j k he => rw [beq_false_of_ne (h j k he)]; rfl
  · rfl

/-- An exit that only faults its run fires, and names no successor. -/
theorem exitNode_faults {i : Instr} {body : Fire → NodeOut} {settle : Settle} {s : State} {f : Fire} {l : List NodeFault} {outs : Nat} (h : Acts s i f)
    (he : NoneToSettle f.b f.idx) (hbody : body f = faultOut l outs) : exitNode i body settle s = .next (fired s i f (faultOut l outs)) := by
  obtain ⟨hc, hi, hid, hb, -⟩ := fires_run h.1
  have hfire : fireRun i (fun r f => (r, body f)) (Run.start s) = (Run.start s).finish f.c f.b.iid f.idx (shape i) (faultOut l outs) := by
    rw [fireRun_acts (r := Run.start s) h, hbody]
  obtain ⟨b', hb', he'⟩ := Run.finish_fault_exit (Run.start s) hb f.idx (shape i) l outs
  have hstays : NoneToSettle b' f.idx := fun j k hj => he j k (he' ▸ hj)
  unfold exitNode
  simp only [← hc, ← hi, ← hid, hb, State.settles_noneTo he, Bool.false_eq_true, if_false, hfire, hb', State.settles_noneTo hstays]
  rfl

/-- An exit after another (R66). -/
theorem Fire.leave_second {f : Fire} {j : Nat} {k : ExitKind} (h : f.b.exit = some (j, k)) (k' : ExitKind) :
    f.leave k' = faultOut [⟨f.idx, 0x04, 0x02, 0, 0, 0, 0, none⟩] f.sh.outs := by
  unfold Fire.leave
  rw [h]
  rfl

theorem exitNode_second {i : Instr} {settle : Settle} {s : State} {f : Fire} {j : Nat} {k k' : ExitKind} (hx : exec i s = exitNode i (fun f => f.leave k') settle s)
    (houts : (shape i).outs = 1) (h : Acts s i f) (he : f.b.exit = some (j, k)) (hj : j ≠ f.idx) :
    exec i s = .next (fired s i f { faults := [⟨f.idx, 0x04, 0x02, 0, 0, 0, 0, none⟩], outs := 1 }) := by
  rw [hx]
  refine exitNode_faults h (fun j' _ he' => ?_) ((Fire.leave_second he k').trans ?_)
  · cases he.symm.trans he'
    exact hj
  · rw [fires_sh h.1, houts]

theorem indirect_unaligned {f : Fire} (h : f.a.word.toNat % 64 ≠ 0) (k : ExitKind) :
    indirect f k = faultOut [⟨f.idx, 0x07, 0x00, 0, 0, 0, f.a.word.toNat, none⟩] 0 := if_pos h

theorem indirect_beyond {f : Fire} (h : f.a.word.toNat % 64 = 0) (h' : 2 ^ 56 ≤ f.a.word.toNat) (k : ExitKind) :
    indirect f k = faultOut [⟨f.idx, 0x08, 0x00, 0, 0, 0, f.a.word.toNat, none⟩] 0 := (if_neg (not_not_intro h)).trans (if_pos h')

/-- The faults of an address in A, for an exit that leaves to it (R72). -/
theorem exitNode_indirect {i : Instr} {settle : Settle} {s : State} {f : Fire} {k : ExitKind} (hx : exec i s = exitNode i (fun f => indirect f k) settle s)
    (h : Acts s i f) (he : f.b.exit = none) :
    (f.a.word.toNat % 64 ≠ 0 → exec i s = .next (fired s i f { faults := [⟨f.idx, 0x07, 0x00, 0, 0, 0, f.a.word.toNat, none⟩] }))
    ∧ (f.a.word.toNat % 64 = 0 → 2 ^ 56 ≤ f.a.word.toNat →
        exec i s = .next (fired s i f { faults := [⟨f.idx, 0x08, 0x00, 0, 0, 0, f.a.word.toNat, none⟩] })) := by
  have hnone : NoneToSettle f.b f.idx := fun j k hj => by
    rw [he] at hj
    cases hj
  rw [hx]
  exact ⟨fun ha => exitNode_faults h hnone (indirect_unaligned ha k), fun ha hlt => exitNode_faults h hnone (indirect_beyond ha hlt k)⟩

/-- Settles O27: every exit is an `exitNode`, whose firing comes to the fault alone. -/
theorem exitFaults : Obligations.ExitFaults := by
  unfold Obligations.ExitFaults
  intro s f g off
  refine ⟨fun i hi j k h he hj => ?_, fun i hi h he => ?_⟩
  · simp only [List.mem_cons, List.not_mem_nil, or_false] at hi
    rcases hi with rfl | rfl | rfl | rfl | rfl
    · exact exitNode_second (exec_br g off s) rfl h he hj
    · exact exitNode_second (exec_call g off s) rfl h he hj
    · exact exitNode_second (exec_brn g s) rfl h he hj
    · exact exitNode_second (exec_ret g s) rfl h he hj
    · exact exitNode_second (exec_halt g s) rfl h he hj
  · simp only [List.mem_cons, List.not_mem_nil, or_false] at hi
    rcases hi with rfl | rfl
    · exact exitNode_indirect (exec_bri g s) h he
    · exact exitNode_indirect (exec_calli g s) h he

end Sys2Proof.Machine

/-! The commit of a run while an operation already has the next identifier (R67, R180). -/

namespace Sys2Proof.Machine

open Sys2Proof

/-- A posted command of the committing run: an operation with the next identifier is to be made of it. -/
def postedSpawn : Cmd := ⟨.spawn, 0, .scalar, 0, .scalar, 0⟩

/-- A run that has left by `br`, with one posted command to commit. -/
def spawningRun : BlockRun :=
  { iid := 0, addr := 0, cfg := 0, slot := 0, frame := 0, nest := 0, widths := [], det := false, toks := [], counts := [], fired := [], ancest := [], entered := [], outs := 0,
    faults := [], exit := some (0, .br), effs := [⟨0, .cmd postedSpawn⟩], flags := 0, carried := [], undo := ⟨[], 0, 0, none⟩, begun := true, parked := [], denied := [], spilled := [] }

/-- Its block, of no words. -/
def emptyBlock : Placed :=
  { cfg := 0, slot := 0, addr := 0, grp := 0, words := [], pool := none, next' := none, det := false, loop := false, safe := false, nout := 0, pin := none, pinBy := 0 }

/-- An operation that holds the next identifier, of a context that no longer lives. -/
def strayOp : EngOp :=
  { id := 1, ticket := 0, c := 640, core := 0, launch := 0, node := 0, part := 0, grp := 0, rank := 0, iid := 0, seq := 0, blk := 0, tag := 0, widths := [],
    idx := 0, nodeNo := 0, ancest := 0, after := [], cmd := postedSpawn, waited := false, t0 := .none, t1 := .none, shapes := [], desc := [],
    phase := 0, row := 0, drops := 0, failmap := 0, parked := false, denied := none, attn := none, data := [], wrote := 0, sent := 0, failed := none, at' := 0, grant := 0 }

/-- Context 0 is to commit its run while an operation with the next identifier stands. -/
def takenIdentifier : State :=
  { State.reset with
    ctxs := [(0, { Ctx.reset with mode := .running, runs := [spawningRun] })], cores := [(0, { Core.reset with placed := [emptyBlock] })], ops := [strayOp] }

theorem takenIdentifier_regular : Regular takenIdentifier = true := by decide +kernel

theorem takenIdentifier_commits : takenIdentifier.committing 0 = some (spawningRun, 0, .br) ∧ (takenIdentifier.ctx 0).asyncs = [] ∧ trapsOf spawningRun = []
    ∧ takenIdentifier.draining (takenIdentifier.ctx 0).part = false ∧ spillWritten spawningRun = none := by decide +kernel

/-- The mode of context 0 in the state that a step goes on with. -/
def modeAfter : Host.Outcome State Fault Refusal → Option CtxMode
  | .next t => some (t.ctx 0).mode
  | _ => none

/-- The commit posts its command under the identifier of the stray operation, which fails for want of a launch, and with it the node of context 0. -/
theorem takenIdentifier_frees : modeAfter (exec (.instanceCommit 0) takenIdentifier) = some .free := by decide +kernel

/-- Refutes O55: the commit clause lets an operation stand that already has the identifier of the operation about to be posted. Then the commit of a run with a posted `spawn`
starts that operation in place of its own; it fails, its node with it, and the context is free after the commit and not running. (No run reaches such a state; the begin clause
excludes the like for runs, and the commit clause does not.) -/
theorem not_runsBeginAndCommit : ¬ Obligations.RunsBeginAndCommit := by
  unfold Obligations.RunsBeginAndCommit
  intro h
  obtain ⟨-, hcommit, -⟩ := h takenIdentifier 0 takenIdentifier_regular
  obtain ⟨hc, hasync, htraps, hdrain, hspill⟩ := takenIdentifier_commits
  obtain ⟨hleft, -⟩ := hcommit spawningRun 0 .br (by decide) hc hasync htraps hdrain
  obtain ⟨t, ht, -, -, -, hmode, -⟩ := hleft (List.mem_cons_self ..) hspill
  have hfree := takenIdentifier_frees
  rw [ht] at hfree
  have hrunning : (some (t.ctx 0).mode : Option CtxMode) = some .running := congrArg some hmode
  exact absurd (hrunning.symm.trans hfree) (by decide)

end Sys2Proof.Machine

/-! Integer and address instructions (R93 to R102): what the model computes on 64-bit words, as operations on bit vectors of the width, and the nodes that deliver
it. -/

namespace Sys2Proof.Machine

open Sys2Proof

variable {w : Width} {a b : Word64}

/-! ### Operands and results at a width (R94) -/

theorem bits_pos (w : Width) : 0 < w.bits := by cases w <;> decide

theorem bits_le_64 (w : Width) : w.bits ≤ 64 := by cases w <;> decide

theorem lowBits_eq (w : Width) (a : Word64) : lowBits w a = (low w a).toNat := (BitVec.toNat_setWidth w.bits a).symm

/-- The signed reading of a number is that of the bit vector of its low bits. -/
theorem signedOf_eq_toInt {n : Nat} (hn : 0 < n) (x : Nat) : signedOf n x = (BitVec.ofNat n x).toInt := by
  have half : 2 ^ (n - 1) * 2 = 2 ^ n := Nat.two_pow_pred_mul_two hn
  have top : x % 2 ^ n < 2 ^ (n - 1) ↔ 2 * (x % 2 ^ n) < 2 ^ n := by omega
  unfold signedOf
  rw [BitVec.toInt_eq_toNat_cond, BitVec.toNat_ofNat]
  simp only [top]

theorem signedBits_eq (w : Width) (a : Word64) : signedBits w a = (low w a).toInt := by
  rw [signedBits, signedOf_eq_toInt (bits_pos w), BitVec.ofNat_toNat]

theorem signedBits_eq_zero : signedBits w b = 0 ↔ low w b = 0 := by
  rw [signedBits_eq, ← BitVec.toInt_inj]
  exact iff_of_eq (congrArg _ BitVec.toInt_zero.symm)

theorem lowBits_eq_zero : lowBits w b = 0 ↔ low w b = 0 := by
  rw [lowBits_eq, ← BitVec.toNat_inj]
  rfl

theorem wrapInt_eq (w : Width) (v : Int) : wrapInt w v = (BitVec.ofInt w.bits v).setWidth 64 := by
  rw [← BitVec.ofNat_toNat, BitVec.toNat_ofInt]
  rfl

theorem wrapNat_eq (w : Width) (v : Nat) : wrapNat w v = (BitVec.ofNat w.bits v).setWidth 64 := by
  rw [← BitVec.ofNat_toNat, BitVec.toNat_ofNat]
  rfl

/-- A number that a bit vector of the width is, modulo the width, wraps to its zero extension. -/
theorem wrapNat_of_mod {v : Nat} {x : BitVec w.bits} (h : v % 2 ^ w.bits = x.toNat) : wrapNat w v = x.setWidth 64 := by
  rw [wrapNat, h, BitVec.ofNat_toNat]

theorem wrapNat_toNat (w : Width) (x : BitVec w.bits) : wrapNat w x.toNat = x.setWidth 64 := wrapNat_of_mod (Nat.mod_eq_of_lt x.isLt)

theorem wrapNat_word (w : Width) (x : Word64) : wrapNat w x.toNat = (low w x).setWidth 64 := wrapNat_of_mod (BitVec.toNat_setWidth w.bits x).symm

theorem wrapNat_lowBits (w : Width) (a : Word64) : wrapNat w (lowBits w a) = (low w a).setWidth 64 := by rw [lowBits_eq, wrapNat_toNat]

/-! ### Sums, products and their upper halves (R95) -/

theorem addOf_eq : addOf w a b = (low w a + low w b).setWidth 64 := by
  rw [addOf, lowBits_eq, lowBits_eq]
  exact wrapNat_of_mod (BitVec.toNat_add ..).symm

theorem subOf_eq : subOf w a b = (low w a - low w b).setWidth 64 := by
  rw [subOf, lowBits_eq, lowBits_eq]
  refine wrapNat_of_mod ?_
  rw [BitVec.toNat_sub, Nat.add_sub_assoc (Nat.le_of_lt (low w b).isLt), Nat.add_comm]

theorem mulOf_eq : mulOf w a b = (low w a * low w b).setWidth 64 := by
  rw [mulOf, lowBits_eq, lowBits_eq]
  exact wrapNat_of_mod (BitVec.toNat_mul ..).symm

theorem mulhOf_eq : mulhOf w a b = (BitVec.ofInt w.bits ((low w a).toInt * (low w b).toInt / 2 ^ w.bits)).setWidth 64 := by
  rw [mulhOf, signedBits_eq, signedBits_eq, wrapInt_eq]
  rfl

theorem mulhnOf_eq : mulhnOf w a b = (BitVec.ofNat w.bits ((low w a).toNat * (low w b).toNat / 2 ^ w.bits)).setWidth 64 := by
  rw [mulhnOf, lowBits_eq, lowBits_eq, wrapNat_eq]

/-! ### Logic, minimum and maximum (R95) -/

theorem low_and : low w (a &&& b) = low w a &&& low w b := BitVec.setWidth_and

theorem low_or : low w (a ||| b) = low w a ||| low w b := BitVec.setWidth_or

theorem low_xor : low w (a ^^^ b) = low w a ^^^ low w b := BitVec.setWidth_xor

theorem low_not : low w (~~~a) = ~~~(low w a) := BitVec.setWidth_not (bits_le_64 w)

theorem andOf_eq : andOf w a b = (low w a &&& low w b).setWidth 64 := by
  rw [andOf, wrapNat_word, low_and]

theorem orOf_eq : orOf w a b = (low w a ||| low w b).setWidth 64 := by
  rw [orOf, wrapNat_word, low_or]

theorem xorOf_eq : xorOf w a b = (low w a ^^^ low w b).setWidth 64 := by
  rw [xorOf, wrapNat_word, low_xor]

theorem andnOf_eq : andnOf w a b = (low w a &&& ~~~(low w b)).setWidth 64 := by
  rw [andnOf, wrapNat_word, low_and, low_not]

/-- The one of two operands that a comparison chooses, zero-extended. -/
theorem wrapNat_choice {p q : Prop} [Decidable p] [Decidable q] (h : p ↔ q) :
    wrapNat w (if p then lowBits w a else lowBits w b) = (if q then low w a else low w b).setWidth 64 := by
  by_cases hq : q
  · rw [if_pos (h.2 hq), if_pos hq, wrapNat_lowBits]
  · rw [if_neg (mt h.1 hq), if_neg hq, wrapNat_lowBits]

theorem signedBits_le_iff : signedBits w a ≤ signedBits w b ↔ (low w a).sle (low w b) = true := by
  rw [signedBits_eq, signedBits_eq, BitVec.sle_iff_toInt_le]

theorem lowBits_le_iff : lowBits w a ≤ lowBits w b ↔ low w a ≤ low w b := by
  rw [lowBits_eq, lowBits_eq, BitVec.le_def]

theorem minOf_eq : minOf w a b = (if (low w a).sle (low w b) then low w a else low w b).setWidth 64 := wrapNat_choice signedBits_le_iff

theorem maxOf_eq : maxOf w a b = (if (low w b).sle (low w a) then low w a else low w b).setWidth 64 := wrapNat_choice signedBits_le_iff

theorem minnOf_eq : minnOf w a b = (if low w a ≤ low w b then low w a else low w b).setWidth 64 := wrapNat_choice lowBits_le_iff

theorem maxnOf_eq : maxnOf w a b = (if low w b ≤ low w a then low w a else low w b).setWidth 64 := wrapNat_choice lowBits_le_iff

/-! ### Division (R96) -/

/-- A division by zero answers `x` and sets DZ; any other answers `y` and raises no flag. -/
theorem result_of_division {p q : Prop} [Decidable p] [Decidable q] (h : p ↔ q) {z v : Word64} {x y : BitVec w.bits} (hz : z = x.setWidth 64) (hv : v = y.setWidth 64) :
    NodeOut.of (scalar (if p then (z, flagDZ) else (v, 0)).1) (if p then (z, flagDZ) else (v, 0)).2 = if q then result w x flagDZ else result w y := by
  by_cases hq : q
  · rw [if_pos (h.2 hq), if_pos hq, hz]
    rfl
  · rw [if_neg (mt h.1 hq), if_neg hq, hv]
    rfl

theorem divOf_result (w : Width) (a b : Word64) : NodeOut.of (scalar (divOf w a b).1) (divOf w a b).2
    = if low w b = 0 then result w 0 flagDZ else result w (BitVec.ofInt w.bits ((low w a).toInt.tdiv (low w b).toInt)) := by
  refine result_of_division signedBits_eq_zero (BitVec.setWidth_zero ..).symm ?_
  rw [wrapInt_eq, signedBits_eq, signedBits_eq]

theorem divnOf_result (w : Width) (a b : Word64) : NodeOut.of (scalar (divnOf w a b).1) (divnOf w a b).2
    = if low w b = 0 then result w 0 flagDZ else result w (BitVec.ofNat w.bits ((low w a).toNat / (low w b).toNat)) := by
  refine result_of_division lowBits_eq_zero (BitVec.setWidth_zero ..).symm ?_
  rw [wrapNat_eq, lowBits_eq, lowBits_eq]

theorem remOf_result (w : Width) (a b : Word64) : NodeOut.of (scalar (remOf w a b).1) (remOf w a b).2
    = if low w b = 0 then result w (low w a) flagDZ
      else result w (BitVec.ofInt w.bits ((low w a).toInt - (low w b).toInt * (low w a).toInt.tdiv (low w b).toInt)) := by
  refine result_of_division signedBits_eq_zero ?_ ?_
  · rw [wrapInt_eq, signedBits_eq, BitVec.ofInt_toInt]
  · rw [wrapInt_eq, signedBits_eq, signedBits_eq, Int.tmod_def]

theorem remnOf_result (w : Width) (a b : Word64) : NodeOut.of (scalar (remnOf w a b).1) (remnOf w a b).2
    = if low w b = 0 then result w (low w a) flagDZ else result w (BitVec.ofNat w.bits ((low w a).toNat % (low w b).toNat)) := by
  refine result_of_division lowBits_eq_zero (wrapNat_lowBits w a) ?_
  rw [wrapNat_eq, lowBits_eq, lowBits_eq]

/-! ### Shifts (R97) -/

theorem shlOf_eq : shlOf w a b = (low w a <<< b.toNat).setWidth 64 := by
  unfold shlOf
  split
  · rename_i beyond
    rw [BitVec.shiftLeft_eq_zero beyond, BitVec.setWidth_zero]
    rfl
  · refine wrapNat_of_mod ?_
    rw [BitVec.toNat_shiftLeft, Nat.shiftLeft_eq, lowBits_eq]

theorem shrOf_eq : shrOf w a b = (low w a >>> b.toNat).setWidth 64 := by
  unfold shrOf
  split
  · rename_i beyond
    rw [BitVec.ushiftRight_eq_zero beyond, BitVec.setWidth_zero]
    rfl
  · rw [lowBits_eq, ← Nat.shiftRight_eq_div_pow, ← BitVec.toNat_ushiftRight, wrapNat_toNat]

/-- A number between `-2 ^ m` and `2 ^ m` shifted by `m` or more leaves only its sign. -/
theorem ediv_two_pow_of_bounded {x : Int} {m k : Nat} (hk : m ≤ k) (lo : -(2 ^ m : Nat) ≤ x) (hi : x < (2 ^ m : Nat)) :
    x / (2 ^ k : Nat) = if x < 0 then -1 else 0 := by
  have hpow : 2 ^ m ≤ 2 ^ k := Nat.pow_le_pow_right (by decide) hk
  split
  · rename_i neg
    exact Int.ediv_eq_neg_one_of_neg_of_le neg (by omega)
  · exact Int.ediv_eq_zero_of_lt (by omega) (by omega)

/-- A count past the top bit shifts as far as the count that leaves the top bit alone. -/
theorem toInt_ediv_min (x : BitVec w.bits) (n : Nat) : x.toInt / (2 ^ min n (w.bits - 1) : Nat) = x.toInt / (2 ^ n : Nat) := by
  have lo : -(2 ^ (w.bits - 1) : Nat) ≤ x.toInt := x.le_toInt
  have hi : x.toInt < (2 ^ (w.bits - 1) : Nat) := x.toInt_lt
  rcases Nat.le_total n (w.bits - 1) with small | large
  · rw [Nat.min_eq_left small]
  · rw [Nat.min_eq_right large, ediv_two_pow_of_bounded (Nat.le_refl _) lo hi, ediv_two_pow_of_bounded large lo hi]

theorem sraOf_eq : sraOf w a b = ((low w a).sshiftRight b.toNat).setWidth 64 := by
  rw [sraOf, wrapInt_eq, signedBits_eq, toInt_ediv_min, BitVec.sshiftRight, Int.shiftRight_eq_div_pow]

/-- The two parts of a rotation share no bit: their sum is their union. -/
theorem rotlOf_eq : rotlOf w a b = ((low w a).rotateLeft b.toNat).setWidth 64 := by
  have hr : b.toNat % w.bits < w.bits := Nat.mod_lt _ (bits_pos w)
  have low_part : (low w a).toNat >>> (w.bits - b.toNat % w.bits) < 2 ^ (b.toNat % w.bits) := by
    rw [Nat.shiftRight_eq_div_pow, Nat.div_lt_iff_lt_mul (Nat.two_pow_pos _), ← Nat.pow_add, Nat.add_sub_of_le (Nat.le_of_lt hr)]
    exact (low w a).isLt
  unfold rotlOf
  refine wrapNat_of_mod ?_
  rw [lowBits_eq, ← Nat.shiftLeft_eq, ← Nat.shiftRight_eq_div_pow, Nat.shiftLeft_add_eq_or_of_lt low_part, Nat.or_mod_two_pow, BitVec.toNat_rotateLeft,
    Nat.mod_eq_of_lt (Nat.lt_trans low_part (Nat.pow_lt_pow_right (by decide) hr))]

/-! ### Counts of bits and extensions (R98) -/

theorem wrapNat_w64 (n : Nat) : wrapNat .w64 n = BitVec.ofNat 64 n := by
  rw [wrapNat_eq]
  exact BitVec.setWidth_eq _

/-- The number of leading zeros at a width. -/
def leadingZeros (w : Width) (a : Word64) : Nat := if low w a = 0 then w.bits else w.bits - 1 - Nat.log2 (low w a).toNat

theorem clzOf_eq : clzOf w a = BitVec.ofNat 64 (leadingZeros w a) := by
  rw [clzOf, wrapNat_w64, leadingZeros, ite_congr (propext lowBits_eq_zero) (fun _ => rfl) (fun _ => rfl), lowBits_eq]

theorem leadingZeros_spec (w : Width) (a : Word64) : leadingZeros w a ≤ w.bits ∧ (∀ k, w.bits - leadingZeros w a ≤ k → (low w a).getLsbD k = false)
    ∧ (leadingZeros w a < w.bits → (low w a).getLsbD (w.bits - 1 - leadingZeros w a) = true) := by
  unfold leadingZeros
  split
  · rename_i zero
    exact ⟨Nat.le_refl _, fun k _ => zero ▸ BitVec.getLsbD_zero, fun h => absurd h (Nat.lt_irrefl _)⟩
  · rename_i zero
    have nonzero : (low w a).toNat ≠ 0 := fun h => zero (BitVec.eq_of_toNat_eq h)
    have top : Nat.log2 (low w a).toNat < w.bits := (Nat.log2_lt nonzero).2 (low w a).isLt
    refine ⟨by omega, fun k hk => ?_, fun _ => ?_⟩
    · have above : (low w a).toNat < 2 ^ k := (Nat.log2_lt nonzero).1 (by omega)
      exact Nat.testBit_lt_two_pow above
    · rw [Nat.sub_sub_self (by omega)]
      exact Nat.testBit_log2 nonzero

/-- The number of trailing zeros at a width. -/
def trailingZeros (w : Width) (a : Word64) : Nat := ((List.range w.bits).find? (fun i => (low w a).getLsbD i)).getD w.bits

theorem ctzOf_eq : ctzOf w a = BitVec.ofNat 64 (trailingZeros w a) := by
  rw [ctzOf, wrapNat_w64, lowBits_eq]
  rfl

theorem trailingZeros_spec (w : Width) (a : Word64) : trailingZeros w a ≤ w.bits ∧ (∀ k, k < trailingZeros w a → (low w a).getLsbD k = false)
    ∧ (trailingZeros w a < w.bits → (low w a).getLsbD (trailingZeros w a) = true) := by
  unfold trailingZeros
  cases found : (List.range w.bits).find? (fun i => (low w a).getLsbD i) with
  | none =>
    rw [List.find?_range_eq_none] at found
    exact ⟨Nat.le_refl _, fun k hk => (Bool.not_eq_true' _).mp (found k hk), fun h => absurd h (Nat.lt_irrefl _)⟩
  | some n =>
    obtain ⟨one, within, zeros⟩ := List.find?_range_eq_some.1 found
    exact ⟨Nat.le_of_lt (List.mem_range.1 within), fun k hk => (Bool.not_eq_true' _).mp (zeros k hk), fun _ => one⟩

theorem popcOf_eq : popcOf w a = BitVec.ofNat 64 ((List.range w.bits).filter (fun k => (low w a).getLsbD k)).length := by
  rw [popcOf, wrapNat_w64, lowBits_eq]
  rfl

theorem sextOf_eq : sextOf w a = (low w a).signExtend 64 := by
  rw [sextOf, signedBits, ofInt_signedOf, BitVec.ofNat_toNat]

/-! ### Bit fields and `lea` (R99, R100) -/

theorem bfxOf_eq {p : Nat} : bfxOf w p a = (a.extractLsb' p w.bits).setWidth 64 := by
  refine wrapNat_of_mod ?_
  rw [BitVec.extractLsb'_toNat, Nat.shiftRight_eq_div_pow]

/-- The bits of the field of `w` bits at position `p`. -/
def fieldMask (w : Width) (p : Nat) : Word64 := (BitVec.allOnes w.bits).setWidth 64 <<< p

/-- What a mask takes out of a word can be added to a value that stands within the mask. -/
theorem and_not_add_eq_or {m y : Word64} (h : y &&& m = y) (x : Word64) : (x &&& ~~~m) + y = x &&& ~~~m ||| y := by
  refine BitVec.add_eq_or_of_and_eq_zero _ _ ?_
  rw [← h, BitVec.and_comm y m, BitVec.and_assoc, ← BitVec.and_assoc (~~~m), BitVec.and_comm (~~~m) m, BitVec.and_not_self]
  exact (congrArg _ BitVec.zero_and).trans BitVec.and_zero

theorem sub_and_mask (x m : Word64) : x - (x &&& m) = x &&& ~~~m := by
  have parts : (x &&& ~~~m) + (x &&& m) = x := by
    rw [and_not_add_eq_or (by rw [BitVec.and_assoc, BitVec.and_self]), ← BitVec.and_or_distrib_left, BitVec.not_or_self]
    exact BitVec.and_allOnes
  have cancel := BitVec.add_sub_cancel (x &&& ~~~m) (x &&& m)
  rwa [parts] at cancel

/-- The field where it stands in the word. -/
theorem and_fieldMask (a : Word64) (p : Nat) : a &&& fieldMask w p = (a.extractLsb' p w.bits).setWidth 64 <<< p := by
  ext k hk
  by_cases below : k < p
  · simp only [fieldMask, BitVec.getElem_and, BitVec.getElem_shiftLeft, below, decide_true, Bool.not_true, Bool.false_and, Bool.and_false]
  · simp only [fieldMask, BitVec.getElem_and, BitVec.getElem_shiftLeft, below, decide_false, Bool.not_false, Bool.true_and, Bool.and_comm, BitVec.getElem_setWidth,
      BitVec.getLsbD_allOnes, BitVec.getLsbD_extractLsb', Nat.add_sub_cancel' (Nat.le_of_not_lt below), hk, BitVec.getLsbD_eq_getElem]

/-- A value of the width, shifted to the position of a field, stands within it. -/
theorem shifted_and_fieldMask (x : BitVec w.bits) (p : Nat) : x.setWidth 64 <<< p &&& fieldMask w p = x.setWidth 64 <<< p := by
  rw [fieldMask, ← BitVec.shiftLeft_and_distrib, ← BitVec.setWidth_and, BitVec.and_allOnes]

theorem ofNat_mul_two_pow (x : BitVec w.bits) (p : Nat) : BitVec.ofNat 64 (x.toNat * 2 ^ p) = x.setWidth 64 <<< p := by
  refine BitVec.eq_of_toNat_eq ?_
  rw [BitVec.toNat_ofNat, BitVec.toNat_shiftLeft, BitVec.toNat_setWidth_of_le (bits_le_64 w), Nat.shiftLeft_eq]

/-- The field is taken out of A and the low bits of B are put in its place. -/
theorem bfiOf_eq {p : Nat} : bfiOf w p a b = (a &&& ~~~(fieldMask w p)) ||| (low w b).setWidth 64 <<< p := by
  have field : BitVec.ofNat 64 (a.toNat / 2 ^ p % 2 ^ w.bits * 2 ^ p) = a &&& fieldMask w p := by
    rw [and_fieldMask, ← ofNat_mul_two_pow, BitVec.extractLsb'_toNat, Nat.shiftRight_eq_div_pow]
  have within : a.toNat / 2 ^ p % 2 ^ w.bits * 2 ^ p ≤ a.toNat := Nat.le_trans (Nat.mul_le_mul_right _ (Nat.mod_le ..)) (Nat.div_mul_le_self ..)
  rw [bfiOf, lowBits_eq, BitVec.ofNat_add, ← BitVec.ofNat_sub_ofNat_of_le _ _ (Nat.lt_of_le_of_lt within a.isLt) within, field, ofNat_mul_two_pow, BitVec.ofNat_toNat,
    BitVec.setWidth_eq, sub_and_mask, and_not_add_eq_or (shifted_and_fieldMask ..)]

theorem twoPow_eq_pow (n : Nat) : BitVec.twoPow 64 n = 2 ^ n := by
  induction n with
  | zero => rfl
  | succ n ih =>
    rw [← BitVec.twoPow_mul_twoPow_eq, ih]
    rfl

theorem leaOf_eq {n : Nat} : leaOf n a b = a + b * 2 ^ n := by
  rw [leaOf, BitVec.shiftLeft_eq_mul_twoPow, twoPow_eq_pow]

/-! ### Comparisons and immediates (R101, R102) -/

theorem eqOf_eq : eqOf w a b = decide (low w a = low w b) := by
  simp only [eqOf, lowBits_eq, BitVec.toNat_inj]

theorem not_eqOf : (!eqOf w a b) = decide (low w a ≠ low w b) := by
  rw [eqOf_eq]
  exact (decide_not ..).symm

theorem ltOf_eq : ltOf w a b = decide ((low w a).toInt < (low w b).toInt) := by rw [ltOf, signedBits_eq, signedBits_eq]

theorem leOf_eq : leOf w a b = decide ((low w a).toInt ≤ (low w b).toInt) := by rw [leOf, signedBits_eq, signedBits_eq]

theorem ltnOf_eq : ltnOf w a b = decide ((low w a).toNat < (low w b).toNat) := by rw [ltnOf, lowBits_eq, lowBits_eq]

theorem lenOf_eq : lenOf w a b = decide ((low w a).toNat ≤ (low w b).toNat) := by rw [lenOf, lowBits_eq, lowBits_eq]

theorem toNat_immNat (v : BitVec 10) : (immNat v).toNat = v.toNat := BitVec.toNat_setWidth_of_le (by decide)

/-! ### Nodes that deliver a scalar, and nodes that compare -/

variable {i : Instr} {op : Word64 → Word64 → Word64}

/-- What a scalar node comes to when it acts. -/
theorem yields_scalarNode {op : Word64 → Word64 → Word64 × FlagSet} {o : Fire → NodeOut} (hx : ∀ s, exec i s = scalarNode i op s)
    (ho : ∀ f : Fire, NodeOut.of (scalar (op f.a.word f.b'.word).1) (op f.a.word f.b'.word).2 = o f) : Yields i (fun _ f => o f) := by
  intro s f h
  rw [hx, scalarNode, fireNode_acts h]
  exact congrArg _ (congrArg _ (ho f))

/-- A scalar node that raises no flag, whose value is the zero extension of a bit vector of the width. -/
theorem yields_result {v : Fire → BitVec w.bits} (hx : ∀ s, exec i s = scalarNode i (fun a b => (op a b, 0)) s)
    (hv : ∀ f : Fire, op f.a.word f.b'.word = (v f).setWidth 64) : Yields i (fun _ f => result w (v f)) :=
  yields_scalarNode hx fun f => by
    rw [hv]
    rfl

/-- A scalar node that raises no flag, whose value has all 64 bits. -/
theorem yields_result64 {v : Fire → Word64} (hx : ∀ s, exec i s = scalarNode i (fun a b => (op a b, 0)) s)
    (hv : ∀ f : Fire, op f.a.word f.b'.word = v f) : Yields i (fun _ f => result64 (v f)) :=
  yields_scalarNode hx fun f => by
    rw [hv]
    rfl

/-- What a comparison comes to when it acts. -/
theorem yields_outcome {op : Word64 → Word64 → Bool} {p : Fire → Bool} (hx : ∀ s, exec i s = compareNode i op s)
    (hp : ∀ f : Fire, op f.a.word f.b'.word = p f) : Yields i (fun _ f => outcome (p f)) := by
  intro s f h
  rw [hx, compareNode, fireNode_acts h]
  dsimp only
  rw [hp]
  rfl

/-! ### The nodes' results -/

/-- Settles O14: each node delivers its operation on the low bits of its operands. -/
theorem arithmeticAndLogicResults : Obligations.ArithmeticAndLogicResults := by
  unfold Obligations.ArithmeticAndLogicResults
  refine ⟨fun w g t0 t1 => ⟨?_, ?_, ?_, ?_, ?_⟩, fun w g t0 t1 => ⟨?_, ?_, ?_, ?_, ?_, ?_, ?_, ?_⟩⟩
  · exact yields_result (exec_add w g t0 t1) fun _ => addOf_eq
  · exact yields_result (exec_sub w g t0 t1) fun _ => subOf_eq
  · exact yields_result (exec_mul w g t0 t1) fun _ => mulOf_eq
  · exact yields_result (exec_mulh w g t0 t1) fun _ => mulhOf_eq
  · exact yields_result (exec_mulhn w g t0 t1) fun _ => mulhnOf_eq
  · exact yields_result (exec_and w g t0 t1) fun _ => andOf_eq
  · exact yields_result (exec_or w g t0 t1) fun _ => orOf_eq
  · exact yields_result (exec_xor w g t0 t1) fun _ => xorOf_eq
  · exact yields_result (exec_andn w g t0 t1) fun _ => andnOf_eq
  · exact yields_result (exec_min w g t0 t1) fun _ => minOf_eq
  · exact yields_result (exec_max w g t0 t1) fun _ => maxOf_eq
  · exact yields_result (exec_minn w g t0 t1) fun _ => minnOf_eq
  · exact yields_result (exec_maxn w g t0 t1) fun _ => maxnOf_eq

/-- Settles O15: a divisor that is zero in its low bits raises DZ, and any other divides the low bits of the dividend. -/
theorem divisionResults : Obligations.DivisionResults := by
  unfold Obligations.DivisionResults
  refine fun w g t0 t1 => ⟨?_, ?_, ?_, ?_⟩
  · exact yields_scalarNode (exec_div w g t0 t1) fun _ => divOf_result w _ _
  · exact yields_scalarNode (exec_rem w g t0 t1) fun _ => remOf_result w _ _
  · exact yields_scalarNode (exec_divn w g t0 t1) fun _ => divnOf_result w _ _
  · exact yields_scalarNode (exec_remn w g t0 t1) fun _ => remnOf_result w _ _

/-- Settles O16: a count that reaches the width leaves nothing, or the sign, as the shift of a bit vector does. -/
theorem shiftResults : Obligations.ShiftResults := by
  unfold Obligations.ShiftResults
  refine fun w g t0 t1 => ⟨?_, ?_, ?_, ?_⟩
  · exact yields_result (exec_shl w g t0 t1) fun _ => shlOf_eq
  · exact yields_result (exec_shr w g t0 t1) fun _ => shrOf_eq
  · exact yields_result (exec_sra w g t0 t1) fun _ => sraOf_eq
  · exact yields_result (exec_rotl w g t0 t1) fun _ => rotlOf_eq

/-- Settles O17: the counts of zeros are `leadingZeros` and `trailingZeros`; the other results are operations on bit vectors, and hold at every position of a field. -/
theorem bitResults : Obligations.BitResults := by
  unfold Obligations.BitResults
  refine fun w g t0 t1 => ⟨⟨fun _ f => leadingZeros w f.a.word, ?_, fun _ f => leadingZeros_spec w f.a.word⟩,
    ⟨fun _ f => trailingZeros w f.a.word, ?_, fun _ f => trailingZeros_spec w f.a.word⟩, ?_, ?_, ?_, fun p _ => ?_, fun p _ => ?_, fun sh => ?_⟩
  · exact yields_result64 (exec_clz w g t0 t1) fun _ => clzOf_eq
  · exact yields_result64 (exec_ctz w g t0 t1) fun _ => ctzOf_eq
  · exact yields_result64 (exec_popc w g t0 t1) fun _ => popcOf_eq
  · exact yields_result64 (exec_sext w g t0 t1) fun _ => sextOf_eq
  · exact yields_result64 (exec_zext w g t0 t1) fun f => wrapNat_lowBits w f.a.word
  · exact yields_result (exec_bfx w g p t0) fun _ => bfxOf_eq
  · exact yields_result64 (exec_bfi w g p t0) fun _ => bfiOf_eq
  · exact yields_result64 (exec_lea g sh t0) fun _ => leaOf_eq

/-- Settles O18: an immediate stands in the place of B; a count, and the bound of an unsigned comparison, is the immediate itself. -/
theorem compareAndImmediateResults : Obligations.CompareAndImmediateResults := by
  unfold Obligations.CompareAndImmediateResults
  refine ⟨fun w g t0 t1 => ⟨?_, ?_, ?_, ?_, ?_, ?_⟩, fun w g v t0 => ⟨?_, ?_, ?_, ?_, ?_, ?_, ?_, ?_, ?_, ?_, ?_, ?_, ?_, ?_⟩⟩
  · exact yields_outcome (exec_cmpEq w g t0 t1) fun _ => eqOf_eq
  · exact yields_outcome (exec_cmpNe w g t0 t1) fun _ => not_eqOf
  · exact yields_outcome (exec_cmpLt w g t0 t1) fun _ => ltOf_eq
  · exact yields_outcome (exec_cmpLe w g t0 t1) fun _ => leOf_eq
  · exact yields_outcome (exec_cmpLtn w g t0 t1) fun _ => ltnOf_eq
  · exact yields_outcome (exec_cmpLen w g t0 t1) fun _ => lenOf_eq
  · exact yields_result (exec_addi w g v t0) fun _ => addOf_eq
  · exact yields_result (exec_andi w g v t0) fun _ => andOf_eq
  · exact yields_result (exec_ori w g v t0) fun _ => orOf_eq
  · exact yields_result (exec_xori w g v t0) fun _ => xorOf_eq
  · exact yields_result (exec_muli w g v t0) fun _ => mulOf_eq
  · exact yields_result (exec_shli w g v t0) fun _ => by rw [shlOf_eq, toNat_immNat]
  · exact yields_result (exec_shri w g v t0) fun _ => by rw [shrOf_eq, toNat_immNat]
  · exact yields_result (exec_srai w g v t0) fun _ => by rw [sraOf_eq, toNat_immNat]
  · exact yields_outcome (exec_cmpiEq w g v t0) fun _ => eqOf_eq
  · exact yields_outcome (exec_cmpiNe w g v t0) fun _ => not_eqOf
  · exact yields_outcome (exec_cmpiLt w g v t0) fun _ => ltOf_eq
  · exact yields_outcome (exec_cmpiLe w g v t0) fun _ => leOf_eq
  · exact yields_outcome (exec_cmpiLtn w g v t0) fun _ => by rw [lowBits_eq]
  · exact yields_outcome (exec_cmpiLen w g v t0) fun _ => by rw [lowBits_eq]

end Sys2Proof.Machine

/-! Rounding (R144 to R146): how many units a magnitude rounds to, the values that a format holds, and the elements that stand for them. -/

namespace Sys2Proof.Machine

open Sys2Proof

/-! ### Rounding to an integer -/

/-- A magnitude of `n` units and `r` parts of `d` rounds up to `n + 1`. -/
def roundsUp (rm : Rm) (neg : Bool) (n r d : Nat) : Bool :=
  match rm with
  | .rne => decide (d < 2 * r) || (decide (2 * r = d) && n % 2 == 1)
  | .rz => false
  | .ru => !neg && r != 0
  | .rd => neg && r != 0

theorem roundsUp_exact (rm : Rm) (neg : Bool) (n : Nat) {d : Nat} (hd : 0 < d) : roundsUp rm neg n 0 d = false := by
  cases rm <;> simp [roundsUp, Nat.ne_of_lt hd]

theorem mul_beq_zero {k : Nat} (hk : 0 < k) (r : Nat) : (r * k == 0) = (r == 0) := by
  rw [Bool.eq_iff_iff, beq_iff_eq, beq_iff_eq, Nat.mul_eq_zero, or_iff_left (Nat.ne_of_gt hk)]

/-- Only the ratio of the parts to the unit matters. -/
theorem roundsUp_mul (rm : Rm) (neg : Bool) (n r d : Nat) {k : Nat} (hk : 0 < k) : roundsUp rm neg n (r * k) (d * k) = roundsUp rm neg n r d := by
  have hexact := mul_beq_zero hk r
  cases rm
  case rne => simp only [roundsUp, ← Nat.mul_assoc, Nat.mul_lt_mul_right hk, Nat.mul_right_cancel_iff hk]
  all_goals simp only [roundsUp, bne, hexact]

/-- `m / 2^s`, rounded by its quotient and remainder. -/
theorem intRound_ofNat (rm : Rm) (neg : Bool) (m s : Nat) :
    intRound rm neg m s false = (m / 2 ^ s + (roundsUp rm neg (m / 2 ^ s) (m % 2 ^ s) (2 ^ s)).toNat, m % 2 ^ s == 0) := by
  have hup : ∀ (n : Nat) (up : Bool), (if up then n + 1 else n) = n + up.toNat := fun n up => by cases up <;> rfl
  cases rm <;> simp [intRound, roundsUp, bne, ← hup]

/-- A value with no bit below the unit is exact. -/
theorem intRound_of_nonpos (rm : Rm) (neg : Bool) (m : Nat) {sh : Int} (h : sh ≤ 0) : intRound rm neg m sh false = (m * 2 ^ (-sh).toNat, true) := by
  rcases Int.lt_or_eq_of_le h with hlt | rfl
  · cases rm <;> simp [intRound, Int.not_le.mpr hlt, Nat.ne_of_lt (Nat.two_pow_pos sh.toNat)]
  · cases rm <;> simp [intRound, Nat.mod_one]

/-- Rounding does not depend on the scale at which a magnitude is given. -/
theorem intRound_mul_two_pow (rm : Rm) (neg : Bool) (m k : Nat) (sh : Int) : intRound rm neg (m * 2 ^ k) sh false = intRound rm neg m (sh - k) false := by
  by_cases h : sh ≤ 0
  · rw [intRound_of_nonpos _ _ _ h, intRound_of_nonpos _ _ _ (by omega), show (-(sh - k)).toNat = k + (-sh).toNat by omega, Nat.pow_add, Nat.mul_assoc]
  · have hexact : ∀ r, (r * 2 ^ k == 0) = (r == 0) := mul_beq_zero (Nat.two_pow_pos k)
    obtain ⟨s, rfl⟩ : ∃ s : Nat, sh = s := ⟨sh.toNat, by omega⟩
    rw [intRound_ofNat]
    by_cases hs : s ≤ k
    · have hm : m * 2 ^ k = m * 2 ^ (k - s) * 2 ^ s := by rw [Nat.mul_assoc, ← Nat.pow_add, Nat.sub_add_cancel hs]
      rw [intRound_of_nonpos _ _ _ (by omega), hm, Nat.mul_div_cancel _ (Nat.two_pow_pos s), Nat.mul_mod_left, roundsUp_exact _ _ _ (Nat.two_pow_pos s),
        show (-((s : Int) - k)).toNat = k - s by omega]
      rfl
    · have hp : 2 ^ s = 2 ^ (s - k) * 2 ^ k := by rw [← Nat.pow_add, Nat.sub_add_cancel (by omega)]
      rw [show (s : Int) - k = (s - k : Nat) by omega, intRound_ofNat, hp, Nat.mul_div_mul_right _ _ (Nat.two_pow_pos k), Nat.mul_mod_mul_right,
        roundsUp_mul _ _ _ _ _ (Nat.two_pow_pos k), hexact]

/-! ### Rounding to a format -/

theorem log2_mul_two_pow {m : Nat} (hm : m ≠ 0) (k : Nat) : Nat.log2 (m * 2 ^ k) = Nat.log2 m + k := by
  induction k with
  | zero => simp
  | succ k ih => rw [Nat.pow_succ, ← Nat.mul_assoc, Nat.mul_comm, Nat.log2_two_mul (Nat.mul_ne_zero hm (Nat.ne_of_gt (Nat.two_pow_pos k))), ih, Nat.add_assoc]

/-- A value rounds alike at whatever scale it is written. -/
theorem rnd_mul_two_pow (F : FloatFmt) (rm : Rm) (ovf : Ovf) (neg : Bool) {m : Nat} (hm : m ≠ 0) (k : Nat) (e : Int) :
    rnd F rm ovf (.fin neg (m * 2 ^ k) e false) = rnd F rm ovf (.fin neg m (e + k) false) := by
  have hlg : e + ((Nat.log2 m + k : Nat) : Int) = e + k + (Nat.log2 m : Nat) := by omega
  simp only [rnd, log2_mul_two_pow hm, hlg, intRound_mul_two_pow, Int.sub_sub]

theorem rnd_extOfInt_mul_two_pow (F : FloatFmt) (rm : Rm) (ovf : Ovf) (v : Int) (k : Nat) (e : Int) (z : Bool) :
    rnd F rm ovf (extOfInt (v * (2 ^ k : Nat)) e z) = rnd F rm ovf (extOfInt v (e + k) z) := by
  have hpos : (0 : Int) < (2 ^ k : Nat) := Int.ofNat_lt.mpr (Nat.two_pow_pos k)
  by_cases hv : v = 0
  · simp [extOfInt, hv]
  · have hneg : v * (2 ^ k : Nat) < 0 ↔ v < 0 := by
      rw [← Int.mul_lt_mul_right (b := v) (c := 0) hpos, Int.zero_mul]
    rw [extOfInt, if_neg (Int.mul_ne_zero hv (Int.ne_of_gt hpos)), extOfInt, if_neg hv, Int.natAbs_mul, Int.natAbs_natCast, rnd_mul_two_pow F rm ovf _ (Int.natAbs_ne_zero.mpr hv)]
    simp only [hneg]

/-- The number `n × 2^e` stands in a format at the exponent of its own last bit. -/
structure FloatFmt.Fits (F : FloatFmt) (n : Nat) (e : Int) : Prop where
  pos : 0 < n
  lt : n < 2 ^ F.prec
  least : F.emin - F.prec + 1 ≤ e
  normal : F.emin - F.prec + 1 < e → 2 ^ (F.prec - 1) ≤ n
  most : e ≤ F.emax - F.prec + 1
  largest : e = F.emax - F.prec + 1 → n ≤ F.maxSig

variable {F : FloatFmt} {n : Nat} {e : Int} {x : Nat}

theorem FloatFmt.two_pow_prec (F : FloatFmt) : 2 ^ F.prec = 2 * 2 ^ (F.prec - 1) := by cases F <;> rfl

theorem FloatFmt.two_pow_prec_le_maxSig (F : FloatFmt) : 2 ^ F.prec ≤ F.maxSig * 2 := by cases F <;> decide

/-- The last bit that rounding keeps of a number that fits is its own last bit. -/
theorem FloatFmt.Fits.lastBit (h : F.Fits n e) : max (e + (Nat.log2 n : Nat)) F.emin - (F.prec : Int) + 1 = e := by
  have hlt : Nat.log2 n < F.prec := (Nat.log2_lt (Nat.ne_of_gt h.pos)).mpr h.lt
  by_cases hnorm : e ≤ F.emin - F.prec + 1
  · have := h.least
    omega
  · have hlog : F.prec - 1 ≤ Nat.log2 n := (Nat.le_log2 (Nat.ne_of_gt h.pos)).mpr (h.normal (Int.not_le.mp hnorm))
    omega

theorem FloatFmt.Fits.le_largest (h : F.Fits n e) : n ≤ F.maxSig * 2 ^ (F.emax - F.prec + 1 - e).toNat := by
  rcases Int.lt_or_eq_of_le h.most with hbelow | htop
  · calc n ≤ 2 ^ F.prec := Nat.le_of_lt h.lt
      _ ≤ F.maxSig * 2 := F.two_pow_prec_le_maxSig
      _ ≤ F.maxSig * 2 ^ (F.emax - F.prec + 1 - e).toNat := Nat.mul_le_mul_left _ (Nat.le_self_pow (by omega) 2)
  · rw [htop, Int.sub_self]
    simpa using h.largest htop

/-- A number that fits keeps its value, with no flag. -/
theorem rnd_of_fits (h : F.Fits n e) (rm : Rm) (ovf : Ovf) (neg : Bool) : rnd F rm ovf (.fin neg n e false) = ⟨encodeFloat F neg n e, 0⟩ := by
  have hover : ¬ (F.emax - F.prec + 1 < e ∨ F.maxSig * 2 ^ (F.emax - F.prec + 1 - e).toNat < n) := by
    simpa using And.intro h.most h.le_largest
  simp only [rnd, h.lastBit, Int.sub_self, intRound_of_nonpos rm neg n (Int.le_refl 0)]
  simp [hover, raiseIf]

theorem encodeFloat_subnormal (neg : Bool) (h : n < 2 ^ (F.prec - 1)) (q : Int) : encodeFloat F neg n q = F.sign neg + n := by
  have hn : n ≠ 2 ^ F.prec := by rw [F.two_pow_prec]; omega
  simp [encodeFloat, hn, h]

theorem encodeFloat_normal (neg : Bool) (h : n < 2 ^ (F.prec - 1)) (ex : Nat) :
    encodeFloat F neg (2 ^ (F.prec - 1) + n) ((ex : Int) - F.bias - (F.prec - 1 : Nat)) = F.sign neg + ex * 2 ^ (F.prec - 1) + n := by
  have hn : 2 ^ (F.prec - 1) + n ≠ 2 ^ F.prec := by rw [F.two_pow_prec]; omega
  have hex : ((ex : Int) - F.bias - (F.prec - 1 : Nat) + (F.prec - 1 : Nat) + F.bias).toNat = ex := by omega
  simp only [encodeFloat, if_neg hn, if_neg (Nat.not_lt.mpr (Nat.le_add_right _ n)), hex, Nat.add_sub_cancel_left]

/-! ### What an element stands for (R139, R141) -/

def FloatFmt.expField (F : FloatFmt) (x : Nat) : Nat := x / 2 ^ (F.prec - 1) % 2 ^ (F.bits - F.prec)

def FloatFmt.fracField (F : FloatFmt) (x : Nat) : Nat := x % 2 ^ (F.prec - 1)

def FloatFmt.signField (F : FloatFmt) (x : Nat) : Bool := decide (2 ^ (F.bits - 1) ≤ x % 2 ^ F.bits)

theorem FloatFmt.fracField_lt (F : FloatFmt) (x : Nat) : F.fracField x < 2 ^ (F.prec - 1) := Nat.mod_lt _ (Nat.two_pow_pos _)

theorem FloatFmt.expField_lt (F : FloatFmt) (x : Nat) : F.expField x < 2 ^ (F.bits - F.prec) := Nat.mod_lt _ (Nat.two_pow_pos _)

theorem FloatFmt.signField_eq_true : F.signField x = true ↔ 2 ^ (F.bits - 1) ≤ x % 2 ^ F.bits := decide_eq_true_iff

/-- An element is its sign, exponent and fraction. -/
theorem FloatFmt.fields_eq (h : x < 2 ^ F.bits) : F.sign (F.signField x) + F.expField x * 2 ^ (F.prec - 1) + F.fracField x = x := by
  have hsign : F.sign (F.signField x) = if 2 ^ (F.bits - 1) ≤ x then 2 ^ (F.bits - 1) else 0 := by
    simp only [sign, signField_eq_true, Nat.mod_eq_of_lt h]
  rw [hsign, expField, fracField]
  split
  case isTrue hneg => cases F <;> simp only [bits, prec, Nat.reducePow, Nat.reduceSub] at h hneg ⊢ <;> omega
  case isFalse hneg => cases F <;> simp only [bits, prec, Nat.reducePow, Nat.reduceSub] at h hneg ⊢ <;> omega

/-- `read` on the fields of E4M3 (R141). -/
theorem FloatFmt.read_e4m3 (x : Nat) : FloatFmt.e4m3.read x =
    if FloatFmt.e4m3.expField x = 15 ∧ FloatFmt.e4m3.fracField x = 7 then .nan false
    else if FloatFmt.e4m3.expField x = 0 then
      if FloatFmt.e4m3.fracField x = 0 then .zero (FloatFmt.e4m3.signField x) else .fin (FloatFmt.e4m3.signField x) (FloatFmt.e4m3.fracField x) (-9) false
    else .fin (FloatFmt.e4m3.signField x) (8 + FloatFmt.e4m3.fracField x) ((FloatFmt.e4m3.expField x : Int) - 10) false := rfl

/-- `read` on the fields of the other formats, which have infinities (R139, R141). -/
theorem FloatFmt.read_of_ne_e4m3 (h : F ≠ .e4m3) (x : Nat) : F.read x =
    if F.expField x = 2 ^ (F.bits - F.prec) - 1 then
      if F.fracField x = 0 then .inf (F.signField x) else .nan (decide (F ≠ .e5m2 ∧ F.fracField x < 2 ^ (F.prec - 1 - 1)))
    else if F.expField x = 0 then
      if F.fracField x = 0 then .zero (F.signField x) else .fin (F.signField x) (F.fracField x) (1 - (F.bias : Int) - (F.prec - 1 : Nat)) false
    else .fin (F.signField x) (2 ^ (F.prec - 1) + F.fracField x) ((F.expField x : Int) - F.bias - (F.prec - 1 : Nat)) false := if_neg h

theorem FloatFmt.hasInf_iff : F.hasInf = true ↔ F ≠ .e4m3 := by cases F <;> simp [hasInf]

theorem FloatFmt.read_zero (he : F.expField x = 0) (hf : F.fracField x = 0) : F.read x = .zero (F.signField x) := by
  by_cases hF : F = .e4m3
  · subst hF
    simp [read_e4m3, he, hf]
  · have htop : 0 ≠ 2 ^ (F.bits - F.prec) - 1 := by cases F <;> decide
    simp [read_of_ne_e4m3 hF, he, hf, htop]

theorem FloatFmt.read_subnormal (he : F.expField x = 0) (hf : F.fracField x ≠ 0) :
    F.read x = .fin (F.signField x) (F.fracField x) (F.emin - F.prec + 1) false := by
  by_cases hF : F = .e4m3
  · subst hF
    simp [read_e4m3, he, hf, emin, bias, prec]
  · have htop : 0 ≠ 2 ^ (F.bits - F.prec) - 1 := by cases F <;> decide
    have hlast : (1 - (F.bias : Int) - (F.prec - 1 : Nat)) = F.emin - F.prec + 1 := by cases F <;> rfl
    simp [read_of_ne_e4m3 hF, he, hf, htop, hlast]

/-- Up to the largest finite number, an exponent field other than zero is that of a normal number. -/
theorem FloatFmt.read_normal (he : F.expField x ≠ 0) (hmax : F.expField x * 2 ^ (F.prec - 1) + F.fracField x ≤ F.maxBits) :
    F.read x = .fin (F.signField x) (2 ^ (F.prec - 1) + F.fracField x) ((F.expField x : Int) - F.bias - (F.prec - 1 : Nat)) false := by
  by_cases hF : F = .e4m3
  · subst hF
    have hnan : ¬ (FloatFmt.e4m3.expField x = 15 ∧ FloatFmt.e4m3.fracField x = 7) := fun ⟨h15, h7⟩ => by simp [h15, h7, prec, maxBits, emax, bias, maxSig] at hmax
    rw [read_e4m3, if_neg hnan, if_neg he, Int.sub_sub]
    rfl
  · have htop : F.maxBits < (2 ^ (F.bits - F.prec) - 1) * 2 ^ (F.prec - 1) := by cases F <;> simp [maxBits, emax, bias, prec, maxSig, bits] at hF ⊢
    have hbelow : F.expField x ≠ 2 ^ (F.bits - F.prec) - 1 := fun h => by rw [h] at hmax; omega
    rw [read_of_ne_e4m3 hF, if_neg hbelow, if_neg he]

/-- Above the largest finite number stand an infinity and the NaNs. -/
theorem FloatFmt.read_above (hmax : F.maxBits < F.expField x * 2 ^ (F.prec - 1) + F.fracField x) (hnan : (F.read x).isNan = false) :
    F.read x = .inf (F.signField x) ∧ F.hasInf = true ∧ F.expField x * 2 ^ (F.prec - 1) + F.fracField x = F.infBits := by
  have he := F.expField_lt x
  have hf := F.fracField_lt x
  by_cases hF : F = .e4m3
  · subst hF
    have h7 : FloatFmt.e4m3.expField x = 15 ∧ FloatFmt.e4m3.fracField x = 7 := by
      simp [prec, bits, maxBits, emax, bias, maxSig] at hmax he hf
      omega
    simp [read_e4m3, h7, Ext.isNan] at hnan
  · have htop : F.expField x = 2 ^ (F.bits - F.prec) - 1 := by
      cases F <;> simp [prec, bits, maxBits, emax, bias, maxSig] at hmax he hf hF ⊢ <;> omega
    have hzero : F.fracField x = 0 := Decidable.byContradiction fun hne => by
      simp [read_of_ne_e4m3 hF, htop, hne, Ext.isNan] at hnan
    exact ⟨by rw [read_of_ne_e4m3 hF, if_pos htop, if_pos hzero], hasInf_iff.mpr hF, by rw [htop, hzero, infBits, Nat.add_zero]⟩

/-! ### Reading and rounding -/

/-- The numbers that the fields of a subnormal element stand for. -/
theorem FloatFmt.fits_subnormal (h0 : 0 < n) (h : n < 2 ^ (F.prec - 1)) : F.Fits n (F.emin - F.prec + 1) where
  pos := h0
  lt := by rw [F.two_pow_prec]; omega
  least := Int.le_refl _
  normal := fun hlt => absurd hlt (Int.lt_irrefl _)
  most := by cases F <;> decide
  largest := fun heq => absurd heq (by cases F <;> decide)

/-- The numbers that the fields of a normal element stand for. -/
theorem FloatFmt.fits_normal {ex : Nat} (hex : ex ≠ 0) (h : n < 2 ^ (F.prec - 1)) (hmax : ex * 2 ^ (F.prec - 1) + n ≤ F.maxBits) :
    F.Fits (2 ^ (F.prec - 1) + n) ((ex : Int) - F.bias - (F.prec - 1 : Nat)) where
  pos := Nat.add_pos_left (Nat.two_pow_pos _) n
  lt := by rw [F.two_pow_prec]; omega
  least := by cases F <;> simp [emin, bias, prec] <;> omega
  normal := fun _ => Nat.le_add_right _ _
  most := by cases F <;> simp [emax, bias, prec, maxBits, maxSig] at hmax ⊢ <;> omega
  largest := fun heq => by cases F <;> simp [emax, bias, prec, maxBits, maxSig] at hmax heq ⊢ <;> omega

/-- An element that is no NaN is a zero, an infinity, or a number that fits, and its bits are those of what it stands for. -/
theorem FloatFmt.read_cases (hx : x < 2 ^ F.bits) (hnan : (F.read x).isNan = false) :
    (∃ neg, F.read x = .zero neg ∧ F.sign neg = x)
    ∨ (∃ neg, F.read x = .inf neg ∧ F.hasInf = true ∧ F.sign neg + F.infBits = x)
    ∨ (∃ neg n e, F.read x = .fin neg n e false ∧ F.Fits n e ∧ encodeFloat F neg n e = x) := by
  have hfields := F.fields_eq hx
  have hf := F.fracField_lt x
  by_cases he : F.expField x = 0
  · rw [he, Nat.zero_mul, Nat.add_zero] at hfields
    by_cases hz : F.fracField x = 0
    · exact .inl ⟨_, read_zero he hz, by rwa [hz, Nat.add_zero] at hfields⟩
    · exact .inr (.inr ⟨_, _, _, read_subnormal he hz, fits_subnormal (Nat.pos_of_ne_zero hz) hf, (encodeFloat_subnormal _ hf _).trans hfields⟩)
  · rcases Nat.lt_or_ge F.maxBits (F.expField x * 2 ^ (F.prec - 1) + F.fracField x) with hmax | hmax
    · obtain ⟨hinf, has, hbits⟩ := read_above hmax hnan
      exact .inr (.inl ⟨_, hinf, has, by rwa [Nat.add_assoc, hbits] at hfields⟩)
    · exact .inr (.inr ⟨_, _, _, read_normal he hmax, fits_normal he hf hmax, (encodeFloat_normal _ hf _).trans hfields⟩)

@[simp] theorem rnd_zero (F : FloatFmt) (rm : Rm) (ovf : Ovf) (neg : Bool) : rnd F rm ovf (.zero neg) = ⟨F.sign neg, 0⟩ := rfl

/-- Rounding what an element stands for gives the element back. -/
theorem rnd_read (rm : Rm) (ovf : Ovf) (hx : x < 2 ^ F.bits) (hnan : (F.read x).isNan = false) (hinf : (F.read x).isInf = false) :
    rnd F rm ovf (F.read x) = ⟨x, 0⟩ := by
  rcases F.read_cases hx hnan with ⟨neg, hr, hb⟩ | ⟨neg, hr, -⟩ | ⟨neg, n, e, hr, hfit, hb⟩
  · rw [hr, rnd_zero, hb]
  · simp [hr, Ext.isInf] at hinf
  · rw [hr, rnd_of_fits hfit, hb]

/-! ### The nearest unit in each mode (R144) -/

/-- Rounding down leaves less than a unit. -/
theorem intRound_down {rm : Rm} {neg : Bool} (m sh : Nat) (h : ∀ n r d, roundsUp rm neg n r d = false) {e : Bool}
    (hr : intRound rm neg m sh false = (n, e)) : n * 2 ^ sh ≤ m ∧ m < (n + 1) * 2 ^ sh := by
  rw [intRound_ofNat, h, Prod.mk.injEq] at hr
  obtain ⟨rfl, -⟩ := hr
  exact ⟨Nat.div_mul_le_self m _, Nat.lt_mul_of_div_lt (Nat.lt_succ_self _) (Nat.two_pow_pos sh)⟩

/-- Rounding up adds less than a unit. -/
theorem intRound_up {rm : Rm} {neg : Bool} (m sh : Nat) (h : ∀ n r d, roundsUp rm neg n r d = (r != 0)) {e : Bool}
    (hr : intRound rm neg m sh false = (n, e)) : m ≤ n * 2 ^ sh ∧ n * 2 ^ sh < m + 2 ^ sh := by
  have hm := Nat.div_add_mod' m (2 ^ sh)
  have hlt := Nat.mod_lt m (Nat.two_pow_pos sh)
  rw [intRound_ofNat, h, Prod.mk.injEq] at hr
  obtain ⟨rfl, -⟩ := hr
  by_cases h0 : m % 2 ^ sh = 0 <;> simp only [h0, bne_self_eq_false, bne_iff_ne.mpr, ne_eq, not_false_eq_true, Bool.toNat, cond, Nat.add_mul] <;> omega

/-- Nearest even: at most half a unit away, and even at half a unit. -/
theorem intRound_nearest (neg : Bool) (m sh : Nat) {e : Bool} (hr : intRound .rne neg m sh false = (n, e)) :
    2 * (n * 2 ^ sh) ≤ 2 * m + 2 ^ sh ∧ 2 * m ≤ 2 * (n * 2 ^ sh) + 2 ^ sh
      ∧ ((2 * (n * 2 ^ sh) = 2 * m + 2 ^ sh ∨ 2 * m = 2 * (n * 2 ^ sh) + 2 ^ sh) → n % 2 = 0) := by
  have hm := Nat.div_add_mod' m (2 ^ sh)
  have hlt := Nat.mod_lt m (Nat.two_pow_pos sh)
  rw [intRound_ofNat, Prod.mk.injEq] at hr
  obtain ⟨rfl, -⟩ := hr
  cases hup : roundsUp .rne neg (m / 2 ^ sh) (m % 2 ^ sh) (2 ^ sh) <;> simp [roundsUp] at hup <;> simp only [Bool.toNat, cond, Nat.add_mul] <;> omega

theorem intRound_exact_iff {rm : Rm} {neg : Bool} (m sh : Nat) {e : Bool} (hr : intRound rm neg m sh false = (n, e)) : e = true ↔ 2 ^ sh ∣ m := by
  rw [intRound_ofNat, Prod.mk.injEq] at hr
  rw [← hr.2, beq_iff_eq, Nat.dvd_iff_mod_eq_zero]

/-- Settles O37: the quotient and remainder of the magnitude decide the integer, and what an element stands for fits its format. -/
theorem roundingIsExact : Obligations.RoundingIsExact := by
  unfold Obligations.RoundingIsExact
  refine ⟨fun neg m sh => ⟨?_, ?_, ?_, ?_, ?_, ?_, ?_⟩, fun F rm ovf x => rnd_read rm ovf⟩
  · exact fun n e => intRound_nearest neg m sh
  · exact fun n e => intRound_down m sh fun _ _ _ => rfl
  · exact fun n e => intRound_up m sh fun _ _ _ => rfl
  · exact fun n e => intRound_down m sh fun _ _ _ => rfl
  · exact fun n e => intRound_up m sh fun _ _ _ => rfl
  · exact fun n e => intRound_down m sh fun _ _ _ => rfl
  · exact fun rm n e => intRound_exact_iff m sh

end Sys2Proof.Machine

/-! Sums and special values (R146, R151, R153, R157, R159): exact values at a common scale, the exact sum, group rounding, and the special operands. -/

namespace Sys2Proof.Machine

open Sys2Proof

variable {F : FloatFmt}

/-! ### Values at a scale -/

theorem scaled_fin (neg : Bool) (m : Nat) (e c : Int) (s : Bool) :
    (Ext.fin neg m e s).scaled c = if neg then -((m * 2 ^ (e - c).toNat : Nat) : Int) else (m * 2 ^ (e - c).toNat : Nat) := by
  cases neg <;> simp [Ext.scaled]

/-- A value at its own scale and at a lower one. -/
theorem scaled_lower {t : Ext} {c e0 : Int} (hc : c ≤ e0) (ht : ∀ e, t.exponent = some e → e0 ≤ e) : t.scaled c = t.scaled e0 * (2 ^ (e0 - c).toNat : Nat) := by
  cases t with
  | fin neg m e s =>
    have he : e0 ≤ e := ht e rfl
    rw [Ext.scaled, Ext.scaled, show (e - c).toNat = (e - e0).toNat + (e0 - c).toNat by omega, Nat.pow_add, ← Nat.mul_assoc, Int.natCast_mul, Int.mul_assoc]
  | nan s => exact (Int.zero_mul _).symm
  | inf neg => exact (Int.zero_mul _).symm
  | zero neg => exact (Int.zero_mul _).symm

/-- The exact sum of values, taken at a scale. -/
def sumAt (ts : List Ext) (e0 : Int) : Int := (ts.map (fun t => t.scaled e0)).sum

theorem sumAt_cons (t : Ext) (ts : List Ext) (c : Int) : sumAt (t :: ts) c = t.scaled c + sumAt ts c := List.sum_cons

theorem sumAt_lower {ts : List Ext} {c e0 : Int} (hc : c ≤ e0) (h : ∀ t ∈ ts, ∀ e, t.exponent = some e → e0 ≤ e) :
    sumAt ts c = sumAt ts e0 * (2 ^ (e0 - c).toNat : Nat) := by
  induction ts with
  | nil => exact (Int.zero_mul _).symm
  | cons t ts ih =>
    rw [sumAt_cons, sumAt_cons, scaled_lower hc (h t List.mem_cons_self), ih fun u hu => h u (List.mem_cons_of_mem t hu), Int.add_mul]

theorem sumAt_perm {ts us : List Ext} (h : ts.Perm us) (c : Int) : sumAt ts c = sumAt us c := by
  induction h with
  | nil => rfl
  | cons t _ ih => rw [sumAt_cons, sumAt_cons, ih]
  | swap t u ts => simp only [sumAt_cons, Int.add_left_comm]
  | trans _ _ ih ih' => exact ih.trans ih'

theorem rnd_sumAt_lower (rm : Rm) (ovf : Ovf) (z : Bool) {ts : List Ext} {c e0 : Int} (hc : c ≤ e0)
    (h : ∀ t ∈ ts, ∀ e, t.exponent = some e → e0 ≤ e) : rnd F rm ovf (extOfInt (sumAt ts c) c z) = rnd F rm ovf (extOfInt (sumAt ts e0) e0 z) := by
  rw [sumAt_lower hc h, rnd_extOfInt_mul_two_pow, show c + ((e0 - c).toNat : Int) = e0 by omega]

/-- A sum rounds alike at every scale that its terms are multiples of. -/
theorem rnd_sumAt (rm : Rm) (ovf : Ovf) (z : Bool) {ts : List Ext} {e0 e1 : Int} (h0 : ∀ t ∈ ts, ∀ e, t.exponent = some e → e0 ≤ e)
    (h1 : ∀ t ∈ ts, ∀ e, t.exponent = some e → e1 ≤ e) : rnd F rm ovf (extOfInt (sumAt ts e0) e0 z) = rnd F rm ovf (extOfInt (sumAt ts e1) e1 z) := by
  rw [← rnd_sumAt_lower rm ovf z (Int.min_le_left e0 e1) h0, rnd_sumAt_lower rm ovf z (Int.min_le_right e0 e1) h1]

/-- A number rounds alike as the integer it is at a lower scale. -/
theorem rnd_scaled (rm : Rm) (ovf : Ovf) (z neg : Bool) {m : Nat} (hm : 0 < m) {c e : Int} (hc : c ≤ e) :
    rnd F rm ovf (extOfInt ((Ext.fin neg m e false).scaled c) c z) = rnd F rm ovf (.fin neg m e false) := by
  have hown : extOfInt ((Ext.fin neg m e false).scaled e) e z = .fin neg m e false := by
    cases neg <;> simp [extOfInt, Ext.scaled, Nat.ne_of_gt hm, hm]
  rw [scaled_lower hc (e0 := e) (by rintro _ ⟨⟩; exact Int.le_refl e), rnd_extOfInt_mul_two_pow, show c + ((e - c).toNat : Int) = e by omega, hown]

/-! ### The exact sum (R153, R154) -/

/-- The lane that holds one value. -/
def xsLaneOf (t : Ext) : XsLane := (xsAdd XsLane.zero t).1

/-- Adding a value is merging with the lane that holds it. -/
theorem xsAdd_eq_merge (x : XsLane) (t : Ext) : (xsAdd x t).1 = xsMerge x (xsLaneOf t) := by
  cases t with
  | nan s => simp [xsLaneOf, xsAdd, xsMerge, XsLane.zero]
  | inf neg => cases neg <;> simp [xsLaneOf, xsAdd, xsMerge, XsLane.zero]
  | zero neg => simp [xsLaneOf, xsAdd, xsMerge, XsLane.zero]
  | fin neg m e s => simp [xsLaneOf, xsAdd, xsMerge, XsLane.zero, XsLane.plus, BitVec.ofInt_add]

theorem xsMerge_right_comm (x y z : XsLane) : xsMerge (xsMerge x y) z = xsMerge (xsMerge x z) y := by
  simp only [xsMerge, XsLane.mk.injEq]
  exact ⟨by ac_rfl, by ac_rfl, by ac_rfl, by ac_rfl⟩

theorem xsAdd_comm (x : XsLane) (a b : Ext) : (xsAdd (xsAdd x a).1 b).1 = (xsAdd (xsAdd x b).1 a).1 := by
  simp only [xsAdd_eq_merge]
  exact xsMerge_right_comm x _ _

/-- A finite value is added as a multiple of `2^-160`. -/
theorem xsAdd_fin (x : XsLane) (neg : Bool) (m : Nat) (e : Int) :
    xsAdd x (.fin neg m e false)
      = ({ x with v := if neg then x.v - BitVec.ofNat 320 (m * 2 ^ (e + 160).toNat) else x.v + BitVec.ofNat 320 (m * 2 ^ (e + 160).toNat) }, 0) := by
  rw [xsAdd, scaled_fin, XsLane.plus, BitVec.ofInt_add, BitVec.ofInt_toInt, Int.sub_neg]
  cases neg
  · simp only [Bool.false_eq_true, if_false, BitVec.ofInt_natCast]
  · simp only [if_true, BitVec.ofInt_neg, BitVec.ofInt_natCast, BitVec.sub_eq_add_neg]

theorem FloatFmt.last_bit_above (F : FloatFmt) : -160 ≤ F.emin - F.prec + 1 := by cases F <;> decide

theorem FloatFmt.emax_le (F : FloatFmt) : F.emax ≤ 127 := by cases F <;> decide

/-- A number of a format, as a multiple of `2^-160`, is far below the range of 320 bits. -/
theorem FloatFmt.Fits.units_lt {n w : Nat} {e : Int} (h : F.Fits n e) (hw : 320 ≤ w) : n * 2 ^ (e + 160).toNat < 2 ^ (w - 1) := by
  have hexp : F.prec + (e + 160).toNat ≤ w - 1 := by
    have := h.most
    have := F.emax_le
    have := Int.le_trans F.last_bit_above h.least
    omega
  calc n * 2 ^ (e + 160).toNat < 2 ^ F.prec * 2 ^ (e + 160).toNat := Nat.mul_lt_mul_of_pos_right h.lt (Nat.two_pow_pos _)
    _ = 2 ^ (F.prec + (e + 160).toNat) := (Nat.pow_add ..).symm
    _ ≤ 2 ^ (w - 1) := Nat.pow_le_pow_right Nat.two_pos hexp

/-- A magnitude below half the range is read back from `w` bits with its sign. -/
theorem toInt_ofInt_signed {w a : Nat} (hw : 0 < w) (h : a < 2 ^ (w - 1)) (neg : Bool) :
    (BitVec.ofInt w (if neg then -(a : Int) else a)).toInt = if neg then -(a : Int) else a := by
  have ha : (a : Int) < 2 ^ (w - 1) := by exact_mod_cast h
  refine BitVec.toInt_ofInt_eq_self hw ?_ ?_ <;> split <;> omega

/-- The lane of a number of a format holds that number. -/
theorem xsLaneOf_toInt {n : Nat} {e : Int} (h : F.Fits n e) (neg : Bool) :
    (xsLaneOf (.fin neg n e false)).v.toInt = (Ext.fin neg n e false).scaled (-160) := by
  have hv : (xsLaneOf (.fin neg n e false)).v = BitVec.ofInt 320 ((Ext.fin neg n e false).scaled (-160)) := by
    simp [xsLaneOf, xsAdd, XsLane.plus, XsLane.zero]
  rw [hv, scaled_fin, Int.sub_neg]
  exact toInt_ofInt_signed (by decide) (h.units_lt (Nat.le_refl 320)) neg

/-- A lane without flags rounds what it holds. -/
theorem xsRound_flagless (F : FloatFmt) {x : XsLane} (hn : x.nan = false) (hp : x.pinf = false) (hm : x.ninf = false) :
    xsRound F x = rnd F .rne .default (extOfInt x.v.toInt (-160) false) := by
  simp [xsRound, XsLane.value, hn, hp, hm]

theorem infinite_default (h : F.hasInf = true) (neg : Bool) : infinite F neg .default = ⟨F.sign neg + F.infBits, 0⟩ := by
  simp [infinite, h]

/-- The lane of an infinity rounds to it. -/
theorem xsRound_inf (h : F.hasInf = true) (neg : Bool) : xsRound F (xsLaneOf (.inf neg)) = ⟨F.sign neg + F.infBits, 0⟩ := by
  rw [← infinite_default h neg]
  cases neg <;> simp [xsRound, xsLaneOf, xsAdd, XsLane.zero, XsLane.value, rnd]

theorem xsRound_zero (F : FloatFmt) (neg : Bool) : xsRound F (xsLaneOf (.zero neg)) = ⟨F.sign false, 0⟩ := by
  rw [xsRound_flagless F rfl rfl rfl, show (xsLaneOf (.zero neg)).v.toInt = 0 from BitVec.toInt_zero]
  rfl

/-- An element that is no NaN comes back from a lane that holds it alone, a zero without its sign. -/
theorem xsRound_read {a : Nat} (ha : a < 2 ^ F.bits) (hnan : (F.read a).isNan = false) (hz : F.read a ≠ .zero true) :
    xsRound F (xsLaneOf (F.read a)) = ⟨a, 0⟩ := by
  rcases F.read_cases ha hnan with ⟨neg, hr, hb⟩ | ⟨neg, hr, hinf, hb⟩ | ⟨neg, n, e, hr, hfit, hb⟩
  · obtain rfl : neg = false := by
      cases neg
      · rfl
      · exact absurd hr hz
    rw [hr, xsRound_zero, hb]
  · rw [hr, xsRound_inf hinf, hb]
  · have hscale : -160 ≤ e := Int.le_trans F.last_bit_above hfit.least
    rw [hr, xsRound_flagless F rfl rfl rfl, xsLaneOf_toInt hfit, rnd_scaled _ _ _ _ hfit.pos hscale, rnd_of_fits hfit, hb]

/-- Settles O44: adding a value merges the lane with that of the value, and merging adds modulo 2^320 and ORs flags. -/
theorem exactSumsAreOrderFree : Obligations.ExactSumsAreOrderFree := by
  unfold Obligations.ExactSumsAreOrderFree
  exact ⟨fun _ _ => ⟨rfl, rfl, rfl, rfl⟩, fun x neg m e _ => xsAdd_fin x neg m e, xsAdd_comm, fun _ _ _ => xsRound_read⟩

/-! ### Group rounding (R151) -/

/-- The lower of a scale and the exponent of a term. -/
def lowerTo (c : Int) (t : Ext) : Int := match t.exponent with
  | some e => min c e
  | none => c

/-- The scale at which a group is summed. -/
def groupScale (ts : List Ext) : Int := ts.foldl lowerTo 0

theorem lowerTo_right_comm (c : Int) (t u : Ext) : lowerTo (lowerTo c t) u = lowerTo (lowerTo c u) t := by
  unfold lowerTo
  cases t.exponent <;> cases u.exponent
  case some.some d e => simp only [Int.min_assoc, Int.min_comm d e]
  all_goals rfl

theorem lowerTo_le (c : Int) (t : Ext) : lowerTo c t ≤ c := by
  unfold lowerTo
  split
  · exact Int.min_le_left ..
  · exact Int.le_refl c

theorem lowerTo_le_exponent (c : Int) {t : Ext} {e : Int} (h : t.exponent = some e) : lowerTo c t ≤ e := by
  rw [lowerTo, h]
  exact Int.min_le_right c e

theorem foldl_lowerTo_le (ts : List Ext) (c : Int) : ts.foldl lowerTo c ≤ c := by
  induction ts generalizing c with
  | nil => exact Int.le_refl c
  | cons t ts ih => exact Int.le_trans (ih _) (lowerTo_le c t)

theorem foldl_lowerTo_le_exponent {ts : List Ext} {t : Ext} {e : Int} (c : Int) (ht : t ∈ ts) (h : t.exponent = some e) : ts.foldl lowerTo c ≤ e := by
  induction ts generalizing c with
  | nil => cases ht
  | cons u ts ih =>
    rcases List.mem_cons.mp ht with rfl | ht
    · exact Int.le_trans (foldl_lowerTo_le ts _) (lowerTo_le_exponent c h)
    · exact ih _ ht

theorem groupScale_le_exponent {ts : List Ext} : ∀ t ∈ ts, ∀ e, t.exponent = some e → groupScale ts ≤ e :=
  fun _ ht _ he => foldl_lowerTo_le_exponent 0 ht he

/-- The terms of a group, in any order, rounded once. -/
def roundTerms (ts : List Ext) : Nat :=
  if ts.any Ext.isNan || (ts.any (· == .inf false) && ts.any (· == .inf true)) then 0x7FC00000
  else if ts.any (· == .inf false) then 0x7F800000
  else if ts.any (· == .inf true) then 0xFF800000
  else (rneF32 (extOfInt (sumAt ts (groupScale ts)) (groupScale ts) (ts.all (· == .zero true)))).bits

theorem groupSum_eq (acc : Nat) {ps : List Ext} (hps : ps ≠ []) : groupSum acc ps = roundTerms (FloatFmt.f32.read acc :: ps) := by
  rw [roundTerms, sumAt, List.sum_eq_foldl, groupSum, if_neg (by simpa using hps)]
  rfl

theorem roundTerms_perm {ts us : List Ext} (h : ts.Perm us) : roundTerms ts = roundTerms us := by
  have hscale : groupScale ts = groupScale us := h.foldl_eq' (fun t _ u _ c => lowerTo_right_comm c t u) 0
  simp only [roundTerms, h.any_eq, h.all_eq, hscale, sumAt_perm h]

theorem roundTerms_nan {ts : List Ext} (h : ∃ t ∈ ts, t.isNan = true) : roundTerms ts = 0x7FC00000 := by
  simp [roundTerms, List.any_eq_true.mpr h]

theorem any_inf (ts : List Ext) (p : Bool) : ts.any (· == .inf p) = decide (Ext.inf p ∈ ts) := by
  simp [List.any_beq']

theorem roundTerms_opposite_infs {ts : List Ext} (ht : Ext.inf true ∈ ts) (hf : Ext.inf false ∈ ts) : roundTerms ts = 0x7FC00000 := by
  simp [roundTerms, any_inf, ht, hf]

theorem any_isNan_eq_false {ts : List Ext} (h : ∀ t ∈ ts, t.isNan = false) : ts.any Ext.isNan = false :=
  List.any_eq_false.mpr fun t ht => by simp [h t ht]

theorem roundTerms_inf {ts : List Ext} (hn : ∀ t ∈ ts, t.isNan = false) {p : Bool} (hp : Ext.inf p ∈ ts) (hq : Ext.inf (!p) ∉ ts) :
    roundTerms ts = if p then 0xFF800000 else 0x7F800000 := by
  cases p <;> simp_all [roundTerms, any_inf, any_isNan_eq_false hn]

/-- Terms without NaN and infinity are summed and rounded. -/
theorem roundTerms_finite {ts : List Ext} (hn : ∀ t ∈ ts, t.isNan = false) (hi : ∀ t ∈ ts, t.isInf = false) :
    roundTerms ts = (rneF32 (extOfInt (sumAt ts (groupScale ts)) (groupScale ts) (ts.all (· == .zero true)))).bits := by
  have hinf : ∀ p, Ext.inf p ∉ ts := fun p hp => by simpa [Ext.isInf] using hi _ hp
  simp [roundTerms, any_inf, hinf, any_isNan_eq_false hn]

theorem sumAt_zeros {ts : List Ext} (h : ∀ t ∈ ts, t = .zero true) (c : Int) : sumAt ts c = 0 := by
  induction ts with
  | nil => rfl
  | cons t ts ih =>
    rw [sumAt_cons, h t List.mem_cons_self, ih fun u hu => h u (List.mem_cons_of_mem t hu)]
    rfl

theorem roundTerms_zeros {ts : List Ext} (h : ∀ t ∈ ts, t = .zero true) : roundTerms ts = 0x80000000 := by
  have hall : ts.all (· == .zero true) = true := List.all_eq_true.mpr fun t ht => by simp [h t ht]
  rw [roundTerms_finite (fun t ht => by rw [h t ht]; rfl) (fun t ht => by rw [h t ht]; rfl), sumAt_zeros h, hall]
  rfl

/-- Finite terms give the nearest value of their exact sum, at whatever scale it is formed. -/
theorem roundTerms_at {ts : List Ext} (e0 : Int) (h : ∀ t ∈ ts, t.isNan = false ∧ t.isInf = false ∧ ∀ e, t.exponent = some e → e0 ≤ e)
    (hz : ∃ t ∈ ts, t ≠ .zero true) : roundTerms ts = (rneF32 (extOfInt (sumAt ts e0) e0 false)).bits := by
  have hall : ts.all (· == .zero true) = false := by simpa using hz
  rw [roundTerms_finite (fun t ht => (h t ht).1) (fun t ht => (h t ht).2.1), hall, rneF32, rneF32,
    rnd_sumAt .rne .default false groupScale_le_exponent (fun t ht => (h t ht).2.2)]

/-- Settles O47: a group is its terms rounded once, which depends on which terms there are and not on their order or scale. -/
theorem groupRounding : Obligations.GroupRounding := by
  unfold Obligations.GroupRounding
  refine ⟨fun _ => rfl, fun acc ps qs h => ?_, ?_, ?_, ?_, ?_, ?_⟩
  · by_cases hp : ps = []
    · subst hp
      rw [List.nil_perm.mp h]
    · have hq : qs ≠ [] := fun hq => hp (List.perm_nil.mp (hq ▸ h))
      rw [groupSum_eq acc hp, groupSum_eq acc hq, roundTerms_perm (h.cons _)]
  · exact fun acc ps hp h => (groupSum_eq acc hp).trans (roundTerms_nan h)
  · exact fun acc ps hp ht hf => (groupSum_eq acc hp).trans (roundTerms_opposite_infs ht hf)
  · exact fun acc ps p hp hn hi hq => (groupSum_eq acc hp).trans (roundTerms_inf hn hi hq)
  · exact fun acc ps hp h => (groupSum_eq acc hp).trans (roundTerms_zeros h)
  · exact fun acc ps e0 hp h hz => (groupSum_eq acc hp).trans (roundTerms_at e0 h hz)

/-! ### Special operands (R140, R146, R157, R159) -/

/-- One, and minus one, in every format, mode and under every qualifier. -/
theorem rnd_one (F : FloatFmt) (rm : Rm) (ovf : Ovf) (neg : Bool) : rnd F rm ovf (.fin neg 1 0 false) = ⟨F.sign neg + F.bias * 2 ^ (F.prec - 1), 0⟩ := by
  have hfit : F.Fits (2 ^ (F.prec - 1) + 0) ((F.bias : Int) - F.bias - (F.prec - 1 : Nat)) :=
    FloatFmt.fits_normal (by cases F <;> decide) (Nat.two_pow_pos _) (by cases F <;> decide)
  have hone : rnd F rm ovf (.fin neg 1 0 false) = rnd F rm ovf (.fin neg (2 ^ (F.prec - 1) + 0) ((F.bias : Int) - F.bias - (F.prec - 1 : Nat)) false) := by
    rw [Nat.add_zero, ← Nat.one_mul (2 ^ (F.prec - 1)), rnd_mul_two_pow F rm ovf neg Nat.one_ne_zero, Int.sub_self, Int.zero_sub, Int.add_left_neg]
  rw [hone, rnd_of_fits hfit, encodeFloat_normal _ (Nat.two_pow_pos _), Nat.add_zero]

/-- The formats of vector elements have infinities. -/
theorem floatFmt_hasInf (fm : Fmt) : (floatFmt fm).hasInf = true := by cases fm <;> rfl

theorem rnd_inf (h : F.hasInf = true) (rm : Rm) (neg : Bool) : rnd F rm .default (.inf neg) = ⟨F.sign neg + F.infBits, 0⟩ := infinite_default h neg

theorem plainExt_inf (h : F.hasInf = true) (neg : Bool) (fl : FlagSet) : plainExt F (.inf neg) fl = ⟨F.sign neg + F.infBits, fl⟩ := by
  simp [plainExt, rnd_inf h]

theorem plainExt_zero (F : FloatFmt) (neg : Bool) (fl : FlagSet) : plainExt F (.zero neg) fl = ⟨F.sign neg, fl⟩ := by
  simp [plainExt]

theorem plainExt_one (F : FloatFmt) (neg : Bool) (fl : FlagSet) : plainExt F (.fin neg 1 0 false) fl = ⟨F.sign neg + F.bias * 2 ^ (F.prec - 1), fl⟩ := by
  simp [plainExt, rnd_one]

@[simp] theorem FloatFmt.sign_false (F : FloatFmt) : F.sign false = 0 := rfl

theorem scaled_opposite (neg : Bool) (m : Nat) (e c : Int) (s : Bool) : (Ext.fin (!neg) m e s).scaled c = -(Ext.fin neg m e s).scaled c := by
  cases neg <;> simp [scaled_fin]

theorem addExt_opposite (rm : Rm) (neg : Bool) (m : Nat) (e : Int) :
    addExt rm (.fin neg m e false) (.fin (!neg) m e false) = (.zero (decide (rm = .rd)), 0) := by
  simp only [addExt, scaled_opposite, Int.add_right_neg, extOfInt, if_true]

theorem addExt_opposite_zeros (rm : Rm) (p : Bool) : addExt rm (.zero p) (.zero (!p)) = (.zero (decide (rm = .rd)), 0) := by
  cases p <;> rfl

theorem addExt_opposite_infs (rm : Rm) (p : Bool) : addExt rm (.inf p) (.inf (!p)) = (.nan false, flagNV) := by
  cases p <;> rfl

/-- A zero divides one to an infinity of its sign. -/
theorem rcpOf_zero (h : F.hasInf = true) (rm : Rm) (p : Bool) : rcpOf F rm (.zero p) = ⟨F.sign p + F.infBits, flagDZ⟩ := by
  simp [rcpOf, divExt, Ext.isNeg, rnd_inf h]

theorem rcpOf_inf (F : FloatFmt) (rm : Rm) (p : Bool) : rcpOf F rm (.inf p) = ⟨F.sign p, 0⟩ := by
  simp [rcpOf, divExt, Ext.isNeg]

theorem rcpOf_nan (F : FloatFmt) (rm : Rm) (sg : Bool) : rcpOf F rm (.nan sg) = nanResult F sg := by
  simp [rcpOf, divExt, rnd, nanResult]

/-- The logarithm of one is +0. -/
theorem log2Of_one (F : FloatFmt) (rm : Rm) : log2Of F rm (.fin false 1 0 false) = ⟨0, 0⟩ := rfl

/-- Settles O39: each special operand meets its own case of the operation, and what that delivers is a NaN, an infinity, a zero or one. -/
theorem specialOperands : Obligations.SpecialOperands := by
  unfold Obligations.SpecialOperands
  intro fm rm p
  have hinf := floatFmt_hasInf fm
  generalize floatFmt fm = F at hinf
  refine ⟨fun _ => ⟨rfl, rfl⟩, addExt_opposite_infs rm p, rfl, addExt_opposite_zeros rm p, fun neg m e _ => addExt_opposite rm neg m e, ?_⟩
  -- the reciprocal, its root, the root, the exponential, the logarithm, the hyperbolic tangent, and the NaNs of them all
  refine ⟨rcpOf_zero hinf rm p, rcpOf_inf F rm p, ?_⟩
  refine ⟨plainExt_inf hinf p _, plainExt_zero F false 0, rfl, ?_⟩
  refine ⟨plainExt_zero F p 0, plainExt_inf hinf false 0, rfl, fun _ _ _ => ⟨rfl, rfl, rfl⟩, ?_⟩
  refine ⟨(plainExt_one F false 0).trans (by simp), plainExt_inf hinf false 0, plainExt_zero F false 0, ?_⟩
  refine ⟨plainExt_inf hinf true _, plainExt_inf hinf false 0, rfl, log2Of_one F rm, ?_⟩
  exact ⟨plainExt_zero F p 0, plainExt_one F p 0, fun sg => ⟨rcpOf_nan F rm sg, rfl, rfl, rfl, rfl, rfl⟩⟩

end Sys2Proof.Machine

/-! Elements of vectors (R138): what a packed vector holds, and what the nodes that work element by element deliver (R156 to R173). -/

namespace Sys2Proof.Machine

open Sys2Proof

/-! ### Packed elements (R138) -/

section
variable {w n : Nat}

/-- The number that packed elements stand for, before it is cut to a payload. -/
def packedNat (w : Nat) (l : List Nat) : Nat := l.foldr (fun x n => x % 2 ^ w + 2 ^ w * n) 0

theorem packElems_eq (w : Nat) (l : List Nat) : packElems w l = BitVec.ofNat 512 (packedNat w l) := rfl

theorem packedNat_cons (w x : Nat) (l : List Nat) : packedNat w (x :: l) = x % 2 ^ w + 2 ^ w * packedNat w l := rfl

theorem packedNat_lt (w : Nat) (l : List Nat) : packedNat w l < 2 ^ (w * l.length) := by
  induction l with
  | nil => exact Nat.two_pow_pos _
  | cons x l ih =>
    have hx := Nat.mod_lt x (Nat.two_pow_pos w)
    calc packedNat w (x :: l) < 2 ^ w * (packedNat w l + 1) := by rw [packedNat_cons, Nat.mul_succ]; omega
      _ ≤ 2 ^ w * 2 ^ (w * l.length) := Nat.mul_le_mul_left _ ih
      _ = 2 ^ (w * (x :: l).length) := by rw [← Nat.pow_add, List.length_cons, Nat.mul_succ, Nat.add_comm]

/-- The elements are the digits of the number to the base `2^w`. -/
theorem packedNat_digit {l : List Nat} {j x : Nat} (hx : l[j]? = some x) : packedNat w l / 2 ^ (w * j) % 2 ^ w = x % 2 ^ w := by
  induction l generalizing j with
  | nil => cases hx
  | cons y l ih =>
    rw [packedNat_cons]
    cases j with
    | zero =>
      obtain rfl : y = x := Option.some.inj hx
      rw [Nat.mul_zero, Nat.pow_zero, Nat.div_one, Nat.add_mul_mod_self_left, Nat.mod_mod]
    | succ j =>
      rw [Nat.mul_succ, Nat.add_comm (w * j) w, Nat.pow_add, ← Nat.div_div_eq_div_mul, Nat.add_mul_div_left _ _ (Nat.two_pow_pos w),
        Nat.div_eq_of_lt (Nat.mod_lt y (Nat.two_pow_pos w)), Nat.zero_add]
      exact ih hx

/-- Elements that a payload has room for are not cut. -/
theorem packElems_toNat {l : List Nat} (h : w * l.length ≤ 512) : (packElems w l).toNat = packedNat w l := by
  have hvalue : ∀ m, w * l.length ≤ m → (BitVec.ofNat m (packedNat w l)).toNat = packedNat w l := fun m hm => by
    rw [BitVec.toNat_ofNat]
    exact Nat.mod_eq_of_lt (Nat.lt_of_lt_of_le (packedNat_lt w l) (Nat.pow_le_pow_right Nat.two_pos hm))
  rw [packElems_eq, hvalue 512 h]

theorem elemAt_packElems {l : List Nat} (h : w * l.length ≤ 512) {j x : Nat} (hx : l[j]? = some x) : elemAt w (packElems w l) j = x % 2 ^ w := by
  rw [elemAt, bitsOf, packElems_toNat h]
  exact packedNat_digit hx

theorem length_map_range {α : Type} (n : Nat) (x : Nat → α) : ((List.range n).map x).length = n := by rw [List.length_map, List.length_range]

theorem elemAt_packElems_range (h : w * n ≤ 512) (x : Nat → Nat) {j : Nat} (hj : j < n) : elemAt w (packElems w ((List.range n).map x)) j = x j % 2 ^ w := by
  have hx : ((List.range n).map x)[j]? = some (x j) := by rw [List.getElem?_map, List.getElem?_range hj, Option.map_some]
  exact elemAt_packElems (by rwa [length_map_range]) hx

theorem packElems_range_lt (h : w * n ≤ 512) (x : Nat → Nat) : (packElems w ((List.range n).map x)).toNat < 2 ^ (w * n) := by
  have hlt := packedNat_lt w ((List.range n).map x)
  rwa [← packElems_toNat (by rwa [length_map_range]), length_map_range] at hlt

theorem elemAt_lt (w : Nat) (v : Payload) (j : Nat) : elemAt w v j < 2 ^ w := Nat.mod_lt _ (Nat.two_pow_pos w)

theorem getLsbD_flagsOfAll (l : List Rounded) (k : Nat) : (flagsOfAll l).getLsbD k = true ↔ ∃ r ∈ l, r.flags.getLsbD k = true := by
  have hfold : ∀ fl : FlagSet, (l.foldl (fun f r => f ||| r.flags) fl).getLsbD k = (fl.getLsbD k || l.any (fun r => r.flags.getLsbD k)) := by
    induction l with
    | nil => simp
    | cons r l ih => simp [ih, Bool.or_assoc]
  simp [flagsOfAll, hfold]

end

/-! ### Nodes that deliver elements -/

theorem FloatFmt.bits_pos (F : FloatFmt) : 0 < F.bits := by cases F <;> decide

theorem FloatFmt.bits_mul_count (F : FloatFmt) : F.bits * (512 / F.bits) ≤ 512 := Nat.mul_div_le 512 F.bits

section
variable {i : Instr} {w n : Nat} {F : FloatFmt} {r : Fire → Nat → Rounded}

/-- A node that packs a rounded result for each element. -/
theorem yieldsLanes_vecOut {scaled : Fire → Bool} (hn : w * n ≤ 512)
    (hx : ∀ s, exec i s = fireNode i (fun f => vecOut w (scaled f) ((List.range n).map (r f))) s) : YieldsLanes i w n scaled r := by
  refine ⟨fun f => packElems w ((List.range n).map fun j => (r f j).bits), fun f => flagsOfAll ((List.range n).map (r f)), fun s f h => ?_,
    fun f => ⟨fun j hj => elemAt_packElems_range hn _ hj, packElems_range_lt hn _, fun k => ?_⟩⟩
  · rw [hx, fireNode_acts h, vecOut, List.map_map]
    rfl
  · rw [getLsbD_flagsOfAll]
    constructor
    · rintro ⟨q, hq, hk⟩
      obtain ⟨j, hj, rfl⟩ := List.mem_map.mp hq
      exact ⟨j, List.mem_range.mp hj, hk⟩
    · rintro ⟨j, hj, hk⟩
      exact ⟨r f j, List.mem_map.mpr ⟨j, List.mem_range.mpr hj, rfl⟩, hk⟩

/-- A node that packs elements as they are, and raises no flag. -/
theorem yieldsLanes_moved {x : Fire → Nat → Nat} (hn : w * n ≤ 512)
    (hx : ∀ s, exec i s = fireNode i (fun f => NodeOut.of (vector (packElems w ((List.range n).map (x f))) f.a.s)) s) :
    YieldsLanes i w n (fun f => f.a.s) (fun f j => ⟨x f j, 0⟩) := by
  refine ⟨fun f => packElems w ((List.range n).map (x f)), fun _ => 0, fun s f h => ?_,
    fun f => ⟨fun j hj => elemAt_packElems_range hn _ hj, packElems_range_lt hn _, fun k => by simp⟩⟩
  rw [hx, fireNode_acts h]
  rfl

theorem elems_map {α : Type} (w n : Nat) (v : Payload) (op : Nat → α) : (elems w n v).map op = (List.range n).map (fun j => op (elemAt w v j)) := List.map_map

/-- An operation on the elements of A. -/
theorem yieldsLanes_lanes1 {op : Nat → Rounded} (hx : ∀ s, exec i s = fireNode i (lanes1 F op) s)
    (hr : ∀ f j, op (elemAt F.bits f.a.data j) = r f j) : YieldsLanes i F.bits (512 / F.bits) (fun f => f.a.s) r := by
  refine yieldsLanes_vecOut F.bits_mul_count fun s => (hx s).trans (congrArg (fireNode i · s) (funext fun f => ?_))
  rw [lanes1, elems_map, funext (hr f)]
  rfl

/-- An operation on the elements of A and B. -/
theorem yieldsLanes_lanes2 {op : Nat → Nat → Rounded} (hx : ∀ s, exec i s = fireNode i (lanes2 F op) s)
    (hr : ∀ f j, op (elemAt F.bits f.a.data j) (elemAt F.bits f.b'.data j) = r f j) : YieldsLanes i F.bits (512 / F.bits) (fun f => f.a.s) r := by
  refine yieldsLanes_vecOut F.bits_mul_count fun s => (hx s).trans (congrArg (fireNode i · s) (funext fun f => ?_))
  rw [lanes2, funext (hr f)]
  rfl

/-- An operation on the elements of A, B and G. -/
theorem yieldsLanes_lanes3 {op : Nat → Nat → Nat → Rounded} (hx : ∀ s, exec i s = fireNode i (lanes3 F op) s)
    (hr : ∀ f j, op (elemAt F.bits f.a.data j) (elemAt F.bits f.b'.data j) (elemAt F.bits f.g.data j) = r f j) :
    YieldsLanes i F.bits (512 / F.bits) (fun f => f.a.s) r := by
  refine yieldsLanes_vecOut F.bits_mul_count fun s => (hx s).trans (congrArg (fireNode i · s) (funext fun f => ?_))
  rw [lanes3, funext (hr f)]
  rfl

end

/-! ### Arithmetic (R156 to R161) -/

/-- Inverting the highest bit of a number, by its weight. -/
theorem xor_two_pow {k a : Nat} (ha : a < 2 ^ k * 2) : a ^^^ 2 ^ k = if a / 2 ^ k % 2 = 1 then a % 2 ^ k else a + 2 ^ k := by
  have hpos := Nat.two_pow_pos k
  have htop : a / 2 ^ k < 2 := Nat.div_lt_of_lt_mul ha
  have hsplit := Nat.div_add_mod (a ^^^ 2 ^ k) (2 ^ k)
  rw [Nat.xor_div_two_pow, Nat.xor_mod_two_pow, Nat.div_self hpos, Nat.mod_self, Nat.xor_zero] at hsplit
  rcases Nat.le_one_iff_eq_zero_or_eq_one.mp (Nat.le_of_lt_succ htop) with h | h
  · have hlow : a % 2 ^ k = a := Nat.mod_eq_of_lt (Nat.lt_of_div_eq_zero hpos h)
    simp [← hsplit, h, hlow, Nat.add_comm]
  · simp [← hsplit, h]

theorem negElem_eq_xor (F : FloatFmt) {a : Nat} (ha : a < 2 ^ F.bits) : negElem F a = a ^^^ 2 ^ (F.bits - 1) := by
  rw [xor_two_pow (by rwa [Nat.two_pow_pred_mul_two F.bits_pos])]
  rfl

/-- Settles O36: each node packs, for every element, the operation on the values of its operands' elements, rounded once. -/
theorem vectorArithmetic : Obligations.VectorArithmetic := by
  unfold Obligations.VectorArithmetic
  intro fm rm g t0 t1
  refine ⟨?_, ?_, ?_, ?_, ?_, ?_, ?_, ?_, ?_, ?_, ?_, ?_, ?_, ?_, ?_⟩
  · exact yieldsLanes_lanes2 (exec_vadd fm rm g t0 t1) fun _ _ => rfl
  · exact yieldsLanes_lanes2 (exec_vsub fm rm g t0 t1) fun _ _ => rfl
  · exact yieldsLanes_lanes2 (exec_vmul fm rm g t0 t1) fun _ _ => rfl
  · exact yieldsLanes_lanes3 (exec_vfma fm rm t0 t1) fun _ _ => rfl
  · exact yieldsLanes_lanes3 (exec_vfms fm rm t0 t1) fun _ _ => rfl
  · exact yieldsLanes_lanes2 (exec_vmax fm g t0 t1) fun _ _ => rfl
  · exact yieldsLanes_lanes2 (exec_vmin fm g t0 t1) fun _ _ => rfl
  · exact yieldsLanes_lanes1 (exec_vabs fm g t0 t1) fun _ _ => rfl
  · exact yieldsLanes_lanes1 (exec_vneg fm g t0 t1) fun f j => congrArg (Rounded.mk · 0) (negElem_eq_xor _ (elemAt_lt _ _ j))
  · exact yieldsLanes_lanes1 (exec_vrcp fm rm g t0 t1) fun _ _ => rfl
  · exact yieldsLanes_lanes1 (exec_vrsq fm rm g t0 t1) fun _ _ => rfl
  · exact yieldsLanes_lanes1 (exec_vsqrt fm rm g t0 t1) fun _ _ => rfl
  · exact yieldsLanes_lanes1 (exec_vexp2 fm rm g t0 t1) fun _ _ => rfl
  · exact yieldsLanes_lanes1 (exec_vlog2 fm rm g t0 t1) fun _ _ => rfl
  · exact yieldsLanes_lanes1 (exec_vtanh fm rm g t0 t1) fun _ _ => rfl

/-! ### Comparisons and lane movement (R162, R163) -/

theorem yieldsLanes_broadcast {i : Instr} {w : Nat} (hx : ∀ s, exec i s = fireNode i (broadcast w) s) :
    YieldsLanes i w (512 / w) (fun f => f.a.s) (fun f _ => ⟨f.a.data.toNat % 2 ^ w, 0⟩) := by
  refine yieldsLanes_moved (Nat.mul_div_le 512 w) fun s => (hx s).trans (congrArg (fireNode i · s) (funext fun f => ?_))
  rw [broadcast, List.map_const', List.length_range]

theorem yieldsLanes_permute {i : Instr} {w : Nat} (hx : ∀ s, exec i s = fireNode i (permute w) s) :
    YieldsLanes i w (512 / w) (fun f => f.a.s) (fun f j => ⟨elemAt w f.a.data (elemAt w f.b'.data j % (512 / w)), 0⟩) := by
  refine yieldsLanes_moved (Nat.mul_div_le 512 w) fun s => (hx s).trans (congrArg (fireNode i · s) (funext fun f => ?_))
  rw [permute, elems_map]

/-- An element as a bit slice of its vector. -/
theorem ofNat_elemAt {w : Nat} (hw : w ≤ 64) (v : Payload) (j : Nat) :
    (BitVec.ofNat 64 (elemAt w v j)).setWidth 512 = (v.extractLsb' (w * j) w).setWidth 512 := by
  have hlt : ∀ m, 64 ≤ m → elemAt w v j < 2 ^ m := fun m hm =>
    Nat.lt_of_lt_of_le (elemAt_lt w v j) (Nat.pow_le_pow_right Nat.two_pos (Nat.le_trans hw hm))
  apply BitVec.eq_of_toNat_eq
  rw [BitVec.toNat_setWidth, BitVec.toNat_setWidth, BitVec.toNat_ofNat, Nat.mod_eq_of_lt (hlt 64 (Nat.le_refl 64)), BitVec.extractLsb'_toNat,
    Nat.shiftRight_eq_div_pow]
  rfl

theorem yields_extract {i : Instr} {w : Nat} {l : BitVec 6} (hw : w ≤ 64) (hx : ∀ s, exec i s = fireNode i (extract w l) s) : Yields i (fun _ f =>
    { t0 := some ⟨.scalar, f.a.data.extractLsb' (w * l.toNat) w |>.setWidth 512, f.a.s, false, false⟩
      t1 := some ⟨.scalar, f.a.data.extractLsb' (w * l.toNat) w |>.setWidth 512, f.a.s, false, false⟩ }) := by
  intro s f h
  rw [hx, fireNode_acts h, extract, scalar, ofNat_elemAt hw]
  rfl

/-- A with one element replaced. -/
theorem elemAt_inserted {w l j x : Nat} (v : Payload) (hj : j < 512 / w) :
    elemAt w (packElems w ((elems w (512 / w) v).set l x)) j = if j = l then x % 2 ^ w else elemAt w v j := by
  have hlen : (elems w (512 / w) v).length = 512 / w := by simp [elems]
  have hget : ((elems w (512 / w) v).set l x)[j]? = some (if j = l then x else elemAt w v j) := by
    rw [List.getElem?_set, hlen]
    by_cases h : l = j
    · subst h
      simp [hj]
    · simp [h, Ne.symm h, elems, hj]
  rw [elemAt_packElems (by rw [List.length_set, hlen]; exact Nat.mul_div_le 512 w) hget]
  split
  · rfl
  · exact Nat.mod_eq_of_lt (elemAt_lt w v j)

theorem inserts {i : Instr} {w : Nat} {l : BitVec 6} (hx : ∀ s, exec i s = fireNode i (insert w l) s) :
    ∃ v : Fire → Payload, (∀ s f, Acts s i f → f.a.s = f.b'.s → exec i s = .next (fired s i f
        { t0 := some ⟨.vector, v f, f.a.s, false, false⟩, t1 := some ⟨.vector, v f, f.a.s, false, false⟩ }))
      ∧ (∀ s f, Acts s i f → f.a.s ≠ f.b'.s → exec i s = .next (fired s i f { faults := [⟨f.idx, 0x06, 0x00, 0, 0, 0, 0, none⟩] }))
      ∧ ∀ f j, j < 512 / w → elemAt w (v f) j = if j = l.toNat then f.b'.data.toNat % 2 ^ w else elemAt w f.a.data j := by
  refine ⟨fun f => packElems w ((elems w (512 / w) f.a.data).set l.toNat (f.b'.data.toNat % 2 ^ w)), fun s f h hs => ?_, fun s f h hs => ?_, fun f j hj => ?_⟩
  · rw [hx, fireNode_acts h, insert, if_neg (not_not_intro hs)]
    rfl
  · rw [hx, fireNode_acts h, insert, if_pos hs]
    rfl
  · rw [elemAt_inserted _ hj, Nat.mod_mod]

/-- What holds of an operation at each of three widths. -/
theorem forall_mem_three {a b c : Instr} {u v w : Nat} {P : Instr → Nat → Prop} (ha : P a u) (hb : P b v) (hc : P c w) :
    ∀ i x, (i, x) ∈ [(a, u), (b, v), (c, w)] → P i x := by
  intro i x h
  simp only [List.mem_cons, Prod.mk.injEq, List.not_mem_nil, or_false] at h
  rcases h with ⟨rfl, rfl⟩ | ⟨rfl, rfl⟩ | ⟨rfl, rfl⟩
  · exact ha
  · exact hb
  · exact hc

/-- Settles O40: a mask, a broadcast and a permutation pack an element for each lane, an insertion replaces one, an extraction is a bit slice. -/
theorem laneMovement : Obligations.LaneMovement := by
  unfold Obligations.LaneMovement
  intro g t0 t1
  refine ⟨fun fm c => ?_, fun s f h => ?_, ?_, ?_, fun l => ?_, fun l => ?_⟩
  · exact yieldsLanes_vecOut (FloatFmt.bits_mul_count _) (exec_vcmp fm c g t0 t1)
  · exact fireNode_acts h
  · exact forall_mem_three (yieldsLanes_broadcast (exec_vbcastW32 g t0 t1)) (yieldsLanes_broadcast (exec_vbcastW16 g t0 t1))
      (yieldsLanes_broadcast (exec_vbcastW8 g t0 t1))
  · exact forall_mem_three (yieldsLanes_permute (exec_vpermW32 g t0 t1)) (yieldsLanes_permute (exec_vpermW16 g t0 t1))
      (yieldsLanes_permute (exec_vpermW8 g t0 t1))
  · exact forall_mem_three (yields_extract (by decide) (exec_vextrW32 g l t0)) (yields_extract (by decide) (exec_vextrW16 g l t0))
      (yields_extract (by decide) (exec_vextrW8 g l t0))
  · exact forall_mem_three (fun _ => inserts (exec_vinsW32 g l t0)) (fun _ => inserts (exec_vinsW16 g l t0))
      (fun _ => inserts (exec_vinsW8 g l t0))

end Sys2Proof.Machine

/-! Reductions, exponents and scale codes (R164 to R167). -/

namespace Sys2Proof.Machine

open Sys2Proof

/-! ### The pairwise tree (R164) -/

theorem pairUp_range (op : Nat → Nat → Rounded) (x : Nat → Nat) (n : Nat) :
    pairUp op ((List.range (2 * n)).map x) = (List.range n).map (fun i => op (x (2 * i)) (x (2 * i + 1))) := by
  induction n generalizing x with
  | zero => rfl
  | succ n ih =>
    have h : List.range (2 * (n + 1)) = 0 :: 1 :: (List.range (2 * n)).map (· + 2) := by
      rw [Nat.mul_succ, List.range_succ_eq_map, List.range_succ_eq_map, List.map_cons, List.map_map]
      rfl
    rw [h, List.range_succ_eq_map, List.map_cons, List.map_cons, List.map_map, pairUp, ih, List.map_cons, List.map_map]
    rfl

/-- A level of the tree is the tree of the level below it. -/
theorem pairTree_pairs (op : Nat → Nat → Nat) (x : Nat → Nat) (k i : Nat) :
    pairTree op (fun i => op (x (2 * i)) (x (2 * i + 1))) k i = pairTree op x (k + 1) i := by
  induction k generalizing i with
  | zero => rfl
  | succ k ih =>
    show op _ _ = op _ _
    rw [ih, ih]

theorem treeReduce_bits (op : Nat → Nat → Rounded) (k : Nat) (x : Nat → Nat) (fl : FlagSet) :
    (treeReduce op k ((List.range (2 ^ k)).map x) fl).bits = pairTree (fun a b => (op a b).bits) x k 0 := by
  induction k generalizing x fl with
  | zero => rfl
  | succ k ih =>
    rw [treeReduce, Nat.pow_succ, Nat.mul_comm, pairUp_range, List.map_map, ← pairTree_pairs]
    exact ih _ _

theorem floatFmt_count (fm : Fmt) : (floatFmt fm).count = 2 ^ Nat.log2 (floatFmt fm).count := by cases fm <;> decide

/-- A reduction delivers the value of the tree over the prepared elements in every element. -/
theorem reduceAll_tree {i : Instr} {fm : Fmt} {op : Nat → Nat → Rounded} {pre : Nat → Nat} (hx : ∀ s, exec i s = fireNode i (reduceAll (floatFmt fm) op pre) s) :
    ∃ (v : Fire → Payload) (fl : Fire → FlagSet), Yields i (fun _ f =>
        { t0 := some ⟨.vector, v f, f.a.s, false, false⟩, t1 := some ⟨.vector, v f, f.a.s, false, false⟩, flags := fl f })
      ∧ ∀ f j, j < 512 / (floatFmt fm).bits → elemAt (floatFmt fm).bits (v f) j
        = pairTree (fun a b => (op a b).bits) (fun j => pre (elemAt (floatFmt fm).bits f.a.data j)) (Nat.log2 (512 / (floatFmt fm).bits)) 0 % 2 ^ (floatFmt fm).bits := by
  refine ⟨_, _, fun s f h => (hx s).trans (fireNode_acts h), fun f j hj => ?_⟩
  have htree := treeReduce_bits op (Nat.log2 (floatFmt fm).count) (fun j => pre (elemAt (floatFmt fm).bits f.a.data j)) 0
  rw [← floatFmt_count] at htree
  have hfits : ∀ v : Nat, (floatFmt fm).bits * (List.replicate (floatFmt fm).count v).length ≤ 512 := fun v => by
    rw [List.length_replicate]
    exact FloatFmt.bits_mul_count _
  rw [elemAt_packElems (hfits _) (List.getElem?_replicate_of_lt (n := (floatFmt fm).count) hj), elems_map]
  exact congrArg (· % _) htree

/-! ### Exponents and scale codes (R165 to R167) -/

theorem ecapOf_eq (mode : Word64) : ecapOf mode = if mode.getLsbD 1 then some (mode.extractLsb' 8 8).toNat else none := by
  rw [ecapOf, BitVec.extractLsb'_toNat, Nat.shiftRight_eq_div_pow]
  rfl

theorem scaleCode_special {F : FloatFmt} {a : Nat} (h : (∃ sg, F.read a = .nan sg) ∨ ∃ p, F.read a = .inf p) : scaleCode F none a = ⟨255, flagNV⟩ := by
  unfold scaleCode
  rcases h with ⟨sg, h⟩ | ⟨p, h⟩
  · rw [h]
  · rw [h]

theorem scaleCode_zero {F : FloatFmt} {a : Nat} {p : Bool} (h : F.read a = .zero p) : scaleCode F none a = ⟨127, 0⟩ := by
  unfold scaleCode
  rw [h]

/-- Settles O41: a reduction is the pairwise tree level by level; the exponent nodes pack an element for each lane. -/
theorem reductionsAndExponents : Obligations.ReductionsAndExponents := by
  unfold Obligations.ReductionsAndExponents
  intro fm g t0 t1
  refine ⟨fun i op pre hi => ?_, ?_, ?_, ?_, fun a h => ?_, fun a p h => scaleCode_zero h⟩
  · simp only [List.mem_cons, Prod.mk.injEq, List.not_mem_nil, or_false] at hi
    rcases hi with ⟨rfl, rfl, rfl⟩ | ⟨rfl, rfl, rfl⟩ | ⟨rfl, rfl, rfl⟩ | ⟨rfl, rfl, rfl⟩
    · exact reduceAll_tree (exec_vrsum fm g t0 t1)
    · exact reduceAll_tree (exec_vrmax fm g t0 t1)
    · exact reduceAll_tree (exec_vrmin fm g t0 t1)
    · exact reduceAll_tree (exec_vamax fm g t0 t1)
  · refine yieldsLanes_vecOut (FloatFmt.bits_mul_count _) fun s => ?_
    rw [exec_vexpo, execVexpo]
    simp only [elems_map]
    rfl
  · refine yieldsLanes_vecOut (FloatFmt.bits_mul_count _) fun s => ?_
    rw [exec_vexpoSc, execVexpoSc]
    simp only [elems_map, ecapOf_eq]
    rfl
  · refine yieldsLanes_vecOut (FloatFmt.bits_mul_count _) fun s => ?_
    rw [exec_vldexp, execVldexp]
    simp only [lanes1, elems_map]
    rfl
  · rw [scaleCode_special h]
    exact ⟨rfl, rfl⟩

end Sys2Proof.Machine

/-! Conversions, scales, packing and widening (R168 to R173), and exact sums (R174 to R177). -/

namespace Sys2Proof.Machine

open Sys2Proof

/-! ### Conversions (R168 to R170) -/

theorem yieldsLanes_vcvt (g : Gate) (dst src : BitVec 3) (ovf : BitVec 2) (rm : Rm) (t0 : Target) :
    YieldsLanes (.vcvt g dst src ovf rm t0) (cvtBits dst) (512 / max (cvtBits dst) (cvtBits src)) (fun f => f.a.s)
      (fun f j => cvtElem dst src ovf rm (elemAt (cvtBits src) f.a.data j)) := by
  have hfits : cvtBits dst * (512 / max (cvtBits dst) (cvtBits src)) ≤ 512 :=
    Nat.le_trans (Nat.mul_le_mul_right _ (Nat.le_max_left _ _)) (Nat.mul_div_le 512 _)
  refine yieldsLanes_vecOut hfits fun s => ?_
  rw [exec_vcvt, execVcvt]
  simp only [elems_map]
  rfl

/-! ### Scales (R171) -/

/-- An element of binary32 rounded once, with the NV of the scale code. -/
def scaledElem (v : Ext × FlagSet) (fl : FlagSet) : Rounded := ⟨(rounded .f32 .rne v).bits, (rounded .f32 .rne v).flags ||| fl⟩

/-- A node that answers the scale mismatch where `p` holds, and packs elements of binary32 under S = 1 where it does not. -/
theorem yields_scaled {i : Instr} {body : Fire → NodeOut} {p : Fire → Prop} [∀ f, Decidable (p f)] (r : Fire → Nat → Rounded)
    (hx : ∀ s, exec i s = fireNode i body s) (hp : ∀ f, p f → body f = f.fault 0x06 0x00)
    (hn : ∀ f, ¬ p f → body f = vecOut 32 true ((List.range 16).map (r f))) :
    ∃ (v : Fire → Payload) (fl : Fire → FlagSet), Yields i (fun _ f => if p f then { faults := [⟨f.idx, 0x06, 0x00, 0, 0, 0, 0, none⟩] } else
        { t0 := some ⟨.vector, v f, true, false, false⟩, t1 := some ⟨.vector, v f, true, false, false⟩, flags := fl f })
      ∧ ∀ f j, j < 16 → elemAt 32 (v f) j = (r f j).bits % 2 ^ 32 := by
  refine ⟨fun f => packElems 32 ((List.range 16).map fun j => (r f j).bits), fun f => flagsOfAll ((List.range 16).map (r f)), fun s f h => ?_,
    fun f j hj => elemAt_packElems_range (by decide) _ hj⟩
  rw [hx, fireNode_acts h]
  refine congrArg (fun o => Host.Outcome.next (fired s i f o)) ?_
  dsimp only
  split
  case isTrue hf => exact hp f hf
  case isFalse hf =>
    rw [hn f hf, vecOut, List.map_map]
    rfl

/-- An element of `vscale`: the product with the scale. -/
def vscaleElem (e : Bool) (f : Fire) (j : Nat) : Rounded :=
  scaledElem (mulExt (FloatFmt.f32.read (elemAt 32 f.a.data j)) (scaleOf e f.b').1) (scaleOf e f.b').2

/-- An element of `sacc`: the product with the scale, added to G. -/
def saccElem (e : Bool) (f : Fire) (j : Nat) : Rounded :=
  scaledElem (fmaExt .rne (FloatFmt.f32.read (elemAt 32 f.a.data j)) (scaleOf e f.b').1 (FloatFmt.f32.read (elemAt 32 f.g.data j))) (scaleOf e f.b').2

/-- The scale in code 255 is no number; any other code is a power of two (R142). -/
theorem scaleOf_code (b : Token) : (b.data.toNat % 256 ≠ 255 → (scaleOf true b).1 = .fin false 1 ((b.data.toNat % 256 : Nat) - 127) false)
    ∧ (b.data.toNat % 256 = 255 → scaleOf true b = (.nan false, flagNV)) := by
  refine ⟨fun h => ?_, fun h => ?_⟩
  · exact if_neg h
  · simp [scaleOf, e8m0, h, raiseIf]

/-! ### Packing and widening (R172, R173) -/

/-- Low parts side by side, as a sum and as a disjunction. -/
theorem pack_low_parts (a b : Payload) (w : Nat) :
    BitVec.ofNat 512 (a.toNat % 2 ^ w + 2 ^ w * (b.toNat % 2 ^ w)) = (a.setWidth w).setWidth 512 ||| ((b.setWidth w).setWidth 512) <<< w := by
  have hlow : ∀ x : Payload, BitVec.ofNat 512 (x.toNat % 2 ^ w) = (x.setWidth w).setWidth 512 := fun x => by
    rw [← BitVec.toNat_setWidth, BitVec.ofNat_toNat]
  have hpower : BitVec.ofNat 512 (2 ^ w) = BitVec.twoPow 512 w := BitVec.eq_of_toNat_eq (by rw [BitVec.toNat_ofNat, BitVec.toNat_twoPow])
  have hdisjoint : (a.setWidth w).setWidth 512 &&& ((b.setWidth w).setWidth 512) <<< w = 0#512 := by
    apply BitVec.eq_of_getLsbD_eq
    intro k hk
    by_cases h : k < w <;> simp [h]
  rw [← BitVec.add_eq_or_of_and_eq_zero _ _ hdisjoint, BitVec.ofNat_add, hlow, Nat.mul_comm, BitVec.ofNat_mul, hlow, hpower, BitVec.shiftLeft_eq_mul_twoPow]

theorem yieldsLanes_unpack {i : Instr} {hi : Bool} {c : BitVec 4} {F H : FloatFmt}
    (h : (c, F, H) ∈ [((2 : BitVec 4), FloatFmt.bf16, FloatFmt.f32), (3, .f16, .f32), (4, .e4m3, .bf16), (5, .e5m2, .bf16)])
    {r : Fire → Nat → Rounded} (hx : ∀ s, exec i s = fireNode i (unpackHalf hi c) s)
    (hr : ∀ f j, widen F H (elemAt F.bits f.a.data (j + if hi then H.count else 0)) = r f j) : YieldsLanes i H.bits (512 / H.bits) (fun f => f.a.s) r := by
  refine yieldsLanes_vecOut H.bits_mul_count fun s => (hx s).trans (congrArg (fireNode i · s) (funext fun f => ?_))
  rw [← funext (hr f)]
  simp only [List.mem_cons, Prod.mk.injEq, List.not_mem_nil, or_false] at h
  rcases h with ⟨rfl, rfl, rfl⟩ | ⟨rfl, rfl, rfl⟩ | ⟨rfl, rfl, rfl⟩ | ⟨rfl, rfl, rfl⟩
  · rfl
  · rfl
  · rfl
  · rfl

/-! ### O4 words (R147) -/

theorem o4From_length {w fuel k : Nat} {l : List Nat} (h : o4From w fuel k = some l) (hk : k ≤ 8) (hf : 8 < fuel + k) : l.length = 8 - k := by
  induction fuel generalizing k l with
  | zero => omega
  | succ fuel ih =>
    rw [o4From] at h
    split at h
    case isTrue hend =>
      obtain rfl : [] = l := by simpa using h
      rw [List.length_nil]
      omega
    case isFalse hmore =>
      dsimp only at h
      split at h
      · split at h
        · cases h
        · obtain ⟨l', hl', rfl⟩ := Option.map_eq_some_iff.mp h
          simp only [List.length_cons, ih hl' (by omega) (by omega)]
          omega
      · obtain ⟨l', hl', rfl⟩ := Option.map_eq_some_iff.mp h
        rw [List.length_cons, ih hl' (by omega) (by omega)]
        omega

theorem o4Word_length {w : Nat} {l : List Nat} (h : o4Word w = some l) : l.length = 8 := o4From_length h (by decide) (by decide)

/-- An element of pieces of one length, side by side. -/
theorem getElem?_flatten_pieces {α : Type} {m : Nat} {ls : List (List α)} (h : ∀ l ∈ ls, l.length = m) {j e : Nat} (he : e < m) :
    ls.flatten[m * j + e]? = ls[j]?.bind (·[e]?) := by
  induction ls generalizing j with
  | nil => simp
  | cons l ls ih =>
    have hl : l.length = m := h l List.mem_cons_self
    cases j with
    | zero => simp [List.getElem?_append_left, hl, he]
    | succ j =>
      rw [List.flatten_cons, List.getElem?_append_right (by rw [hl, Nat.mul_succ]; omega), hl, show m * (j + 1) + e - m = m * j + e by rw [Nat.mul_succ]; omega,
        ih fun l hl => h l (List.mem_cons_of_mem _ hl)]
      rfl

/-- The word that gives the elements `8j` to `8j + 7` of an unpacked half. -/
def o4At (lo : Nat) (f : Fire) (j : Nat) : Option (List Nat) := o4Word (elemAt 32 f.a.data (lo + j))

/-- The vector that eight words unpack to. -/
def o4Vector (lo : Nat) (f : Fire) : Payload := packElems 8 ((List.range 8).flatMap fun j => (o4At lo f j).getD [])

/-- The lowest malformed word decides; without one the words are unpacked. -/
theorem unpackHalf_o4 (hi : Bool) (f : Fire) : unpackHalf hi 7 f = match (List.range 8).find? (fun j => (o4At (if hi then 8 else 0) f j).isNone) with
    | some j => f.fault 0x14 0x00 ((if hi then 8 else 0) + j)
    | none => NodeOut.of (vector (o4Vector (if hi then 8 else 0) f) f.a.s) := rfl

theorem elemAt_o4Vector {lo : Nat} {f : Fire} (h : ∀ j, j < 8 → (o4At lo f j).isSome = true) {j e : Nat} (hj : j < 8) (he : e < 8) {l : List Nat}
    (hl : o4At lo f j = some l) : elemAt 8 (o4Vector lo f) (8 * j + e) = l.getD e 0 % 256 := by
  have hpiece : ∀ k ∈ List.range 8, ((o4At lo f k).getD []).length = 8 := fun k hk => by
    obtain ⟨p, hp⟩ := Option.isSome_iff_exists.mp (h k (List.mem_range.mp hk))
    rw [hp]
    exact o4Word_length hp
  have hlen : ((List.range 8).flatMap fun j => (o4At lo f j).getD []).length = 64 := by
    rw [List.length_flatMap, List.map_congr_left hpiece]
    rfl
  have hget : ((List.range 8).flatMap fun j => (o4At lo f j).getD [])[8 * j + e]? = some (l.getD e 0) := by
    rw [List.flatMap_def, getElem?_flatten_pieces (List.forall_mem_map.mpr hpiece) he]
    simp [hj, hl, o4Word_length hl, he]
  exact elemAt_packElems (Nat.le_of_eq (by rw [hlen])) hget

/-- `vunpack` of O4 words (R173): the eight words of a half, or the fault that names the lowest malformed one. -/
theorem unpacks_o4 {i : Instr} {hi : Bool} {lo : Nat} (hlo : (if hi then 8 else 0) = lo) (hx : ∀ s, exec i s = fireNode i (unpackHalf hi 7) s) {s : State} {f : Fire}
    (ha : Acts s i f) :
    ((∀ j, j < 8 → (o4At lo f j).isSome = true) → ∃ v, exec i s = .next (fired s i f
        { t0 := some ⟨.vector, v, f.a.s, false, false⟩, t1 := some ⟨.vector, v, f.a.s, false, false⟩ })
      ∧ ∀ j e l, j < 8 → o4At lo f j = some l → e < 8 → elemAt 8 v (8 * j + e) = l.getD e 0 % 256)
    ∧ (∀ j, j < 8 → o4At lo f j = none → (∀ k, k < j → (o4At lo f k).isSome = true) →
        exec i s = .next (fired s i f { faults := [⟨f.idx, 0x14, 0x00, 0, 0, 0, lo + j, none⟩] })) := by
  rw [hx, fireNode_acts ha, unpackHalf_o4, hlo]
  refine ⟨fun h => ⟨o4Vector lo f, ?_, fun j e l hj hl he => elemAt_o4Vector h hj he hl⟩, fun j hj hnone hbelow => ?_⟩
  · have hfind : (List.range 8).find? (fun j => (o4At lo f j).isNone) = none := by
      rw [List.find?_range_eq_none]
      exact fun j hj => by simpa using h j hj
    rw [hfind]
    rfl
  · have hfind : (List.range 8).find? (fun j => (o4At lo f j).isNone) = some j := by
      rw [List.find?_range_eq_some]
      exact ⟨by simp [hnone], List.mem_range.mpr hj, fun k hk => by simpa using hbelow k hk⟩
    rw [hfind]
    rfl

/-- Settles O42: a conversion, a scaling and a widening pack an element for each lane; low parts side by side are disjoint, and the elements of O4 words stand at
their places. -/
theorem conversions : Obligations.Conversions := by
  unfold Obligations.Conversions
  intro g t0 t1
  refine ⟨fun dst src ovf rm => yieldsLanes_vcvt g dst src ovf rm t0, fun e => ?_, fun e => ?_,
    fun b => ⟨rfl, scaleOf_code b⟩, fun k s f h => ?_, fun c F H hc => ⟨?_, ?_⟩, fun i lo hi s f h => ?_⟩
  · exact yields_scaled (vscaleElem e) (exec_vscale g e t0 t1) (fun _ h => if_pos h) fun _ h => (if_neg h).trans (congrArg (vecOut 32 true) (elems_map ..))
  · exact yields_scaled (saccElem e) (exec_sacc e t0 t1) (fun _ h => if_pos (by simpa using h)) fun _ h => if_neg (by simpa using h)
  · rw [exec_vpack, execVpack, fireNode_acts h]
    dsimp only
    rw [pack_low_parts]
    rfl
  · exact yieldsLanes_unpack hc (exec_vunpackLo g c t0) fun _ _ => rfl
  · exact yieldsLanes_unpack hc (exec_vunpackHi g c t0) fun _ _ => rfl
  · simp only [List.mem_cons, Prod.mk.injEq, List.not_mem_nil, or_false] at hi
    rcases hi with ⟨rfl, rfl⟩ | ⟨rfl, rfl⟩
    · exact unpacks_o4 (hi := false) rfl (exec_vunpackLo g 7 t0) h
    · exact unpacks_o4 (hi := true) rfl (exec_vunpackHi g 7 t0) h

/-! ### Exact sums (R174 to R177) -/

/-- Flags that hold NV at most. -/
abbrev NvOnly (fl : FlagSet) : Prop := fl &&& ~~~flagNV = 0

theorem NvOnly.or {a b : FlagSet} (ha : NvOnly a) (hb : NvOnly b) : NvOnly (a ||| b) := by
  unfold NvOnly at *
  rw [BitVec.and_or_distrib_right, ha, hb]
  rfl

theorem NvOnly.raise (b : Bool) : NvOnly (raiseIf b flagNV) := by cases b <;> decide

theorem NvOnly.none : NvOnly 0 := by decide

theorem xsAdd_nvOnly (x : XsLane) (t : Ext) : NvOnly (xsAdd x t).2 := by
  cases t with
  | nan s => exact .raise s
  | inf neg => cases neg <;> exact .none
  | zero neg => exact .none
  | fin neg m e s => exact .none

theorem addTerms_nvOnly (x : XsLane) (ts : List Ext) : NvOnly (addTerms x ts).2 :=
  List.foldlRecOn (motive := fun acc : XsLane × FlagSet => NvOnly acc.2) ts _ .none fun acc h t _ => h.or (xsAdd_nvOnly acc.1 t)

/-- `eadd` of a scaled vector, and of raw data (R174). -/
theorem eadds {i : Instr} {bf : Bool} {n : BitVec 3} (hx : ∀ s, exec i s = fireNode i (eaddNode bf n) s) {s : State} {f : Fire} (h : Acts s i f) :
    (f.a.s = true → ∃ fl, exec i s = .next (fired s i f { outcome true with flags := fl, effs := [.eadd n bf f.a.data] }) ∧ fl &&& ~~~flagNV = 0)
      ∧ (f.a.s = false → exec i s = .next (fired s i f { faults := [⟨f.idx, 0x06, 0x00, 0, 0, 0, 0, none⟩] })) := by
  rw [hx, fireNode_acts h, eaddNode]
  refine ⟨fun hs => ?_, fun hs => ?_⟩
  · rw [if_neg (by simp [hs])]
    refine ⟨_, rfl, ?_⟩
    exact List.foldlRecOn (motive := NvOnly) (List.range 16) _ .none fun fl h j _ => h.or (addTerms_nvOnly _ _)
  · rw [if_pos (by simp [hs])]
    rfl

/-- Settles O43: every addition raises NV at most, so their flags do; `eround` packs the rounded lanes. -/
theorem exactSumNodes : Obligations.ExactSumNodes := by
  unfold Obligations.ExactSumNodes
  intro g n t0
  refine ⟨fun i bf hi s f h => ?_, fun s f h => fireNode_acts h, ?_, ?_⟩
  · simp only [List.mem_cons, Prod.mk.injEq, List.not_mem_nil, or_false] at hi
    rcases hi with ⟨rfl, rfl⟩ | ⟨rfl, rfl⟩
    · exact eadds (exec_eaddF32 g n t0) h
    · exact eadds (exec_eaddBf16 g n t0) h
  · exact yieldsLanes_vecOut (by decide) (exec_eroundF32 g n t0)
  · exact yieldsLanes_vecOut (by decide) (exec_eroundBf16 g n t0)

end Sys2Proof.Machine

/-! Random streams (R209 to R211): the bits of a draw, and what `rand` and `rskip` come to. -/

namespace Sys2Proof.Machine

open Sys2Proof

/-! ### The FP32 bits of a draw (R209) -/

/-- A magnitude below 2^24 at exponent -24 is below 1, and so are its FP32 bits below those of 1. -/
theorem rneF32_unit_bits_lt {m : Nat} (h0 : m ≠ 0) (h : m < 2 ^ 24) : (rneF32 (.fin false m (-24) false)).bits < 127 * 2 ^ 23 := by
  have hlog : Nat.log2 m ≤ 23 := Nat.le_of_lt_succ ((Nat.log2_lt h0).mpr h)
  obtain ⟨k, hk⟩ : ∃ k, Nat.log2 m + k = 23 := ⟨23 - Nat.log2 m, by omega⟩
  have hlow : 2 ^ 23 ≤ m * 2 ^ k := by
    rw [← hk, Nat.pow_add]
    exact Nat.mul_le_mul_right _ (Nat.log2_self_le h0)
  have hhigh : m * 2 ^ k < 2 ^ 24 := by
    rw [show 24 = (Nat.log2 m + 1) + k by omega, Nat.pow_add]
    exact Nat.mul_lt_mul_of_pos_right Nat.lt_log2_self (Nat.two_pow_pos k)
  obtain ⟨n, hn⟩ : ∃ n, m * 2 ^ k = 2 ^ (FloatFmt.f32.prec - 1) + n := Nat.exists_eq_add_of_le hlow
  have hlt : n < 2 ^ (FloatFmt.f32.prec - 1) := by
    simp only [FloatFmt.prec] at hn ⊢
    omega
  have hexp : (-24 : Int) - k = ((126 - k : Nat) : Int) - FloatFmt.f32.bias - (FloatFmt.f32.prec - 1 : Nat) := by
    simp only [FloatFmt.bias, FloatFmt.prec]
    omega
  have hfits := FloatFmt.fits_normal (F := .f32) (ex := 126 - k) (by omega) hlt (by
    simp only [FloatFmt.prec, FloatFmt.maxBits, FloatFmt.emax, FloatFmt.bias, FloatFmt.maxSig] at hlt ⊢
    omega)
  have hrnd := rnd_mul_two_pow .f32 .rne .default false h0 k (-24 - k)
  rw [Int.sub_add_cancel, hn, hexp, rnd_of_fits hfits, encodeFloat_normal false hlt] at hrnd
  rw [rneF32, ← hrnd, FloatFmt.sign_false]
  simp only [FloatFmt.prec] at hlt ⊢
  omega

theorem drawF32_lt (x : Word64) : drawF32 x < 2 ^ 32 := by
  unfold drawF32
  dsimp only
  split
  · decide
  · next h0 =>
    have hm : x.toNat / 2 ^ 40 < 2 ^ 24 := Nat.div_lt_of_lt_mul x.isLt
    exact Nat.lt_trans (rneF32_unit_bits_lt h0 hm) (by decide)

/-! ### Vectors of draws (R210) -/

/-- A vector whose elements are in range holds them uncut. -/
theorem ofNat_foldr_eq_packElems {α : Type} {w : Nat} {x : α → Nat} (hx : ∀ a, x a < 2 ^ w) (l : List α) :
    BitVec.ofNat 512 (l.foldr (fun a n => x a + 2 ^ w * n) 0) = packElems w (l.map x) := by
  simp only [packElems_eq, packedNat, List.foldr_map, Nat.mod_eq_of_lt (hx _)]

/-- Element `j` of a vector of draws is draw `j`. -/
theorem elemAt_draws {w n : Nat} {x : Word64 → Nat} (hx : ∀ a, x a < 2 ^ w) (hn : w * n ≤ 512) (key : Word64) (ctr : BitVec 128) {j : Nat} (hj : j < n) :
    elemAt w (BitVec.ofNat 512 ((draws key ctr n).foldr (fun a m => x a + 2 ^ w * m) 0)) j = x (drawOf key (ctr + BitVec.ofNat 128 j)) := by
  rw [ofNat_foldr_eq_packElems hx, draws, List.map_map, elemAt_packElems_range hn _ hj]
  exact Nat.mod_eq_of_lt (hx _)

/-! ### The nodes -/

section
variable {s : State} {f : Fire} {i : Instr}

/-- A node that draws, once the earlier draws of its stream have fired: it delivers from the stream as it stands for the node, and advances it at the commit. -/
theorem randNode_draws {n : BitVec 2} {k : Nat} {tok : List Word64 → Token} (h : Acts s i f) (he : s.earlierDraw f n.toNat = false) :
    randNode i n k tok s = .next (fired s i f
      { t0 := some (tok (draws (f.x.key n.toNat) (f.counter n.toNat) k))
        t1 := some (tok (draws (f.x.key n.toNat) (f.counter n.toNat) k)), effs := [.draw n k], outs := 1 }) := by
  rw [randNode, fireNode_acts h, he, if_neg Bool.false_ne_true]
  rfl

/-- A node of a stream waits for the lower-indexed nodes of the stream in its run (R210). -/
theorem fireNode_waits {body : Fire → NodeOut} {p : Fire → Bool} (h : Acts s i f) (hp : p f = true) : fireNode i (fun f => if p f then .later else body f) s = .next s := by
  rw [fireNode_acts h, hp, if_pos rfl, fired_later]

end

/-- Settles O45: the nodes draw from the counter that the stream has for them, and wait for an earlier draw of the run. -/
theorem randomDraws : Obligations.RandomDraws := by
  unfold Obligations.RandomDraws
  refine ⟨fun key ctr => rfl, fun n g t0 t1 s f => ⟨fun he => ⟨fun h => ?_, fun h => ?_, fun h => ?_, fun h => ?_, fun h => ?_⟩, fun he v i hi h => ?_⟩⟩
  · rw [exec_randN64, execRandN64, randNode_draws h he]
    rfl
  · rw [exec_randF32, execRandF32, randNode_draws h he]
    rfl
  · rw [exec_randN64, execRandN64, randNode_draws h he]
    exact ⟨_, rfl, fun j hj => elemAt_draws (fun a => a.isLt) (by decide) _ _ hj⟩
  · rw [exec_randF32, execRandF32, randNode_draws h he]
    exact ⟨_, rfl, fun j hj => elemAt_draws drawF32_lt (by decide) _ _ hj⟩
  · rw [exec_rskip, execRskip, fireNode_acts h, he, if_neg Bool.false_ne_true]
    rfl
  · simp only [List.mem_cons, List.not_mem_nil, or_false] at hi
    rcases hi with rfl | rfl | rfl
    all_goals exact fireNode_waits h he

end Sys2Proof.Machine

/-! The events of the engines (R183, R193, R194, R212, R214, R243, R248 to R252): what an answer and a move leave of the operations, and the moves themselves. -/

namespace Sys2Proof.Machine

open Sys2Proof

variable {s0 : State}

/-! ### The list of operations -/

/-- A found element stays found under a change that keeps what it is found by. -/
theorem find?_map_of_keeps {α : Type} {p : α → Bool} {u : α → α} {l : List α} {a : α} (hu : ∀ b, p (u b) = p b) (h : l.find? p = some a) :
    (l.map u).find? p = some (u a) := by
  have hp : p ∘ u = p := funext hu
  rw [List.find?_map, hp, h, Option.map_some]

theorem State.op?_id {s : State} {k : Nat} {o : EngOp} (h : s.op? k = some o) : o.id = k := by
  have hid := List.find?_some h
  exact beq_iff_eq.mp hid

theorem State.op?_congr {s t : State} (h : t.ops = s.ops) (k : Nat) : t.op? k = s.op? k := by rw [State.op?, State.op?, h]

/-- An operation that has changed is found as it now is. -/
theorem Run.setOp_op? {r : Run s0} {o p : EngOp} (h : r.st.op? p.id = some o) : (r.setOp p).st.op? p.id = some p := by
  have hid := State.op?_id h
  have hu : ∀ b : EngOp, ((if b.id == p.id then p else b).id == p.id) = (b.id == p.id) := fun b => by
    split
    · next hb => rw [hb, beq_self_eq_true]
    · rfl
  refine (find?_map_of_keeps hu h).trans ?_
  rw [hid, beq_self_eq_true, if_pos rfl]

theorem Run.leaveHome_ops (r : Run s0) (w : Waiter) : (r.leaveHome w).st.ops = r.st.ops := by
  unfold Run.leaveHome
  split <;> rfl

theorem Run.dropOp_ops (r : Run s0) (id : Nat) : (r.dropOp id).st.ops = r.st.ops.filter (fun p => p.id != id) :=
  congrArg (List.filter fun p : EngOp => p.id != id) (Run.leaveHome_ops r (.op id))

/-- An operation that has left the list is found no more. -/
theorem Run.dropOp_op? (r : Run s0) (id : Nat) : (r.dropOp id).st.op? id = none := by
  rw [State.op?, Run.dropOp_ops, List.find?_eq_none]
  intro p hp
  simpa using (List.mem_filter.mp hp).2

/-! ### Answers -/

/-- What neither the contexts nor the counters make up is as before an answer. -/
theorem Run.answer_keeps {β : Type} (g : State → β) (hg : ∀ (s : State) cs d, g { s with ctxs := cs, dcb := d } = g s) (r : Run s0) (o : EngOp) (t0 t1 : Option Token) :
    g (r.answer o t0 t1).st = g r.st := by
  unfold Run.answer Run.countSpills
  dsimp only
  rw [Run.count_keeps g (fun s d => hg s s.ctxs d)]
  exact hg r.st _ r.st.dcb

theorem Run.answered_keeps {β : Type} (g : State → β) (hg : ∀ (s : State) cs, g { s with ctxs := cs } = g s) (r : Run s0) (o : EngOp) :
    g (r.answered o).st = g r.st := hg r.st _

/-! ### The head of an accumulator queue (R193, R194) -/

theorem execMatrixTileStep_head {s : State} {core acc : Nat} {o : EngOp} (h : s.queueHead core acc = some o) :
    exec (.matrixTileStep core acc) s = .next ((Run.start s).accOp o acc).st := by
  rw [exec_matrixTileStep, execMatrixTileStep, h]

/-- A core after it has been changed. -/
theorem Run.modCore_core {r : Run s0} (hr : Regular r.st = true) (c d : Nat) (f : Core → Core) :
    (r.modCore c f).st.core d = if d = c then f (r.st.core c) else r.st.core d :=
  SMap.get_set _ (((regular_iff r.st).mp hr).2.2.2.2.2.1) c d _

theorem SMap.get_filter_of_dropped {α : Type} {p : Nat × α → Bool} {k : Nat} (h : ∀ v, p (k, v) = false) (m : SMap α) (d : α) : SMap.get (m.filter p) d k = d := by
  induction m with
  | nil => rfl
  | cons e m ih =>
    obtain ⟨a, v⟩ := e
    rw [List.filter_cons]
    split
    · next hp =>
      rw [SMap.get_cons, if_neg, ih]
      rintro rfl
      rw [h v] at hp
      cases hp
    · exact ih

/-- A cleared accumulator reads +0.0. -/
theorem Core.clearAcc_get (k : Core) (phys : Nat) {i : Nat} (hi : i < 16384) : SMap.get (k.clearAcc phys).acc 0 (phys * 16384 + i) = 0 :=
  SMap.get_filter_of_dropped (fun v => by
    have hdiv : (phys * 16384 + i) / 16384 = phys := by omega
    simp [hdiv]) k.acc 0

/-- An operation that is done leaves the accumulators as they are. -/
theorem Run.accDone_acc (h0 : Regular s0 = true) (r : Run s0) (o : EngOp) (phys : Nat) (t : Token) :
    ((r.accDone o phys t).st.core o.core).acc = (r.st.core o.core).acc := by
  have hanswer : ∀ q : Run s0, q = (if o.waited then (r.answer o (some t) (some t)).answered o else r) → q.st.cores = r.st.cores := by
    rintro q rfl
    split
    · rw [Run.answered_keeps State.cores (fun _ _ => rfl), Run.answer_keeps State.cores (fun _ _ _ => rfl)]
    · rfl
  have hdrop : ∀ q : Run s0, (q.dropOp o.id).st.cores = q.st.cores := fun q => by
    unfold Run.dropOp Run.leaveHome
    split <;> rfl
  unfold Run.accDone
  dsimp only
  generalize hq : (if o.waited then (r.answer o (some t) (some t)).answered o else r) = q
  rw [State.core, hdrop, ← State.core, Run.modCore_core (q.regular h0), if_pos rfl, State.core, State.core, ← hanswer q hq.symm]
  rfl

/-- `accclr` (R194): the operation ends, and its accumulator reads +0.0. -/
theorem execMatrixTileStep_accclr {s : State} {core acc : Nat} {o : EngOp} {a : BitVec 2} (hs : Regular s = true) (h : s.queueHead core acc = some o)
    (hk : o.cmd.kind = .accclr a) : ∃ t, exec (.matrixTileStep core acc) s = .next t ∧ t.op? o.id = none
      ∧ ∀ i, i < 16384 → SMap.get (t.core o.core).acc 0 (acc * 16384 + i) = 0 := by
  have hmove : (Run.start s).accOp o acc = ((Run.start s).modCore o.core (fun k => k.clearAcc acc)).accDone o acc (control true) := by
    simp only [Run.accOp, hk]
  refine ⟨_, execMatrixTileStep_head h, ?_, fun i hi => ?_⟩
  · rw [hmove]
    exact Run.dropOp_op? _ _
  · rw [hmove, Run.accDone_acc hs, Run.modCore_core (r := Run.start s) hs, if_pos rfl]
    exact Core.clearAcc_get _ _ hi

/-- A tile step whose operands pass their checks (R188 to R191). -/
theorem execMatrixTileStep_tile {s : State} {core acc : Nat} {o : EngOp} {r : Run s} {l : List (Nat × Nat × Nat)} (h : s.queueHead core acc = some o)
    (hk : ∃ a f, o.cmd.kind = .mma a f ∨ o.cmd.kind = .mmaG a f ∨ o.cmd.kind = .mmaCb a) (hp : (s.core o.core).isPoisoned acc = false)
    (hd : o.denied = none) (ht : (Run.start s).tileOf o acc = (r, .ok l)) :
    exec (.matrixTileStep core acc) s
      = .next (((r.modCore o.core (fun k => k.writeAcc acc l)).countOp o 0x28 1).accDone o acc ⟨.control, 1, false, false, false⟩).st := by
  rw [execMatrixTileStep_head h]
  obtain ⟨a, f, hk | hk | hk⟩ := hk
  all_goals
    simp only [Run.accOp, hk, Run.start_st, hp, hd, ht, Bool.false_eq_true, if_false]
    rfl

/-- `accrd` (R194): 16 elements of one row of the accumulator. -/
theorem execMatrixTileStep_accrd {s : State} {core acc : Nat} {o : EngOp} {a : BitVec 2} (h : s.queueHead core acc = some o) (hk : o.cmd.kind = .accrd a)
    (ha : o.cmd.a.toNat % 2 ^ 64 < 1024) (hp : (s.core o.core).isPoisoned acc = false) : ∃ v : Payload,
      exec (.matrixTileStep core acc) s = .next ((Run.start s).accDone o acc ⟨.vector, v, false, false, false⟩).st
      ∧ ∀ j, j < 16 → elemAt 32 v j = (s.core o.core).accAt acc (o.cmd.a.toNat % 2 ^ 64 % 128) (16 * (o.cmd.a.toNat % 2 ^ 64 / 128) + j) := by
  have hrange : o.cmd.a.toNat % 2 ^ 64 / 1024 = 0 := Nat.div_eq_of_lt ha
  refine ⟨packElems 32 ((List.range 16).map fun j => (s.core o.core).accAt acc (o.cmd.a.toNat % 2 ^ 64 % 128) (16 * (o.cmd.a.toNat % 2 ^ 64 / 128) + j)), ?_, fun j hj => ?_⟩
  · rw [execMatrixTileStep_head h]
    simp only [Run.accOp, hk, Run.start_st, hp, hrange, ne_eq, not_true_eq_false, Bool.false_eq_true, if_false]
    rfl
  · rw [elemAt_packElems_range (by decide) _ hj]
    exact Nat.mod_eq_of_lt (BitVec.isLt _)

/-! ### Completions (R183, R212, R214) -/

section
variable {s : State} {k : Nat} {o : EngOp}

theorem execEngineCompletion_moves (h : s.op? k = some o) (hc : s.completes o = true) (hq : s.homeQueued (.op k) = false) :
    exec (.engineCompletion k) s = .next ((Run.start s).moveOp o).st := by
  rw [exec_engineCompletion, execEngineCompletion, h]
  simp only [hc, hq, if_true, Bool.false_eq_true, if_false]

end

section
variable {r : Run s0} {o : EngOp} {core : Bool} (hd : o.denied = none) (ha : o.cmd.a.toNat % 8 = 0) (hb : o.cmd.b.toNat % 2 ^ 64 % 8 = 0)
  (hn : o.cmd.b.toNat % 2 ^ 64 ≤ 2 ^ 32)
include hd ha hb hn

/-- An `fprint` in range whose next word is read takes it into its fingerprint (R212). -/
theorem Run.fprintOp_reads {q : Run s0} {bs : List Byte} (hrow : o.row < o.cmd.b.toNat % 2 ^ 64 / 8)
    (hg : r.engineRead o (if core then .core else .main) (o.cmd.a.toNat % 2 ^ 64 + 8 * o.row) 8 = (q, .bytes bs)) :
    r.fprintOp o core = (q.setOp { o with
      row := o.row + 1
      data := leBytes 8 (BitVec.ofNat 64 (leNat o.data % 2 ^ 64) ^^^ (BitVec.ofNat 64 (leNat bs)).rotateLeft (o.row % 64)).toNat }).countStreamed o 8 := by
  have ha' : ¬ o.cmd.a.toNat % 2 ^ 64 % 8 ≠ 0 := by omega
  have hb' : ¬ (o.cmd.b.toNat % 2 ^ 64 % 8 ≠ 0 ∨ 2 ^ 32 < o.cmd.b.toNat % 2 ^ 64) := by omega
  have hword : BitVec.ofNat 64 (leNat o.data % 2 ^ 64) = BitVec.ofNat 64 (leNat o.data) := BitVec.eq_of_toNat_eq (by simp)
  unfold Run.fprintOp
  simp only [hd, if_neg ha', if_neg hb', if_neg (Nat.not_le.mpr hrow), hg, hword]

omit hd ha hb hn in
/-- A word as a scalar token. -/
theorem scalar_ofNat (n : Nat) : scalar (BitVec.ofNat 64 n) = ⟨.scalar, BitVec.ofNat 512 (n % 2 ^ 64), false, false, false⟩ :=
  congrArg (fun v => Token.mk .scalar v false false false) (BitVec.eq_of_toNat_eq (by rw [BitVec.toNat_setWidth, BitVec.toNat_ofNat, BitVec.toNat_ofNat]))

/-- An `fprint` that has read its words sends its fingerprint and ends (R212). -/
theorem Run.fprintOp_sends (hrow : o.cmd.b.toNat % 2 ^ 64 / 8 ≤ o.row) : r.fprintOp o core =
    (((r.answer o (some ⟨.scalar, BitVec.ofNat 512 (leNat o.data % 2 ^ 64), false, false, false⟩)
      (some ⟨.scalar, BitVec.ofNat 512 (leNat o.data % 2 ^ 64), false, false, false⟩)).answered o).ended o) := by
  have ha' : ¬ o.cmd.a.toNat % 2 ^ 64 % 8 ≠ 0 := by omega
  have hb' : ¬ (o.cmd.b.toNat % 2 ^ 64 % 8 ≠ 0 ∨ 2 ^ 32 < o.cmd.b.toNat % 2 ^ 64) := by omega
  unfold Run.fprintOp
  simp only [hd, if_neg ha', if_neg hb', if_pos hrow, scalar_ofNat]

end

/-- `spawn` of a node that may be spawned counts and enqueues one pass of it (R214, R366). -/
theorem Run.spawnOp_enqueues {r : Run s0} {o : EngOp} {l : Launch} (hl : r.st.launches.find? (fun y => y.id == o.launch) = some l)
    (hn : (l.nodes[o.cmd.a.toNat % 2 ^ 64]?).any (fun n => n.spawn) = true) :
    (r.spawnOp o).st.op? o.id = none ∧ ∃ y, (r.spawnOp o).st.launches.find? (fun y => y.id == o.launch) = some y ∧ y.spawns = l.spawns + 1
      ∧ y.work = l.work ++ [⟨r.st.uid + 1, o.cmd.a.toNat % 2 ^ 64, .ready, r.st.clk, 0, [], [], []⟩] := by
  have hlaunches : ∀ q : Run s0, (q.dropOp o.id).st.launches = q.st.launches := fun q => by
    unfold Run.dropOp Run.leaveHome
    split <;> rfl
  unfold Run.spawnOp
  simp only [hl, hn, if_true]
  refine ⟨Run.dropOp_op? _ _,
    { l with spawns := l.spawns + 1, work := l.work ++ [⟨r.st.uid + 1, o.cmd.a.toNat % 2 ^ 64, .ready, r.st.clk, 0, [], [], []⟩] }, ?_, rfl, rfl⟩
  rw [hlaunches]
  refine (find?_map_of_keeps (fun b => ?_) hl).trans ?_
  · split <;> rfl
  · rw [beq_self_eq_true, if_pos rfl]
    rfl

/-! ### Acceptance of a request for attention (R243) -/

section
variable {r q : Run s0} {o : EngOp}

theorem Run.engineRead_none (sp : Space) (ea : Nat) : r.engineRead o sp ea 0 = (r, .bytes []) := if_pos rfl

theorem Run.acceptRead_bytes {sp : Space} {va n : Nat} {bs : List Byte} (h : r.engineRead o sp va n = (q, .bytes bs)) (k : Run s0 → List Byte → Run s0) :
    r.acceptRead o sp va n k = k q bs := by
  rw [Run.acceptRead, h]

/-- The mask program that admits every key (R244). -/
def admitAll : List Word32 := [9 <<< 27]

/-- A request without a mask program admits every key. -/
theorem Run.readMask_none (h : aqMask o.desc = 0) (k : Run s0 → Option (List Word32) → Run s0) : r.readMask o k = k r (some admitAll) := by
  rw [Run.readMask, if_pos h]
  rfl

theorem Run.readDocs_none (h : aqDoct o.desc = 0) (k : Run s0 → List Nat → Run s0) : r.readDocs o k = k r [] := by
  rw [Run.readDocs, if_pos (.inl h)]

/-- The state that the first unit of a request starts from, with no row merged yet (R251). -/
def EngOp.firstState (o : EngOp) (lists : List Byte) (words : List Word32) (docs : List Nat) (rows : List (List Byte)) : AttnState where
  qrows := rows.map (fun bs => bs.map BitVec.toNat)
  slabs := (List.range (aqSlabs o.desc)).map (fun i => slabOf ((lists.drop (32 * i)).take 32))
  groups := groupsOf (lists.drop (32 * aqSlabs o.desc))
  words := words
  docs := docs
  unit := 0
  total := (((List.range (aqSlabs o.desc)).map (fun i => slabOf ((lists.drop (32 * i)).take 32))).map tilesOf).sum
  m := List.replicate (aqRows o.desc) 0xFF800000
  l := List.replicate (aqRows o.desc) 0
  acc := List.replicate (aqRows o.desc) (List.replicate (aqDim o.desc) 0)
  adm := 0
  nfull := 0
  npart := 0
  nempty := 0
  accSet := BitVec.ofNat 4 (fieldAt o.desc 11 1)
  accPhys := (accSetOf o.desc).map o.physical
  resumed := false

/-- The operation of a request that has been accepted in a state. -/
def EngOp.accepted (o : EngOp) (lists : List Byte) (st : AttnState) : EngOp :=
  { o with phase := if st.unit < st.total then 1 else 2, attn := some st, data := lists, denied := none }

theorem Run.showAccs_ops (st : AttnState) (l : List (Nat × Nat × Nat)) : (r.showAccs o st l).st.ops = r.st.ops := by
  unfold Run.showAccs
  split <;> rfl

/-- The last steps of acceptance, where no valid checkpoint stands: the request starts from its first unit. -/
theorem Run.acceptState_fresh {lists : List Byte} {words : List Word32} {docs : List Nat} {q' : Run s0} {h : List Byte} {rows : List (List Byte)}
    (hread : r.engineRead o .main (aqCkpt o.desc) 64 = (q, .bytes h)) (hvalid : fieldAt h 0 1 % 2 = 0)
    (hrows : ∀ f, q.acceptRows o (aqDim o.desc * aqSize (aqFmt o.desc)) ((List.range (aqRows o.desc)).map (fun i => aqAddr o.desc + i * aqStride o.desc)) [] f = f q' rows) :
    ∃ q'' : Run s0, q''.st.ops = q'.st.ops
      ∧ r.acceptState o lists words docs = q''.setOp (o.accepted lists (o.firstState lists words docs rows)) := by
  have hinvalid : (fieldAt h 0 1 % 2 == 1) = false := by rw [hvalid]; rfl
  unfold Run.acceptState
  dsimp only
  rw [Run.acceptRead_bytes hread]
  simp only [hinvalid, Bool.false_and, Bool.false_eq_true, if_false, hrows, Run.acceptRead_bytes (Run.engineRead_none _ _)]
  refine ⟨_, ?_, rfl⟩
  rw [Run.showAccs_ops]
  exact Run.foldl_keeps State.ops _ (fun _ _ => by rfl) _ _

/-- A request whose operands pass the checks of R240 to R243 and that has no mask program comes to the last steps of acceptance. -/
theorem Run.acceptAttn_passes {q' : Run s0} {sl mp : List Byte} (hd : o.denied = none) (hok : requestOk o.desc = true)
    (hlen : (accSetOf o.desc).length = 1 + ceilDiv (aqDim o.desc) 128) (hgrant : ∀ a ∈ accSetOf o.desc, o.grant.getLsbD a = true)
    (halign : ∀ e ∈ [(aqAddr o.desc, 64), (aqResult o.desc, 64), (aqCkpt o.desc, 64), (aqSlabAt o.desc, 32), (aqMapAt o.desc, 16)], e.1 % e.2 = 0)
    (hsl : r.engineRead o .core (aqSlabAt o.desc) (32 * aqSlabs o.desc) = (q, .bytes sl))
    (hmp : q.engineRead o .core (aqMapAt o.desc) (16 * aqGroups o.desc) = (q', .bytes mp))
    (hslab : ∀ i, i < aqSlabs o.desc → let d := (sl.drop (32 * i)).take 32
      slabOk (aqGroups o.desc) d = true ∧ (slabOf d).1 % 64 = 0 ∧ (slabOf d).2.1 % 64 = 0)
    (hmap : mapOk (aqRows o.desc) mp = true) (hmask : aqMask o.desc = 0) (hdoct : aqDoct o.desc = 0) :
    r.acceptAttn o = q'.acceptState o (sl ++ mp) admitAll [] := by
  have haccs : ¬ ((accSetOf o.desc).length ≠ 1 + ceilDiv (aqDim o.desc) 128 ∨ (accSetOf o.desc).any (fun a => !o.grant.getLsbD a) = true) := by
    rintro (h | h)
    · exact h hlen
    · obtain ⟨a, ha, hg⟩ := List.any_eq_true.mp h
      rw [hgrant a ha] at hg
      cases hg
  have haligned : [(aqAddr o.desc, 64), (aqResult o.desc, 64), (aqCkpt o.desc, 64), (aqSlabAt o.desc, 32), (aqMapAt o.desc, 16)].find? (fun e => e.1 % e.2 != 0) = none :=
    List.find?_eq_none.mpr fun e he => by simp [halign e he]
  have hslabs : (List.range (aqSlabs o.desc)).all (fun i => slabOk (aqGroups o.desc) ((sl.drop (32 * i)).take 32)) = true :=
    List.all_eq_true.mpr fun i hi => (hslab i (List.mem_range.mp hi)).1
  have hbases : ((List.range (aqSlabs o.desc)).flatMap (fun i => [(slabOf ((sl.drop (32 * i)).take 32)).1, (slabOf ((sl.drop (32 * i)).take 32)).2.1])).find?
      (fun a => a % 64 != 0) = none := by
    refine List.find?_eq_none.mpr fun a ha => ?_
    obtain ⟨i, hi, hmem⟩ := List.mem_flatMap.mp ha
    obtain ⟨-, hk, hv⟩ := hslab i (List.mem_range.mp hi)
    simp only [List.mem_cons, List.not_mem_nil, or_false] at hmem
    rcases hmem with rfl | rfl
    · simp [hk]
    · simp [hv]
  have hcode : mkCode (aqDoct o.desc != 0 && aqNdoc o.desc != 0) 0 admitAll = none := by
    rw [hdoct]
    rfl
  have hdocs : docsOk [] = true := rfl
  unfold Run.acceptAttn
  simp only [hd, Option.isSome_none, Bool.false_eq_true, if_false, hok, Bool.not_true, if_neg haccs, haligned, Run.acceptRead_bytes hsl, Run.acceptRead_bytes hmp, hslabs, hmap,
    Bool.or_self, hbases, Run.readMask_none hmask, Run.readDocs_none hdoct, hcode, hdocs, if_true]

end

theorem execAttnAccept_ready {s : State} {k : Nat} {o : EngOp} (h : s.op? k = some o) (hr : s.attnReady o [0] = true) (hh : s.attnAtHead o = true) :
    exec (.attnAccept k) s = .next ((Run.start s).acceptAttn o).st := by
  rw [exec_attnAccept, execAttnAccept, h]
  simp only [hr, hh, Bool.and_self, if_true]

/-! ### Units and results (R248 to R252) -/

/-- The operation after a unit of class `c` has been committed. -/
def EngOp.afterUnit (o : EngOp) (c : TileClass) (st : AttnState) : EngOp :=
  { o with
    attn := some { st with
      unit := st.unit + 1
      nfull := st.nfull + (if c = .full then 1 else 0)
      npart := st.npart + (if c = .partly then 1 else 0)
      nempty := st.nempty + (if c = .empty then 1 else 0) }
    phase := if st.unit + 1 < st.total then 1 else 2
    denied := none
    got := [] }

section
variable {s : State} {k : Nat} {o : EngOp} {st : AttnState}

theorem execAttnUnit_ready (h : s.op? k = some o) (ha : o.attn = some st) (hp : o.phase = 1) (hr : s.attnReady o [1, 3, 5] = true) (hdr : s.draining o.part = false) :
    exec (.attnUnit k) s = .next ((Run.start s).attnUnitOf o st).st := by
  have hgo : ¬ (o.phase = 5 ∨ (o.phase = 1 ∧ o.denied = none ∧ o.got = [] ∧ s.draining o.part = true)) := by simp [hp, hdr]
  rw [exec_attnUnit, execAttnUnit, h]
  simp only [ha, hr, if_true, if_neg hgo]

theorem execAttnResultWrite_ready (h : s.op? k = some o) (ha : o.attn = some st) (hr : s.attnReady o [2] = true) :
    exec (.attnResultWrite k) s = .next ((Run.start s).attnResult o st).st := by
  rw [exec_attnResultWrite, execAttnResultWrite, h]
  simp only [ha, hr, if_true]

end

section
variable {r : Run s0} {o : EngOp} {st : AttnState} {u : Nat × Nat × Nat × Nat × Nat} {k0 k1 : Nat} (hp : o.phase = 1) (hd : o.denied = none)
  (hu : unitOf (slabOrder st.slabs) st.unit = some (u, k0, k1))
include hp hd hu

/-- A unit that no group admits is committed without a read (R250). -/
theorem Run.attnUnitOf_empty (hc : unitClass (unitClasses st u k0 k1) = .empty) : r.attnUnitOf o st = r.setOp (o.afterUnit .empty st) := by
  unfold Run.attnUnitOf
  simp only [hp, hd, hu, hc, Option.isSome_none, Bool.false_eq_true, if_false, if_true, Nat.reduceEqDiff]
  rfl

variable {q : Run s0} {p : Nat × Nat} {bs : List Byte} {w n : Nat} (hw : w = aqDim o.desc * aqSize (aqFmt o.desc)) (hn : n = (k1 - k0) * w)
  (hc : unitClass (unitClasses st u k0 k1) ≠ .empty)
  (hpiece : pieceAfter (if o.got.length < n then u.1 + (k0 - slabFirst u) * w else u.2.1 + (k0 - slabFirst u) * w) n (o.got.length % n) = some p)
  (hread : r.engineRead o .main p.1 p.2 = (q, .bytes bs))
include hw hn hc hpiece hread

/-- The next piece of a unit that some group admits is kept while K rows or V rows are still to be read (R248). -/
theorem Run.attnUnitOf_more (hmore : (o.got ++ bs).length < 2 * n) : r.attnUnitOf o st = q.setOp { o with got := o.got ++ bs } := by
  subst hn hw
  rw [← apply_ite (· + _)] at hpiece
  unfold Run.attnUnitOf
  simp only [hp, hd, hu, if_neg hc, hpiece, Option.getD_some, hread, if_pos hmore, Option.isSome_none, Bool.false_eq_true, if_false, Nat.reduceEqDiff]

/-- With its last piece a unit is merged with the units before it (R251), and committed. -/
theorem Run.attnUnitOf_last (hlast : 2 * n ≤ (o.got ++ bs).length) : r.attnUnitOf o st =
    (q.showAccs o (mergeUnit o.desc st k0 k1 (unitClasses st u k0 k1) ((o.got ++ bs).take n) ((o.got ++ bs).drop n))
        (scoreTile o.desc st k0 k1 (unitClasses st u k0 k1) ((o.got ++ bs).take n))).setOp
      (o.afterUnit (unitClass (unitClasses st u k0 k1)) (mergeUnit o.desc st k0 k1 (unitClasses st u k0 k1) ((o.got ++ bs).take n) ((o.got ++ bs).drop n))) := by
  subst hn hw
  rw [← apply_ite (· + _)] at hpiece
  unfold Run.attnUnitOf
  simp only [hp, hd, hu, if_neg hc, hpiece, Option.getD_some, hread, if_neg (Nat.not_lt.mpr hlast), Option.isSome_none, Bool.false_eq_true, if_false, Nat.reduceEqDiff,
    EngOp.afterUnit]

end

/-- The next row of a result is written, and counted (R252). -/
theorem Run.attnResult_done {r q : Run s0} {o : EngOp} {st : AttnState} (hrow : o.wrote < aqRows o.desc)
    (hwrite : r.engineWrite o o.core .core (aqResult o.desc + o.wrote * aqRstride o.desc) (resultRow o.desc st o.wrote) = (q, .done)) :
    r.attnResult o st = q.setOp { o with wrote := o.wrote + 1 } := by
  rw [Run.attnResult, if_neg (Nat.not_le.mpr hrow)]
  simp only [hwrite]

/-- The units of a request: every slab yields its tiles, in order (R248). -/
theorem unitOf_isSome (ss : List (Nat × Nat × Nat × Nat × Nat)) (u : Nat) : (unitOf ss u).isSome = true ↔ u < (ss.map tilesOf).sum := by
  induction ss generalizing u with
  | nil => simp [unitOf]
  | cons e ss ih =>
    rw [unitOf, List.map_cons, List.sum_cons]
    split
    · next hlt => exact iff_of_true rfl (Nat.lt_add_right _ hlt)
    · next hge =>
      rw [ih]
      omega

/-- A unit is up to 128 keys of its slab. -/
theorem unitOf_bounds {ss : List (Nat × Nat × Nat × Nat × Nat)} {u : Nat} {e : Nat × Nat × Nat × Nat × Nat} {k0 k1 : Nat} (h : unitOf ss u = some (e, k0, k1)) :
    e ∈ ss ∧ slabFirst e ≤ k0 ∧ k0 < k1 ∧ k1 ≤ slabEnd e ∧ k1 - k0 ≤ 128 := by
  induction ss generalizing u with
  | nil => cases h
  | cons d ss ih =>
    rw [unitOf] at h
    split at h
    · next hlt =>
      cases h
      rw [tilesOf, ceilDiv] at hlt
      exact ⟨List.mem_cons_self, by omega⟩
    · obtain ⟨hmem, hbounds⟩ := ih h
      exact ⟨List.mem_cons_of_mem _ hmem, hbounds⟩

/-- An accepted request, with its request checked and its mask program and document table absent, starts from its first unit. -/
theorem execAttnAccept_fresh {s : State} {k : Nat} {o : EngOp} {r2 r3 r4 : Run s} {h : List Byte} {rows : List (List Byte)} (hop : r4.st.op? k = some o)
    (hk : o.id = k) {lists : List Byte} {words : List Word32} (hexec : exec (.attnAccept k) s = .next (r2.acceptState o lists words []).st)
    (hread : r2.engineRead o .main (aqCkpt o.desc) 64 = (r3, .bytes h)) (hvalid : fieldAt h 0 1 % 2 = 0)
    (hrows : ∀ f, r3.acceptRows o (aqDim o.desc * aqSize (aqFmt o.desc)) ((List.range (aqRows o.desc)).map (fun i => aqAddr o.desc + i * aqStride o.desc)) [] f = f r4 rows) :
    ∃ t, exec (.attnAccept k) s = .next t ∧ t.op? k = some (o.accepted lists (o.firstState lists words [] rows)) := by
  obtain ⟨q, hops, heq⟩ := Run.acceptState_fresh (lists := lists) (words := words) (docs := []) hread hvalid hrows
  refine ⟨_, hexec, ?_⟩
  subst hk
  rw [heq]
  exact Run.setOp_op? (o := o) ((State.op?_congr hops _).trans hop)

/-- Settles O57: each event is its operation's next move, and each move is the one its lemma above gives; the units of a request by induction on its slabs. -/
theorem engineEvents : Obligations.EngineEvents := by
  unfold Obligations.EngineEvents
  refine ⟨fun s core acc o h => ⟨?_, ?_, ?_⟩, fun s k o h hc hq => ⟨?_, ?_, ?_⟩, fun s k o h => ⟨?_, ?_, ?_⟩,
    fun ss u => ⟨unitOf_isSome ss u, fun _ _ _ => unitOf_bounds⟩⟩
  · exact fun a hk hs => execMatrixTileStep_accclr hs h hk
  · exact fun r l => execMatrixTileStep_tile h
  · exact fun a => execMatrixTileStep_accrd h
  · exact execEngineCompletion_moves h hc hq
  · intro core hk hd ha hb hn
    have hmove : (Run.start s).moveOp o = (Run.start s).fprintOp o core := by simp only [Run.moveOp, hk]
    rw [execEngineCompletion_moves h hc hq, hmove]
    refine ⟨fun r bs hrow hread => ?_, fun hrow => ?_⟩
    · rw [Run.fprintOp_reads hd ha hb hn hrow hread]
    · refine ⟨_, rfl, ?_, ?_⟩
      · rw [Run.fprintOp_sends hd ha hb hn hrow, ← State.op?_id h]
        exact Run.dropOp_op? _ _
      · rw [Run.fprintOp_sends hd ha hb hn hrow]
  · intro l hk hl hn
    have hmove : (Run.start s).moveOp o = (Run.start s).spawnOp o := by simp only [Run.moveOp, hk]
    obtain ⟨hgone, y, hy⟩ := Run.spawnOp_enqueues (r := Run.start s) hl hn
    rw [execEngineCompletion_moves h hc hq, hmove, ← State.op?_id h]
    exact ⟨_, y, rfl, hgone, hy⟩
  · intro r1 r2 r3 r4 sl mp b rows hr hh hd hok hlen hgrant halign hsl hmp hslab hmap hmask hdoct hread hvalid hrows hop
    have hexec := execAttnAccept_ready h hr hh
    rw [Run.acceptAttn_passes hd hok hlen hgrant halign hsl hmp hslab hmap hmask hdoct] at hexec
    obtain ⟨t, ht, hp⟩ := execAttnAccept_fresh hop (State.op?_id h) hexec hread hvalid hrows
    exact ⟨t, _, _, ht, hp, rfl, rfl, rfl, rfl, rfl, rfl, rfl, by simp [EngOp.firstState], rfl, rfl⟩
  · intro st u k0 k1 ha hp hd hr hdr hu
    rw [execAttnUnit_ready h ha hp hr hdr]
    refine ⟨fun hc => ?_, fun r p bs hc hpiece hread => ⟨fun hmore => ?_, fun hlast => ?_⟩⟩
    · rw [Run.attnUnitOf_empty hp hd hu hc, hc]
      rfl
    · rw [Run.attnUnitOf_more hp hd hu rfl rfl hc hpiece hread hmore]
    · rw [Run.attnUnitOf_last hp hd hu rfl rfl hc hpiece hread hlast]
      rfl
  · intro st r ha hr hrow hwrite
    rw [execAttnResultWrite_ready h ha hr, Run.attnResult_done hrow hwrite]

end Sys2Proof.Machine

/-! Engine commands as their nodes issue them (R180, R182, R199, R302): what an issue, a completion at the issue and the read of a shard map leave of the state. -/

namespace Sys2Proof.Machine

open Sys2Proof

variable {s0 : State}

/-! ### What a firing leaves of its run -/

/-- A fault is all that a check of an exit may leave in a run. -/
theorem State.checkExit_faults (s : State) (c : Nat) (b : BlockRun) : s.checkExit c b = { b with faults := (s.checkExit c b).faults } := by
  unfold State.checkExit BlockRun.faultOnce
  split
  · rfl
  · split
    · split <;> rfl
    · rfl

theorem State.checkTag_faults (s : State) (c : Nat) (b : BlockRun) : s.checkTag c b = { b with faults := (s.checkTag c b).faults } := by
  unfold State.checkTag BlockRun.faultOnce
  split
  · rfl
  · split
    · split <;> rfl
    · rfl

theorem State.checkRun_faults (s : State) (c : Nat) (b : BlockRun) : s.checkRun c b = { b with faults := (s.checkRun c b).faults } := by
  unfold State.checkRun
  rw [State.checkTag_faults, State.checkExit_faults]

/-- A waited command is recorded as fired, and counts as no output yet. -/
theorem State.record_waited (s : State) (c i : Nat) (sh : Shape) (b : BlockRun) :
    (s.record c i sh {} b).iid = b.iid ∧ (s.record c i sh {} b).outs = b.outs ∧ (s.record c i sh {} b).fired = i :: b.fired := by
  unfold State.record
  simp only [State.sendTo_none, true_and]
  exact ⟨rfl, rfl⟩

/-- The run of a waited command after its firing. -/
theorem Run.finish_waited {r : Run s0} {c iid : Nat} {b : BlockRun} (h : (r.st.ctx c).run? iid = some b) (i : Nat) (sh : Shape) :
    ∃ b', ((r.finish c iid i sh {}).st.ctx c).run? iid = some b' ∧ b'.outs = b.outs ∧ b'.fired = i :: b.fired := by
  obtain ⟨hid, houts, hfired⟩ := State.record_waited r.st c i sh b
  have hcheck := State.checkRun_faults r.st c (r.st.record c i sh {} b)
  refine ⟨_, Run.finish_run? rfl h ?_, ?_, ?_⟩
  · rw [hcheck]
    exact hid
  · rw [hcheck]
    exact houts
  · rw [hcheck]
    exact hfired

/-! ### The body of a command -/

/-- What follows the issue of a command of kind `k`: a command of the streamer may complete (R199), and a gather or a scatter reads its shard map (R302). -/
def Run.afterIssue (r : Run s0) (k : CmdKind) (id : Nat) : Run s0 :=
  match k with
  | .copy | .copyMc | .xform => r.atIssue id
  | .gather _ | .scatter _ => r.mapAtIssue id (fun o => gatherOk o.gmode o.desc)
  | _ => r

/-- The meaning of a command's node. -/
def Run.commands (k : CmdKind) (r : Run s0) (f : Fire) : Run s0 × NodeOut :=
  (if f.sh.t0 = .none then (r.command f k).1 else (r.command f k).1.afterIssue k (r.st.uid + 1), (r.command f k).2)

theorem commandNode_commands {k : CmdKind} (h : ∀ {s0 : State} (r : Run s0) (id : Nat), r.afterIssue k id = r) (i : Instr) (s : State) :
    commandNode i k s = fireWith i (Run.commands k) s := by
  have hbody : (fun (r : Run s) (f : Fire) => r.command f k) = Run.commands k := funext fun r => funext fun f => by
    unfold Run.commands
    rw [h, ite_self]
  exact congrArg (fun body => Host.Outcome.next (fireRun i body (Run.start s)).st) hbody

/-- The node of a command fires by `Run.commands`. -/
theorem exec_command {i : Instr} {k : CmdKind} (h : Command i k) (s : State) : exec i s = fireWith i (Run.commands k) s := by
  cases h
  case copy | copyMc | xform => rfl
  case gatherRows | gatherSum | gatherMean | gatherWsum | scatterAdd | scatterMax | scatterMin | scatterOvw => rfl
  all_goals exact commandNode_commands (fun _ _ => rfl) _ s

/-- A command counts as one output. -/
theorem shape_command_outs {i : Instr} {k : CmdKind} (h : Command i k) : (shape i).outs = 1 := by
  cases h <;> rfl

/-- A posted command is buffered with its operands (R180). -/
theorem Run.command_posted {r : Run s0} {f : Fire} (h : f.sh.t0 = .none) (k : CmdKind) : r.command f k = (r, { effs := [.cmd (f.cmd k)], outs := f.sh.outs }) :=
  if_pos h

theorem Run.commands_posted {r : Run s0} {f : Fire} (h : f.sh.t0 = .none) (k : CmdKind) : Run.commands k r f = (r, { effs := [.cmd (f.cmd k)], outs := f.sh.outs }) := by
  rw [Run.commands, if_pos h, Run.command_posted h]

/-- A posted command fires as its buffering. -/
theorem exec_command_posted {i : Instr} {k : CmdKind} {s : State} {f : Fire} (hc : Command i k) (h : Acts s i f) (ht : (shape i).t0 = .none) :
    exec i s = .next (fired s i f { effs := [.cmd ⟨k, f.a.data, f.a.kind, f.b'.data, f.b'.kind, f.g.data⟩], outs := 1 }) := by
  have hsh := fires_sh h.1
  rw [exec_command hc, fireWith_acts h, Run.commands_posted (hsh ▸ ht), hsh, shape_command_outs hc]
  rfl

theorem execStage_posted {g : Gate} {s : State} {f : Fire} (h : Acts s (.stage g) f) :
    exec (.stage g) s = .next (fired s (.stage g) f { effs := [.cmd ⟨.stage, f.a.data, f.a.kind, f.b'.data, f.b'.kind, f.g.data⟩], outs := 1 }) := by
  have hsh := fires_sh h.1
  rw [exec_stage, execStage, commandNode, fireWith_acts h, Run.command_posted (by rw [hsh]; rfl), hsh]
  rfl

theorem execTdset_posted {g : Gate} {fld : BitVec 6} {m : BitVec 4} {s : State} {f : Fire} (h : Acts s (.tdset g fld m) f) :
    exec (.tdset g fld m) s = .next (fired s (.tdset g fld m) f (if tdInRange fld.toNat f.a.word
      then { effs := [.cmd ⟨.tdset fld m, f.a.data, f.a.kind, f.b'.data, f.b'.kind, f.g.data⟩], outs := 1 }
      else { faults := [⟨f.idx, 0x08, 0x00, 0, 0, 0, 0, none⟩] })) := by
  have hsh := fires_sh h.1
  rw [exec_tdset, execTdset, fireWith_acts h, Run.command_posted (by rw [hsh]; rfl), hsh]
  split <;> rfl

/-! ### An issue (R180, R182) -/

/-- The operation carries the command that a node issues in state `s`. -/
structure EngOp.Carries (o : EngOp) (s : State) (f : Fire) (k : CmdKind) : Prop where
  id : o.id = s.uid + 1
  ticket : o.ticket = (s.ctx f.c).ticket.toNat
  c : o.c = f.c
  iid : o.iid = f.b.iid
  idx : o.idx = f.idx
  cmd : o.cmd = ⟨k, f.a.data, f.a.kind, f.b'.data, f.b'.kind, f.g.data⟩
  waited : o.waited = true
  t0 : o.t0 = f.sh.t0
  t1 : o.t1 = f.sh.t1
  desc : o.denied = none → descCopy s f.c f.b f.idx f.a.word.toNat (descLength k) = .ok o.desc

/-- The operation has been issued: it is the last under way, its context's ticket is taken, and memory and every other context are as they were. -/
structure Issued (s : State) (f : Fire) (k : CmdKind) (o : EngOp) (t : State) : Prop where
  carries : o.Carries s f k
  ops : t.ops = s.ops ++ [o]
  mem : t.mem = s.mem
  own : t.ctx f.c = { s.ctx f.c with ticket := (s.ctx f.c).ticket + 1 }
  others : ∀ c, c ≠ f.c → t.ctx c = s.ctx c

/-- The context after its next ticket is taken. -/
def Ctx.takeTicket (x : Ctx) : Ctx := { x with ticket := x.ticket + 1 }

/-- Operation `id`, of a command of kind `k` with descriptor `d`, enters the queues of the accumulators that it names and its context `x` holds (R193). -/
def Run.joinQueues (r : Run s0) (x : Ctx) (k : CmdKind) (core id : Nat) (d : List Byte) : Run s0 :=
  let r := match accOf k with
    | some a => if x.granted a then r.enqueue core (x.physical a) (.engine id) else r
    | none => r
  match k with
  | .attn => (accSetOf d).foldl (fun r a => if x.granted a then r.enqueue core (x.physical a) (.attention id) else r) r
  | _ => r

/-- The queues stand in the cores. -/
theorem Run.joinQueues_keeps {β : Type} (g : State → β) (hg : ∀ (s : State) cs, g { s with cores := cs } = g s) (r : Run s0) (x : Ctx) (k : CmdKind) (core id : Nat)
    (d : List Byte) : g (r.joinQueues x k core id d).st = g r.st := by
  have henqueue : ∀ (q : Run s0) (p : Prop) [Decidable p] phys a, g (if p then q.enqueue core phys a else q).st = g q.st := fun q p _ phys a => by
    split
    · exact hg q.st _
    · rfl
  unfold Run.joinQueues
  dsimp only
  split
  · rw [Run.foldl_keeps g _ fun q a => henqueue q _ _ _]
    split
    · exact henqueue r _ _ _
    · rfl
  · split
    · exact henqueue r _ _ _
    · rfl

/-- The names that have been given do not matter to the copy of a descriptor. -/
theorem descCopy_named (r : Run s0) (c : Nat) (b : BlockRun) (i va n : Nat) : descCopy (r.put .named).st c b i va n = descCopy r.st c b i va n := by
  have hagent : (r.put .named).st.agent c = r.st.agent c := rfl
  have hpoison : ∀ k, (r.put .named).st.poisonAt k n = r.st.poisonAt k n := fun _ => rfl
  have hoverlay : ∀ a x anc, overlayFor (r.put .named).st a x b anc = overlayFor r.st a x b anc := fun _ _ _ => rfl
  have hctx : (r.put .named).st.ctx c = r.st.ctx c := rfl
  have hbytes : ∀ ov k, seenBytes (r.put .named).st ov k n = seenBytes r.st ov k n := fun _ _ => rfl
  unfold descCopy
  rw [hagent, hctx]
  dsimp only
  rw [hpoison, hoverlay, hbytes]

/-- A waited issue takes a ticket, adds its operation to those under way and has it join its queues. -/
theorem Run.issue_waited (r : Run s0) (f : Fire) (k : CmdKind) : ∃ (o : EngOp) (d : List Byte),
    r.issue f.c f.b f.idx (f.cmd k) true f.sh.t0 f.sh.t1
        = (((r.put .named).modCtx f.c Ctx.takeTicket).put (.ops (r.st.ops ++ [o]))).joinQueues (r.st.ctx f.c) k (f.c / 4) (r.st.uid + 1) d
      ∧ o.Carries r.st f k := by
  apply Exists.intro
  apply Exists.intro
  apply And.intro
  · unfold Run.issue Run.joinQueues
    rw [if_pos rfl]
    rfl
  refine ⟨rfl, rfl, rfl, rfl, rfl, rfl, rfl, rfl, rfl, fun h => ?_⟩
  have hword : f.a.word.toNat = (f.cmd k).a.toNat % 2 ^ 64 := BitVec.toNat_setWidth ..
  rw [hword]
  dsimp only at h ⊢
  rw [descCopy_named] at h ⊢
  split at h
  · cases h
  · cases h
  · next hdesc _ =>
    change descCopy r.st f.c f.b f.idx ((f.cmd k).a.toNat % 2 ^ 64) (descLength (f.cmd k).kind) = _
    cases hcopy : descCopy r.st f.c f.b f.idx ((f.cmd k).a.toNat % 2 ^ 64) (descLength (f.cmd k).kind) with
    | error e => exact (hdesc e hcopy).elim
    | ok d => rfl

theorem Ctx.norm_takeTicket {x : Ctx} (h : x.norm = x) : x.takeTicket.norm = x.takeTicket := congrArg Ctx.takeTicket h

/-- A waited command is issued as its node fires. -/
theorem Run.command_waited (h0 : Regular s0 = true) (r : Run s0) {f : Fire} (h : f.sh.t0 ≠ .none) (k : CmdKind) :
    ∃ o, Issued r.st f k o (r.command f k).1.st ∧ (r.command f k).2 = {} := by
  obtain ⟨o, d, hissue, hcarries⟩ := Run.issue_waited r f k
  have hr : Regular (r.put .named).st = true := (r.put .named).regular h0
  have hctx : ∀ c, ((r.issue f.c f.b f.idx (f.cmd k) true f.sh.t0 f.sh.t1).st).ctx c = if c = f.c then (r.st.ctx f.c).takeTicket else r.st.ctx c := fun c => by
    have hnorm : ((r.put .named).st.ctx f.c).norm = (r.put .named).st.ctx f.c := regular_norm hr f.c
    rw [hissue, Run.joinQueues_keeps (fun s => s.ctx c) fun _ _ => by rfl]
    refine (Run.modCtx_ctx hr f.c c Ctx.takeTicket).trans ?_
    rw [Ctx.norm_takeTicket hnorm]
    rfl
  rw [Run.command, if_neg h]
  refine ⟨o, ⟨hcarries, ?_, ?_, ?_, fun c hc => ?_⟩, rfl⟩
  · rw [hissue, Run.joinQueues_keeps State.ops fun _ _ => by rfl]
    rfl
  · rw [hissue, Run.joinQueues_keeps State.mem fun _ _ => by rfl]
    rfl
  · rw [hctx, if_pos rfl]
    rfl
  · rw [hctx, if_neg hc]

/-- An operation under a number of its own is the one found under it. -/
theorem Issued.op? {s t : State} {f : Fire} {k : CmdKind} {o : EngOp} (h : Issued s f k o t) (hnew : ∀ p ∈ s.ops, p.id ≠ s.uid + 1) : t.op? (s.uid + 1) = some o := by
  rw [State.op?, h.ops, List.find?_append, List.find?_eq_none.mpr fun p hp => by simpa using hnew p hp, Option.none_or]
  simp [h.carries.id]

/-- The operation may still change, its command apart. -/
theorem Issued.setOp {s : State} {q : Run s0} {f : Fire} {k : CmdKind} {o p : EngOp} (h : Issued s f k o q.st) (hnew : ∀ p ∈ s.ops, p.id ≠ s.uid + 1)
    (hp : p.Carries s f k) : Issued s f k p (q.setOp p).st := by
  refine ⟨hp, ?_, h.mem, h.own, h.others⟩
  have hkept : s.ops.map (fun b => if b.id == p.id then p else b) = s.ops := by
    refine (List.map_congr_left fun b hb => ?_).trans (List.map_id _)
    rw [if_neg (by simpa [hp.id] using hnew b hb)]
    rfl
  have hset : (q.setOp p).st.ops = q.st.ops.map (fun b => if b.id == p.id then p else b) := rfl
  rw [hset, h.ops, List.map_append, hkept]
  simp [h.carries.id, hp.id]

/-- A gather or a scatter without a shard map goes on, or is left for later, as one that has been issued (R302). -/
theorem Issued.mapAtIssue {s : State} {q : Run s0} {f : Fire} {k : CmdKind} {o : EngOp} (h : Issued s f k o q.st) (hnew : ∀ p ∈ s.ops, p.id ≠ s.uid + 1)
    (hmap : ∀ d, descCopy s f.c f.b f.idx f.a.word.toNat (descLength k) = .ok d → gShmap d = 0) (ok : EngOp → Bool) :
    ∃ p, Issued s f k p (q.mapAtIssue (s.uid + 1) ok).st := by
  unfold Run.mapAtIssue
  rw [h.op? hnew]
  dsimp only
  split
  · next hgo =>
    simp only [Bool.and_eq_true, Option.isNone_iff_eq_none] at hgo
    obtain ⟨⟨hdenied, -⟩, -⟩ := hgo
    have hread : q.readShards o = q.setOp { o with phase := 1 } := if_pos (hmap o.desc (h.carries.desc hdenied))
    obtain ⟨hid, hticket, hc, hiid, hidx, hcmd, hwaited, ht0, ht1, hdesc⟩ := h.carries
    rw [hread]
    exact ⟨_, h.setOp hnew ⟨hid, hticket, hc, hiid, hidx, hcmd, hwaited, ht0, ht1, hdesc⟩⟩
  · exact ⟨o, h⟩

/-- A command that is not the streamer's, and names no shard map, stands as issued when its node has fired. -/
theorem Issued.afterIssue {s : State} {q : Run s0} {f : Fire} {k : CmdKind} {o : EngOp} (h : Issued s f k o q.st) (hcopy : k ≠ .copy) (hcopyMc : k ≠ .copyMc)
    (hxform : k ≠ .xform) (hmap : ∀ m, k = .gather m ∨ k = .scatter m → (∀ p ∈ s.ops, p.id ≠ s.uid + 1)
      ∧ ∀ d, descCopy s f.c f.b f.idx f.a.word.toNat 128 = .ok d → gShmap d = 0) : ∃ p, Issued s f k p (q.afterIssue k (s.uid + 1)).st := by
  cases k with
  | copy => exact (hcopy rfl).elim
  | copyMc => exact (hcopyMc rfl).elim
  | xform => exact (hxform rfl).elim
  | gather m =>
    obtain ⟨hnew, hd⟩ := hmap m (.inl rfl)
    exact h.mapAtIssue hnew hd _
  | scatter m =>
    obtain ⟨hnew, hd⟩ := hmap m (.inr rfl)
    exact h.mapAtIssue hnew hd _
  | _ => exact ⟨o, h⟩

/-- The meaning of a waited command's node: its issue, and what follows it. -/
theorem Run.commands_waited (h0 : Regular s0 = true) (r : Run s0) {f : Fire} (h : f.sh.t0 ≠ .none) (k : CmdKind) :
    ∃ (o : EngOp) (q : Run s0), Issued r.st f k o q.st ∧ Run.commands k r f = (q.afterIssue k (r.st.uid + 1), {}) := by
  obtain ⟨o, hissued, hout⟩ := Run.command_waited h0 r h k
  refine ⟨o, _, hissued, ?_⟩
  rw [Run.commands, if_neg h, hout]

/-- A waited command fires as its issue, what follows it, and the record of the firing. -/
theorem exec_command_waited {i : Instr} {k : CmdKind} {s : State} {f : Fire} (hc : Command i k) (h : Acts s i f) (ht : (shape i).t0 ≠ .none) (hs : Regular s = true) :
    ∃ (o : EngOp) (q : Run s), Issued s f k o q.st
      ∧ exec i s = .next ((q.afterIssue k (s.uid + 1)).finish f.c f.b.iid f.idx (shape i) {}).st := by
  obtain ⟨o, q, hissued, hbody⟩ := Run.commands_waited hs (Run.start s) ((fires_sh h.1).symm ▸ ht) k
  refine ⟨o, q, hissued, ?_⟩
  rw [exec_command hc, fireWith_acts h, hbody]
  rfl

/-- What O46 says of the state in which a waited command has fired. -/
theorem Issued.fired {s : State} {i : Instr} {q : Run s} {f : Fire} {k : CmdKind} {o : EngOp} (h : Issued s f k o q.st) (hs : Regular s = true) (hf : Fires s i f) {t : State}
    (ht : t = (q.finish f.c f.b.iid f.idx (shape i) {}).st) :
    t.ops = s.ops ++ [o] ∧ (t.ctx f.c).ticket = (s.ctx f.c).ticket + 1 ∧ (∀ n, t.byte n = s.byte n)
      ∧ (∀ c n, (t.ctx c).reg n = (s.ctx c).reg n ∧ (t.ctx c).isFull n = (s.ctx c).isFull n) ∧ (∀ c, c ≠ f.c → t.ctx c = s.ctx c)
      ∧ ∃ b, (t.ctx f.c).run? f.b.iid = some b ∧ b.outs = f.b.outs ∧ b.fired = f.idx :: f.b.fired := by
  obtain ⟨-, -, -, hrun, -⟩ := fires_run hf
  obtain ⟨hsame, hothers, hown⟩ := Run.finish_same q (q.regular hs) f.c f.b.iid f.idx (shape i) {}
  have hrun' : (q.st.ctx f.c).run? f.b.iid = some f.b := by rw [h.own]; exact hrun
  rw [← ht] at hsame hothers hown
  have hctx : ∀ c, c ≠ f.c → t.ctx c = s.ctx c := fun c hc => (hothers c hc).trans (h.others c hc)
  have hreg : (t.ctx f.c).g = (s.ctx f.c).g ∧ (t.ctx f.c).gEmpty = (s.ctx f.c).gEmpty := by
    rw [hown, h.own]
    exact ⟨rfl, rfl⟩
  obtain ⟨hg, hempty⟩ := hreg
  refine ⟨?_, ?_, fun n => ?_, fun c n => ?_, hctx, ?_⟩
  · rw [hsame]
    exact h.ops
  · rw [hown, h.own]
  · rw [State.byte, State.byte, ← h.mem, hsame]
  · by_cases hc : c = f.c
    · rw [hc, Ctx.reg, Ctx.reg, Ctx.isFull, Ctx.isFull, hg, hempty]
      exact ⟨rfl, rfl⟩
    · rw [hctx c hc]
      exact ⟨rfl, rfl⟩
  · rw [ht]
    exact Run.finish_waited hrun' f.idx (shape i)

/-! ### Tickets -/

/-- Every context has taken as many tickets as before. -/
def TicketsKept (s t : State) : Prop := ∀ c, (t.ctx c).ticket = (s.ctx c).ticket

theorem TicketsKept.refl (s : State) : TicketsKept s s := fun _ => rfl

theorem TicketsKept.trans {s t u : State} (h : TicketsKept s t) (k : TicketsKept t u) : TicketsKept s u := fun c => (k c).trans (h c)

theorem TicketsKept.of_ctxs {s t : State} (h : t.ctxs = s.ctxs) : TicketsKept s t := fun c => by rw [State.ctx, State.ctx, h]

/-- A fold of steps that keep tickets keeps them. -/
theorem TicketsKept.foldl {α : Type} {step : Run s0 → α → Run s0} (h : ∀ r a, TicketsKept r.st (step r a).st) (l : List α) (r : Run s0) :
    TicketsKept r.st (l.foldl step r).st := by
  induction l generalizing r with
  | nil => exact .refl _
  | cons a l ih => exact (h r a).trans (ih (step r a))

theorem Run.countSpills_ctxs (r : Run s0) (s : State) (c : Nat) : (r.countSpills s c).st.ctxs = r.st.ctxs := Run.count_ctxs ..

theorem Run.setOp_tickets (r : Run s0) (o : EngOp) : TicketsKept r.st (r.setOp o).st := .of_ctxs rfl

theorem Run.dropOp_ctxs (r : Run s0) (id : Nat) : (r.dropOp id).st.ctxs = r.st.ctxs := by
  unfold Run.dropOp Run.leaveHome
  split <;> rfl

theorem Run.engineRead_ctxs (r : Run s0) (o : EngOp) (sp : Space) (ea n : Nat) : (r.engineRead o sp ea n).1.st.ctxs = r.st.ctxs := by
  unfold Run.engineRead
  split
  · rfl
  · split
    · rfl
    · exact Run.readBytes_ctxs ..

theorem Run.parkOp_tickets (r : Run s0) (o : EngOp) (va : Nat) (kind : BitVec 5) : TicketsKept r.st (r.parkOp o va kind).st := by
  unfold Run.parkOp
  dsimp only
  split
  · next q h => exact TicketsKept.trans (.of_ctxs (Run.parkOn_ctxs h)) (Run.setOp_tickets q _)
  · exact Run.setOp_tickets r o

theorem Run.serveOne_ctxs (r : Run s0) (e : Reader) : (r.serveOne e).st.ctxs = r.st.ctxs := by
  unfold Run.serveOne Run.mark
  dsimp only
  split
  · split <;> rfl
  · split
    · exact Run.foldl_keeps State.ctxs _ (fun _ _ => by rfl) _ _
    · rfl

theorem Run.fillAt_ctxs (r : Run s0) (k : Nat) (bs : List Byte) : (r.fillAt k bs).st.ctxs = r.st.ctxs := by
  have hserve : ∀ (q : Run s0) gs, (q.serve gs).st.ctxs = q.st.ctxs := fun q gs =>
    Run.foldl_keeps State.ctxs _ (fun q g => Run.foldl_keeps State.ctxs _ Run.serveOne_ctxs _ q) gs q
  have huntold : ∀ (q : Run s0) gs, (q.untold gs).st.ctxs = q.st.ctxs := fun q gs =>
    Run.foldl_keeps State.ctxs _ (fun q g => by split <;> rfl) gs q
  have hmark : ∀ (q : Run s0) gs v, (q.mark gs v).st.ctxs = q.st.ctxs := fun q gs v => by
    unfold Run.mark
    exact Run.foldl_keeps State.ctxs _ (fun q g => by rfl) gs q
  unfold Run.fillAt
  dsimp only
  rw [hserve, hmark, huntold, Run.write_ctxs]

section
variable (h0 : Regular s0 = true)
include h0

theorem Run.modCtx_tickets (r : Run s0) (c : Nat) {f : Ctx → Ctx} (hf : ∀ x, (f x).ticket = x.ticket) : TicketsKept r.st (r.modCtx c f).st := fun d => by
  rw [Run.modCtx_ctx (r.regular h0)]
  split
  · next hd =>
    rw [hd]
    exact hf _
  · rfl

theorem Run.modRun_tickets (r : Run s0) (c iid : Nat) (f : BlockRun → BlockRun) : TicketsKept r.st (r.modRun c iid f).st := fun d => by
  rw [Run.modRun_ctx r (r.regular h0)]
  split
  · next hd => rw [hd, Ctx.mapRun]
  · rfl

theorem Run.answer_tickets (r : Run s0) (o : EngOp) (t0 t1 : Option Token) : TicketsKept r.st (r.answer o t0 t1).st :=
  (Run.modRun_tickets h0 r o.c o.iid _).trans (.of_ctxs (Run.countSpills_ctxs ..))

theorem Run.answered_tickets (r : Run s0) (o : EngOp) : TicketsKept r.st (r.answered o).st := Run.modRun_tickets h0 r o.c o.iid _

theorem Run.discardAll_tickets (r : Run s0) (c : Nat) : TicketsKept r.st (r.discardAll c).st := by
  have hdiscard : ∀ (x : Ctx) iid, (x.discardFrom iid).ticket = x.ticket := fun x iid => by
    unfold Ctx.discardFrom
    dsimp only
    split <;> rfl
  unfold Run.discardAll
  split
  · exact (Run.modCtx_tickets h0 r c fun _ => by rfl).trans (.of_ctxs (Run.foldl_keeps State.ctxs _ (fun _ _ => by rfl) _ _))
  · exact (Run.modCtx_tickets h0 r c fun x => hdiscard x _).trans (.of_ctxs (Run.discardFrom_keeps State.ctxs _ _ _ fun _ _ _ _ _ _ => by rfl))

theorem Run.failNode_tickets (r : Run s0) (launch node cls code : Nat) : TicketsKept r.st (r.failNode launch node cls code).st := by
  have hdrop : ∀ (q : Run s0) c, (q.dropFaults c).st.ctxs = q.st.ctxs := fun q c => by
    unfold Run.dropFaults
    split <;> rfl
  unfold Run.failNode
  refine TicketsKept.trans (.of_ctxs rfl) (TicketsKept.foldl (fun q c => ?_) _ _)
  dsimp only
  split
  · exact (Run.discardAll_tickets h0 q c).trans (TicketsKept.trans (.of_ctxs (hdrop _ _)) (Run.modCtx_tickets h0 _ c fun _ => by rfl))
  · exact .refl _

theorem Run.escalate_tickets (r : Run s0) (c : Nat) (f : FaultRec) (latch : Latch) : TicketsKept r.st (r.escalate c f latch).st := by
  unfold Run.escalate
  have hput : ∀ (q : Run s0) m, TicketsKept q.st (q.put (.escalated m)).st := fun _ _ => .of_ctxs rfl
  dsimp only
  refine (Run.discardAll_tickets h0 r c).trans (TicketsKept.trans ?_ (hput _ _))
  split
  · exact Run.modCtx_tickets h0 _ c fun _ => by rfl
  · exact .refl _

theorem Run.raiseAsync_tickets (r : Run s0) (c : Nat) (f : FaultRec) : TicketsKept r.st (r.raiseAsync c f).st := by
  have hqueue : ∀ (x : Ctx) clk g, (x.queueFault clk g).ticket = x.ticket := fun x clk g => by
    unfold Ctx.queueFault
    split <;> rfl
  unfold Run.raiseAsync
  dsimp only
  have hcount : TicketsKept r.st (if (f.rflags ||| rfAsync) / rfEngine % 2 = 1 then r.count c none 0x2B 1 else r).st := by
    split
    · exact .of_ctxs (Run.count_ctxs ..)
    · exact .refl _
  refine hcount.trans ?_
  generalize (if (f.rflags ||| rfAsync) / rfEngine % 2 = 1 then r.count c none 0x2B 1 else r) = q
  split
  · exact Run.modCtx_tickets h0 q c fun x => hqueue x q.st.clk _
  · exact Run.escalate_tickets h0 _ c _ _

theorem Run.opFault_tickets (r : Run s0) (o : EngOp) (f : FaultRec) : TicketsKept r.st (r.opFault o f).st := by
  unfold Run.opFault
  split
  · exact Run.raiseAsync_tickets h0 r o.c f
  · exact Run.failNode_tickets h0 r _ _ _ _

theorem Run.deliverWord_tickets (r : Run s0) (o : EngOp) (w value : Word64) (isErr : Bool) : TicketsKept r.st (r.deliverWord o w value isErr).st := by
  have htold : ∀ (q : Run s0) g n, (q.put (.told g n)).st.ctxs = q.st.ctxs := fun _ _ _ => rfl
  unfold Run.deliverWord
  split
  · exact Run.opFault_tickets h0 r o _
  · split
    · exact .refl _
    · split
      · exact Run.modCtx_tickets h0 r o.c fun _ => by rfl
      · exact .refl _
    · exact .of_ctxs ((htold _ _ _).trans (Run.fillAt_ctxs _ _ _))
    · dsimp only
      split
      · exact .refl _
      · split
        · exact (Run.modRun_tickets h0 r o.c _ _).trans (.of_ctxs (Run.countSpills_ctxs ..))
        · exact Run.modCtx_tickets h0 r o.c fun _ => by rfl

theorem Run.failOp_tickets (r : Run s0) (o : EngOp) (f : FaultRec) : TicketsKept r.st (r.failOp o f).st := by
  have hanswer : ∀ (q : Run s0) t0 t1, TicketsKept q.st ((q.answer o t0 t1).answered o).st := fun q t0 t1 =>
    (Run.answer_tickets h0 q o t0 t1).trans (Run.answered_tickets h0 _ o)
  unfold Run.failOp
  dsimp only
  refine ((Run.opFault_tickets h0 r o f).trans ?_).trans (.of_ctxs (Run.dropOp_ctxs _ _))
  split
  · split
    · exact hanswer _ _ _
    · exact hanswer _ _ _
    · split
      · exact .refl _
      · exact hanswer _ _ _
    · exact hanswer _ _ _
  · exact TicketsKept.foldl (fun q e => Run.deliverWord_tickets h0 q o _ _ _) _ _

/-- The read of a shard map takes no ticket, whether it goes on, parks or fails (R302). -/
theorem Run.readShards_tickets (r : Run s0) (o : EngOp) : TicketsKept r.st (r.readShards o).st := by
  have hfail : ∀ (q : Run s0) cls code va, TicketsKept q.st (q.failOpWith o cls code va).st := fun q _ _ _ => Run.failOp_tickets h0 q o _
  have hread : ∀ (q : Run s0) va n, TicketsKept q.st (q.engineRead o .main va n).1.st := fun q va n => .of_ctxs (Run.engineRead_ctxs q o .main va n)
  unfold Run.readShards
  dsimp only
  split
  · exact Run.setOp_tickets r _
  · split
    · exact hfail r _ _ _
    · refine (hread r (gShmap o.desc) 64).trans ?_
      split
      · next h _ =>
        split
        · exact hfail _ _ _ _
        · refine (hread _ (gShmap o.desc + 64) (16 * fieldAt h 0 2)).trans ?_
          split
          · split
            · exact Run.setOp_tickets _ _
            · exact hfail _ _ _ _
          · exact Run.parkOp_tickets _ o _ _
          · exact hfail _ _ _ _
      · exact Run.parkOp_tickets _ o _ _
      · exact hfail _ _ _ _

theorem Run.mapAtIssue_tickets (r : Run s0) (id : Nat) (ok : EngOp → Bool) : TicketsKept r.st (r.mapAtIssue id ok).st := by
  unfold Run.mapAtIssue
  split
  · split
    · exact Run.readShards_tickets h0 r _
    · exact .refl _
  · exact .refl _

end

/-- A context takes one ticket as its waited command is issued, if no more is taken after the issue. -/
theorem Issued.fired_ticket {s : State} {i : Instr} {q r : Run s} {f : Fire} {k : CmdKind} {o : EngOp} (h : Issued s f k o q.st) (hs : Regular s = true)
    (hr : TicketsKept q.st r.st) : ((r.finish f.c f.b.iid f.idx (shape i) {}).st.ctx f.c).ticket = (s.ctx f.c).ticket + 1 := by
  obtain ⟨-, -, hown⟩ := Run.finish_same r (r.regular hs) f.c f.b.iid f.idx (shape i) {}
  calc _ = (r.st.ctx f.c).ticket := by rw [hown]
    _ = (q.st.ctx f.c).ticket := hr f.c
    _ = _ := by rw [h.own]

/-! ### Completion at the issue (R199) -/

/-- What a completion of operation `id` leaves: memory and tickets are as they were, only that operation has changed or gone, and every run is still there. -/
structure Completes (id : Nat) (s t : State) : Prop where
  mem : t.mem = s.mem
  ops : ∀ p ∈ t.ops, p.id ≠ id → p ∈ s.ops
  tickets : TicketsKept s t
  runs : ∀ c iid b, (s.ctx c).run? iid = some b → ∃ b', (t.ctx c).run? iid = some b'

theorem Completes.refl (id : Nat) (s : State) : Completes id s s := ⟨rfl, fun _ h _ => h, .refl s, fun _ _ b h => ⟨b, h⟩⟩

theorem Completes.trans {id : Nat} {s t u : State} (h : Completes id s t) (k : Completes id t u) : Completes id s u where
  mem := k.mem.trans h.mem
  ops p hp hid := h.ops p (k.ops p hp hid) hid
  tickets := h.tickets.trans k.tickets
  runs c iid b hb := by
    obtain ⟨b', hb'⟩ := h.runs c iid b hb
    exact k.runs c iid b' hb'

/-- A change of the operation, or of anything but memory, operations and contexts. -/
theorem Completes.of_ctxs {id : Nat} {s t : State} (hmem : t.mem = s.mem) (hctxs : t.ctxs = s.ctxs) (hops : ∀ p ∈ t.ops, p.id ≠ id → p ∈ s.ops) : Completes id s t :=
  ⟨hmem, hops, .of_ctxs hctxs, fun c _ b h => ⟨b, by rw [State.ctx, hctxs]; exact h⟩⟩

theorem Run.setOp_completes (r : Run s0) (o : EngOp) : Completes o.id r.st (r.setOp o).st := by
  refine .of_ctxs rfl rfl fun p hp hid => ?_
  obtain ⟨b, hb, rfl⟩ := List.mem_map.mp hp
  split at hid
  · exact (hid rfl).elim
  · next hne => rwa [if_neg hne]

theorem Run.dropOp_completes (r : Run s0) (id : Nat) : Completes id r.st (r.dropOp id).st := by
  refine .of_ctxs ?_ (Run.dropOp_ctxs r id) fun p hp _ => ?_
  · unfold Run.dropOp Run.leaveHome
    split <;> rfl
  · rw [Run.dropOp_ops] at hp
    exact (List.mem_filter.mp hp).1

/-- A token leaves the identifier of the run that it is sent to. -/
theorem State.sendTo_iid (s : State) (c : Nat) (src : Option Nat) (b : BlockRun) (t : Target) (tok : Option Token) : (s.sendTo c src b t tok).iid = b.iid := by
  unfold State.sendTo BlockRun.accept
  split
  · dsimp only
    split
    · split
      · rfl
      · split <;> rfl
    · split
      · rfl
      · split <;> rfl
  · rfl

section
variable (h0 : Regular s0 = true)
include h0

theorem Run.modRun_completes (r : Run s0) (id c iid : Nat) {f : BlockRun → BlockRun} (hf : ∀ b, (f b).iid = b.iid) : Completes id r.st (r.modRun c iid f).st := by
  refine ⟨rfl, fun _ h _ => h, Run.modRun_tickets h0 r c iid f, fun d i b hb => ?_⟩
  rw [Run.modRun_ctx r (r.regular h0)]
  split
  · next hd =>
    subst hd
    refine ⟨_, find?_map_of_keeps (fun y => ?_) hb⟩
    split
    · rw [hf]
    · rfl
  · exact ⟨b, hb⟩

theorem Run.answer_completes (r : Run s0) (id : Nat) (o : EngOp) (t0 t1 : Option Token) : Completes id r.st (r.answer o t0 t1).st := by
  have hspills : ∀ (q : Run s0) s c, Completes id q.st (q.countSpills s c).st := fun q s c => by
    rw [Run.countSpills_st]
    exact .of_ctxs rfl rfl fun _ h _ => h
  refine (Run.modRun_completes h0 r id o.c o.iid fun b => ?_).trans (hspills _ _ _)
  exact (State.sendTo_iid ..).trans (State.sendTo_iid ..)

theorem Run.answered_completes (r : Run s0) (id : Nat) (o : EngOp) : Completes id r.st (r.answered o).st :=
  Run.modRun_completes h0 r id o.c o.iid fun b => by rw [State.checkExit_faults]

theorem Run.tell_completes (r : Run s0) {o : EngOp} (hw : o.waited = true) (which count : Nat) (zx : Bool) : Completes o.id r.st (r.tell o which count zx).st := by
  have hsucceed : Completes o.id r.st (r.succeed o which count zx).st := by
    unfold Run.succeed
    rw [if_pos hw]
    split <;> exact Run.answer_completes h0 r o.id o _ _
  unfold Run.tell
  refine hsucceed.trans ?_
  dsimp only
  split
  · next p hp =>
    rw [← State.op?_id hp]
    exact Run.setOp_completes _ { p with sent := p.sent ||| 2 ^ which }
  · exact .refl _ _

/-- A waited command of the streamer completes at its issue, or is left for later. -/
theorem Run.atIssue_completes (r : Run s0) {o : EngOp} (hop : r.st.op? o.id = some o) (hw : o.waited = true) : Completes o.id r.st (r.atIssue o.id).st := by
  have hdone : Completes o.id r.st ((((r.tell o 1 0 true).tell o 2 0 true).answered o).ended o).st :=
    (((Run.tell_completes h0 r hw 1 0 true).trans (Run.tell_completes h0 _ hw 2 0 true)).trans (Run.answered_completes h0 _ o.id o)).trans (Run.dropOp_completes _ o.id)
  have hcase : ∀ p : Bool, Completes o.id r.st (if p = true then (((r.tell o 1 0 true).tell o 2 0 true).answered o).ended o else r).st := fun p => by
    split
    · exact hdone
    · exact .refl _ _
  unfold Run.atIssue
  rw [hop]
  dsimp only
  rw [if_pos hw]
  exact hcase _

end

/-- What O46 says of the state in which a waited command of the streamer has fired. -/
theorem Issued.fired_streams {s : State} {i : Instr} {q r : Run s} {f : Fire} {k : CmdKind} {o : EngOp} (h : Issued s f k o q.st) (hs : Regular s = true) (hf : Fires s i f)
    (hr : Completes (s.uid + 1) q.st r.st) {t : State} (ht : t = (r.finish f.c f.b.iid f.idx (shape i) {}).st) :
    (t.ctx f.c).ticket = (s.ctx f.c).ticket + 1 ∧ t.mem = s.mem ∧ (∀ p ∈ t.ops, p.id ≠ s.uid + 1 → p ∈ s.ops)
      ∧ ∃ b, (t.ctx f.c).run? f.b.iid = some b ∧ f.idx ∈ b.fired := by
  obtain ⟨-, -, -, hrun, -⟩ := fires_run hf
  have hrun' : (q.st.ctx f.c).run? f.b.iid = some f.b := by rw [h.own]; exact hrun
  obtain ⟨b, hb⟩ := hr.runs _ _ _ hrun'
  obtain ⟨b', hb', -, hfired⟩ := Run.finish_waited hb f.idx (shape i)
  obtain ⟨hsame, -, -⟩ := Run.finish_same r (r.regular hs) f.c f.b.iid f.idx (shape i) {}
  rw [← ht] at hsame hb'
  refine ⟨?_, ?_, fun p hp hid => ?_, b', hb', hfired ▸ List.mem_cons_self⟩
  · rw [ht]
    exact h.fired_ticket hs hr.tickets
  · rw [hsame]
    exact hr.mem.trans h.mem
  · rw [hsame] at hp
    have hq := hr.ops p hp hid
    rw [h.ops, List.mem_append, List.mem_singleton] at hq
    rcases hq with hq | rfl
    · exact hq
    · exact (hid h.carries.id).elim

/-- Settles O46: posted, a command is its buffering; waited, it is its issue and what follows it, and the record of the firing takes no more than the run. -/
theorem engineCommandsAreIssued : Obligations.EngineCommandsAreIssued := by
  unfold Obligations.EngineCommandsAreIssued
  refine ⟨⟨fun i k s f hc h ht => exec_command_posted hc h ht, fun g fld m s f h => execTdset_posted h, fun g s f h => execStage_posted h⟩, ?_, ?_, ?_⟩
  · intro i k s f hc h ht hs hcopy hcopyMc hxform hmap
    obtain ⟨o, q, hissued, hexec⟩ := exec_command_waited hc h ht hs
    obtain ⟨p, hp⟩ := hissued.afterIssue hcopy hcopyMc hxform hmap
    obtain ⟨hops, hrest⟩ := hp.fired hs h.1 (i := i) rfl
    obtain ⟨hid, hticket, hctx, hiid, hidx, hcmd, hwaited, ht0, ht1, -⟩ := hp.carries
    rw [fires_sh h.1] at ht0 ht1
    exact ⟨_, p, hexec, hops, hid, hticket, hctx, hiid, hidx, hcmd, hwaited, ht0, ht1, hrest⟩
  · intro i k s f hc hk h ht hs hnew
    obtain ⟨o, q, hissued, hexec⟩ := exec_command_waited hc h ht hs
    have hat : q.afterIssue k (s.uid + 1) = q.atIssue (s.uid + 1) := by
      rcases hk with rfl | rfl | rfl <;> rfl
    have hop := hissued.op? hnew
    rw [← hissued.carries.id] at hop
    have hdone := Run.atIssue_completes hs q hop hissued.carries.waited
    rw [hissued.carries.id, ← hat] at hdone
    exact ⟨_, hexec, hissued.fired_streams hs h.1 hdone rfl⟩
  · intro i k m s f hc hk h ht hs _ _
    obtain ⟨o, q, hissued, hexec⟩ := exec_command_waited hc h ht hs
    have hat : q.afterIssue k (s.uid + 1) = q.mapAtIssue (s.uid + 1) (fun o => gatherOk o.gmode o.desc) := by
      rcases hk with rfl | rfl <;> rfl
    refine ⟨_, hexec, hissued.fired_ticket hs ?_⟩
    rw [hat]
    exact Run.mapAtIssue_tickets hs q _ _

end Sys2Proof.Machine

/-! The order of logits (R225): ranking a list, and what its first entries leave out. -/

namespace Sys2Proof.Machine

open Sys2Proof

/-! ### Ranking (R225) -/

/-- The rank of entries of an index and a logit: the greater logit first, and the lower index among equals. -/
def RanksBefore (a b : Nat × Nat) : Prop := logitKey b.2 < logitKey a.2 ∨ (logitKey b.2 = logitKey a.2 ∧ a.1 < b.1)

/-- An entry joins ranked entries, after those that rank as high; `rankIn` keeps the first of them. -/
def rankAmong (l : List (Nat × Nat)) (e : Nat × Nat) : List (Nat × Nat) :=
  l.takeWhile (fun b => decide (logitKey e.2 ≤ logitKey b.2)) ++ e :: l.dropWhile (fun b => decide (logitKey e.2 ≤ logitKey b.2))

/-- All logits of a list, ranked. -/
def ranked (vs : List Nat) : List (Nat × Nat) := (vs.mapIdx (fun i v => (i, v))).foldl rankAmong []

theorem rankIn_eq_take (k : Nat) (l : List (Nat × Nat)) (e : Nat × Nat) : rankIn k l e = (rankAmong l e).take k := rfl

theorem rankAmong_cons_high {b e : Nat × Nat} (h : logitKey e.2 ≤ logitKey b.2) (l : List (Nat × Nat)) : rankAmong (b :: l) e = b :: rankAmong l e := by
  simp [rankAmong, h]

theorem rankAmong_cons_low {b e : Nat × Nat} (h : ¬ logitKey e.2 ≤ logitKey b.2) (l : List (Nat × Nat)) : rankAmong (b :: l) e = e :: b :: l := by
  simp [rankAmong, h]

/-- An entry that joins the first `k` finds the place among them that it finds among all. -/
theorem rankAmong_take (k : Nat) (l : List (Nat × Nat)) (e : Nat × Nat) : (rankAmong (l.take k) e).take k = (rankAmong l e).take k := by
  induction l generalizing k with
  | nil => rw [List.take_nil]
  | cons b l ih =>
    cases k with
    | zero => rfl
    | succ k =>
      rw [List.take_succ_cons]
      by_cases h : logitKey e.2 ≤ logitKey b.2
      · rw [rankAmong_cons_high h, rankAmong_cons_high h, List.take_succ_cons, List.take_succ_cons, ih]
      · have hshort : (b :: l.take k).take k = (b :: l).take k := by rw [← List.take_succ_cons, List.take_take, Nat.min_eq_left (Nat.le_succ k)]
        rw [rankAmong_cons_low h, rankAmong_cons_low h, List.take_succ_cons, List.take_succ_cons, hshort]

theorem foldl_rankIn (k : Nat) (es l : List (Nat × Nat)) : es.foldl (rankIn k) (l.take k) = (es.foldl rankAmong l).take k := by
  induction es generalizing l with
  | nil => rfl
  | cons e es ih => rw [List.foldl_cons, List.foldl_cons, rankIn_eq_take, rankAmong_take, ih]

/-- The `k` best are the first `k` of all, ranked. -/
theorem topOf_eq_take (k : Nat) (vs : List Nat) : topOf k vs = (ranked vs).take k := by
  have h := foldl_rankIn k (vs.mapIdx (fun i v => (i, v))) []
  rwa [List.take_nil] at h

theorem rankAmong_perm (l : List (Nat × Nat)) (e : Nat × Nat) : (rankAmong l e).Perm (e :: l) := by
  unfold rankAmong
  refine List.perm_middle.trans ?_
  rw [List.takeWhile_append_dropWhile]

/-- An entry of a higher index than all joins ranked entries at its rank. -/
theorem rankAmong_pairwise {l : List (Nat × Nat)} {e : Nat × Nat} (hl : l.Pairwise RanksBefore) (he : ∀ b ∈ l, b.1 < e.1) : (rankAmong l e).Pairwise RanksBefore := by
  induction l with
  | nil => exact List.pairwise_singleton _ _
  | cons b l ih =>
    obtain ⟨hb, hl⟩ := List.pairwise_cons.mp hl
    by_cases h : logitKey e.2 ≤ logitKey b.2
    · rw [rankAmong_cons_high h, List.pairwise_cons]
      refine ⟨fun c hc => ?_, ih hl fun c hc => he c (List.mem_cons_of_mem b hc)⟩
      rcases List.mem_cons.mp ((rankAmong_perm l e).mem_iff.mp hc) with rfl | hc
      · exact (Int.lt_or_eq_of_le h).imp_right fun heq => ⟨heq, he b List.mem_cons_self⟩
      · exact hb c hc
    · rw [rankAmong_cons_low h, List.pairwise_cons, List.pairwise_cons]
      have hlow : logitKey b.2 < logitKey e.2 := Int.not_le.mp h
      refine ⟨fun c hc => .inl ?_, hb, hl⟩
      rcases List.mem_cons.mp hc with rfl | hc
      · exact hlow
      · have hkey : logitKey c.2 ≤ logitKey b.2 := (hb c hc).elim Int.le_of_lt fun heq => Int.le_of_eq heq.1
        exact Int.lt_of_le_of_lt hkey hlow

/-- What holds of the empty list, and of a list with one more element at its end, holds of every list. -/
theorem concat_induction {α : Type} {P : List α → Prop} (nil : P []) (concat : ∀ l a, P l → P (l ++ [a])) (l : List α) : P l := by
  rw [← List.reverse_reverse l]
  induction l.reverse with
  | nil => exact nil
  | cons a l ih =>
    rw [List.reverse_cons]
    exact concat _ a ih

theorem ranked_concat (vs : List Nat) (v : Nat) : ranked (vs ++ [v]) = rankAmong (ranked vs) (vs.length, v) := by
  rw [ranked, List.mapIdx_concat, List.foldl_append]
  rfl

/-- Ranking keeps the entries. -/
theorem ranked_perm (vs : List Nat) : (ranked vs).Perm (vs.mapIdx (fun i v => (i, v))) := by
  induction vs using concat_induction with
  | nil => exact .refl _
  | concat vs v ih =>
    rw [ranked_concat, List.mapIdx_concat]
    exact (rankAmong_perm _ _).trans ((ih.cons _).trans (List.perm_append_singleton _ _).symm)

theorem mem_ranked {vs : List Nat} {e : Nat × Nat} : e ∈ ranked vs ↔ vs[e.1]? = some e.2 := by
  rw [(ranked_perm vs).mem_iff, List.mem_mapIdx, List.getElem?_eq_some_iff]
  exact ⟨fun ⟨i, hi, h⟩ => h ▸ ⟨hi, rfl⟩, fun ⟨hi, h⟩ => ⟨e.1, hi, Prod.ext rfl h⟩⟩

/-- All logits stand in order of rank. -/
theorem ranked_pairwise (vs : List Nat) : (ranked vs).Pairwise RanksBefore := by
  induction vs using concat_induction with
  | nil => exact .nil
  | concat vs v ih =>
    rw [ranked_concat]
    refine rankAmong_pairwise ih fun b hb => ?_
    obtain ⟨hlt, -⟩ := List.getElem?_eq_some_iff.mp (mem_ranked.mp hb)
    exact hlt

/-- Settles O48: the `k` best are the first `k` of all logits in order of rank, and what is left out stands behind them. -/
theorem topOfRanks : Obligations.TopOfRanks := by
  unfold Obligations.TopOfRanks
  intro k vs hk
  have hsplit : (ranked vs).Pairwise RanksBefore := ranked_pairwise vs
  rw [← List.take_append_drop k (ranked vs), List.pairwise_append, ← topOf_eq_take] at hsplit
  obtain ⟨htop, -, hacross⟩ := hsplit
  refine ⟨?_, fun e he => ?_, htop, fun j v hv hout e he => hacross e he (j, v) ?_⟩
  · rw [topOf_eq_take, List.length_take, (ranked_perm vs).length_eq, List.length_mapIdx, Nat.min_eq_left hk]
  · rw [topOf_eq_take] at he
    exact mem_ranked.mp (List.mem_of_mem_take he)
  · have hall : (j, v) ∈ ranked vs := mem_ranked.mpr hv
    rw [← List.take_append_drop k (ranked vs), List.mem_append, ← topOf_eq_take] at hall
    exact hall.resolve_left hout

end Sys2Proof.Machine

/-! The nodes that write a soft register (R222, R225 to R228): what each computes, and that its image is all it writes. -/

namespace Sys2Proof.Machine

open Sys2Proof

variable {s0 : State}

/-! ### Reads and writes of a soft-token node -/

/-- A read that succeeds goes on with its bytes. -/
theorem Run.needs_ok {r q : Run s0} {f : Fire} {sp : Space} {ea n : Nat} {bs : List Byte} (h : r.softRead f sp ea n = (q, .ok bs))
    (k : Run s0 → List Byte → Run s0 × NodeOut) : r.needs f sp ea n k = k q bs := by
  unfold Run.needs
  rw [h]

/-- Every write of the register in the run is one on which the node depends (R222). -/
def Fire.SoleWriter (f : Fire) (n : BitVec 4) : Prop :=
  ∀ e ∈ f.b.effs, ∀ im, e.eff = .soft n im → (SMap.get f.b.ancest 0 f.idx).getLsbD e.idx = true

/-- A write of a register that no unordered node writes joins the effects of its node. -/
theorem Fire.writeSoft_sole {f : Fire} {n : BitVec 4} (h : f.SoleWriter n) (im : BitVec 1024) (o : NodeOut) :
    f.writeSoft n im o = { o with effs := .soft n im :: o.effs } := by
  unfold Fire.writeSoft
  rw [List.find?_eq_none.mpr]
  intro e he hother
  obtain ⟨hfree, hwrites⟩ := Bool.and_eq_true_iff.mp hother
  split at hwrites
  · next m im' heff =>
    rw [eq_of_beq hwrites] at heff
    rw [h e he im' heff] at hfree
    cases hfree
  · cases hwrites

theorem acted_eq : acted = outcome true := rfl

/-- The upper half of a word. -/
theorem highHalf_toNat (w : Word64) : (w.extractLsb' 32 32).toNat = w.toNat / 2 ^ 32 := by
  rw [field_toNat]
  exact Nat.mod_eq_of_lt (Nat.div_lt_of_lt_mul w.isLt)

theorem lowBits_toNat (w : Word64) (n : Nat) : (w.extractLsb' 0 n).toNat = w.toNat % 2 ^ n := by
  rw [field_toNat, Nat.pow_zero, Nat.div_one]

/-! ### Producing soft values (R225 to R227) -/

section
variable {s : State} {f : Fire} {g : Gate} {n : BitVec 4} {t0 : Target} {r : Run s} {bs : List Byte}

/-- `stopk` with operands in order, once its vector is read. -/
theorem execStopk_reads (h : Acts s (.stopk g n t0) f) (hsole : f.SoleWriter n) (hv : vrefOk f.a.word = true) {k : Nat} (hk : f.b'.word.toNat % 16 = k)
    (h1 : 1 ≤ k) (h8 : k ≤ 8) (hel : k ≤ vrefElems f.a.word) (hz : bitsOf f.b'.word.toNat 4 28 = 0)
    (hr : (Run.start s).softRead f .core (vrefAddr f.a.word) (vrefBytes f.a.word) = (r, .ok bs)) :
    exec (.stopk g n t0) s = .next (r.finish f.c f.b.iid f.idx (shape (.stopk g n t0)) { outcome true with
      effs := [.soft n (softImage 2 16 k (f.b'.word.toNat / 2 ^ 32) (mixDigest (topOf k (vrefValues f.a.word bs)))
        (mixPayload (topOf k (vrefValues f.a.word bs))))] }).st := by
  have hok : (!vrefOk f.a.word || k == 0 || decide (8 < k) || decide (vrefElems f.a.word < k) || bitsOf f.b'.word.toNat 4 28 != 0) = false := by
    simp only [hv, hz, Bool.or_eq_false_iff, Bool.not_true, bne_self_eq_false, beq_eq_false_iff_ne, decide_eq_false_iff_not, true_and, and_true]
    omega
  rw [exec_stopk, execStopk, fireWith_acts h]
  dsimp only
  rw [hk, if_neg (by rw [hok]; exact Bool.false_ne_true), Run.needs_ok hr, Fire.writeSoft_sole hsole]
  rfl

/-- `smix` of an image that `stopk` left, at a positive temperature. -/
theorem execSmix_weighs (h : Acts s (.smix g n t0) f) (hsole : f.SoleWriter n) (htop : imgFlag (f.soft n) 16 = true) {mt : Nat} {e : Int} {k : Bool}
    (ht : FloatFmt.f32.read (f.b'.word.toNat % 2 ^ 32) = .fin false mt e k) {w : List Nat × FlagSet}
    (hw : mixWeights (.fin false mt e k) ((imgEntries (f.soft n)).map Prod.snd) = w) {es : List (Nat × Nat)} (hes : ((imgEntries (f.soft n)).map Prod.fst).zip w.1 = es) :
    exec (.smix g n t0) s = .next (fired s (.smix g n t0) f { outcome true with
      flags := w.2, effs := [.soft n (softImage 2 0 (imgCount (f.soft n)) (imgPos (f.soft n)) (mixDigest es) (mixPayload es))] }) := by
  subst hw hes
  rw [exec_smix, execSmix, fireNode_acts h]
  dsimp only
  rw [ht, softTopk, htop]
  dsimp only
  rw [if_neg (by decide), Fire.writeSoft_sole hsole]
  rfl

/-- `shid` with operands in order and no replay to check, once its vector is read. -/
theorem execShid_reads (h : Acts s (.shid g n t0) f) (hsole : f.SoleWriter n) (hv : vrefOk f.a.word = true) (h16 : 16 ≤ vrefElems f.a.word)
    (hmax : vrefElems f.a.word ≤ 16384) (hmod : vrefElems f.a.word % 16 = 0) (hpos : f.b'.word.toNat / 2 ^ 32 ≠ 0xFFFFFFFF) (hreplay : imgFlag (f.soft n) 32 = false)
    (hr : (Run.start s).softRead f .core (vrefAddr f.a.word) (vrefBytes f.a.word) = (r, .ok bs)) :
    exec (.shid g n t0) s = .next (r.finish f.c f.b.iid f.idx (shape (.shid g n t0)) { outcome true with
      effs := [.soft n (softImage 3 (if f.a.word.getLsbD 56 then 8 else 0) (vrefElems f.a.word) (f.b'.word.toNat / 2 ^ 32 + 1) (rx64 (quadsOf bs)).toNat
        (hiddenPayload f.a.word 0 (f.b'.word.toNat / 2 ^ 32) (f.b'.word.toNat % 2 ^ 32)))] }).st := by
  have hok : (!vrefOk f.a.word || decide (vrefElems f.a.word < 16) || decide (16384 < vrefElems f.a.word) || vrefElems f.a.word % 16 != 0
      || f.b'.word.toNat / 2 ^ 32 == 0xFFFFFFFF) = false := by
    simp only [hv, hmod, Bool.or_eq_false_iff, Bool.not_true, bne_self_eq_false, beq_eq_false_iff_ne, decide_eq_false_iff_not, true_and, and_true]
    omega
  rw [exec_shid, execShid, fireWith_acts h]
  dsimp only
  rw [if_neg (by rw [hok]; exact Bool.false_ne_true), Run.needs_ok hr, softReplay, hreplay, Bool.false_and, if_neg Bool.false_ne_true, Fire.writeSoft_sole hsole]
  rfl

end

/-! ### Collapse (R228) -/

section
variable {f : Fire} {n : BitVec 4} {pick : List (Nat × Nat) → Option (Nat × Nat)} {effs : List Eff}
  (htop : imgFlag (f.soft n) 16 = false) (hreplay : imgFlag (f.soft n) 32 = false)
include htop hreplay

/-- A TEXT register has collapsed already. -/
theorem collapse_text (hk : imgKind (f.soft n) = 1) : collapse f n pick effs = outcome true := by
  unfold collapse softTopk softReplay
  dsimp only
  rw [htop, hreplay, hk, Bool.or_self, if_neg Bool.false_ne_true, if_pos rfl, acted_eq]

variable (hk : imgKind (f.soft n) = 2)
include hk

theorem collapse_mix : collapse f n pick effs = (pick (imgEntries (f.soft n))).elim { outcome false with effs := effs }
    fun e => f.writeSoft n (softImage 1 1 1 (imgPos (f.soft n)) e.1 0) { outcome true with effs := effs } := by
  unfold collapse softTopk softReplay
  dsimp only
  rw [htop, hreplay, hk, Bool.or_self, if_neg Bool.false_ne_true, if_neg (by decide), if_pos rfl]
  cases pick (imgEntries (f.soft n)) <;> rfl

/-- A MIX register becomes the TEXT register of the entry that the collapse names. -/
theorem collapse_some (hsole : f.SoleWriter n) {e : Nat × Nat} (he : pick (imgEntries (f.soft n)) = some e) :
    collapse f n pick effs = { outcome true with effs := .soft n (softImage 1 1 1 (imgPos (f.soft n)) e.1 0) :: effs } := by
  rw [collapse_mix htop hreplay hk, he, Option.elim_some, Fire.writeSoft_sole hsole]

theorem collapse_none (he : pick (imgEntries (f.soft n)) = none) : collapse f n pick effs = { outcome false with effs := effs } := by
  rw [collapse_mix htop hreplay hk, he, Option.elim_none]

end

/-- Settles O49: each node's checks pass, its read gives its bytes, and its image is the one write of the register that does not come before it. -/
theorem softWrites : Obligations.SoftWrites := by
  unfold Obligations.SoftWrites
  intro g n m t0 s f hsole
  refine ⟨?_, ?_, ?_, ?_, ?_⟩
  · intro r bs h hv k h1 h8 hel hz hr
    have hz : bitsOf f.b'.word.toNat 4 28 = 0 := (field_toNat _ 4 28).symm.trans (congrArg BitVec.toNat hz)
    rw [execStopk_reads h hsole hv (lowBits_toNat f.b'.word 4).symm h1 h8 hel hz hr, highHalf_toNat]
  · exact fun mt e k h htop ht => execSmix_weighs h hsole htop ht rfl rfl
  · intro r bs h hv h16 hmax hmod hpos hreplay hr
    have hpos : f.b'.word.toNat / 2 ^ 32 ≠ 0xFFFFFFFF := fun he => hpos (BitVec.eq_of_toNat_eq ((highHalf_toNat _).trans he))
    rw [execShid_reads h hsole hv h16 hmax hmod hpos hreplay hr, highHalf_toNat, lowBits_toNat]
  · intro hk htop hreplay text es
    refine ⟨fun h => ?_, fun h he => ?_, fun h => ?_⟩
    · rw [exec_scollArgmax, execScollArgmax, fireNode_acts h, collapse_some htop hreplay hk hsole rfl]
    · rw [exec_scollSample, execScollSample, fireNode_acts h, he, if_neg Bool.false_ne_true, collapse_some htop hreplay hk hsole rfl]
    · rw [exec_scollConf, execScollConf, fireNode_acts h]
      dsimp only
      split
      · next hlow =>
        rw [collapse_none htop hreplay hk (if_neg (by rw [← Bool.not_or, ← Bool.not_or, hlow]; decide))]
        rfl
      · next hhigh => rw [collapse_some htop hreplay hk hsole (if_pos (by rw [← Bool.not_or, ← Bool.not_or, Bool.eq_false_iff.mpr hhigh]; rfl))]
  · intro hk htop hreplay i hi h
    simp only [List.mem_cons, List.not_mem_nil, or_false] at hi
    rcases hi with rfl | rfl
    · rw [exec_scollArgmax, execScollArgmax, fireNode_acts h, collapse_text htop hreplay hk]
    · rw [exec_scollConf, execScollConf, fireNode_acts h]
      dsimp only
      rw [collapse_text htop hreplay hk]

end Sys2Proof.Machine

/-! The nodes that read a soft register (R229, R230, R233, R236, R237): its fields, its record, its replay, and the operation that takes a copy of it. -/

namespace Sys2Proof.Machine

open Sys2Proof

variable {s0 : State}

/-! ### Fields (R230) -/

/-- Eight bytes of an image as a result: the slice of its bits at `lo`. -/
theorem eightBytes_eq (im : BitVec 1024) {off lo : Nat} (h : 8 * off = lo) : NodeOut.of (scalar (BitVec.ofNat 64 (imgField im off 8))) = result64 (im.extractLsb' lo 64) := by
  have hslice : BitVec.ofNat 64 (imgField im off 8) = im.extractLsb' lo 64 := by
    refine BitVec.eq_of_toNat_eq ?_
    rw [BitVec.toNat_ofNat, BitVec.extractLsb'_toNat, Nat.shiftRight_eq_div_pow, ← h]
    exact Nat.mod_mod _ _
  rw [hslice]
  rfl

/-- The E token of a weight that no MIX image has. -/
theorem rangeToken_eq : errorToken .scalar (descriptor 0x08 0x00 0) = ⟨.scalar, 0x0800000000000000, false, true, false⟩ := by
  simp [errorToken, descriptor]

/-- Field 2 is an entry of a MIX image, the one that A names. -/
theorem sget_weight (im : BitVec 1024) (j : Nat) :
    (if 7 < j then NodeOut.of (errorToken .scalar (descriptor 0x08 0x00 0))
      else if imgKind im = 2 then NodeOut.of (scalar (BitVec.ofNat 64 (imgField im (16 + 8 * j) 8))) else NodeOut.of (scalar 0))
    = if 7 < j then { t0 := some ⟨.scalar, 0x0800000000000000, false, true, false⟩, t1 := some ⟨.scalar, 0x0800000000000000, false, true, false⟩ }
      else result64 (if imgKind im = 2 then im.extractLsb' (128 + 64 * j) 64 else 0) := by
  rw [rangeToken_eq, eightBytes_eq im (show 8 * (16 + 8 * j) = 128 + 64 * j by omega), apply_ite result64]
  rfl

/-- Fields from 3 on are words of a HIDDEN image. -/
theorem sget_hidden (im : BitVec 1024) (k : Nat) :
    (if imgKind im = 3 then NodeOut.of (scalar (BitVec.ofNat 64 (imgField im (8 * (k - 1)) 8))) else NodeOut.of (scalar 0))
    = result64 (if imgKind im = 3 then im.extractLsb' (64 * (k - 1)) 64 else 0) := by
  rw [eightBytes_eq im (show 8 * (8 * (k - 1)) = 64 * (k - 1) by omega), apply_ite result64]
  rfl

section
variable {s : State} {f : Fire} {g : Gate} {n : BitVec 4} {t0 : Target}

/-! ### The context log (R233, R236) -/

theorem execSlog_full {m : BitVec 6} (h : Acts s (.slog g m n t0) f) (hfull : f.x.isFull m.toNat = true) (h0 : imgKind (f.soft n) ≠ 0) (h3 : imgKind (f.soft n) ≠ 3)
    (htop : imgFlag (f.soft n) 16 = false) (hreplay : imgFlag (f.soft n) 32 = false) :
    exec (.slog g m n t0) s = .next (fired s (.slog g m n t0) f { outcome true with effs := [.slog (f.x.reg m.toNat) 0 (f.soft n) f.det], outs := 1 }) := by
  have hk : (imgKind (f.soft n) == 0) = false := beq_eq_false_iff_ne.mpr h0
  rw [exec_slog, execSlog, fireNode_acts h]
  unfold softTopk softReplay
  dsimp only
  rw [hfull, if_neg (by decide), if_neg h3, hk, htop, hreplay, if_neg (by decide), if_pos rfl]
  rfl

theorem execScmp_compares {r₁ r₂ r₃ : Run s} {dx dy : List Byte} {len : Nat} {deq : Bool} (h : Acts s (.scmp g t0) f) (hp : slogPending (s.ctx f.c) f.b = false)
    (hx : (Run.start s).readLog f f.a.word.toNat = (r₁, .ok dx)) (hy : r₁.readLog f f.b'.word.toNat = (r₂, .ok dy))
    (hlen : r₂.prefixFrom f (logOf dx) (logOf dy) (min (logOf dx).count (logOf dy).count) 0 false = (r₃, .ok (len, deq))) :
    exec (.scmp g t0) s = .next (r₃.finish f.c f.b.iid f.idx (shape (.scmp g t0)) (result64 (BitVec.ofNat 64 (len + if deq then 2 ^ 32 else 0)))).st := by
  rw [exec_scmp, execScmp, fireWith_acts h]
  dsimp only
  rw [Run.start_st, hp, if_neg Bool.false_ne_true, hx]
  dsimp only
  rw [hy]
  dsimp only
  rw [hlen]
  rfl

/-! ### Replay (R237) -/

theorem execSrpl_text {r₁ r₂ : Run s} {db hd : List Byte} (h : Acts s (.srpl g n t0) f) (hp : slogPending (s.ctx f.c) f.b = false) (hb : f.b'.word.toNat < 2 ^ 54)
    (hdst : bitsOf f.b'.word.toNat 32 22 % 64 = 0) (hsole : f.SoleWriter n) (hlog : (Run.start s).readLog f f.a.word.toNat = (r₁, .ok db))
    (hrec : r₁.readRecord f (logOf db) (f.b'.word.toNat % 2 ^ 32) = (r₂, .ok hd)) (hk : fieldAt hd 0 1 = 1) :
    exec (.srpl g n t0) s = .next (r₂.finish f.c f.b.iid f.idx (shape (.srpl g n t0))
      { outcome true with effs := [.soft n (softImage 1 (fieldAt hd 1 1 % 2) 1 (fieldAt hd 4 4) (fieldAt hd 8 8) 0)] }).st := by
  have hok : ¬ (f.b'.word.toNat / 2 ^ 54 ≠ 0 ∨ bitsOf f.b'.word.toNat 32 22 % 64 ≠ 0) := by
    rw [Nat.div_eq_of_lt hb, hdst]
    simp
  rw [exec_srpl, execSrpl, fireWith_acts h]
  dsimp only
  rw [if_neg hok, Run.start_st, hp, if_neg Bool.false_ne_true, hlog]
  dsimp only
  rw [hrec]
  dsimp only
  rw [hk, Fire.writeSoft_sole hsole]
  rfl

end

/-! ### The next input row (R229) -/

/-- Whatever its targets, an issue for a node takes a ticket, and the operation has the next name. -/
theorem Run.issue_issued (h0 : Regular s0 = true) (r : Run s0) (f : Fire) (k : CmdKind) : ∃ o,
    Issued r.st f k o (r.issue f.c f.b f.idx (f.cmd k) true f.sh.t0 f.sh.t1).st ∧ (r.issue f.c f.b f.idx (f.cmd k) true f.sh.t0 f.sh.t1).st.uid = r.st.uid + 1 := by
  obtain ⟨o, d, hissue, hcarries⟩ := Run.issue_waited r f k
  have hr : Regular (r.put .named).st = true := (r.put .named).regular h0
  have hnorm : ((r.put .named).st.ctx f.c).norm = (r.put .named).st.ctx f.c := regular_norm hr f.c
  have hctx : ∀ c, ((r.issue f.c f.b f.idx (f.cmd k) true f.sh.t0 f.sh.t1).st).ctx c = if c = f.c then (r.st.ctx f.c).takeTicket else r.st.ctx c := fun c => by
    rw [hissue, Run.joinQueues_keeps (fun s => s.ctx c) fun _ _ => by rfl]
    refine (Run.modCtx_ctx hr f.c c Ctx.takeTicket).trans ?_
    rw [Ctx.norm_takeTicket hnorm]
    rfl
  refine ⟨o, ⟨hcarries, ?_, ?_, (hctx f.c).trans (if_pos rfl), fun c hc => (hctx c).trans (if_neg hc)⟩, ?_⟩
  · rw [hissue, Run.joinQueues_keeps State.ops fun _ _ => by rfl]
    rfl
  · rw [hissue, Run.joinQueues_keeps State.mem fun _ _ => by rfl]
    rfl
  · rw [hissue, Run.joinQueues_keeps State.uid fun _ _ => by rfl]
    rfl

/-- The operation with the copy of an image. -/
def EngOp.withImage (o : EngOp) (im : BitVec 1024) : EngOp := { o with data := leBytes 128 im.toNat }

/-- The operation past its shard map. -/
def EngOp.pastMap (o : EngOp) : EngOp := { o with phase := 1 }

/-- The image is not part of the command. -/
theorem EngOp.Carries.withImage {o : EngOp} {s : State} {f : Fire} {k : CmdKind} (h : o.Carries s f k) (im : BitVec 1024) : (o.withImage im).Carries s f k := by
  obtain ⟨hid, hticket, hc, hiid, hidx, hcmd, hwaited, ht0, ht1, hdesc⟩ := h
  exact ⟨hid, hticket, hc, hiid, hidx, hcmd, hwaited, ht0, ht1, hdesc⟩

theorem EngOp.Carries.pastMap {o : EngOp} {s : State} {f : Fire} {k : CmdKind} (h : o.Carries s f k) : o.pastMap.Carries s f k := by
  obtain ⟨hid, hticket, hc, hiid, hidx, hcmd, hwaited, ht0, ht1, hdesc⟩ := h
  exact ⟨hid, hticket, hc, hiid, hidx, hcmd, hwaited, ht0, ht1, hdesc⟩

/-- An operation that reads no shard map goes on at once, or with its first move (R302). -/
theorem Run.mapAtIssue_unmapped {q : Run s0} {id : Nat} {o : EngOp} (hop : q.st.op? id = some o) {ok : EngOp → Bool}
    (hmap : o.denied = none → ok o = true → gShmap o.desc = 0) : q.mapAtIssue id ok = q ∨ q.mapAtIssue id ok = q.setOp o.pastMap := by
  unfold Run.mapAtIssue
  rw [hop]
  dsimp only
  split
  · next hgo =>
    simp only [Bool.and_eq_true, Option.isNone_iff_eq_none] at hgo
    obtain ⟨⟨hdenied, hok⟩, -⟩ := hgo
    exact .inr (if_pos (hmap hdenied hok))
  · exact .inl rfl

/-- What `semb.proj` asks of its shape and its descriptor (R229). -/
def ShapeFits (s : State) (f : Fire) (n : BitVec 4) (proj : Bool) : Prop :=
  ∃ w, shapesOf (s.core (f.c / 4)) (f.cmd (.semb n proj)) = .ok [w] ∧ shSpace w = 0 ∧ (shFmt w = 1 ∨ shFmt w = 2) ∧ shRows w = imgCount (f.soft n)
    ∧ ∀ d, descCopy s f.c f.b f.idx f.a.word.toNat 128 = .ok d → shCols w * ((fmtBits (fieldAt d 14 1)).getD 32 / 8) ≤ fieldAt d 12 2

/-- A `semb` comes to its shard map as it is issued: its image names a row of the table, and its descriptor is in order. -/
def sembMaps (im : BitVec 1024) (o : EngOp) : Bool :=
  imgKind im != 3 && tableFieldsOk o.desc true && decide (gData o.desc + gRowBytes o.desc ≤ coreLimit)

section
variable {s : State} {f : Fire} {n : BitVec 4} {proj : Bool} {i : Instr} (h : Acts s i f)
  (htop : imgFlag (f.soft n) 16 = false) (hreplay : imgFlag (f.soft n) 32 = false)
  (hrow : proj = false → imgKind (f.soft n) = 1 ∨ imgKind (f.soft n) = 2)
  (hproj : proj = true → imgKind (f.soft n) = 3 ∧ ShapeFits s f n proj)
include h htop hreplay hrow hproj

/-- A `semb` whose conditions hold is issued, takes a copy of the image, and comes to its shard map. -/
theorem sembNode_passes {q : Run s} {o : EngOp} (hq : (Run.start s).issue f.c f.b f.idx (f.cmd (.semb n proj)) true f.sh.t0 f.sh.t1 = q)
    (hop : q.st.op? q.st.uid = some o) (hid : o.id = s.uid + 1) :
    sembNode i n proj s = .next (((q.setOp (o.withImage (f.soft n))).mapAtIssue (s.uid + 1) (sembMaps (f.soft n))).finish f.c f.b.iid f.idx (shape i) {}).st := by
  rw [← hid, sembNode, fireWith_acts h]
  unfold softTopk softReplay
  dsimp only
  rw [if_neg ?passes, hq, hop]
  · rfl
  case passes =>
    rw [htop, hreplay, Run.start_st]
    cases proj with
    | false =>
      obtain hk | hk := hrow rfl
      · simp [hk]
      · simp [hk]
    | true =>
      obtain ⟨hk, w, hshape, hspace, hfmt, hrows, hcols⟩ := hproj rfl
      have hfmt' : (shFmt w == 1 || shFmt w == 2) = true := by simpa using hfmt
      rw [hshape]
      cases hd : descCopy s f.c f.b f.idx f.a.word.toNat 128 with
      | error e => simp [hk, hspace, hfmt', hrows, Except.toOption]
      | ok d =>
        have hwide := Nat.not_lt.mpr (hcols d hd)
        simp [hk, hspace, hfmt', hrows, hwide, Except.toOption]

/-- A `semb` whose conditions hold stands as issued when its node has fired, with a copy of the image. -/
theorem sembNode_issues (hs : Regular s = true) (hnew : ∀ p ∈ s.ops, p.id ≠ s.uid + 1)
    (hmap : proj = false → ∀ d, descCopy s f.c f.b f.idx f.a.word.toNat 128 = .ok d → gShmap d = 0) :
    ∃ (o : EngOp) (q : Run s), Issued s f (.semb n proj) o q.st ∧ o.data = leBytes 128 (f.soft n).toNat
      ∧ sembNode i n proj s = .next (q.finish f.c f.b.iid f.idx (shape i) {}).st := by
  obtain ⟨o, hissued, huid⟩ := Run.issue_issued hs (Run.start s) f (.semb n proj)
  generalize hq : (Run.start s).issue f.c f.b f.idx (f.cmd (.semb n proj)) true f.sh.t0 f.sh.t1 = q at hissued huid
  have hop : q.st.op? q.st.uid = some o := by
    rw [huid]
    exact hissued.op? hnew
  have hexec := sembNode_passes h htop hreplay hrow hproj hq hop hissued.carries.id
  have hcarries := hissued.carries.withImage (f.soft n)
  have hcopied : Issued s f (.semb n proj) (o.withImage (f.soft n)) (q.setOp (o.withImage (f.soft n))).st := hissued.setOp hnew hcarries
  have hunmapped : o.denied = none → sembMaps (f.soft n) (o.withImage (f.soft n)) = true → gShmap o.desc = 0 := fun hdenied hok => by
    cases proj with
    | false => exact hmap rfl o.desc (hissued.carries.desc hdenied)
    | true =>
      rw [sembMaps, (hproj rfl).1] at hok
      cases hok
  rcases Run.mapAtIssue_unmapped (hcopied.op? hnew) hunmapped with hstays | hgoes
  · exact ⟨_, _, hcopied, rfl, hstays ▸ hexec⟩
  · exact ⟨_, _, hcopied.setOp hnew hcarries.pastMap, rfl, hgoes ▸ hexec⟩

end

/-- Settles O50: a field is a slice of the image, the log's nodes go on with what their reads gave, and `semb` is an issue whose operation takes a copy of the image. -/
theorem softReads : Obligations.SoftReads := by
  unfold Obligations.SoftReads
  intro g n m t0 s f
  refine ⟨?_, ?_, ?_, ?_, ?_, ?_⟩
  · intro fld s f h
    rw [exec_sget, execSget, fireNode_acts h]
    dsimp only
    refine congrArg (fun o => Host.Outcome.next (fired s (.sget g fld n t0) f o)) ?_
    have hfld : fld.toNat = 0 ∨ fld.toNat = 1 ∨ fld.toNat = 2 ∨ ∃ k, fld.toNat = k + 3 := by
      match fld.toNat with
      | 0 | 1 | 2 => simp
      | k + 3 => exact .inr (.inr (.inr ⟨k, rfl⟩))
    rcases hfld with hfld | hfld | hfld | ⟨k, hfld⟩
    · rw [hfld]
      exact eightBytes_eq _ rfl
    · rw [hfld]
      exact eightBytes_eq _ rfl
    · rw [hfld]
      exact sget_weight (f.soft n) f.a.word.toNat
    · rw [hfld]
      exact sget_hidden (f.soft n) (k + 3)
  · exact execSlog_full
  · intro h hempty
    rw [exec_slog, execSlog, fireNode_acts h, hempty, if_pos (by decide), fired_later]
  · exact fun r₁ r₂ r₃ dx dy len deq h hp hx hy hlen => execScmp_compares h hp hx hy hlen
  · intro r₁ r₂ db hd h hp hb hdst hsole hlog hrec hk
    rw [field_toNat] at hdst
    rw [lowBits_toNat] at hrec
    exact execSrpl_text h hp hb hdst hsole hlog hrec hk
  · intro i p hi h htop hreplay hrow hproj hnew hs hmap
    have hexec : exec i s = sembNode i n p s := by
      simp only [List.mem_cons, List.not_mem_nil, or_false, Prod.mk.injEq] at hi
      obtain ⟨rfl, rfl⟩ | ⟨rfl, rfl⟩ := hi <;> rfl
    obtain ⟨o, q, hissued, hdata, hnode⟩ := sembNode_issues h htop hreplay hrow hproj hs hnew hmap
    obtain ⟨hops, hticket, -⟩ := hissued.fired hs h.1 (i := i) rfl
    refine ⟨_, o, hexec.trans hnode, ?_, hissued.carries.id, ?_, hissued.carries.waited, hdata, hticket⟩
    · rw [hops]
      exact List.mem_append_right _ (List.mem_singleton_self o)
    · rw [hissued.carries.cmd]

end Sys2Proof.Machine

/-! Weight-driven mode (R261 to R275): the block that a drive runs, the checks of a block that has become current, and what each block does once checked. -/

namespace Sys2Proof.Machine

open Sys2Proof

variable {s0 : State}

/-! ### The block that a drive runs (R265, R269) -/

theorem parseHeader_of_decodeHeader {ws : List Word64} {i : Instr} (h : decodeHeader ws = .ok i) : parseHeader ws = .ok i := by
  unfold decodeHeader at h
  split at h
  · cases h
  · next j hp =>
    split at h
    · cases h
    · split at h
      · cases h
        exact hp
      · cases h

/-- A drive with its header read, whose descriptor is in order, runs the block of the header at its context. -/
theorem driveFetch_header {s : State} {c : Nat} {d : Drive} {i : Instr} (hd : (s.ctx c).drive = some d) (hf : d.fault = none)
    (hdesc : d.head = false ∨ driveDescOk d.desc = true) (hhdr : d.hdr ≠ []) (hi : decodeHeader (quadsOf d.hdr) = .ok i) :
    driveFetch s c = ({ s with site := ⟨c, 0, 0⟩ }, some i) := by
  have hok : ¬ (d.head && !driveDescOk d.desc) = true := by
    rcases hdesc with h | h <;> simp [h]
  have hread : ¬ d.hdr.isEmpty = true := fun h => hhdr (List.isEmpty_iff.mp h)
  unfold driveFetch
  dsimp only
  rw [hd]
  dsimp only
  rw [hf]
  dsimp only
  rw [if_neg hok, if_neg hread, parseHeader_of_decodeHeader hi]
  rfl

theorem perform_drive {s t : State} {c : Nat} {i : Instr} (h : driveFetch s c = (t, some i)) : perform (.event (.drive c)) s = exec i t := by
  unfold perform Event.run
  dsimp only
  rw [h]

/-- Settles O5: the fetch of a drive gives the block of its header, and the run of any other event is by definition that of its row. -/
theorem eventsRunTheirRows : Obligations.EventsRunTheirRows := by
  unfold Obligations.EventsRunTheirRows
  refine ⟨fun s c d i hd hf hdesc hhdr hi => perform_drive (driveFetch_header hd hf hdesc hhdr hi), fun s => ⟨fun c => ?_, fun k => ?_, fun k j => ?_, rfl⟩⟩
  · exact ⟨rfl, rfl, rfl, rfl, rfl, rfl, fun _ => rfl, fun _ => rfl⟩
  · exact ⟨rfl, rfl, rfl, rfl, rfl, rfl, rfl, rfl, rfl, rfl, rfl, rfl, rfl, rfl, rfl⟩
  · exact ⟨rfl, rfl, rfl, rfl, rfl, rfl, rfl, rfl, rfl, rfl, rfl⟩

/-! ### A drive that moves -/

/-- The drive of the site's context moves: it is not parked, it has not left its chain, and no fault of it waits. -/
structure Moves (s : State) (d : Drive) : Prop where
  drive : (s.ctx s.site.c).drive = some d
  parked : d.parked = false
  leaving : d.leaving = false
  fault : d.fault = none

/-- A drive that moves has its block checked first, and then runs it. -/
theorem weightBlock_moves {s : State} {d : Drive} {wop : Nat} {h : WBlock} {body : {s0 : State} → Run s0 → Nat → Drive → List Nat → Run s0} (hd : Moves s d) :
    weightBlock wop h body s
      = .next (d.offs.elim ((Run.start s).checkCurrent s.site.c d wop h) (body (Run.start s) s.site.c d)).st := by
  obtain ⟨hdrive, hparked, hleaving, hfault⟩ := hd
  unfold weightBlock
  dsimp only
  rw [hdrive]
  dsimp only
  rw [if_neg (by simp [hparked, hleaving, hfault])]
  cases d.offs <;> rfl

theorem weightBlock_unchecked {s : State} {d : Drive} {wop : Nat} {h : WBlock} {body : {s0 : State} → Run s0 → Nat → Drive → List Nat → Run s0}
    (hd : Moves s d) (hoffs : d.offs = none) : weightBlock wop h body s = .next ((Run.start s).checkCurrent s.site.c d wop h).st := by
  rw [weightBlock_moves hd, hoffs, Option.elim_none]

/-- A block that has just become current is checked, whichever operation it is. -/
theorem exec_unchecked {s : State} {d : Drive} {i : Instr} {wop : Nat} {h : WBlock} (hi : weightOf i = some (wop, h)) (hd : Moves s d) (hoffs : d.offs = none) :
    exec i s = .next ((Run.start s).checkCurrent s.site.c d wop h).st := by
  unfold weightOf at hi
  split at hi <;> cases hi
  all_goals simp only [exec_wMac, exec_wCb, exec_wO4, exec_wBook, exec_wSwitch, exec_wEmit, exec_wExit, execWMac, execWCb, execWO4, execWBook, execWSwitch, execWEmit,
    execWExit, weightBlock_unchecked hd hoffs]

/-! ### The checks of a block that has become current (R269, R270) -/

section
variable {r : Run s0} {c : Nat} {d : Drive} {wop : Nat} {h : WBlock}

theorem Run.checkCurrent_refused (hw : wop ≠ 1) {code : Nat} (hf : headerFault wop h = some code) :
    r.checkCurrent c d wop h = r.chainFault c d 0x13 code 255 d.blk.toNat := by
  unfold Run.checkCurrent
  dsimp only
  rw [hf]
  split
  · next heq =>
    cases heq
    rw [if_neg hw]
  · next heq =>
    cases heq
    rfl
  · next heq => cases heq

/-- A payload of whole tiles passes where the drive's tile is one of them and the slot of its operand is in order; ACLR then waits for an empty queue. -/
theorem Run.checkCurrent_tiles (hw : wop < 3) (hw1 : wop ≠ 1) (hf : headerFault wop h = none) (ht : d.tile < h.plen.toNat / 192)
    (hslot : slotFault (r.st.ctx c) d wop h (h.plen.toNat / 192) = false) :
    let found : Drive := { d with offs := some ((List.range (h.plen.toNat / 192)).map (fun t => 12288 * t)), denied := none }
    r.checkCurrent c d wop h = if wbAclr h && d.tile == 0 then
        if r.st.accFree c (wbAcc h) then (r.modCore (c / 4) (fun k => { k.clearAcc ((r.st.ctx c).physical (wbAcc h)) with poisoned := k.poisoned })).setDrive c found else r
      else r.setDrive c found := by
  intro found
  have hlen : ((List.range (h.plen.toNat / 192)).map (fun t => 12288 * t)).length = h.plen.toNat / 192 := by
    rw [List.length_map, List.length_range]
  unfold Run.checkCurrent
  dsimp only
  rw [hf]
  dsimp only
  rw [if_neg hw1, if_pos hw, if_pos hw, hlen, decide_eq_false (Nat.not_le.mpr ht), if_neg Bool.false_ne_true, hslot, if_neg Bool.false_ne_true,
    decide_eq_true hw, Bool.true_and]

/-- A block without tiles stands at tile 0. -/
theorem Run.checkCurrent_untiled (hw : 3 ≤ wop) (hf : headerFault wop h = none) (hslot : slotFault (r.st.ctx c) d wop h 0 = false) :
    r.checkCurrent c d wop h = if d.tile = 0 then r.setDrive c { d with offs := some [], denied := none }
      else r.chainFault c d 0x13 0x0A 255 d.blk.toNat := by
  have hw3 : ¬ wop < 3 := Nat.not_lt.mpr hw
  unfold Run.checkCurrent
  dsimp only
  rw [hf]
  dsimp only
  rw [if_neg (show wop ≠ 1 by omega), if_neg hw3, if_neg hw3, List.length_nil, hslot, decide_eq_false hw3, Bool.false_and, Bool.false_and, if_neg Bool.false_ne_true,
    if_neg Bool.false_ne_true]
  by_cases ht : d.tile = 0
  · rw [if_neg (by simp [ht]), if_pos ht]
  · rw [if_pos (by simp [ht]), if_neg ht]

end

/-- Settles O51: a moving drive with no places found runs `checkCurrent`, whose branches are those of the statement. -/
theorem weightBlocksAreChecked : Obligations.WeightBlocksAreChecked := by
  unfold Obligations.WeightBlocksAreChecked
  intro h s d hdrive hparked hleaving hfault hoffs
  have hd : Moves s d := ⟨hdrive, hparked, hleaving, hfault⟩
  refine ⟨fun i wop hi => ?_, fun i wop hi hf => ?_⟩
  · have hrow : weightOf i = some (wop, h) ∧ wop < 3 ∧ wop ≠ 1 := by
      simp only [List.mem_cons, List.not_mem_nil, or_false, Prod.mk.injEq] at hi
      obtain ⟨rfl, rfl⟩ | ⟨rfl, rfl⟩ := hi
      · exact ⟨rfl, by decide, by decide⟩
      · exact ⟨rfl, by decide, by decide⟩
    obtain ⟨hi, hw, hw1⟩ := hrow
    rw [exec_unchecked hi hd hoffs]
    refine ⟨fun hf ht hslot => ?_, fun code hf => by rw [Run.checkCurrent_refused hw1 hf]⟩
    rw [Run.checkCurrent_tiles (r := Run.start s) hw hw1 hf ht hslot]
    refine ⟨fun hkeep => ?_, fun hclear htile hfree => ?_⟩
    · rw [if_neg (by rcases hkeep with h | h <;> simp [h])]
    · rw [if_pos (by simp [hclear, htile]), Run.start_st, if_pos hfree]
  · have hrow : weightOf i = some (wop, h) ∧ 3 ≤ wop ∧ slotFault (s.ctx s.site.c) d wop h 0 = false := by
      simp only [List.mem_cons, List.not_mem_nil, or_false, Prod.mk.injEq] at hi
      obtain ⟨rfl, rfl⟩ | ⟨rfl, rfl⟩ | ⟨rfl, rfl⟩ := hi
      · exact ⟨rfl, by decide, rfl⟩
      · exact ⟨rfl, by decide, rfl⟩
      · exact ⟨rfl, by decide, rfl⟩
    obtain ⟨hi, hw, hslot⟩ := hrow
    rw [exec_unchecked hi hd hoffs, Run.checkCurrent_untiled (r := Run.start s) hw hf hslot]
    exact ⟨fun ht => by rw [if_pos ht], fun ht => by rw [if_neg ht]⟩

/-! ### From block to block (R264, R268) -/

/-- The drive past its block: at the next one, or leaving its chain. -/
def Drive.past (d : Drive) (next : Option Nat) : Drive := { d with
  count := d.count + 1
  tile := 0
  hdr := []
  offs := none
  value := none
  denied := none
  ahead := d.ahead.filter (fun e => e.head && e.va != d.blk.toNat)
  leaving := next.isNone
  blk := (next.map (BitVec.ofNat 64)).getD d.blk }

theorem Run.blockDone_eq (r : Run s0) (c : Nat) {d : Drive} (hl : d.leaving = false) (next : Option Nat) :
    r.blockDone c d next = (r.count c none 0x2C 1).setDrive c (d.past next) := by
  cases next with
  | none => rfl
  | some a =>
    unfold Run.blockDone Drive.past
    dsimp only
    rw [hl]
    rfl

/-! ### What each block does once checked (R270 to R274) -/

section
variable {s : State} {d : Drive} {offs : List Nat} {h : WBlock} (hd : Moves s d) (hoffs : d.offs = some offs)
include hd hoffs

theorem weightBlock_checked {wop : Nat} {body : {s0 : State} → Run s0 → Nat → Drive → List Nat → Run s0} :
    weightBlock wop h body s = .next (body (Run.start s) s.site.c d offs).st := by
  rw [weightBlock_moves hd, hoffs, Option.elim_some]

/-- The codebook of the header (R271). -/
theorem execWBook_immediate (hlit : h.flags.getLsbD 0 = true) : exec (.wBook h) s
    = .next ((((Run.start s).modCtx s.site.c (fun x => { x with codebook := h.aux })).count s.site.c none 0x2C 1).setDrive s.site.c (d.past (linkNext d h))).st := by
  rw [exec_wBook, execWBook, weightBlock_checked hd hoffs]
  dsimp only
  rw [if_pos hlit, Run.blockDone_eq _ _ hd.leaving, BitVec.ofNat_toNat, BitVec.setWidth_eq]

/-- The codebook at AUX (R271). -/
theorem execWBook_read {r : Run s} {bs : List Byte} (hlit : h.flags.getLsbD 0 = false) (hal : (wbAux h).toNat % 32 = 0)
    (hr : ∀ k, (Run.start s).readWeight s.site.c d 255 (wbAux h).toNat 32 k = k r bs) : exec (.wBook h) s
    = .next (((r.modCtx s.site.c (fun x => { x with codebook := BitVec.ofNat 256 (leNat bs) })).count s.site.c none 0x2C 1).setDrive s.site.c (d.past (linkNext d h))).st := by
  rw [exec_wBook, execWBook, weightBlock_checked hd hoffs]
  dsimp only
  rw [hlit, if_neg Bool.false_ne_true, if_neg (not_not_intro hal), hr, Run.blockDone_eq _ _ hd.leaving]

theorem execWExit_leaves : exec (.wExit h) s = .next (((Run.start s).count s.site.c none 0x2C 1).setDrive s.site.c (d.past none)).st := by
  rw [exec_wExit, execWExit, weightBlock_checked hd hoffs, Run.blockDone_eq _ _ hd.leaving]

/-- A switch on an empty register waits (R273). -/
theorem execWSwitch_waits (hv : d.value = none) (hreg : h.route.getLsbD 6 = false) (hempty : (s.ctx s.site.c).isFull (h.route.toNat % 64) = false) :
    exec (.wSwitch h) s = .next s := by
  rw [exec_wSwitch, execWSwitch, weightBlock_checked hd hoffs]
  dsimp only
  rw [hv]
  dsimp only
  rw [hreg, if_neg Bool.false_ne_true, Run.start_st, hempty, if_neg Bool.false_ne_true, Run.start_st]

/-- A switch that has its decision value, or whose register holds it, goes by its table (R273). -/
theorem execWSwitch_decides {v : Word64} (hv : d.value = some v ∨ (d.value = none ∧ h.route.getLsbD 6 = false
      ∧ (s.ctx s.site.c).isFull (h.route.toNat % 64) = true ∧ v = (s.ctx s.site.c).reg (h.route.toNat % 64))) :
    exec (.wSwitch h) s = .next ((Run.start s).switchTo s.site.c d h v).st := by
  rw [exec_wSwitch, execWSwitch, weightBlock_checked hd hoffs]
  dsimp only
  rcases hv with hv | ⟨hv, hreg, hfull, rfl⟩
  · rw [hv]
  · rw [hv]
    dsimp only
    rw [hreg, if_neg Bool.false_ne_true, Run.start_st, hfull, if_pos rfl]

/-- An emit whose rows are all written completes (R272). -/
theorem execWEmit_writes {r : Run s} (hfree : s.accFree s.site.c (wbAcc h) = true)
    (hr : ∀ k, (Run.start s).emitRows s.site.c d h (d.op s.site.c (s.ctx s.site.c)) (SMap.get d.recs 0 (8 + wbSlot h)) ((s.ctx s.site.c).physical (wbAcc h))
      (shRows (SMap.get d.recs 0 (8 + wbSlot h))) 0 k = k r) :
    let q := if wbAclr h then r.modCore (s.site.c / 4) (fun k => { k.clearAcc ((s.ctx s.site.c).physical (wbAcc h)) with poisoned := k.poisoned }) else r
    exec (.wEmit h) s = .next (((q.emitDone (d.op s.site.c (s.ctx s.site.c)) (wbAux h)
      (statusWordOf 0 0 (shRows (SMap.get d.recs 0 (8 + wbSlot h))) false)).count s.site.c none 0x2C 1).setDrive s.site.c (d.past (linkNext d h))).st := by
  intro q
  rw [exec_wEmit, execWEmit, weightBlock_checked hd hoffs]
  dsimp only
  rw [Run.start_st, hfree, if_neg (by decide), hr, Run.blockDone_eq _ _ hd.leaving]

end

section
variable {r r' : Run s0} {c : Nat} {d : Drive} {h : WBlock}

/-! ### Switches (R273) -/

theorem Run.switchTo_beyond {v : Word64} (hv : h.link.toNat % 16 + 1 ≤ v.toNat) : r.switchTo c d h v = r.chainFault c d 0x13 0x07 255 d.blk.toNat := by
  unfold Run.switchTo
  dsimp only
  rw [if_pos hv]

variable {v : Word64} {bs : List Byte} (hl : d.leaving = false) (hv : v.toNat < h.link.toNat % 16 + 1)
  (hr : ∀ k, r.readWeight c { d with value := some v } 255 (d.blk.toNat + 64 + 8 * v.toNat) 8 k = k r' bs) (hz : bitsOf (leNat bs) 56 6 = 0)
include hl hv hr hz

/-- An entry of kind 01 names the successor; one of kind 11 leaves the chain. -/
theorem Run.switchTo_next {next : Option Nat}
    (hk : (leNat bs / 2 ^ 62 = 1 ∧ next = some (bitsOf (leNat bs) 0 56)) ∨ (leNat bs / 2 ^ 62 = 3 ∧ next = none)) :
    r.switchTo c d h v = (r'.count c none 0x2C 1).setDrive c (d.past next) := by
  unfold Run.switchTo
  dsimp only
  rw [if_neg (Nat.not_le.mpr hv), hr]
  obtain ⟨hk, rfl⟩ | ⟨hk, rfl⟩ := hk
  · rw [hk]
    exact (if_pos hz).trans (Run.blockDone_eq _ _ hl _)
  · rw [hk]
    exact (if_pos hz).trans (Run.blockDone_eq _ _ hl _)

end

/-! ### Rows of an emit (R272) -/

/-- A row that is written lets the next one follow. -/
theorem Run.emitRows_row {p p' : Run s0} {c : Nat} {d : Drive} {h : WBlock} {o : EngOp} {w : BitVec 256} {phys i : Nat}
    (hp : p.engineWrite o o.core .core (displace (shBase w) (i * shRowStride w + (128 * wbCt h * (if shFmt w == 2 then 2 else 4) : Nat)))
      (accRowBytes (p.st.core o.core) phys i 128 (shFmt w == 2)) = (p', .done)) (n : Nat) (k : Run s0 → Run s0) :
    p.emitRows c d h o w phys (n + 1) i k = p'.emitRows c d h o w phys n (i + 1) k := by
  rw [Run.emitRows]
  dsimp only
  rw [hp]

/-! ### Tiles (R270) -/

/-- The rows of activations that tile `d.tile` of a block multiplies. -/
def Drive.rowAddresses (d : Drive) (wop : Nat) (h : WBlock) : List Nat :=
  let a := SMap.get d.recs 0 (wbSlot h)
  (List.range (shRows a)).map (fun (i : Nat) =>
    displace (shBase a) (i * shRowStride a + ((wbKt h + d.tile) * tileBytes (weightShape wop h).1 (weightShape wop h).2.1 : Nat)))

/-- The codebook of a block that takes the chain's. -/
def Ctx.bookFor (x : Ctx) (h : WBlock) : Option (List Ext) := if h.flags.getLsbD 1 then some (bookOf (leBytes 32 x.codebook.toNat)) else none

/-- The tile at `va` has `n` bytes, to be read from `r'` on: a CB4 record gives its length in its first four bytes, and any other tile has 12,288. -/
def TileLength (r : Run s0) (c : Nat) (d : Drive) (wop va : Nat) (r' : Run s0) (n : Nat) : Prop :=
  (wop = 1 ∧ ∃ head, (∀ k, r.readWeight c d d.tile va 4 k = k r' head) ∧ n = cb4Length (leNat head)) ∨ (wop ≠ 1 ∧ r' = r ∧ n = 12288)

/-- The accumulator after a tile step. -/
def Run.stepTile (r : Run s0) (c phys g : Nat) (rows : List (List Ext)) (cols : List (List (Option Ext))) : Run s0 :=
  (r.modCore (c / 4) (fun q => q.writeAcc phys (tileStep g (q.accAt phys) rows cols))).count c none 0x28 1

/-- The drive past a tile of its block: at the next one, or past the block after the last. -/
def Run.pastTile (r : Run s0) (c : Nat) (d : Drive) (h : WBlock) (tiles : Nat) : Run s0 :=
  if d.tile + 1 < tiles then r.setDrive c { d with tile := d.tile + 1, denied := none } else (r.count c none 0x2C 1).setDrive c (d.past (linkNext d h))

/-- A tile whose length, bytes, columns and rows are all to be had is multiplied into an accumulator that is free and not poisoned. -/
theorem Run.weightTile_steps {r r₁ r₂ r₃ : Run s0} {c : Nat} {d : Drive} {wop n : Nat} {h : WBlock} {offs : List Nat} {bs : List Byte} {cols : List (List (Option Ext))}
    {rows : List (List Ext)} (hl : d.leaving = false) (hfree : r.st.accFree c (wbAcc h) = true)
    (hclean : (r.st.core (c / 4)).isPoisoned ((r.st.ctx c).physical (wbAcc h)) = false)
    (hlen : TileLength r c d wop (d.blk.toNat + 64 + offs.getD d.tile 0) r₁ n)
    (hbytes : ∀ k, r₁.readWeight c d d.tile (d.blk.toNat + 64 + offs.getD d.tile 0) n k = k r₂ bs)
    (hcols : payloadColumns wop (weightShape wop h).1 ((r.st.ctx c).bookFor h) bs = .ok cols)
    (hrows : r₂.tileRows (d.op c (r.st.ctx c)) (weightShape wop h).1 (weightShape wop h).2.1 (d.rowAddresses wop h) = (r₃, .ok rows)) :
    r.weightTile c d wop h offs = (r₃.stepTile c ((r.st.ctx c).physical (wbAcc h)) (weightShape wop h).2.2 rows cols).pastTile c d h offs.length := by
  unfold Run.weightTile
  dsimp only
  rw [hfree, if_neg (by decide), hclean, if_neg Bool.false_ne_true]
  unfold Ctx.bookFor at hcols
  unfold Drive.rowAddresses at hrows
  obtain ⟨hw, head, hhead, rfl⟩ | ⟨hw, rfl, rfl⟩ := hlen
  case' inl => rw [if_pos hw, hhead]
  case' inr => rw [if_neg hw]
  all_goals
    rw [hbytes, hcols]
    dsimp only
    rw [hrows]
    dsimp only
    rw [Run.blockDone_eq (d := { d with tile := d.tile + 1, denied := none }) _ _ hl]
    rfl

/-- A block of tiles takes its next tile step. -/
theorem exec_tiled {s : State} {d : Drive} {offs : List Nat} {h : WBlock} {i : Instr} {wop : Nat} (hi : weightOf i = some (wop, h)) (hw : wop < 3) (hd : Moves s d)
    (hoffs : d.offs = some offs) : exec i s = .next ((Run.start s).weightTile s.site.c d wop h offs).st := by
  unfold weightOf at hi
  split at hi <;> cases hi
  · rw [exec_wMac, execWMac, weightBlock_checked hd hoffs]
  · rw [exec_wCb, execWCb, weightBlock_checked hd hoffs]
  · rw [exec_wO4, execWO4, weightBlock_checked hd hoffs]
  all_goals exact absurd hw (by decide)

/-- Settles O52: a checked block runs its body, which goes on with what its reads and writes have given, and completes. -/
theorem weightBlocksRun : Obligations.WeightBlocksRun := by
  unfold Obligations.WeightBlocksRun
  intro h s d offs r bs hdrive hparked hleaving hfault hoffs c phys done
  have hd : Moves s d := ⟨hdrive, hparked, hleaving, hfault⟩
  refine ⟨?tiles, execWBook_immediate hd hoffs, execWBook_read hd hoffs, execWSwitch_waits hd hoffs, ?decides, ?beyond, ⟨?row, fun r' => execWEmit_writes hd hoffs⟩,
    execWExit_leaves hd hoffs⟩
  case tiles =>
    intro i wop va n hi r' r'' ws cols rows hfree hclean hplain hcb hbytes hcols hrows
    have hrow : weightOf i = some (wop, h) ∧ wop < 3 ∧ va = d.blk.toNat + 64 + offs.getD d.tile 0 ∧ TileLength (Run.start s) c d wop va r n := by
      simp only [List.mem_cons, List.not_mem_nil, or_false, Prod.mk.injEq] at hi
      obtain ⟨rfl, rfl, rfl, rfl⟩ | ⟨rfl, rfl, rfl, rfl⟩ | ⟨rfl, rfl, rfl, rfl⟩ := hi
      · exact ⟨rfl, by decide, rfl, .inr ⟨by decide, hplain (by decide), rfl⟩⟩
      · exact ⟨rfl, by decide, rfl, .inr ⟨by decide, hplain (by decide), rfl⟩⟩
      · exact ⟨rfl, by decide, rfl, .inl ⟨rfl, bs, hcb rfl, rfl⟩⟩
    obtain ⟨hblock, hw, rfl, hlen⟩ := hrow
    rw [exec_tiled hblock hw hd hoffs, Run.weightTile_steps (r := Run.start s) hleaving hfree hclean hlen hbytes hcols hrows]
    rfl
  case decides =>
    intro v hv hlt hr
    rw [execWSwitch_decides hd hoffs hv]
    refine ⟨fun hk hz => ?_, fun hk hz => ?_⟩
    · rw [Run.switchTo_next hleaving hlt hr hz (.inl ⟨hk, rfl⟩)]
      rfl
    · rw [Run.switchTo_next hleaving hlt hr hz (.inr ⟨hk, rfl⟩)]
      rfl
  case beyond =>
    intro v hv hle
    rw [execWSwitch_decides hd hoffs (.inl hv), Run.switchTo_beyond hle]
  case row => exact fun p p' n i k hp => Run.emitRows_row hp n k

end Sys2Proof.Machine

/-! Canonical memory (R287, R410): it holds at reset, and every step keeps it. -/

namespace Sys2Proof.Machine

open Sys2Proof

/-- Settles O6: a step is a chain of updates, and each update sets a byte, drops bytes or leaves the memory as it is. -/
theorem stepKeepsMemoryCanonical : Obligations.StepKeepsMemoryCanonical := by
  unfold Obligations.StepKeepsMemoryCanonical
  intro s t hs h
  exact step_keeps (P := fun s => Memory.wf s.mem = true) Upd.keeps_memory h hs

/-- Settles O7: at reset every map is empty, so that each of them is canonical, each byte reads as one that nothing has written, and each context as its reset value. -/
theorem resetIsRegular : Obligations.ResetIsRegular := by
  unfold Obligations.ResetIsRegular
  exact ⟨⟨State.reset_memory, fun k => SMap.get_nil unwritten k⟩, regular_reset, regular_bounded regular_reset⟩

end Sys2Proof.Machine

/-! What is written and read back: the registers of a die beside its counters, and the bytes of a write. -/

namespace Sys2Proof.Machine

open Sys2Proof

variable {s0 : State}

/-! ### Folds -/

/-- What one element of a list settles, and every element leaves settled, holds after a fold over the list. -/
theorem foldl_settles {α β : Type} {step : β → α → β} {P : β → Prop} {a : α} (hset : ∀ b, P (step b a)) (hkeep : ∀ b x, P b → P (step b x)) {l : List α} (ha : a ∈ l)
    (b : β) : P (l.foldl step b) := by
  induction l generalizing b with
  | nil => cases ha
  | cons x l ih =>
    rcases List.mem_cons.mp ha with rfl | hx
    · exact List.foldlRecOn l step (hset b) (fun b h y _ => hkeep b y h)
    · exact ih hx (step b x)

/-! ### Registers of a die -/

theorem dcbKey_inj {d e o p : Nat} (ho : o < 2 ^ 21) (hp : p < 2 ^ 21) : dcbKey d o = dcbKey e p ↔ d = e ∧ o = p := by
  unfold dcbKey
  omega

/-- A register after it has been written. -/
theorem Run.setDcb_dcbAt_self {r : Run s0} (hr : Regular r.st = true) (die off : Nat) (v : Word64) : (r.setDcb die off v).st.dcbAt die off = v := by
  obtain ⟨-, -, -, -, -, -, -, -, -, -, hd, -⟩ := (regular_iff _).mp hr
  unfold State.dcbAt
  rw [Run.setDcb_st, SMap.get_set 0 hd, if_pos rfl, BitVec.xor_assoc, BitVec.xor_self, BitVec.xor_zero]

/-- A register after another has been written. -/
theorem Run.setDcb_dcbAt_ne (r : Run s0) {die off d o : Nat} (v : Word64) (h : dcbKey d o ≠ dcbKey die off) : (r.setDcb die off v).st.dcbAt d o = r.st.dcbAt d o := by
  unfold State.dcbAt
  rw [Run.setDcb_st, SMap.get_set_ne _ _ _ h]

/-- A counter that advances changes its own registers only. -/
theorem Run.advance_dcbAt (r : Run s0) {die off d o : Nat} (n : Nat) (h : dcbKey d o ≠ dcbKey die off) (hm : dcbKey d o ≠ dcbKey die (markOff off)) :
    (r.advance die off n).st.dcbAt d o = r.st.dcbAt d o := by
  have hset : ∀ v, (r.setDcb die off v).st.dcbAt d o = r.st.dcbAt d o := fun v => Run.setDcb_dcbAt_ne _ _ h
  exact iteInduction (motive := fun q : Run s0 => q.st.dcbAt d o = r.st.dcbAt d o) (fun _ => (Run.setDcb_dcbAt_ne _ _ hm).trans (hset _)) (fun _ => hset _)

theorem Run.countDie_st (r : Run s0) (die src n : Nat) : (r.countDie die src n).st = { r.st with dcb := (r.countDie die src n).st.dcb } := by
  have h : ({ (r.countDie die src n).st with dcb := [] } : State) = { r.st with dcb := [] } := by
    unfold Run.countDie
    refine Run.foldl_keeps (fun s => ({ s with dcb := [] } : State)) _ (fun r i => ?_) _ r
    split
    · exact congrArg (fun s => ({ s with dcb := [] } : State)) (Run.advance_st ..)
    · rfl
  exact congrArg (fun s => ({ s with dcb := (r.countDie die src n).st.dcb } : State)) h

/-- The registers below the counters of a die are as before a count. -/
theorem Run.countDie_dcbAt (r : Run s0) (die src n d : Nat) {o : Nat} (h : o < 0x098000) : (r.countDie die src n).st.dcbAt d o = r.st.dcbAt d o := by
  unfold Run.countDie
  refine List.foldlRecOn (motive := fun q : Run s0 => q.st.dcbAt d o = r.st.dcbAt d o) _ _ rfl (fun q hq i hi => ?_)
  have hi := List.mem_range.mp hi
  split
  · refine Eq.trans (Run.advance_dcbAt q n ?_ ?_) hq
    · unfold dcbKey dieCounter
      omega
    · unfold dcbKey markOff dieCounter
      omega
  · exact hq

/-! ### Bytes -/

/-- A write changes bytes and poison only. -/
theorem Run.write_st (r : Run s0) (k : Nat) (bs : List Byte) :
    (r.write k bs).st = { r.st with mem := (r.write k bs).st.mem, poison := (r.write k bs).st.poison } := by
  have h : ({ (r.write k bs).st with mem := [], poison := [] } : State) = { r.st with mem := [], poison := [] } := by
    unfold Run.write
    dsimp only
    rw [Run.foldl_keeps (fun s => ({ s with mem := [], poison := [] } : State)) _ (fun _ _ => by rfl),
      Run.foldl_keeps (fun s => ({ s with mem := [], poison := [] } : State)) _ (fun _ _ => by rfl)]
  exact congrArg (fun s => ({ s with mem := (r.write k bs).st.mem, poison := (r.write k bs).st.poison } : State)) h

/-- The bytes after the first `n` of a list have been written at a key. -/
theorem Run.putBytes_byte {r : Run s0} (hr : Regular r.st = true) (k j : Nat) (bs : List Byte) (n : Nat) :
    ((List.range n).foldl (fun r i => r.put (.byte (k + i) (bs.getD i 0))) r).st.byte j = if k ≤ j ∧ j < k + n then bs.getD (j - k) 0 else r.st.byte j := by
  induction n with
  | zero => exact (if_neg (by omega)).symm
  | succ n ih =>
    have hq : Regular ((List.range n).foldl (fun r i => r.put (.byte (k + i) (bs.getD i 0))) r).st = true :=
      List.foldlRecOn (motive := fun q : Run s0 => Regular q.st = true) _ _ hr (fun q hq i _ => Upd.keeps_regular _ _ hq)
    rw [List.range_succ, List.foldl_append, List.foldl_cons, List.foldl_nil, Run.put_st, State.byte_after ((regular_iff _).mp hq).1, ih]
    by_cases hj : j = k + n
    · subst hj
      rw [if_pos rfl, if_pos (by omega), Nat.add_sub_cancel_left]
    · rw [if_neg hj]
      exact if_congr (by omega) rfl rfl

/-- A byte after a write. -/
theorem Run.write_byte {r : Run s0} (hr : Regular r.st = true) (k j : Nat) (bs : List Byte) :
    (r.write k bs).st.byte j = if k ≤ j ∧ j < k + bs.length then bs.getD (j - k) 0 else r.st.byte j := by
  unfold Run.write
  dsimp only
  rw [Run.foldl_keeps (fun s => s.byte j) _ (fun _ _ => by rfl), Run.putBytes_byte hr]

@[simp] theorem State.bytes_length (s : State) (k n : Nat) : (s.bytes k n).length = n := by
  rw [State.bytes, List.length_map, List.length_range]

theorem State.bytes_getD (s : State) (k : Nat) {n i : Nat} (h : i < n) : (s.bytes k n).getD i 0 = s.byte (k + i) := by
  rw [State.bytes, List.getD_eq_getElem?_getD, List.getElem?_map, List.getElem?_range h]
  rfl

/-- What the coding of written lines changes: the marks of the lines, what has been learned of them, and the counters. -/
theorem Run.codeLines_st (r : Run s0) (c : Bool) (k n : Nat) : (r.codeLines c k n).st
    = { r.st with lines := (r.codeLines c k n).st.lines, learned := (r.codeLines c k n).st.learned, dcb := (r.codeLines c k n).st.dcb } := by
  have h : ({ (r.codeLines c k n).st with lines := [], learned := [], dcb := [] } : State) = { r.st with lines := [], learned := [], dcb := [] } := by
    have count : ∀ (q : Run s0) (die src n : Nat),
        ({ (q.countDie die src n).st with lines := [], learned := [], dcb := [] } : State) = { q.st with lines := [], learned := [], dcb := [] } :=
      fun q die src n => congrArg (fun s => ({ s with lines := [], learned := [], dcb := [] } : State)) (Run.countDie_st ..)
    unfold Run.codeLines
    dsimp only
    split
    · rfl
    · refine Run.foldl_keeps (fun s => ({ s with lines := [], learned := [], dcb := [] } : State)) _ (fun q i => ?_) _ r
      split
      · exact (count _ _ _ _).trans (count _ _ _ _)
      · exact (count _ _ _ _).trans (count _ _ _ _)
  exact congrArg (fun s => ({ s with lines := (r.codeLines c k n).st.lines, learned := (r.codeLines c k n).st.learned, dcb := (r.codeLines c k n).st.dcb } : State)) h

theorem Run.codeLines_dcbAt (r : Run s0) (c : Bool) (k n d : Nat) {o : Nat} (h : o < 0x098000) : (r.codeLines c k n).st.dcbAt d o = r.st.dcbAt d o := by
  unfold Run.codeLines
  dsimp only
  split
  · rfl
  · refine Run.foldl_keeps (fun s => s.dcbAt d o) _ (fun q i => ?_) _ r
    split
    · exact (Run.countDie_dcbAt _ _ _ _ _ h).trans (Run.countDie_dcbAt _ _ _ _ _ h)
    · exact (Run.countDie_dcbAt _ _ _ _ _ h).trans (Run.countDie_dcbAt _ _ _ _ _ h)

theorem Run.wroteLines_st (r : Run s0) (a : Agent) (sp : Space) (ea k n : Nat) : (r.wroteLines a sp ea k n).st
    = { r.st with lines := (r.wroteLines a sp ea k n).st.lines, learned := (r.wroteLines a sp ea k n).st.learned, dcb := (r.wroteLines a sp ea k n).st.dcb } := by
  unfold Run.wroteLines
  split
  · exact Run.codeLines_st ..
  · rfl

end Sys2Proof.Machine

/-! The events of translation (R304, R306, R315, R317, R318, R324, R326, R331). -/

namespace Sys2Proof.Machine

open Sys2Proof

variable {s0 : State}

/-! ### Waiters of a park that go on or are denied -/

/-- What a change of a context does to a value of it that the mask of its registers leaves. -/
theorem Run.modCtx_field {β : Type} (g : Ctx → β) (hn : ∀ x, g x.norm = g x) {r : Run s0} (hr : Regular r.st = true) (c d : Nat) (f : Ctx → Ctx) :
    g ((r.modCtx c f).st.ctx d) = if d = c then g (f (r.st.ctx d)) else g (r.st.ctx d) := by
  rw [Run.modCtx_ctx hr]
  split
  · rename_i e
    rw [hn, e]
  · rfl

/-- A change of a context that leaves a value of it leaves that value of every context. -/
theorem Run.modCtx_leaves {β : Type} (g : Ctx → β) (hn : ∀ x, g x.norm = g x) {r : Run s0} (hr : Regular r.st = true) (c d : Nat) {f : Ctx → Ctx} (hf : ∀ x, g (f x) = g x) :
    g ((r.modCtx c f).st.ctx d) = g (r.st.ctx d) := by
  rw [Run.modCtx_field g hn hr, hf, ite_self]

@[simp] theorem Run.wake_ptt (r : Run s0) (w : Waiter) : (r.wake w).st.ptt = r.st.ptt := by cases w <;> rfl

@[simp] theorem Run.deny_ptt (r : Run s0) (w : Waiter) (cls code : Nat) : (r.deny w cls code).st.ptt = r.st.ptt := by
  cases w
  case peer id =>
    unfold Run.deny
    dsimp only
    split <;> rfl
  all_goals rfl

/-- The engine operations after a waiter has gone on: one that it names is no longer parked. -/
theorem Run.wake_ops (r : Run s0) (w : Waiter) : (r.wake w).st.ops = r.st.ops.map (fun o => if w = .op o.id then { o with parked := false } else o) := by
  cases w
  case op id =>
    refine List.map_congr_left (fun o _ => if_congr ?_ rfl rfl)
    rw [beq_iff_eq, Waiter.op.injEq, eq_comm]
  all_goals exact (List.map_id'' (fun o => if_neg Waiter.noConfusion) _).symm

/-- The engine operations after a waiter has been denied. -/
theorem Run.deny_ops (r : Run s0) (w : Waiter) (cls code : Nat) :
    (r.deny w cls code).st.ops = r.st.ops.map (fun o => if w = .op o.id then { o with parked := false, denied := some (cls, code) } else o) := by
  cases w
  case op id =>
    refine List.map_congr_left (fun o _ => if_congr ?_ rfl rfl)
    rw [beq_iff_eq, Waiter.op.injEq, eq_comm]
  case peer id =>
    refine Eq.trans ?_ (List.map_id'' (fun o => if_neg Waiter.noConfusion) _).symm
    unfold Run.deny
    dsimp only
    split <;> rfl
  all_goals exact (List.map_id'' (fun o => if_neg Waiter.noConfusion) _).symm

/-- Every operation of an identifier has a property. -/
def State.OpsHave (s : State) (id : Nat) (p : EngOp → Prop) : Prop := ∀ o ∈ s.ops, o.id = id → p o

/-- A change of the operations that a waiter names gives those the property of the change, and takes it from none. -/
theorem opsHave_map {s t : State} {w : Waiter} {f : EngOp → EngOp} (h : t.ops = s.ops.map (fun o => if w = .op o.id then f o else o)) {p : EngOp → Prop}
    (hp : ∀ o, p (f o)) (id : Nat) : (w = .op id → t.OpsHave id p) ∧ (s.OpsHave id p → t.OpsHave id p) := by
  unfold State.OpsHave
  rw [h]
  refine ⟨fun hw o ho hi => ?_, fun hs o ho hi => ?_⟩
  all_goals
    obtain ⟨y, hy, rfl⟩ := List.mem_map.mp ho
    split at hi
  · rw [if_pos ‹_›]
    exact hp y
  · rename_i hne
    exact absurd (hi ▸ hw) hne
  · rw [if_pos ‹_›]
    exact hp y
  · rw [if_neg ‹_›]
    exact hs y hy hi

section
variable (h0 : Regular s0 = true)
include h0

/-- The fetch of a context waits no longer once its waiter has gone on; other waiters leave it as it is. -/
theorem Run.wake_fetchParked (r : Run s0) (w : Waiter) (c : Nat) : ((r.wake w).st.ctx c).fetchParked = if w = .fetch c then false else (r.st.ctx c).fetchParked := by
  have hr := r.regular h0
  cases w
  case fetch d =>
    refine (Run.modCtx_field Ctx.fetchParked (fun _ => rfl) hr d c _).trans (if_congr ?_ rfl rfl)
    rw [Waiter.fetch.injEq, eq_comm]
  case node | pend | helm | drive =>
    rw [if_neg Waiter.noConfusion]
    exact Run.modCtx_leaves Ctx.fetchParked (fun _ => rfl) hr _ c (fun _ => rfl)
  all_goals
    rw [if_neg Waiter.noConfusion]
    rfl

/-- The fetch of a context is denied with its waiter; the denial of other waiters leaves it as it is. -/
theorem Run.deny_fetch (r : Run s0) (w : Waiter) (cls code c : Nat) : (((r.deny w cls code).st.ctx c).fetchParked, ((r.deny w cls code).st.ctx c).fetchDenied)
    = if w = .fetch c then (false, some (cls, code)) else ((r.st.ctx c).fetchParked, (r.st.ctx c).fetchDenied) := by
  have hr := r.regular h0
  have leaves : ∀ (d : Nat) (f : Ctx → Ctx), (∀ x, ((f x).fetchParked, (f x).fetchDenied) = (x.fetchParked, x.fetchDenied)) →
      (((r.modCtx d f).st.ctx c).fetchParked, ((r.modCtx d f).st.ctx c).fetchDenied) = ((r.st.ctx c).fetchParked, (r.st.ctx c).fetchDenied) :=
    fun d f hf => Run.modCtx_leaves (fun x => (x.fetchParked, x.fetchDenied)) (fun _ => rfl) hr d c hf
  cases w
  case fetch d =>
    refine (Run.modCtx_field (fun x => (x.fetchParked, x.fetchDenied)) (fun _ => rfl) hr d c _).trans (if_congr ?_ rfl rfl)
    rw [Waiter.fetch.injEq, eq_comm]
  case node | pend | helm | drive =>
    rw [if_neg Waiter.noConfusion]
    exact leaves _ _ (fun _ => rfl)
  case peer id =>
    rw [if_neg Waiter.noConfusion]
    unfold Run.deny
    dsimp only
    split <;> rfl
  all_goals
    rw [if_neg Waiter.noConfusion]
    rfl

/-- A park entry after it has been freed. -/
theorem Run.freePark_park (r : Run s0) (die e : Nat) : (r.put (.ptt (pttKey die e) Park.free)).st.park die e = Park.free := by
  obtain ⟨-, -, -, -, -, -, -, -, hp, -⟩ := (regular_iff _).mp (r.regular h0)
  unfold State.park
  rw [Run.put_st, Upd.apply_ptt, SMap.get_set _ hp, if_pos rfl]

/-- A park that is resolved frees its entry, and all its waiters go on. -/
theorem Run.replay_frees (r : Run s0) (die e : Nat) : let t := (r.replay (pttKey die e)).st
    t.park die e = Park.free ∧ (∀ id, Waiter.op id ∈ (r.st.park die e).ws → ∀ o ∈ t.ops, o.id = id → o.parked = false)
      ∧ ∀ c, Waiter.fetch c ∈ (r.st.park die e).ws → (t.ctx c).fetchParked = false := by
  refine ⟨Run.freePark_park h0 _ die e, fun id hid => ?_, fun c hc => ?_⟩
  · have wakes := fun (q : Run s0) (w : Waiter) => opsHave_map (p := fun o => o.parked = false) (Run.wake_ops q w) (fun _ => rfl) id
    exact foldl_settles (P := fun q : Run s0 => q.st.OpsHave id (fun o => o.parked = false)) (fun q => (wakes q _).1 rfl) (fun q w => (wakes q w).2) hid r
  · refine foldl_settles (P := fun q : Run s0 => (q.st.ctx c).fetchParked = false) (fun q => ?_) (fun q w hq => ?_) hc r
    · rw [Run.wake_fetchParked h0, if_pos rfl]
    · rw [Run.wake_fetchParked h0, hq, ite_self]

/-- A park that fails frees its entry, and all its waiters are denied with the class and code. -/
theorem Run.failPark_denies (r : Run s0) (die e cls code : Nat) : let t := (r.failPark (pttKey die e) cls code).st
    t.park die e = Park.free
      ∧ (∀ id, Waiter.op id ∈ (r.st.park die e).ws → ∀ o ∈ t.ops, o.id = id → o.parked = false ∧ o.denied = some (cls, code))
      ∧ ∀ c, Waiter.fetch c ∈ (r.st.park die e).ws → (t.ctx c).fetchParked = false ∧ (t.ctx c).fetchDenied = some (cls, code) := by
  refine ⟨Run.freePark_park h0 _ die e, fun id hid => ?_, fun c hc => Prod.mk.inj ?_⟩
  · have denies := fun (q : Run s0) (w : Waiter) => opsHave_map (p := fun o => o.parked = false ∧ o.denied = some (cls, code)) (Run.deny_ops q w cls code)
      (fun _ => ⟨rfl, rfl⟩) id
    exact foldl_settles (step := fun q w => q.deny w cls code) (P := fun q : Run s0 => q.st.OpsHave id (fun o => o.parked = false ∧ o.denied = some (cls, code)))
      (fun q => (denies q _).1 rfl) (fun q w => (denies q w).2) hid r
  · refine foldl_settles (P := fun q : Run s0 => ((q.st.ctx c).fetchParked, (q.st.ctx c).fetchDenied) = (false, some (cls, code))) (fun q => ?_) (fun q w hq => ?_) hc r
    · rw [Run.deny_fetch h0, if_pos rfl]
    · rw [Run.deny_fetch h0, hq, ite_self]

end

theorem execParkresReplay_parked {s : State} {die e : Nat} (he : e < 512) (hl : (s.park die e).live = true) :
    exec (.parkresReplay die e) s = .next ((Run.start s).replay (pttKey die e)).st := by
  rw [exec_parkresReplay, execParkresReplay]
  exact congrArg (fun r => Host.Outcome.next (Run.st r)) (if_pos ⟨he, hl⟩)

theorem execParkresFail_parked {s : State} {die e : Nat} (he : e < 512) (hl : (s.park die e).live = true) :
    exec (.parkresFail die e) s = .next ((Run.start s).failPark (pttKey die e) 0x0A 0x02).st := by
  rw [exec_parkresFail, execParkresFail]
  exact congrArg (fun r => Host.Outcome.next (Run.st r)) (if_pos ⟨he, hl⟩)

theorem execParkTimeout_overdue {s : State} {die e : Nat} (h : s.parkOverdue die e = true) :
    exec (.parkTimeout die e) s = .next ((Run.start s).failPark (pttKey die e) 0x0A 0x01).st := by
  rw [exec_parkTimeout, execParkTimeout]
  exact congrArg (fun r => Host.Outcome.next (Run.st r)) (if_pos h)

/-! ### Invalidations (R315) -/

/-- An invalidation drops the entries that its test names, and TINVCTL reads as it does when the invalidation is complete. -/
theorem invalidated {s : State} (hs : Regular s = true) (drop : TlbEntry → Bool) (die asid sz all : Nat) (hall : all < 256) :
    let t := (((Run.start s).invalidate drop).tinvDone die asid sz all).st
    t = { s with tlb := s.tlb.filter (fun e => !drop e), dcb := t.dcb } ∧ (t.dcbAt die 0x081008).toNat = asid % 2 ^ 16 * 2 ^ 48 + sz % 4 * 256 + all
      ∧ ∀ e ∈ s.tlb, e ∈ t.tlb ↔ ¬ drop e = true := by
  refine ⟨rfl, ?_, fun e he => ?_⟩
  · unfold Run.tinvDone
    rw [Run.setDcb_dcbAt_self (Run.regular _ hs), BitVec.toNat_ofNat]
    omega
  · refine List.mem_filter.trans ?_
    rw [Bool.not_eq_true', Bool.not_eq_true]
    exact and_iff_right he

/-! ### Forwarding pairs (R324) -/

/-- The fields of a pair fit the bits of FWDOLD. -/
def Forward.Fits (f : Forward) : Prop := f.st < 4 ∧ f.old % 4096 = 0 ∧ f.old < 2 ^ 56 ∧ f.log2 < 64

theorem State.fwd_fits (s : State) (die n : Nat) : (s.fwd die n).Fits := by
  unfold Forward.Fits State.fwd bitsOf
  dsimp only
  omega

/-- A pair whose FWDOLD is the word of `g`, and whose other registers read as those of `g`, is `g`. -/
theorem State.fwd_of_word {s : State} {die n : Nat} {g : Forward} (hg : g.Fits) (hold : s.dcbAt die (fwdOld n) = g.word) (hnew : (s.fwd die n).new = g.new)
    (hasid : (s.fwd die n).asid = g.asid) (hwm : (s.fwd die n).wm = g.wm) : s.fwd die n = g := by
  obtain ⟨en, st, mover, old, log2, new, asid, wm⟩ := g
  obtain ⟨hst, hal, hlt, hlog⟩ := hg
  have hword : (s.dcbAt die (fwdOld n)).toNat = (if en then 2 ^ 63 else 0) + st * 2 ^ 61 + (if mover then 2 ^ 60 else 0) + old + log2 := by
    rw [hold, Forward.word, BitVec.toNat_ofNat]
    dsimp only at hst hal hlt hlog ⊢
    cases en <;> cases mover <;> simp only [if_true, Bool.false_eq_true, if_false] <;> omega
  dsimp only at hst hal hlt hlog hnew hasid hwm
  have hfields : ((s.fwd die n).en = en ∧ (s.fwd die n).mover = mover) ∧ (s.fwd die n).st = st ∧ (s.fwd die n).old = old ∧ (s.fwd die n).log2 = log2 := by
    unfold State.fwd bitsOf
    rw [hword]
    dsimp only
    cases en <;> cases mover <;> simp only [if_true, Bool.false_eq_true, if_false, beq_iff_eq, beq_eq_false_iff_ne] <;> omega
  obtain ⟨⟨hen, hmover⟩, hs, ho, hl⟩ := hfields
  rw [← hen, ← hs, ← hmover, ← ho, ← hl, ← hnew, ← hasid, ← hwm]

/-- A pair after its FWDOLD has been written. -/
theorem Run.setFwd_fwd {r : Run s0} (hr : Regular r.st = true) {die n : Nat} {g : Forward} (hg : g.Fits) (hnew : (r.st.fwd die n).new = g.new)
    (hasid : (r.st.fwd die n).asid = g.asid) (hwm : (r.st.fwd die n).wm = g.wm) : (r.setDcb die (fwdOld n) g.word).st.fwd die n = g := by
  have hn : (r.setDcb die (fwdOld n) g.word).st.dcbAt die (fwdNew n) = r.st.dcbAt die (fwdNew n) :=
    Run.setDcb_dcbAt_ne _ _ (by unfold dcbKey fwdNew fwdOld; omega)
  have hw : (r.setDcb die (fwdOld n) g.word).st.dcbAt die (fwdWm n) = r.st.dcbAt die (fwdWm n) :=
    Run.setDcb_dcbAt_ne _ _ (by unfold dcbKey fwdWm fwdOld; omega)
  refine State.fwd_of_word hg (Run.setDcb_dcbAt_self hr ..) ?_ ?_ ?_
  · rw [← hnew]
    unfold State.fwd
    rw [hn]
  · rw [← hasid]
    unfold State.fwd
    rw [hw]
  · rw [← hwm]
    unfold State.fwd
    rw [hw]

/-- The move of a pair starts (R326). -/
theorem execSlabMoveStart_starts {s : State} {die n : Nat} {v : Word64} (hs : Regular s = true) (hn : n < 16)
    (hen : v.getLsbD 63 = true) (hmover : v.getLsbD 60 = true) :
    let g : Forward := { s.fwd die n with en := true, mover := true, old := bitsOf v.toNat 12 44 * 4096, log2 := v.toNat % 64, st := 1 }
    Forward.refused s die n g = false → ∃ t, exec (.slabMoveStart die n v) s = .next t ∧ t = { s with dcb := t.dcb } ∧ t.fwd die n = g := by
  intro g hok
  have hold : bitsOf v.toNat 12 44 * 4096 < 2 ^ 56 := by
    unfold bitsOf
    omega
  have hg : g.Fits := ⟨(by decide : 1 < 4), Nat.mul_mod_left .., hold, Nat.mod_lt _ (by decide)⟩
  have hx : exec (.slabMoveStart die n v) s = .next ((Run.start s).setDcb die (fwdOld n) g.word).st := by
    rw [exec_slabMoveStart, execSlabMoveStart, hen, hmover]
    refine if_neg ?_
    rintro (h | h | h | h)
    · omega
    · cases h
    · cases h
    · exact Bool.noConfusion (hok.symm.trans h)
  exact ⟨_, hx, rfl, Run.setFwd_fwd (r := Run.start s) hs hg rfl rfl rfl⟩

theorem Run.purge_st (r : Run s0) (dead : Waiter → Bool) : (r.purge dead).st = { r.st with ptt := (r.purge dead).st.ptt } := by
  have h : ({ (r.purge dead).st with ptt := [] } : State) = { r.st with ptt := [] } := by
    unfold Run.purge
    exact Run.foldl_keeps (fun s => ({ s with ptt := [] } : State)) _ (fun _ _ => by rfl) _ r
  exact congrArg (fun s => ({ s with ptt := (r.purge dead).st.ptt } : State)) h

/-- The mover of a pair leaves the list of those that wait and the parks. -/
theorem Run.dropMover_st (r : Run s0) (die n : Nat) :
    (r.dropMover die n).st = { r.st with movers := r.st.movers.filter (fun e => e.1 != die * 16 + n), ptt := (r.dropMover die n).st.ptt } := Run.purge_st ..

/-- A pair is disabled (R326). -/
theorem execFwdDisable_disables {s : State} {die n : Nat} (hs : Regular s = true) (hn : n < 16) :
    ∃ t, exec (.fwdDisable die n) s = .next t ∧ t = { s with dcb := t.dcb, movers := t.movers, ptt := t.ptt } ∧ t.fwd die n = { s.fwd die n with en := false, st := 0 }
      ∧ ∀ e ∈ t.movers, e.1 ≠ die * 16 + n := by
  have hdrop := Run.dropMover_st (Run.start s) die n
  have hfwd : ((Run.start s).dropMover die n).st.fwd die n = s.fwd die n := by
    rw [hdrop]
    rfl
  have hfits : ({ s.fwd die n with en := false, st := 0 } : Forward).Fits := by
    obtain ⟨-, hold, hlt, hlog⟩ := s.fwd_fits die n
    exact ⟨(by decide : 0 < 4), hold, hlt, hlog⟩
  have hx : exec (.fwdDisable die n) s = .next (((Run.start s).dropMover die n).setDcb die (fwdOld n) { s.fwd die n with en := false, st := 0 }.word).st := by
    rw [exec_fwdDisable, execFwdDisable]
    exact congrArg (fun r => Host.Outcome.next (Run.st r)) (if_pos hn)
  refine ⟨_, hx, ?_, Run.setFwd_fwd (Run.regular _ hs) hfits ?_ ?_ ?_, fun e he => ?_⟩
  · rw [Run.setDcb_st, hdrop]
    rfl
  · rw [hfwd]
  · rw [hfwd]
  · rw [hfwd]
  · rw [Run.setDcb_st, hdrop] at he
    simpa using (List.mem_filter.mp he).2

/-! ### The units of a slab move (R326) -/

/-- A pair reads the same where the registers below the counters do. -/
theorem State.fwd_congr {s t : State} {die n : Nat} (hn : n < 16) (h : ∀ o, o < 0x098000 → t.dcbAt die o = s.dcbAt die o) : t.fwd die n = s.fwd die n := by
  unfold State.fwd
  rw [h (fwdOld n) (by unfold fwdOld; omega), h (fwdNew n) (by unfold fwdNew; omega), h (fwdWm n) (by unfold fwdWm; omega)]

theorem Run.setMark_st (r : Run s0) (n : Nat) (f : Forward) (wm : Nat) : (r.setMark n f wm).st = { r.st with dcb := (r.setMark n f wm).st.dcb } := by
  have h : ({ (r.setMark n f wm).st with dcb := [] } : State) = { r.st with dcb := [] } :=
    Run.foldl_keeps (fun s => ({ s with dcb := [] } : State)) _ (fun _ _ => by rfl) _ r
  exact congrArg (fun s => ({ s with dcb := (r.setMark n f wm).st.dcb } : State)) h

/-- Setting a watermark changes no other register. -/
theorem Run.setMark_dcbAt (r : Run s0) {n d o : Nat} (f : Forward) (wm : Nat) (hn : n < 16) (ho : o < 0x098000) (hne : o ≠ fwdWm n) :
    (r.setMark n f wm).st.dcbAt d o = r.st.dcbAt d o := by
  unfold Run.setMark
  refine Run.foldl_keeps (fun s => s.dcbAt d o) _ (fun q e => Run.setDcb_dcbAt_ne _ _ ?_) _ r
  rw [Ne, dcbKey_inj (by omega) (by unfold fwdWm; omega)]
  exact fun h => hne h.2

/-- The watermark is set on every die that holds the pair. -/
theorem Run.setMark_mark (h0 : Regular s0 = true) (r : Run s0) {n die : Nat} (f : Forward) (wm : Nat) (hd : die ∈ r.st.sharers n f) :
    (r.setMark n f wm).st.dcbAt die (fwdWm n) = BitVec.ofNat 64 (f.asid * 2 ^ 48 + wm) := by
  refine foldl_settles (P := fun q : Run s0 => q.st.dcbAt die (fwdWm n) = BitVec.ofNat 64 (f.asid * 2 ^ 48 + wm)) (fun q => ?_) (fun q e hq => ?_) hd r
  · exact Run.setDcb_dcbAt_self (q.regular h0) ..
  · by_cases he : die = e
    · subst he
      exact Run.setDcb_dcbAt_self (q.regular h0) ..
    · exact (Run.setDcb_dcbAt_ne q _ (by unfold dcbKey; omega)).trans hq

/-- An active pair after its watermark has been set. -/
theorem Run.setMark_fwd (h0 : Regular s0 = true) (r : Run s0) {n die : Nat} {f : Forward} {wm : Nat} (hf : r.st.fwd die n = f) (hn : n < 16) (hd : die < 4) (hen : f.en = true)
    (hal : wm % 4096 = 0) (hlt : wm < 2 ^ 41) : (r.setMark n f wm).st.fwd die n = { f with wm := wm } := by
  have hold : (r.setMark n f wm).st.dcbAt die (fwdOld n) = r.st.dcbAt die (fwdOld n) :=
    Run.setMark_dcbAt r f wm hn (by unfold fwdOld; omega) (by unfold fwdOld fwdWm; omega)
  have hnew : (r.setMark n f wm).st.dcbAt die (fwdNew n) = r.st.dcbAt die (fwdNew n) :=
    Run.setMark_dcbAt r f wm hn (by unfold fwdNew; omega) (by unfold fwdNew fwdWm; omega)
  have hshares : die ∈ r.st.sharers n f := by
    unfold State.sharers
    rw [List.mem_filter, List.mem_range]
    refine ⟨hd, ?_⟩
    dsimp only
    rw [hf, hen]
    simp only [beq_self_eq_true, Bool.and_self]
  have hasid : f.asid < 2 ^ 16 := by
    rw [← hf]
    exact Nat.div_lt_of_lt_mul (BitVec.isLt _)
  have hmark : ((r.setMark n f wm).st.dcbAt die (fwdWm n)).toNat = f.asid * 2 ^ 48 + wm := by
    rw [Run.setMark_mark h0 r f wm hshares, BitVec.toNat_ofNat]
    omega
  have hword : (f.asid * 2 ^ 48 + wm) / 2 ^ 48 = f.asid ∧ bitsOf (f.asid * 2 ^ 48 + wm) 12 29 * 4096 = wm := by
    unfold bitsOf
    omega
  calc (r.setMark n f wm).st.fwd die n = { r.st.fwd die n with asid := (f.asid * 2 ^ 48 + wm) / 2 ^ 48, wm := bitsOf (f.asid * 2 ^ 48 + wm) 12 29 * 4096 } := by
        unfold State.fwd
        rw [hold, hnew, hmark]
    _ = { f with wm := wm } := by rw [hword.1, hword.2, hf]

/-- A pair after its move is done. -/
theorem Run.moveDone_fwd (h0 : Regular s0 = true) (r : Run s0) {die n wm : Nat} {f : Forward} (hf : f.Fits) (hr : r.st.fwd die n = { f with wm := wm }) :
    (r.moveDone die n f).st.fwd die n = { f with st := 2, wm := wm } := by
  obtain ⟨-, hold, hlt, hlog⟩ := hf
  exact Run.setFwd_fwd (r.regular h0) (g := { f with st := 2, wm := wm }) ⟨(by decide : 2 < 4), hold, hlt, hlog⟩ (by rw [hr]) (by rw [hr]) (by rw [hr])

/-- What the end of a move leaves: the state of the move, and the message to the firmware. -/
theorem endedMove {s : State} (hs : Regular s = true) (die n : Nat) : let t := ((Run.start s).moveDone die n (s.fwd die n)).st
    t = { s with dcb := t.dcb, messages := s.messages ++ [⟨0, 0, 2 ^ 22 + die * 16 + n, []⟩] } ∧ t.fwd die n = { s.fwd die n with st := 2 } :=
  ⟨rfl, Run.moveDone_fwd hs (Run.start s) (wm := (s.fwd die n).wm) (s.fwd_fits die n) rfl⟩

/-- A unit of a move copied and the watermark set past it; after the last one the move is done. -/
def Run.moveUnit (r : Run s0) (die n : Nat) (c : Bool) (src dst : Nat) : Run s0 :=
  let f := r.st.fwd die n
  let q := ((r.write (mainKey dst) (r.st.bytes (mainKey src) 4096)).codeLines c (mainKey dst) 4096).setMark n f (f.wm + 4096)
  if 2 ^ f.log2 ≤ f.wm + 4096 then q.moveDone die n f else q

/-- A byte after a unit has been copied. -/
theorem Run.moveUnit_byte (h0 : Regular s0 = true) (r : Run s0) (die n : Nat) (c : Bool) (src dst k : Nat) : (r.moveUnit die n c src dst).st.byte k
    = if mainKey dst ≤ k ∧ k < mainKey dst + 4096 then r.st.byte (mainKey src + (k - mainKey dst)) else r.st.byte k := by
  have hwrite := Run.write_byte (r.regular h0) (mainKey dst) k (r.st.bytes (mainKey src) 4096)
  rw [State.bytes_length] at hwrite
  have hmark : (((r.write (mainKey dst) (r.st.bytes (mainKey src) 4096)).codeLines c (mainKey dst) 4096).setMark n (r.st.fwd die n) ((r.st.fwd die n).wm + 4096)).st.byte k
      = (r.write (mainKey dst) (r.st.bytes (mainKey src) 4096)).st.byte k := by
    rw [Run.setMark_st, Run.codeLines_st]
    rfl
  have hunit : (r.moveUnit die n c src dst).st.byte k = (r.write (mainKey dst) (r.st.bytes (mainKey src) 4096)).st.byte k :=
    iteInduction (motive := fun q : Run s0 => q.st.byte k = (r.write (mainKey dst) (r.st.bytes (mainKey src) 4096)).st.byte k) (fun _ => hmark) (fun _ => hmark)
  rw [hunit, hwrite]
  split
  · exact State.bytes_getD _ _ (by omega)
  · rfl

/-- An active pair after a unit has been copied. -/
theorem Run.moveUnit_fwd (h0 : Regular s0 = true) (r : Run s0) {die n : Nat} {f : Forward} (hf : r.st.fwd die n = f) (hd : die < 4) (hn : n < 16) (hen : f.en = true) (hlog : f.log2 ≤ 40)
    (hend : f.wm < 2 ^ f.log2) (c : Bool) (src dst : Nat) :
    (r.moveUnit die n c src dst).st.fwd die n = { f with wm := f.wm + 4096, st := if 2 ^ f.log2 ≤ f.wm + 4096 then 2 else f.st } := by
  have hwm : f.wm % 4096 = 0 := by
    rw [← hf]
    exact Nat.mul_mod_left ..
  have hpow : 2 ^ f.log2 ≤ 2 ^ 40 := Nat.pow_le_pow_right (by decide) hlog
  have hcopied : ((r.write (mainKey dst) (r.st.bytes (mainKey src) 4096)).codeLines c (mainKey dst) 4096).st.fwd die n = f := by
    refine (State.fwd_congr hn (fun o ho => ?_)).trans hf
    rw [Run.codeLines_dcbAt _ _ _ _ _ ho]
    unfold State.dcbAt
    rw [Run.write_st]
  have hmark := Run.setMark_fwd (wm := f.wm + 4096) h0 _ hcopied hn hd hen (by omega) (by omega)
  unfold Run.moveUnit
  dsimp only
  rw [hf]
  split
  · exact Run.moveDone_fwd h0 _ (hf ▸ r.st.fwd_fits die n) hmark
  · exact hmark

/-- A move that is due is active, and its state is 1. -/
theorem State.moveDue_active {s : State} {die n : Nat} (h : s.moveDue die n = true) : (s.fwd die n).en = true ∧ (s.fwd die n).st = 1 := by
  simp only [State.moveDue, Bool.and_eq_true, beq_iff_eq] at h
  obtain ⟨⟨⟨hen, -⟩, hst⟩, -⟩ := h
  exact ⟨hen, hst⟩

section
variable {s : State} {die n : Nat} (hdue : s.moveDue die n = true) (hfree : ∀ e ∈ s.movers, e.1 ≠ die * 16 + n)

include hdue hfree

/-- A due move whose units are all copied ends. -/
theorem execSlabMoveUnit_ends (hend : 2 ^ (s.fwd die n).log2 ≤ (s.fwd die n).wm) :
    exec (.slabMoveUnit die n) s = .next ((Run.start s).moveDone die n (s.fwd die n)).st := by
  have hnone : s.movers.find? (fun e => e.1 == die * 16 + n) = none := List.find?_eq_none.mpr (fun e he => by simpa using hfree e he)
  rw [exec_slabMoveUnit, execSlabMoveUnit]
  dsimp only
  rw [if_pos hdue, hnone]
  exact if_pos hend

/-- The unit at the watermark of a due move is copied through a leaf with S = 0. -/
theorem execSlabMoveUnit_copies {src dst : Nat} {leaf ls : Word64} (hend : (s.fwd die n).wm < 2 ^ (s.fwd die n).log2) :
    let f := s.fwd die n
    let grp := ((List.range 1024).find? (fun g => (s.rootOf g).getLsbD 0 && s.asidOf g == f.asid)).getD 1024
    moverAt s (s.rootOf grp) f.asid (f.old + f.wm) .r = .phys src ls → moverAt s (s.rootOf grp) f.asid (f.new + f.wm) .w = .phys dst leaf → leafS leaf = false →
    s.poisonAt (mainKey src) 4096 = none → exec (.slabMoveUnit die n) s = .next ((Run.start s).moveUnit die n (leafC leaf) src dst).st := by
  intro f grp hsrc hdst hS hp
  have hnone : s.movers.find? (fun e => e.1 == die * 16 + n) = none := List.find?_eq_none.mpr (fun e he => by simpa using hfree e he)
  rw [exec_slabMoveUnit, execSlabMoveUnit]
  dsimp only
  rw [if_pos hdue, hnone]
  dsimp only [Option.bind_none]
  rw [if_neg (Nat.not_le.mpr hend), hsrc, hdst]
  dsimp only
  rw [hp]
  dsimp only
  rw [hS]
  exact (apply_ite (fun r : Run s => Host.Outcome.next r.st) _ _ _).symm

end

/-! ### The batch of a home unit (R331) -/

/-- The order of service as a lexicographic order of rank, key, index and context. -/
theorem homeBefore_iff (x y : HomeReq) : homeBefore x y = true ↔
    x.rank < y.rank ∨ x.rank = y.rank ∧ (x.key < y.key ∨ x.key = y.key ∧ (x.idx < y.idx ∨ x.idx = y.idx ∧ x.c ≤ y.c)) := by
  simp only [homeBefore, Bool.or_eq_true, Bool.and_eq_true, decide_eq_true_eq, beq_iff_eq]

theorem homeBefore_total {x y : HomeReq} (h : homeBefore y x ≠ true) : homeBefore x y = true := by
  rw [Ne, homeBefore_iff] at h
  rw [homeBefore_iff]
  omega

theorem homeBefore_trans {x y z : HomeReq} (h : homeBefore x y = true) (k : homeBefore y z = true) : homeBefore x z = true := by
  rw [homeBefore_iff] at h k ⊢
  omega

theorem insertHome_perm (x : HomeReq) (l : List HomeReq) : (insertHome x l).Perm (x :: l) := by
  induction l with
  | nil => exact .refl _
  | cons y l ih =>
    unfold insertHome
    split
    · exact (ih.cons y).trans (.swap x y l)
    · exact .refl _

theorem insertHome_sorted (x : HomeReq) {l : List HomeReq} (h : l.Pairwise (fun x y => homeBefore x y = true)) : (insertHome x l).Pairwise (fun x y => homeBefore x y = true) := by
  induction l with
  | nil => exact List.pairwise_singleton ..
  | cons y l ih =>
    obtain ⟨hy, hl⟩ := List.pairwise_cons.mp h
    unfold insertHome
    split
    · rename_i hyx
      refine List.pairwise_cons.mpr ⟨fun z hz => ?_, ih hl⟩
      rcases List.mem_cons.mp ((insertHome_perm x l).mem_iff.mp hz) with rfl | hzl
      · exact hyx
      · exact hy z hzl
    · rename_i hyx
      have hxy := homeBefore_total hyx
      refine List.pairwise_cons.mpr ⟨fun z hz => ?_, h⟩
      rcases List.mem_cons.mp hz with rfl | hzl
      · exact hxy
      · exact homeBefore_trans hxy (hy z hzl)

/-- Requests put one after the other into a list in order. -/
theorem foldl_insertHome (l m : List HomeReq) (hm : m.Pairwise (fun x y => homeBefore x y = true)) :
    (l.foldl (fun l q => insertHome q l) m).Perm (l ++ m) ∧ (l.foldl (fun l q => insertHome q l) m).Pairwise (fun x y => homeBefore x y = true) := by
  induction l generalizing m with
  | nil => exact ⟨.refl _, hm⟩
  | cons x l ih =>
    obtain ⟨hp, hs⟩ := ih (insertHome x m) (insertHome_sorted x hm)
    exact ⟨(hp.trans ((insertHome_perm x m).append_left l)).trans List.perm_middle, hs⟩

/-- A home unit with no batch begun takes every write that has reached it, in the order of R331. -/
theorem State.batchOf_begins {s : State} {frame : Nat} (h : ∀ q ∈ s.home, q.frame = frame → q.batch = false) :
    (s.batchOf frame).Perm ((s.home.filter (fun q => q.frame == frame)).map (fun q => { q with batch := true }))
      ∧ (s.batchOf frame).Pairwise (fun x y => homeBefore x y = true) := by
  have hnone : s.home.filter (fun q => q.frame == frame && q.batch) = [] := by
    rw [List.filter_eq_nil_iff]
    intro q hq hb
    obtain ⟨hf, hb⟩ := Bool.and_eq_true_iff.mp hb
    rw [h q hq (eq_of_beq hf)] at hb
    exact Bool.noConfusion hb
  have hbatch : s.batchOf frame = ((s.home.filter (fun q => q.frame == frame)).foldl (fun l q => insertHome q l) []).map (fun q => { q with batch := true }) := by
    unfold State.batchOf
    rw [hnone]
  obtain ⟨hp, hs⟩ := foldl_insertHome (s.home.filter (fun q => q.frame == frame)) [] .nil
  rw [List.append_nil] at hp
  rw [hbatch]
  exact ⟨hp.map _, List.pairwise_map.mpr hs⟩

/-- A home unit with a batch begun serves that batch. -/
theorem State.batchOf_begun {s : State} {frame : Nat} (h : ∃ q ∈ s.home, q.frame = frame ∧ q.batch = true) :
    s.batchOf frame = s.home.filter (fun q => q.frame == frame && q.batch) := by
  obtain ⟨q, hq, hf, hb⟩ := h
  have hmem : q ∈ s.home.filter (fun q => q.frame == frame && q.batch) := List.mem_filter.mpr ⟨hq, by rw [hf, hb, beq_self_eq_true, Bool.and_self]⟩
  unfold State.batchOf
  split
  · rename_i he
    rw [he] at hmem
    cases hmem
  · rfl

/-! ### The migration of a row (R304, R306) -/

/-- The copy of the units of a row changes bytes, poison, the marks of lines and counters only. -/
theorem copyUnits_st (a : Agent) (dst : Nat) (l : List ((Nat × Nat × Nat) × (Nat × Nat))) (r : Run s0) :
    let t := (l.foldl (fun (r : Run s0) e => (r.write e.1.2.1 (r.st.bytes e.1.1 e.1.2.2)).wroteLines a .main (dst + e.2.1) e.1.2.1 e.1.2.2) r).st
    t = { r.st with mem := t.mem, poison := t.poison, lines := t.lines, learned := t.learned, dcb := t.dcb } := by
  intro t
  have h : ({ t with mem := [], poison := [], lines := [], learned := [], dcb := [] } : State) = { r.st with mem := [], poison := [], lines := [], learned := [], dcb := [] } := by
    refine Run.foldl_keeps (fun s => ({ s with mem := [], poison := [], lines := [], learned := [], dcb := [] } : State)) _ (fun q e => ?_) l r
    rw [Run.wroteLines_st, Run.write_st]
  exact congrArg (fun s => ({ s with mem := t.mem, poison := t.poison, lines := t.lines, learned := t.learned, dcb := t.dcb } : State)) h

/-- A row that is put at the head of a die's directory is what a search for it finds. -/
theorem find?_directory {ds : List Nat} {d : Nat} (hd : d ∈ ds) {table row : Nat} {x : DirEntry} (hx : rowOf (d, x) table row = true) (l : List (Nat × DirEntry)) :
    (ds.map (fun d => (d, x)) ++ l).find? (fun e => e.1 == d && rowOf e table row) = some (d, x) := by
  induction ds with
  | nil => cases hd
  | cons e ds ih =>
    rw [List.map_cons, List.cons_append, List.find?_cons]
    by_cases he : e = d
    · subst he
      rw [beq_self_eq_true, hx]
      rfl
    · rw [beq_eq_false_iff_ne.mpr he]
      exact ih ((List.mem_cons.mp hd).resolve_left (Ne.symm he))

/-- A row that may move is PEND in every directory of its partition, and its units are among those that its step group forwards. -/
theorem execRowMigration_moves {s : State} {part table row len sg grp : Nat} {src dst : Word64} (hs : Regular s = true) (hm : s.migration part src dst len = some (sg, grp))
    (hsrc : src.toNat % 64 = 0) (hdst : dst.toNat % 64 = 0) (hlen : (s.rowCopies (partyOf s part grp) src dst len).length = (rowUnits len).length) (ht : 1 ≤ table)
    (hlt : table < 65536) (hfull : s.directoryFull part table row = false) : ∃ t, exec (.rowMigration part table row src dst len) s = .next t
      ∧ (∀ d ∈ s.diesOf part, t.directory.find? (fun e => e.1 == d && rowOf e table row) = some (d, ⟨table, row, 1, dst.toNat⟩))
      ∧ (t.group part sg).copies = (s.group part sg).copies ++ s.rowCopies (partyOf s part grp) src dst len := by
  have hguard : ¬ (src.toNat % 64 ≠ 0 ∨ dst.toNat % 64 ≠ 0 ∨ (s.rowCopies (partyOf s part grp) src dst len).length ≠ (rowUnits len).length ∨ table = 0 ∨ 65536 ≤ table
      ∨ s.directoryFull part table row = true) := by
    rintro (h | h | h | h | h | h)
    · exact h hsrc
    · exact h hdst
    · exact h hlen
    · omega
    · omega
    · exact Bool.noConfusion (hfull.symm.trans h)
  have hx := exec_rowMigration part table row src dst len s
  unfold execRowMigration at hx
  rw [hm] at hx
  dsimp only at hx
  rw [if_neg hguard] at hx
  have hcopy := copyUnits_st (partyOf s part grp) dst.toNat ((s.rowCopies (partyOf s part grp) src dst len).zip (rowUnits len)) ((Run.start s).put (.directory
    ((s.diesOf part).map (fun d => (d, (⟨table, row, 1, dst.toNat⟩ : DirEntry))) ++ s.directory.filter (fun e => !((s.diesOf part).contains e.1 && rowOf e table row)))))
  refine ⟨_, hx, fun d hd => ?_, ?_⟩
  · rw [Run.put_st, Upd.apply_directory, hcopy]
    exact find?_directory hd (by simp [rowOf]) _
  · unfold State.group
    rw [Run.put_st, Upd.apply_groups, hcopy]
    obtain ⟨-, -, -, -, -, -, -, hg, -⟩ := (regular_iff _).mp hs
    exact congrArg StepGroup.copies ((SMap.get_set _ hg ..).trans (if_pos rfl))

/-! ### The obligation -/

/-- Settles O58: a park wakes or denies each of its waiters in a fold that later waiters do not undo; an invalidation filters the buffers; the registers of a forwarding pair give back
the pair that was written there; a home unit sorts the writes that have reached it; and a migration puts the row at the head of each directory. -/
theorem translationEvents : Obligations.TranslationEvents := by
  unfold Obligations.TranslationEvents
  refine ⟨?parks, ?invalidations, ?moves, ?homes, fun s part table row len sg grp src dst => execRowMigration_moves⟩
  case parks =>
    intro s die e hs he hl
    refine ⟨⟨_, execParkresReplay_parked he hl, Run.replay_frees hs (Run.start s) die e⟩, fun i code hi hd => ?_⟩
    rcases List.mem_cons.mp hi with h | h
    · cases h
      exact ⟨_, execParkresFail_parked he hl, Run.failPark_denies hs (Run.start s) die e 0x0A 0x02⟩
    · cases List.mem_singleton.mp h
      exact ⟨_, execParkTimeout_overdue (hd rfl), Run.failPark_denies hs (Run.start s) die e 0x0A 0x01⟩
  case invalidations =>
    intro s die asid sz hs va
    refine ⟨?_, ?_, ?_⟩
    · obtain ⟨ht, hreg, hmem⟩ := invalidated hs (fun e => e.asid == asid && e.page * 4096 / 2 ^ pageBits (sz % 4) == va / 2 ^ pageBits (sz % 4)) die asid sz 0 (by decide)
      refine ⟨_, exec_tinvPage die asid sz s, ht, hreg.trans (Nat.add_zero _), fun e he => (hmem e he).trans (not_congr ?_)⟩
      rw [Bool.and_eq_true, beq_iff_eq, beq_iff_eq]
    · obtain ⟨ht, hreg, hmem⟩ := invalidated hs (fun e => e.asid == asid) die asid 0 4 (by decide)
      exact ⟨_, exec_tinvAsid die asid s, ht, hreg.trans (by omega), fun e he => (hmem e he).trans (not_congr beq_iff_eq)⟩
    · obtain ⟨ht, hreg, -⟩ := invalidated hs (fun _ => true) die 0 0 6 (by decide)
      rw [List.filter_eq_nil_iff.mpr (fun _ _ => Bool.noConfusion)] at ht
      exact ⟨_, exec_tinvAll die s, ht, hreg⟩
  case moves =>
    intro s die n hs hd hn f
    refine ⟨?starts, ?unit, execFwdDisable_disables hs hn⟩
    case starts =>
      intro v g hen hmover hok
      exact execSlabMoveStart_starts hs hn hen hmover hok
    case unit =>
      intro hdue hlog hfree
      refine ⟨fun hend => ⟨_, execSlabMoveUnit_ends hdue hfree hend, endedMove hs die n⟩, ?_⟩
      intro src dst leaf ls hend grp hsrc hdst hS hp
      obtain ⟨hen, hst⟩ := State.moveDue_active hdue
      have hbyte := Run.moveUnit_byte hs (Run.start s) die n (leafC leaf) src dst
      have hfwd := Run.moveUnit_fwd hs (Run.start s) rfl hd hn hen hlog hend (leafC leaf) src dst
      refine ⟨_, execSlabMoveUnit_copies hdue hfree hend hsrc hdst hS hp, fun j hj => ?_, fun k hk => ?_, congrArg Forward.wm hfwd, ?_⟩
      · rw [hbyte, if_pos (by omega), Nat.add_sub_cancel_left]
        rfl
      · rw [hbyte, if_neg (by omega)]
        rfl
      · exact (congrArg Forward.st hfwd).trans (if_congr .rfl rfl hst)
  case homes =>
    intro s frame served
    refine ⟨fun h => ?_, fun h => ?_, fun r q l c id hq => ?_⟩
    · obtain ⟨hperm, hsorted⟩ := State.batchOf_begins h
      exact ⟨s.batchOf frame, hperm, hsorted, exec_homeUnitBatch frame s⟩
    · rw [← State.batchOf_begun h]
      exact exec_homeUnitBatch frame s
    · rw [Run.serveBatch, hq]

end Sys2Proof.Machine

/-! A KILL of a launch that has a failed node and is not ending (R368, R390). -/

namespace Sys2Proof.Machine

open Sys2Proof

/-- A launch that runs node 5, and whose FNODE and class are those of node 0, which failed with class 9, although the launch is not ending. -/
def failedNotEnding : Launch :=
  { newLaunch 5 0 [] with work := [⟨9, 5, .run, 0, 0, [], [], []⟩], fnode := some 0, cls := 9 }

/-- A fix of partition 0 for a fault of class 0x12 has read out, and the launch is one of the partition's queue group 0. -/
def fixedForFault : State :=
  { State.reset with
    dcb := [(dcbKey 0 0x082500, 2), (dcbKey 0 0x082700, 0x100)], fixed := [0], fixFault := some (0x12, 3), launches := [failedNotEnding] }

theorem fixedForFault_regular : Regular fixedForFault = true := by decide +kernel

theorem fixedForFault_kills : fixedForFault.fixctl.testBit 1 = true ∧ fixedForFault.fixed ≠ [] ∧ fixedForFault.groupPart (failedNotEnding.q / 64) = some 0
    ∧ fixedForFault.fixing = 0 := by decide +kernel

/-- The classes of the launches in the state that a step goes on with. -/
def classesAfter : Host.Outcome State Fault Refusal → Option (List Nat)
  | .next t => some (t.launches.map (·.cls))
  | _ => none

/-- The KILL fails node 5, which sets the launch's ending and leaves it the class of its lower failed node; the launch itself is then no longer given the class of the fix. -/
theorem fixedForFault_keepsClass : classesAfter (exec .fixKill fixedForFault) = some [9] := by decide +kernel

/-- Refutes O59: its clause of `FIX_KILL` says that a launch which was not ending takes the class of the fault that the fix was taken for. A launch that is not ending but has the FNODE
of a failed node keeps that node's class when the KILL fails a running node with a greater number: R368 reports the lowest-numbered failed node, and the launch is by then ending. (No
run reaches such a launch, since a node that fails sets its launch ending; the clause does not exclude it.) -/
theorem not_deviceEvents : ¬ Obligations.DeviceEvents := by
  unfold Obligations.DeviceEvents
  intro h
  obtain ⟨-, -, -, hfix, -⟩ := h
  obtain ⟨-, -, hkill, -⟩ := hfix fixedForFault fixedForFault_regular
  obtain ⟨hdone, hfixed, hpart, hscope⟩ := fixedForFault_kills
  obtain ⟨t, ht, -, -, hends⟩ := hkill hdone hfixed
  obtain ⟨y, hy, -, -, hclass⟩ := hends failedNotEnding (List.mem_singleton.mpr rfl) ⟨0, hpart, .inr ⟨by rw [hscope]; decide, hscope.symm⟩⟩
  obtain ⟨hcls, -⟩ := hclass 0x12 3 rfl rfl
  have hkept := fixedForFault_keepsClass
  rw [ht] at hkept
  have hmem : y.cls ∈ t.launches.map (·.cls) := List.mem_map_of_mem hy
  rw [Option.some.inj hkept, hcls] at hmem
  exact absurd hmem (by decide)

end Sys2Proof.Machine

/-! A write of QTAIL that overflows the ring (R350). -/

namespace Sys2Proof.Machine

open Sys2Proof

variable {s0 : State}

theorem Run.settleQueue_covered (r : Run s0) (q : Nat) : (r.settleQueue q).st.covered = r.st.covered := by
  dsimp only [Run.settleQueue]
  split
  · split
    · rfl
    · split <;> rfl
  · rfl

theorem Run.coverRecords_overflow (r : Run s0) {q old new : Nat} (h : r.st.queueSize q < (new + 2 ^ 32 - r.st.queueHead' q) % 2 ^ 32) : r.coverRecords q old new = r := by
  simp only [Run.coverRecords, if_pos h, List.range_zero, List.foldl_nil]

/-- A TAIL that overflows the ring covers no record, so what the graph engine holds of the records that are covered stays. -/
theorem execQtailWrite_overflow {s t : State} {q : Nat} {v : Word64} (hq : q < 65536) (h : s.queueSize q < (v.toNat % 2 ^ 32 + 2 ^ 32 - s.queueHead' q) % 2 ^ 32)
    (ht : exec (.qtailWrite q v) s = .next t) : t.covered = s.covered := by
  rw [exec_qtailWrite, execQtailWrite, if_pos hq, Run.coverRecords_overflow (Run.start s) h] at ht
  cases ht
  rw [Run.settleQueue_covered]
  rfl

/-- The record of a ring in host memory is there whole, whatever its address. -/
theorem State.recordBytes_length_of_inHost {s : State} {q : Nat} (h : s.queueInHost q = true) (i : Nat) : (s.recordBytes q i).length = 256 := by
  simp [State.recordBytes, h, List.length_flatMap]

/-- Queue 0 has a ring of one record in host memory and is idle; its group is assigned to partition 0. -/
def hostRing : State := { State.reset with dcb := [(dcbKey 0 0x8, 0x30100), (dcbKey 0 0x082700, 0x100)] }

/-- A write of QCTL, with EN and LOC, brings queue 0 there (R351). -/
theorem hostRing_enabled : exec (.qctlWrite 0 0x10100) { State.reset with dcb := [(dcbKey 0 0x082700, 0x100)] } = .next hostRing := by rfl

theorem hostRing_regular : Regular hostRing = true := by decide +kernel

theorem hostRing_idle : hostRing.queueState 0 = 1 ∧ hostRing.queueInHost 0 = true ∧ hostRing.queueSize 0 = 1 ∧ hostRing.queueHead' 0 = 0 ∧ hostRing.queueTail 0 = 0
    ∧ hostRing.covered = [] := by decide +kernel

/-- Refutes O60: its clause of QTAIL says that each record between the old and the new TAIL, up to the size of the ring, is held to its bytes from the write on. A TAIL that overflows the
ring covers no record (R350: the queue stalls with ERR 0x01), and the clause does not exclude it: with a ring of one record and a TAIL of 2, record 0 is not covered. -/
theorem not_launchAndPreemptionEvents : ¬ Obligations.LaunchAndPreemptionEvents := by
  unfold Obligations.LaunchAndPreemptionEvents
  intro h
  obtain ⟨hqueues, -⟩ := h
  obtain ⟨-, hcovers, -⟩ := hqueues hostRing 0 2 hostRing_regular (by decide)
  obtain ⟨-, hhost, hsize, hhead, htail, hnone⟩ := hostRing_idle
  have hnew : (2 : Word64).toNat % 2 ^ 32 = 2 := by decide
  obtain ⟨t, ht, hget⟩ := hcovers (by rw [hnone]; rfl) 0 (by rw [hnew, htail]; decide) (by rw [hsize]; decide)
  have hkept : t.covered = [] := (execQtailWrite_overflow (by decide) (by rw [hnew, hsize, hhead]; decide) ht).trans hnone
  have hlength := State.recordBytes_length_of_inHost hhost (hostRing.queueTail 0 + 0)
  rw [← hget, hkept, SMap.get_nil] at hlength
  exact absurd hlength (by decide)

end Sys2Proof.Machine

/-! Buffered accesses (R105, R108, R112, R114, R115, R119, R123): stores, fills, `empty` and the posted atomics. -/

namespace Sys2Proof.Machine

open Sys2Proof

/-! ### Accesses that are buffered -/

section
variable {s : State} {f : Fire} {op : MemOp} {d : Doing} {sp : Space} {wd : MWidth} {ea : Word64}

/-- An access that passes its checks is buffered, as one output. -/
theorem Fire.buffer_passes (h : fireCheck s (s.agent f.c) sp ea.toNat wd.bytes true d = none) :
    Fire.buffer s f op d sp wd ea = { outcome true with effs := [.access ⟨op, sp, wd, ea, f.b'.data⟩], outs := 1 } := by
  unfold Fire.buffer
  rw [h]
  rfl

/-- An access that a check refuses marks its run. -/
theorem Fire.buffer_refused {c q : Nat} (h : fireCheck s (s.agent f.c) sp ea.toNat wd.bytes true d = some (c, q)) :
    Fire.buffer s f op d sp wd ea = { faults := [⟨f.idx, c, q, 0, 0, 0, ea.toNat, none⟩] } := by
  unfold Fire.buffer
  rw [h]
  rfl

end

/-- The instructions whose access is buffered with a control token, each with what it does and how it is checked. -/
def bufferedStores (sp : Space) (wd : MWidth) (g : Gate) (off : BitVec 7) (t0 : Target) : List (Instr × MemOp × Doing) :=
  [(.st sp wd g off t0, .store, .store), (.fill sp wd g off t0, .fill, .granule), (.empty sp wd g off t0, .empty, .granule)]

/-- A store, a fill and an `empty` are the firing of a node that buffers its access. -/
theorem exec_bufferedStore {sp : Space} {wd : MWidth} {g : Gate} {off : BitVec 7} {t0 : Target} {i : Instr} {op : MemOp} {d : Doing} {s : State} {f : Fire}
    (hi : (i, op, d) ∈ bufferedStores sp wd g off t0) (h : Acts s i f) : exec i s = .next (fired s i f (Fire.buffer s f op d sp wd (effective f wd off))) := by
  simp only [bufferedStores, List.mem_cons, List.not_mem_nil, or_false, Prod.mk.injEq] at hi
  obtain ⟨rfl, rfl, rfl⟩ | ⟨rfl, rfl, rfl⟩ | ⟨rfl, rfl, rfl⟩ := hi
  · exact fireNode_acts h
  · exact fireNode_acts h
  · exact fireNode_acts h

/-! ### Atomics -/

/-- The atomics and `cas`, each with what it does to a location: the operation that is buffered, and the new value and the flags for an old value and an operand (R120, R123). -/
def atomics (sp : Space) (wd : MWidth) (g : Gate) (t0 : Target) : List (Instr × MemOp × (Nat → Payload → Nat × FlagSet)) :=
  [(.atomAdd sp wd g t0, .atom .add, atomNew .add wd), (.atomEsum sp wd g t0, .atom .esum, atomNew .esum wd), (.atomAnd sp wd g t0, .atom .and, atomNew .and wd),
    (.atomOr sp wd g t0, .atom .or, atomNew .or wd), (.atomXor sp wd g t0, .atom .xor, atomNew .xor wd), (.atomMin sp wd g t0, .atom .min, atomNew .min wd),
    (.atomMax sp wd g t0, .atom .max, atomNew .max wd), (.atomMinn sp wd g t0, .atom .minn, atomNew .minn wd), (.atomMaxn sp wd g t0, .atom .maxn, atomNew .maxn wd),
    (.atomFmin sp wd g t0, .atom .fmin, atomNew .fmin wd), (.atomFmax sp wd g t0, .atom .fmax, atomNew .fmax wd), (.atomSwap sp wd g t0, .atom .swap, atomNew .swap wd),
    (.cas sp wd g t0, .cas, fun old b => (casNew wd old b, 0))]

/-- What an atomic comes to as it fires: posted, or returning (R108, R109). -/
def Run.atomicBody {s0 : State} (t0 : Target) (op : MemOp) (new : Nat → Payload → Nat × FlagSet) (sp : Space) (wd : MWidth) (r : Run s0) (f : Fire) : Run s0 × NodeOut :=
  if t0 = .none then (r, { Fire.buffer r.st f op .atomic sp wd f.a.word with t0 := none, t1 := none })
  else r.atomicNow f sp wd (fun old => new old f.b'.data)

/-- An atomic is the firing of a node with that body. -/
theorem exec_atomic {sp : Space} {wd : MWidth} {g : Gate} {t0 : Target} {i : Instr} {op : MemOp} {new : Nat → Payload → Nat × FlagSet}
    (hi : (i, op, new) ∈ atomics sp wd g t0) (s : State) : exec i s = fireWith i (Run.atomicBody t0 op new sp wd) s := by
  simp only [atomics, List.mem_cons, List.not_mem_nil, or_false, Prod.mk.injEq] at hi
  obtain ⟨rfl, rfl, rfl⟩ | ⟨rfl, rfl, rfl⟩ | ⟨rfl, rfl, rfl⟩ | ⟨rfl, rfl, rfl⟩ | ⟨rfl, rfl, rfl⟩ | ⟨rfl, rfl, rfl⟩ | ⟨rfl, rfl, rfl⟩ | ⟨rfl, rfl, rfl⟩ | ⟨rfl, rfl, rfl⟩
    | ⟨rfl, rfl, rfl⟩ | ⟨rfl, rfl, rfl⟩ | ⟨rfl, rfl, rfl⟩ | ⟨rfl, rfl, rfl⟩ := hi
  all_goals rfl

/-- A posted atomic that passes its checks is buffered (R108, R119). -/
theorem exec_postedAtomic {sp : Space} {wd : MWidth} {g : Gate} {i : Instr} {op : MemOp} {new : Nat → Payload → Nat × FlagSet} {s : State} {f : Fire}
    (hi : (i, op, new) ∈ atomics sp wd g .none) (h : Acts s i f) (hc : fireCheck s (s.agent f.c) sp f.a.word.toNat wd.bytes true .atomic = none) :
    exec i s = .next (fired s i f { effs := [.access ⟨op, sp, wd, f.a.word, f.b'.data⟩], outs := 1 }) := by
  rw [exec_atomic hi, fireWith_acts h, Run.atomicBody, if_pos rfl, Run.start_st, Fire.buffer_passes hc]
  rfl

/-! ### Unaligned stores -/

section
variable {sp : Space} {wd : MWidth} {g : Gate} {off : BitVec 7} {s : State} {f : Fire}

/-- What the check of a piece finds, with the address of the piece. -/
def pieceFault (s : State) (a : Agent) (sp : Space) (p : Nat × Nat) : Option ((Nat × Nat) × Nat) := (fireCheck s a sp p.1 p.2 false .store).map (fun e => (e, p.1))

theorem exec_wcvStore_acts (h : Acts s (.wcvStore sp wd g off) f) : exec (.wcvStore sp wd g off) s = .next (fired s (.wcvStore sp wd g off) f
    (match (pieces (effective f wd off).toNat wd.bytes).findSome? (pieceFault s (s.agent f.c) sp) with
      | some ((c, q), va) => f.fault c q va
      | none => { effs := [.access ⟨.wcv, sp, wd, effective f wd off, f.b'.data⟩], outs := 1 })) := fireNode_acts h

/-- With no piece refused, the store is buffered whole. -/
theorem exec_wcvStore_passes (h : Acts s (.wcvStore sp wd g off) f)
    (hp : ∀ p ∈ pieces (effective f wd off).toNat wd.bytes, fireCheck s (s.agent f.c) sp p.1 p.2 false .store = none) :
    exec (.wcvStore sp wd g off) s = .next (fired s (.wcvStore sp wd g off) f
      { effs := [.access ⟨.wcv, sp, wd, effective f wd off, f.b'.data⟩], outs := 1 }) := by
  have hnone : (pieces (effective f wd off).toNat wd.bytes).findSome? (pieceFault s (s.agent f.c) sp) = none :=
    List.findSome?_eq_none_iff.mpr fun p hmem => by rw [pieceFault, hp p hmem, Option.map_none]
  rw [exec_wcvStore_acts h, hnone]

/-- The first piece that a check refuses marks the run. -/
theorem exec_wcvStore_refused {l m : List (Nat × Nat)} {p : Nat × Nat} {c q : Nat} (h : Acts s (.wcvStore sp wd g off) f)
    (hsplit : pieces (effective f wd off).toNat wd.bytes = l ++ p :: m) (hl : ∀ x ∈ l, fireCheck s (s.agent f.c) sp x.1 x.2 false .store = none)
    (hp : fireCheck s (s.agent f.c) sp p.1 p.2 false .store = some (c, q)) :
    exec (.wcvStore sp wd g off) s = .next (fired s (.wcvStore sp wd g off) f { faults := [⟨f.idx, c, q, 0, 0, 0, p.1, none⟩] }) := by
  have hfront : l.findSome? (pieceFault s (s.agent f.c) sp) = none :=
    List.findSome?_eq_none_iff.mpr fun x hmem => by rw [pieceFault, hl x hmem, Option.map_none]
  have hfirst : pieceFault s (s.agent f.c) sp p = some ((c, q), p.1) := by rw [pieceFault, hp, Option.map_some]
  rw [exec_wcvStore_acts h, hsplit, List.findSome?_append, hfront, Option.none_or, List.findSome?_cons, hfirst]
  rfl

end

/-- Settles O32: each form buffers the access that its operands name, once its check passes. -/
theorem storesAreBuffered : Obligations.StoresAreBuffered := by
  unfold Obligations.StoresAreBuffered
  refine fun sp wd g off t0 s f => ⟨fun i op d hi h => ⟨fun hc => ?_, fun c q hc => ?_⟩, fun i op hi h hc => ?_,
    fun h => ⟨exec_wcvStore_passes h, fun l p m c q hsplit hl hp => exec_wcvStore_refused h hsplit hl hp⟩⟩
  · rw [exec_bufferedStore hi h, Fire.buffer_passes (ea := effective f wd off) hc]
    rfl
  · rw [exec_bufferedStore hi h, Fire.buffer_refused (ea := effective f wd off) hc]
    rfl
  · have hmem : (i, op) ∈ (atomics sp wd g .none).map (fun e => (e.1, e.2.1)) := hi
    obtain ⟨⟨_, _, new⟩, he, heq⟩ := List.mem_map.mp hmem
    cases heq
    exact exec_postedAtomic he h hc

end Sys2Proof.Machine

/-! Returning atomics (R109, R119 to R123). -/

namespace Sys2Proof.Machine

open Sys2Proof

variable {s0 : State}

/-! ### The value at a place -/

theorem leNat_lt (bs : List Byte) : leNat bs < 256 ^ bs.length := by
  induction bs with
  | nil => exact Nat.one_pos
  | cons b bs ih =>
    have hb : b.toNat < 256 := b.isLt
    rw [leNat, List.length_cons, Nat.pow_succ]
    omega

theorem pow256_eq (n : Nat) : 256 ^ n = 2 ^ (8 * n) := by rw [Nat.pow_mul]

/-- Of two numbers of `w` bits, in two's complement. -/
theorem signedOf_le_iff {w : Nat} (hw : 0 < w) (x y : Nat) : signedOf w x ≤ signedOf w y ↔ (BitVec.ofNat w x).sle (BitVec.ofNat w y) = true := by
  rw [signedOf_eq_toInt hw, signedOf_eq_toInt hw, BitVec.sle_eq_decide, decide_eq_true_iff]

theorem MWidth.bytes_pos (wd : MWidth) : 0 < wd.bytes := by cases wd <;> decide

/-! ### Performed as it fires -/

theorem Run.leaveHome_st (r : Run s0) (w : Waiter) : (r.leaveHome w).st = { r.st with home := (r.leaveHome w).st.home } := by
  unfold Run.leaveHome
  split
  · rfl
  · rfl

theorem Run.leaveHome_num (r : Run s0) (w : Waiter) (k n : Nat) : (r.leaveHome w).st.num k n = r.st.num k n := by
  rw [Run.leaveHome_st]
  rfl

/-- A returning atomic that passes its checks and waits for no write of its own context writes the new value at its place and delivers the old one. -/
theorem Run.atomicNow_key {r r' : Run s0} {f : Fire} {sp : Space} {wd : MWidth} {new : Nat → Nat × FlagSet} {k : Nat}
    (hc : fireCheck r.st (r.st.agent f.c) sp f.a.word.toNat wd.bytes true .atomic = none) (hd : f.b.denied = [])
    (ho : r.st.ownPending (r.st.ctx f.c) sp f.a.word.toNat wd.bytes = false)
    (hf : sp = .main → r.st.splits (r.st.agent f.c) f.a.word.toNat = true → r.st.framesBefore f.c (r.st.ctx f.c).seq f.idx = false)
    (hl : r.locate (r.st.agent f.c) sp f.a.word.toNat .rw = (r', .key k)) :
    r.atomicNow f sp wd new = (((r'.leaveHome (.node f.c f.b.iid f.idx)).write k (leBytes wd.bytes (new (r'.st.num k wd.bytes)).1)).wroteLines
        (r.st.agent f.c) sp f.a.word.toNat k wd.bytes,
      { NodeOut.of (oldToken wd (r'.st.num k wd.bytes)) (new (r'.st.num k wd.bytes)).2 with outs := 1 }) := by
  have hfree : ¬ (sp = .main ∧ r.st.splits (r.st.agent f.c) f.a.word.toNat = true ∧ r.st.framesBefore f.c (r.st.ctx f.c).seq f.idx = true) :=
    fun ⟨hm, hs, hb⟩ => Bool.false_ne_true ((hf hm hs).symm.trans hb)
  unfold Run.atomicNow
  simp only [hc, Fire.deniedHere_nil hd, ho, Bool.false_eq_true, if_false, if_neg hfree, hl, Run.leaveHome_num]

theorem oldToken_eq (wd : MWidth) (old : Nat) :
    oldToken wd old = if wd = .v512 then ⟨.vector, BitVec.ofNat 512 old, false, false, false⟩ else ⟨.scalar, (BitVec.ofNat 64 old).setWidth 512, false, false, false⟩ := rfl

/-! ### The new values (R120, R123) -/

/-- The new values that the statement gives for a returning atomic, with their flags. -/
def newValues (sp : Space) (wd : MWidth) (g : Gate) (t0 : Target) (old : Nat) (data : Payload) : List (Instr × Nat × FlagSet) :=
  let w := 8 * wd.bytes
  let x := data.toNat % 2 ^ w
  let b := fun n => BitVec.ofNat w n
  [(.atomAdd sp wd g t0, (old + x) % 2 ^ w, 0), (.atomAnd sp wd g t0, old &&& x, 0),
    (.atomOr sp wd g t0, old ||| x, 0), (.atomXor sp wd g t0, old ^^^ x, 0),
    (.atomMin sp wd g t0, if (b old).sle (b x) then old else x, 0), (.atomMax sp wd g t0, if (b x).sle (b old) then old else x, 0),
    (.atomMinn sp wd g t0, min old x, 0), (.atomMaxn sp wd g t0, max old x, 0),
    (.atomFmin sp wd g t0, (fsel (atomFmt wd) false old x).1, (fsel (atomFmt wd) false old x).2),
    (.atomFmax sp wd g t0, (fsel (atomFmt wd) true old x).1, (fsel (atomFmt wd) true old x).2),
    (.atomSwap sp wd g t0, x, 0),
    (.atomEsum sp wd g t0, leNat (xsCell (xsAdd (xsOfCell (leBytes 64 old)) (FloatFmt.f32.read (data.toNat % 2 ^ 32))).1),
      (xsAdd (xsOfCell (leBytes 64 old)) (FloatFmt.f32.read (data.toNat % 2 ^ 32))).2),
    (.cas sp wd g t0, if old = x then data.toNat / 2 ^ w % 2 ^ w else old, 0)]

section
variable (wd : MWidth) (old : Nat) (data : Payload)

theorem atomNew_min : atomNew .min wd old data = (if (BitVec.ofNat (8 * wd.bytes) old).sle (BitVec.ofNat (8 * wd.bytes) (data.toNat % 2 ^ (8 * wd.bytes))) then old
    else data.toNat % 2 ^ (8 * wd.bytes), 0) := by
  have hw : 0 < 8 * wd.bytes := Nat.mul_pos (by decide) (MWidth.bytes_pos wd)
  simp only [atomNew, signedOf_le_iff hw]

theorem atomNew_max : atomNew .max wd old data = (if (BitVec.ofNat (8 * wd.bytes) (data.toNat % 2 ^ (8 * wd.bytes))).sle (BitVec.ofNat (8 * wd.bytes) old) then old
    else data.toNat % 2 ^ (8 * wd.bytes), 0) := by
  have hw : 0 < 8 * wd.bytes := Nat.mul_pos (by decide) (MWidth.bytes_pos wd)
  simp only [atomNew, signedOf_le_iff hw]

theorem atomNew_minn : atomNew .minn wd old data = (min old (data.toNat % 2 ^ (8 * wd.bytes)), 0) := by rw [Nat.min_def]; rfl

theorem atomNew_maxn : atomNew .maxn wd old data = (max old (data.toNat % 2 ^ (8 * wd.bytes)), 0) := by rw [Nat.max_comm, Nat.max_def]; rfl

theorem casNew_eq : casNew wd old data
    = if old = data.toNat % 2 ^ (8 * wd.bytes) then data.toNat / 2 ^ (8 * wd.bytes) % 2 ^ (8 * wd.bytes) else old := by
  unfold casNew bitsOf
  rw [Nat.pow_zero, Nat.div_one]

end

/-- Each atomic gives its location the new value that the statement names. -/
theorem mem_newValues {sp : Space} {wd : MWidth} {g : Gate} {t0 : Target} {old : Nat} {data : Payload} {i : Instr} {v : Nat} {fl : FlagSet}
    (h : (i, v, fl) ∈ newValues sp wd g t0 old data) : ∃ op new, (i, op, new) ∈ atomics sp wd g t0 ∧ new old data = (v, fl) := by
  simp only [newValues, List.mem_cons, List.not_mem_nil, or_false, Prod.mk.injEq] at h
  obtain ⟨rfl, rfl, rfl⟩ | ⟨rfl, rfl, rfl⟩ | ⟨rfl, rfl, rfl⟩ | ⟨rfl, rfl, rfl⟩ | ⟨rfl, rfl, rfl⟩ | ⟨rfl, rfl, rfl⟩ | ⟨rfl, rfl, rfl⟩ | ⟨rfl, rfl, rfl⟩ | ⟨rfl, rfl, rfl⟩
    | ⟨rfl, rfl, rfl⟩ | ⟨rfl, rfl, rfl⟩ | ⟨rfl, hv, hfl⟩ | ⟨rfl, rfl, rfl⟩ := h
  · exact ⟨.atom .add, atomNew .add wd, by simp [atomics], rfl⟩
  · exact ⟨.atom .and, atomNew .and wd, by simp [atomics], rfl⟩
  · exact ⟨.atom .or, atomNew .or wd, by simp [atomics], rfl⟩
  · exact ⟨.atom .xor, atomNew .xor wd, by simp [atomics], rfl⟩
  · exact ⟨.atom .min, atomNew .min wd, by simp [atomics], atomNew_min wd old data⟩
  · exact ⟨.atom .max, atomNew .max wd, by simp [atomics], atomNew_max wd old data⟩
  · exact ⟨.atom .minn, atomNew .minn wd, by simp [atomics], atomNew_minn wd old data⟩
  · exact ⟨.atom .maxn, atomNew .maxn wd, by simp [atomics], atomNew_maxn wd old data⟩
  · exact ⟨.atom .fmin, atomNew .fmin wd, by simp [atomics], rfl⟩
  · exact ⟨.atom .fmax, atomNew .fmax wd, by simp [atomics], rfl⟩
  · exact ⟨.atom .swap, atomNew .swap wd, by simp [atomics], rfl⟩
  · exact ⟨.atom .esum, atomNew .esum wd, by simp [atomics], by rw [hv, hfl]; rfl⟩
  · exact ⟨.cas, fun old b => (casNew wd old b, 0), by simp [atomics], congrArg (·, 0) (casNew_eq wd old data)⟩

/-- Settles O33: a returning atomic writes what its operation gives for the value at its place, and delivers that value. -/
theorem atomicsReturnTheOldValue : Obligations.AtomicsReturnTheOldValue := by
  unfold Obligations.AtomicsReturnTheOldValue
  intro sp wd g sl j s f r k w old x b i new fl hi h hc hd ho hf hl v
  obtain ⟨op, op', hmem, hnew⟩ := mem_newValues (show (i, new, fl) ∈ newValues sp wd g (.slot sl j) old f.b'.data from hi)
  have hbody := Run.atomicNow_key (r := Run.start s) (new := fun old => op' old f.b'.data) hc hd ho hf hl
  rw [show op' (r.st.num k wd.bytes) f.b'.data = (new, fl) from hnew, oldToken_eq] at hbody
  rw [exec_atomic hmem, fireWith_acts h, Run.atomicBody, if_neg (by simp), hbody]
  rfl

end Sys2Proof.Machine

/-! The frames of loads and returning atomics in a local store (R107, R109, R112, R120). -/

namespace Sys2Proof.Machine

open Sys2Proof

variable {s0 : State}

/-! ### Frames -/

theorem SameBut.refl (s : State) (c : Nat) : SameBut s s c := ⟨rfl, fun _ _ => rfl, rfl⟩

theorem SameBut.trans {s t u : State} {c : Nat} (h : SameBut s t c) (k : SameBut t u c) : SameBut s u c := by
  obtain ⟨ht, hother, hown⟩ := h
  obtain ⟨ku, kother, kown⟩ := k
  refine ⟨?_, fun d hd => (kother d hd).trans (hother d hd), ?_⟩
  · rw [ku, ht]
  · rw [kown, hown]

theorem SameBut.of_counters {s t : State} (h : t = { s with dcb := t.dcb }) (c : Nat) : SameBut s t c := by
  rw [h]
  exact ⟨rfl, fun _ _ => rfl, rfl⟩

/-- What a node with effects of its own leaves is what its meaning leaves, but for the block runs of its context and the event counters. -/
theorem fireWith_leaves {ins : Instr} {body : {s0 : State} → Run s0 → Fire → Run s0 × NodeOut} {s t : State} (hr : Regular s = true) (h : fireWith ins body s = .next t) :
    SameBut s t s.site.c ∨ ∃ b, s.siteRun = some b ∧ SameBut (body (Run.start s) (fireOf s.site.c (s.ctx s.site.c) b s.site.idx (shape ins))).1.st t s.site.c := by
  unfold fireWith fireRun at h
  cases h
  dsimp only
  split
  · exact .inl (SameBut.refl s _)
  · rename_i b hb
    split
    · split
      · exact .inl (Run.finish_same (Run.start s) hr ..)
      · exact .inr ⟨b, hb, Run.finish_same _ (Run.regular _ hr) ..⟩
    · exact .inl (SameBut.refl s _)

/-- A node whose meaning changes nothing but the runs of its context and the event counters leaves everything else. -/
theorem fireWith_same {ins : Instr} {body : {s0 : State} → Run s0 → Fire → Run s0 × NodeOut} {s t : State} (hr : Regular s = true) (h : fireWith ins body s = .next t)
    (hbody : ∀ f, SameBut s (body (Run.start s) f).1.st f.c) : SameBut s t s.site.c := by
  obtain hidle | ⟨b, -, hlast⟩ := fireWith_leaves hr h
  · exact hidle
  · exact SameBut.trans (hbody _) hlast

/-! ### Loads -/

theorem Run.readLines_st (r : Run s0) (k n : Nat) : (r.readLines k n).st = { r.st with dcb := (r.readLines k n).st.dcb } := by
  have h : ({ (r.readLines k n).st with dcb := [] } : State) = { r.st with dcb := [] } := by
    unfold Run.readLines
    dsimp only
    split
    · rfl
    · exact Run.foldl_keeps (fun s => ({ s with dcb := [] } : State)) _ (fun r i => congrArg (fun s => ({ s with dcb := [] } : State)) (Run.countDie_st ..)) _ r
  exact congrArg (fun s => ({ s with dcb := (r.readLines k n).st.dcb } : State)) h

/-- A local store, or the pool: no translation, no other device. -/
def Space.isLocal (sp : Space) : Prop := sp = .core ∨ sp = .clus ∨ sp = .die ∨ sp = .param

/-- A place in a local store is a key or stands in the pool, and is found without any effect. -/
theorem Run.locate_local {sp : Space} (hp : Space.isLocal sp) (r : Run s0) (a : Agent) (ea : Nat) (need : Need) :
    (∃ k, r.locate a sp ea need = (r, .key k)) ∨ ∃ off, r.locate a sp ea need = (r, .pool off) := by
  obtain rfl | rfl | rfl | rfl := hp
  · exact .inl ⟨_, rfl⟩
  · exact .inl ⟨_, rfl⟩
  · exact .inl ⟨_, rfl⟩
  · exact .inr ⟨_, rfl⟩

/-- A read of a local store changes the event counters only, and does not park. -/
theorem Run.readPiece_local {sp : Space} (hp : Space.isLocal sp) (r : Run s0) (a : Agent) (ea n : Nat) (need : Need) (ov : Overlay) :
    (r.readPiece a sp ea n need ov).1.st = { r.st with dcb := (r.readPiece a sp ea n need ov).1.st.dcb } ∧ ∀ v, (r.readPiece a sp ea n need ov).2 ≠ .park v := by
  unfold Run.readPiece
  obtain ⟨k, hl⟩ | ⟨off, hl⟩ := Run.locate_local hp r a ea need
  · simp only [hl]
    split
    · exact ⟨rfl, fun _ => by simp⟩
    · exact ⟨Run.readLines_st .., fun _ => by simp⟩
  · simp only [hl]
    exact ⟨trivial, fun _ => by simp⟩

section
variable {r : Run s0} {f : Fire} {sp : Space} {wd : MWidth} {ea : Nat} {conv : List Byte → Token} (hp : Space.isLocal sp)
include hp

theorem Run.plainLoad_local : SameBut r.st (r.plainLoad f sp wd ea conv).1.st f.c := by
  obtain ⟨hread, hpark⟩ := Run.readPiece_local hp r (r.st.agent f.c) ea wd.bytes .r (r.st.seenBy f.c f.b f.idx)
  unfold Run.plainLoad
  dsimp only
  split
  · exact SameBut.refl ..
  · exact SameBut.refl ..
  · split
    · exact SameBut.refl ..
    · split
      · exact SameBut.of_counters hread _
      · rename_i v hv
        exact absurd hv (hpark v)
      · exact SameBut.of_counters hread _

theorem Run.pieceLoad_local (h0 : Regular s0 = true) : SameBut r.st (r.pieceLoad f sp wd ea conv).1.st f.c := by
  unfold Run.pieceLoad
  dsimp only
  split
  · exact SameBut.refl ..
  · rename_i p hpiece
    obtain ⟨hread, hpark⟩ := Run.readPiece_local hp r (r.st.agent f.c) p.1 p.2 .r (r.st.seenBy f.c f.b f.idx)
    have same := SameBut.of_counters hread f.c
    split
    · exact SameBut.refl ..
    · exact SameBut.refl ..
    · split
      · exact SameBut.refl ..
      · split
        · split
          · exact same
          · exact SameBut.trans same (Run.modRun_same (Run.regular _ h0) ..)
        · rename_i v hv
          exact absurd hv (hpark v)
        · exact same

end

/-- What stays as it is when only block runs and event counters change. -/
theorem SameBut.frame {s t : State} {c : Nat} (h : SameBut s t c) : (∀ k, t.byte k = s.byte k) ∧ (∀ k, t.isFull k = s.isFull k) ∧ (∀ d, d ≠ c → t.ctx d = s.ctx d)
    ∧ t.ctx c = { s.ctx c with runs := (t.ctx c).runs } ∧ t.cores = s.cores := by
  obtain ⟨ht, hother, hown⟩ := h
  refine ⟨fun k => ?_, fun k => ?_, hother, hown, ?_⟩
  all_goals rw [ht]
  all_goals rfl

/-- A load of a local store changes nothing but the runs of its context and the event counters. -/
theorem exec_localLoad_same {sp : Space} (hp : Space.isLocal sp) {wd : MWidth} {g : Gate} {off : BitVec 7} {t0 : Target} {i : Instr} {s t : State} (hr : Regular s = true)
    (hi : i ∈ [Instr.ld sp wd g off t0, .lds sp wd 0 g off t0, .ldRaw sp wd 0 g off t0, .wcvLoad sp wd g off t0]) (h : exec i s = .next t) :
    SameBut s t s.site.c := by
  simp only [List.mem_cons, List.not_mem_nil, or_false] at hi
  obtain rfl | rfl | rfl | rfl := hi
  · rw [exec_ld, execLd] at h
    exact fireWith_same hr h fun f => Run.plainLoad_local (r := Run.start s) hp
  · rw [exec_lds, execLds] at h
    exact fireWith_same hr h fun f => Run.plainLoad_local (r := Run.start s) hp
  · rw [exec_ldRaw, execLdRaw] at h
    exact fireWith_same hr h fun f => Run.plainLoad_local (r := Run.start s) hp
  · rw [exec_wcvLoad, execWcvLoad] at h
    exact fireWith_same hr h fun f => Run.pieceLoad_local (r := Run.start s) hp hr

/-! ### Returning atomics -/

/-- The states differ, of what the frame of an atomic speaks of, in the `n` bytes at `k` at most. -/
def WritesWithin (k n : Nat) (s t : State) : Prop :=
  (∀ a, a < k ∨ k + n ≤ a → t.byte a = s.byte a) ∧ t.full = s.full ∧ t.ctxs = s.ctxs ∧ t.cores = s.cores

theorem WritesWithin.refl (k n : Nat) (s : State) : WritesWithin k n s s := ⟨fun _ _ => rfl, rfl, rfl, rfl⟩

/-- A write at a key, once its writer has left the home unit. -/
theorem Run.write_within (h0 : Regular s0 = true) (r : Run s0) (w : Waiter) (k : Nat) (bs : List Byte) : WritesWithin k bs.length r.st ((r.leaveHome w).write k bs).st := by
  refine ⟨fun a ha => ?_, ?_, ?_, ?_⟩
  · rw [Run.write_byte (Run.regular _ h0), if_neg (by omega), Run.leaveHome_st]
    rfl
  all_goals rw [Run.write_st, Run.leaveHome_st]

/-- A returning atomic in a core's store writes at its own location at most. -/
theorem Run.atomicNow_core (h0 : Regular s0 = true) (r : Run s0) (f : Fire) (wd : MWidth) (new : Nat → Nat × FlagSet) :
    WritesWithin (coreKey (r.st.agent f.c).core f.a.word.toNat) wd.bytes r.st (r.atomicNow f .core wd new).1.st := by
  have hl : r.locate (r.st.agent f.c) .core f.a.word.toNat .rw = (r, .key (coreKey (r.st.agent f.c).core f.a.word.toNat)) := rfl
  unfold Run.atomicNow
  dsimp only
  split
  · exact WritesWithin.refl ..
  · split
    · exact WritesWithin.refl ..
    · split
      · exact WritesWithin.refl ..
      · simp only [hl, reduceCtorEq, false_and, if_false]
        have hwrite := Run.write_within h0 r (.node f.c f.b.iid f.idx) (coreKey (r.st.agent f.c).core f.a.word.toNat)
          (leBytes wd.bytes (new ((r.leaveHome (.node f.c f.b.iid f.idx)).st.num (coreKey (r.st.agent f.c).core f.a.word.toNat) wd.bytes)).1)
        rwa [leBytes_length] at hwrite

/-- An atomic in a core's store, posted or returning, writes at its own location at most, but for the runs of its context and the event counters. -/
theorem exec_coreAtomic_frame {wd : MWidth} {g : Gate} {t0 : Target} {i : Instr} {op : MemOp} {new : Nat → Payload → Nat × FlagSet} {s t : State} {b : BlockRun}
    (hi : (i, op, new) ∈ atomics .core wd g t0) (hr : Regular s = true) (hb : s.siteRun = some b) (h : exec i s = .next t) :
    ∃ u, WritesWithin (coreKey (s.site.c / 4) (fireOf s.site.c (s.ctx s.site.c) b s.site.idx (shape i)).a.word.toNat) wd.bytes s u ∧ SameBut u t s.site.c := by
  rw [exec_atomic hi] at h
  obtain hidle | ⟨b', hb', hlast⟩ := fireWith_leaves hr h
  · exact ⟨s, WritesWithin.refl .., hidle⟩
  · obtain rfl : b = b' := Option.some.inj (hb.symm.trans hb')
    refine ⟨_, ?_, hlast⟩
    generalize hf : fireOf s.site.c (s.ctx s.site.c) b s.site.idx (shape i) = f
    have hcore : ((Run.start s).st.agent f.c).core = s.site.c / 4 := by
      rw [← hf]
      rfl
    unfold Run.atomicBody
    split
    · exact WritesWithin.refl ..
    · rw [← hcore]
      exact Run.atomicNow_core hr (Run.start s) f wd _

/-- Settles O30: a load of a local store leaves all but block runs and counters; an atomic writes its own location besides. -/
theorem memoryFrames : Obligations.MemoryFrames := by
  unfold Obligations.MemoryFrames
  refine ⟨fun sp wd g off t0 s t hr hp i hi h => SameBut.frame (exec_localLoad_same hp hr hi h), fun wd g t0 s t b hr hb i hi h => ?_⟩
  obtain ⟨⟨i', op, new⟩, hmem, hi'⟩ := List.mem_map.mp (show i ∈ (atomics .core wd g t0).map (·.1) from hi)
  obtain rfl : i' = i := hi'
  obtain ⟨u, ⟨hbytes, hfull, hctxs, hcores⟩, hlast⟩ := exec_coreAtomic_frame hmem hr hb h
  obtain ⟨tbytes, tfull, tother, town, tcores⟩ := SameBut.frame hlast
  have hctx : ∀ c, u.ctx c = s.ctx c := fun c => congrArg (fun m => SMap.get m Ctx.reset c) hctxs
  refine ⟨fun a ha => (tbytes a).trans (hbytes a ha), fun a => (tfull a).trans (congrArg (fun m => SMap.get m false a) hfull),
    fun c hc => (tother c hc).trans (hctx c), ?_, tcores.trans hcores⟩
  rw [town, hctx]

end Sys2Proof.Machine

/-! Committed writes in a core's store (R108, R115, R117): stores, fills and `empty`. -/

namespace Sys2Proof.Machine

open Sys2Proof

variable {s0 : State}

/-! ### Bytes and granules -/

/-- Byte `j` of a little-endian number. -/
theorem leBytes_getD (n x : Nat) {j : Nat} (h : j < n) : (leBytes n x).getD j 0 = BitVec.ofNat 8 (x / 256 ^ j) := by
  induction n generalizing x j with
  | zero => omega
  | succ n ih =>
    cases j with
    | zero => rw [Nat.pow_zero, Nat.div_one]; rfl
    | succ j =>
      rw [leBytes, List.getD_cons_succ, ih _ (by omega), Nat.div_div_eq_div_mul, Nat.pow_succ']

/-- The bytes of a payload are its bits, eight by eight. -/
theorem payloadByte_eq (data : Payload) (n : Nat) {j : Nat} (h : j < n) : (leBytes n data.toNat).getD j 0 = data.extractLsb' (8 * j) 8 := by
  rw [leBytes_getD n _ h, pow256_eq]
  apply BitVec.eq_of_toNat_eq
  rw [BitVec.toNat_ofNat, BitVec.extractLsb'_toNat, Nat.shiftRight_eq_div_pow]

theorem Run.mark_st (r : Run s0) (gs : List Nat) (b : Bool) : (r.mark gs b).st = { r.st with full := (r.mark gs b).st.full } := by
  have h : ({ (r.mark gs b).st with full := [] } : State) = { r.st with full := [] } := by
    unfold Run.mark
    exact Run.foldl_keeps (fun s => ({ s with full := [] } : State)) _ (fun _ _ => by rfl) gs r
  exact congrArg (fun s => ({ s with full := (r.mark gs b).st.full } : State)) h

/-- A granule after a list of granules has been marked. -/
theorem Run.mark_isFull (h0 : Regular s0 = true) (r : Run s0) (gs : List Nat) (b : Bool) (n : Nat) :
    (r.mark gs b).st.isFull n = if n ∈ gs then b else r.st.isFull n := by
  induction gs generalizing r with
  | nil => rfl
  | cons g gs ih =>
    obtain ⟨-, hfull, -⟩ := (regular_iff _).mp (Run.regular r h0)
    have hput : (r.put (.full g b)).st.isFull n = if n = g then b else r.st.isFull n := SMap.get_set false hfull g n b
    rw [show r.mark (g :: gs) b = (r.put (.full g b)).mark gs b from rfl, ih, hput]
    by_cases hg : n = g <;> by_cases hgs : n ∈ gs <;> simp [hg, hgs]

theorem Run.untold_st (r : Run s0) (gs : List Nat) : (r.untold gs).st = { r.st with told := (r.untold gs).st.told } := by
  have h : ({ (r.untold gs).st with told := [] } : State) = { r.st with told := [] } := by
    refine Run.foldl_keeps (fun s => ({ s with told := [] } : State)) _ (fun r g => ?_) gs r
    split
    · rfl
    · rfl
  exact congrArg (fun s => ({ s with told := (r.untold gs).st.told } : State)) h

/-- With no readers that wait on its granules, a fill has none to serve. -/
theorem Run.serve_none (r : Run s0) {gs : List Nat} (h : ∀ g ∈ gs, r.st.waiting g = []) : r.serve gs = r := by
  induction gs with
  | nil => rfl
  | cons g gs ih =>
    rw [show r.serve (g :: gs) = ((r.st.waiting g).foldl Run.serveOne r).serve gs from rfl, h g (List.mem_cons_self ..)]
    exact ih fun x hx => h x (List.mem_cons_of_mem _ hx)

theorem State.waiting_congr {s t : State} (h : t.readers = s.readers) (g : Nat) : t.waiting g = s.waiting g := by
  unfold State.waiting
  rw [h]

/-- A fill whose granules have no readers writes its bytes and marks the granules full. -/
theorem Run.fillAt_eq (r : Run s0) (k : Nat) (bs : List Byte) (h : ∀ g ∈ granules k bs.length, r.st.waiting g = []) :
    r.fillAt k bs = ((r.write k bs).untold (granules k bs.length)).mark (granules k bs.length) true := by
  unfold Run.fillAt
  refine Run.serve_none _ fun g hg => ?_
  rw [State.waiting_congr (s := r.st), h g hg]
  rw [Run.mark_st, Run.untold_st, Run.write_st]

/-! ### One access in a core's store -/

/-- No planed region stands in a core's store. -/
theorem regionAt_core (s : State) (a : Agent) (ea n : Nat) : regionAt s a .core ea n = none := by
  unfold regionAt
  rw [List.findSome?_eq_none_iff]
  intro l _
  split
  · rw [List.find?_eq_none]
    intro g _
    simp
  · rfl

/-- A write in a core's store is no planed store and touches no line of main. -/
theorem Run.deposit_core (r : Run s0) (a : Agent) (ea k : Nat) (bs : List Byte) (i : Issuer) : r.deposit a .core ea k bs i = r.write k bs := by
  unfold Run.deposit
  simp only [show homeSpace r.st .core ea = (.core, ea) from rfl, regionAt_core]
  rfl

section
variable {r : Run s0} {a : Agent} {wd : MWidth} {ea : Word64} {data : Payload} {i : Issuer}

theorem payloadBytes_isEmpty (wd : MWidth) (x : Nat) : (leBytes wd.bytes x).isEmpty = false := by
  cases wd <;> rfl

/-- An aligned access in a core's store is performed at its place. -/
theorem Run.performAccess_core (r : Run s0) (a : Agent) {op : MemOp} (hop : op ≠ .wcv) (wd : MWidth) (ea : Word64) (data : Payload) (i : Issuer) :
    r.performAccess a ⟨op, .core, wd, ea, data⟩ false i
      = r.performAt a ⟨op, .core, wd, ea, data⟩ ea.toNat (leBytes wd.bytes data.toNat) (coreKey a.core ea.toNat) i := by
  have hbytes : ((leBytes wd.bytes data.toNat).drop (ea.toNat - ea.toNat)).take wd.bytes = leBytes wd.bytes data.toNat := by
    rw [Nat.sub_self, List.drop_zero, List.take_of_length_le (by rw [leBytes_length])]
  have hpiece : ∀ p, r.performPiece a ⟨op, .core, wd, ea, data⟩ ea.toNat p false i = r.performAt a ⟨op, .core, wd, ea, data⟩ ea.toNat p (coreKey a.core ea.toNat) i :=
    fun _ => rfl
  unfold Run.performAccess
  simp only [if_neg hop, Run.performPieces, hbytes, hpiece]
  split
  · rename_i hdone
    exact Prod.ext rfl hdone.symm
  · rfl

/-- The granules that an access in a core's store touches. -/
theorem granulesOf_core (wd : MWidth) (x k : Nat) :
    (if Space.core.granular then granules k (if (leBytes wd.bytes x).isEmpty then wd.bytes else (leBytes wd.bytes x).length) else []) = granules k wd.bytes := by
  simp only [payloadBytes_isEmpty, leBytes_length]
  rfl

theorem any_waiting_iff {s : State} {gs : List Nat} : gs.any (fun g => !(s.waiting g).isEmpty) = true ↔ ∃ g ∈ gs, s.waiting g ≠ [] := by
  simp [List.any_eq_true]

theorem any_waiting_eq_false {s : State} {gs : List Nat} (h : ∀ g ∈ gs, s.waiting g = []) : gs.any (fun g => !(s.waiting g).isEmpty) = false := by
  simp only [List.any_eq_false]
  intro g hg
  simp [h g hg]

theorem Run.performStore_core (h : ∀ g ∈ granules (coreKey a.core ea.toNat) wd.bytes, r.st.waiting g = []) :
    r.performAccess a ⟨.store, .core, wd, ea, data⟩ false i = (r.write (coreKey a.core ea.toNat) (leBytes wd.bytes data.toNat), .done) := by
  rw [Run.performAccess_core r a (by decide)]
  unfold Run.performAt
  simp only [granulesOf_core, any_waiting_eq_false h, Run.deposit_core, Bool.false_eq_true, if_false]

theorem Run.performStore_waited (h : ∃ g ∈ granules (coreKey a.core ea.toNat) wd.bytes, r.st.waiting g ≠ []) :
    r.performAccess a ⟨.store, .core, wd, ea, data⟩ false i = (r, .fault 0x0B 0x02 ea.toNat) := by
  rw [Run.performAccess_core r a (by decide)]
  unfold Run.performAt
  simp only [granulesOf_core, any_waiting_iff.mpr h, if_true]

theorem Run.performFill_core (h : ∀ g ∈ granules (coreKey a.core ea.toNat) wd.bytes, r.st.taken g = false) :
    r.performAccess a ⟨.fill, .core, wd, ea, data⟩ false i = (r.fillAt (coreKey a.core ea.toNat) (leBytes wd.bytes data.toNat), .done) := by
  have hfree : (granules (coreKey a.core ea.toNat) wd.bytes).any r.st.taken = false := List.any_eq_false.mpr fun g hg => by simp [h g hg]
  rw [Run.performAccess_core r a (by decide)]
  unfold Run.performAt
  simp only [granulesOf_core, hfree, Bool.false_eq_true, if_false]

theorem Run.performFill_full (h : ∃ g ∈ granules (coreKey a.core ea.toNat) wd.bytes, r.st.isFull g = true) :
    r.performAccess a ⟨.fill, .core, wd, ea, data⟩ false i = (r, .fault 0x0B 0x01 ea.toNat) := by
  obtain ⟨g, hg, hfull⟩ := h
  have htaken : (granules (coreKey a.core ea.toNat) wd.bytes).any r.st.taken = true := List.any_eq_true.mpr ⟨g, hg, by rw [State.taken, hfull, Bool.true_or]⟩
  rw [Run.performAccess_core r a (by decide)]
  unfold Run.performAt
  simp only [granulesOf_core, htaken, if_true]

theorem Run.performEmpty_core (h : ∀ g ∈ granules (coreKey a.core ea.toNat) wd.bytes, r.st.waiting g = []) :
    r.performAccess a ⟨.empty, .core, wd, ea, data⟩ false i = (r.mark (granules (coreKey a.core ea.toNat) wd.bytes) false, .done) := by
  rw [Run.performAccess_core r a (by decide)]
  unfold Run.performAt
  simp only [granulesOf_core, any_waiting_eq_false h, Bool.false_eq_true, if_false]

theorem Run.performEmpty_waited (h : ∃ g ∈ granules (coreKey a.core ea.toNat) wd.bytes, r.st.waiting g ≠ []) :
    r.performAccess a ⟨.empty, .core, wd, ea, data⟩ false i = (r, .fault 0x0B 0x02 ea.toNat) := by
  rw [Run.performAccess_core r a (by decide)]
  unfold Run.performAt
  simp only [granulesOf_core, any_waiting_iff.mpr h, if_true]

end

/-- The bytes after a payload's low bytes have been written at a key. -/
theorem Run.writePayload_byte (h0 : Regular s0 = true) (r : Run s0) (k n : Nat) (data : Payload) :
    (∀ j, j < n → (r.write k (leBytes n data.toNat)).st.byte (k + j) = data.extractLsb' (8 * j) 8)
      ∧ ∀ m, m < k ∨ k + n ≤ m → (r.write k (leBytes n data.toNat)).st.byte m = r.st.byte m := by
  refine ⟨fun j hj => ?_, fun m hm => ?_⟩
  · rw [Run.write_byte (Run.regular r h0), leBytes_length, if_pos (by omega), Nat.add_sub_cancel_left, payloadByte_eq _ _ hj]
  · rw [Run.write_byte (Run.regular r h0), leBytes_length, if_neg (by omega)]

/-- What a fill of granules without readers leaves: its bytes, its granules full, and all else as it was. -/
theorem Run.fillAt_place (h0 : Regular s0 = true) (r : Run s0) (k n : Nat) (data : Payload) (hw : ∀ g ∈ granules k n, r.st.waiting g = []) :
    (∀ j, j < n → (r.fillAt k (leBytes n data.toNat)).st.byte (k + j) = data.extractLsb' (8 * j) 8)
      ∧ (∀ m, m < k ∨ k + n ≤ m → (r.fillAt k (leBytes n data.toNat)).st.byte m = r.st.byte m)
      ∧ ∀ m, (r.fillAt k (leBytes n data.toNat)).st.isFull m = (decide (m ∈ granules k n) || r.st.isFull m) := by
  have heq := Run.fillAt_eq r k (leBytes n data.toNat) (by rwa [leBytes_length])
  rw [leBytes_length] at heq
  obtain ⟨hin, hout⟩ := Run.writePayload_byte h0 r k n data
  have hbyte : ∀ m, (r.fillAt k (leBytes n data.toNat)).st.byte m = (r.write k (leBytes n data.toNat)).st.byte m := fun m => by
    rw [heq, Run.mark_st, Run.untold_st]
    rfl
  refine ⟨fun j hj => (hbyte _).trans (hin j hj), fun m hm => (hbyte m).trans (hout m hm), fun m => ?_⟩
  have hfull : ((r.write k (leBytes n data.toNat)).untold (granules k n)).st.isFull m = r.st.isFull m := by
    rw [Run.untold_st, Run.write_st]
    rfl
  rw [heq, Run.mark_isFull h0, hfull]
  by_cases hm : m ∈ granules k n <;> simp [hm]

/-- What `empty` leaves: its granules empty, and all else as it was. -/
theorem Run.emptied_place (h0 : Regular s0 = true) (r : Run s0) (gs : List Nat) :
    (r.mark gs false).st.mem = r.st.mem ∧ ∀ m, (r.mark gs false).st.isFull m = (!decide (m ∈ gs) && r.st.isFull m) := by
  refine ⟨by rw [Run.mark_st], fun m => ?_⟩
  rw [Run.mark_isFull h0]
  by_cases hm : m ∈ gs <;> simp [hm]

/-- Settles O34: an access in a core's store is performed at its one place, where the state of its granules decides between its effect and its fault. -/
theorem writesAtTheirPlace : Obligations.WritesAtTheirPlace := by
  unfold Obligations.WritesAtTheirPlace
  intro s a wd ea data i hs k gs acc
  refine ⟨fun hw => ?_, fun hfree => ?_, fun hw => ?_, fun hfull => Run.performFill_full hfull, fun hw => ⟨Run.performStore_waited hw, Run.performEmpty_waited hw⟩⟩
  · obtain ⟨hin, hout⟩ := Run.writePayload_byte hs (Run.start s) k wd.bytes data
    exact ⟨_, Run.performStore_core hw, hin, hout, by rw [Run.write_st, Run.start_st]⟩
  · exact ⟨_, Run.performFill_core fun g hg => (hfree g hg).1, Run.fillAt_place hs (Run.start s) k wd.bytes data fun g hg => (hfree g hg).2⟩
  · exact ⟨_, Run.performEmpty_core hw, Run.emptied_place hs (Run.start s) gs⟩

end Sys2Proof.Machine

/-! Waiting loads (R107 to R109, R115 to R117). -/

namespace Sys2Proof.Machine

open Sys2Proof

variable {s0 : State}

/-! ### Bytes in a token -/

/-- The bytes that a number of them was made of. -/
theorem leBytes_leNat (bs : List Byte) : leBytes bs.length (leNat bs) = bs := by
  induction bs with
  | nil => rfl
  | cons b bs ih =>
    have hlow : (b.toNat + 256 * leNat bs) % 256 = b.toNat := by have := b.isLt; omega
    have hhigh : (b.toNat + 256 * leNat bs) / 256 = leNat bs := by have := b.isLt; omega
    rw [leNat, List.length_cons, leBytes, hhigh, ih]
    congr 1
    exact BitVec.eq_of_toNat_eq (by rw [BitVec.toNat_ofNat]; exact hlow)

/-- A token of loaded bytes, zero-extended, holds those bytes. -/
theorem loaded_bytes {wd : MWidth} {bs : List Byte} (h : bs.length = wd.bytes) (s : Bool) : leBytes wd.bytes (loaded wd false s bs).data.toNat = bs := by
  have hlt : leNat bs < 2 ^ (8 * wd.bytes) := by
    have := leNat_lt bs
    rwa [h, pow256_eq] at this
  have hdata : (loaded wd false s bs).data.toNat = leNat bs := by
    rw [loaded_zero]
    cases wd <;> simp only [reduceCtorEq, or_self, or_false, or_true, if_true, if_false, BitVec.toNat_setWidth, BitVec.toNat_ofNat, MWidth.bytes] at hlt ⊢ <;> omega
  rw [hdata, ← h, leBytes_leNat]

theorem loaded_e (wd : MWidth) (sg s : Bool) (bs : List Byte) : (loaded wd sg s bs).e = false := by
  cases wd <;> rfl

/-! ### What a waiting load delivers -/

/-- The result of a qualified load in terms of that of the waiting load: a value is extended as the load says, and an error stays. -/
def again (wd : MWidth) (conv : List Byte → Token) (o : NodeOut) : NodeOut :=
  let each := fun (t : Option Token) => t.map (fun t => if t.e then t else conv (leBytes wd.bytes t.data.toNat))
  { o with t0 := each o.t0, t1 := each o.t1 }

theorem again_later (wd : MWidth) (conv : List Byte → Token) : again wd conv .later = .later := rfl

theorem again_error (wd : MWidth) (conv : List Byte → Token) (c q : Nat) : again wd conv (loadError wd c q) = loadError wd c q := rfl

theorem again_value {wd : MWidth} {bs : List Byte} (h : bs.length = wd.bytes) (conv : List Byte → Token) (l : List Nat) :
    again wd conv { NodeOut.of (loaded wd false true bs) with took := l } = { NodeOut.of (conv bs) with took := l } := by
  unfold again NodeOut.of
  simp only [Option.map_some, loaded_e, Bool.false_eq_true, if_false, loaded_bytes h]

/-- The waiting loads, each with whether it takes, and with what it makes of the bytes (R112, R115). -/
def waitingLoadForms (sp : Space) (wd : MWidth) (g : Gate) (off : BitVec 7) (t0 : Target) : List (Instr × Bool × Bool × Bool) :=
  [(Instr.ldWait sp wd g off t0, false, false, true), (.ldTake sp wd g off t0, true, false, true), (.lds sp wd 1 g off t0, false, true, true),
    (.lds sp wd 2 g off t0, true, true, true), (.ldRaw sp wd 1 g off t0, false, false, false), (.ldRaw sp wd 2 g off t0, true, false, false)]

/-- A qualified load that waits is a waiting load whose value is extended as the load says. -/
theorem Run.qualifiedLoad_waits (r : Run s0) (f : Fire) (sp : Space) (wd : MWidth) {fe : BitVec 2} (hfe : fe ≠ 0) (ea : Nat) (conv : List Byte → Token) :
    r.qualifiedLoad f sp wd fe ea conv = ((r.waitingLoad f sp wd ea (fe == 2)).1, again wd conv (r.waitingLoad f sp wd ea (fe == 2)).2) := by
  rw [Run.qualifiedLoad, if_neg hfe]
  rfl

section
variable {sp : Space} {wd : MWidth} {g : Gate} {off : BitVec 7} {t0 : Target} {i : Instr} {tk sg s' : Bool} {s : State} {f : Fire} {r : Run s}
  (hi : (i, tk, sg, s') ∈ waitingLoadForms sp wd g off t0) (h : Acts s i f)
include hi h

/-- A waiting load is the firing of a node whose meaning is `Run.waitingLoad`, its value extended as the load says. -/
theorem exec_waitingLoad {o : NodeOut} (hw : (Run.start s).waitingLoad f sp wd (effective f wd off).toNat tk = (r, o)) :
    exec i s = .next (r.finish f.c f.b.iid f.idx (shape i) (again wd (loaded wd sg s') o)).st
      ∨ (sg = false ∧ s' = true ∧ exec i s = .next (r.finish f.c f.b.iid f.idx (shape i) o).st) := by
  simp only [waitingLoadForms, List.mem_cons, List.not_mem_nil, or_false, Prod.mk.injEq] at hi
  have qualified : ∀ {ins : Instr} {fe : BitVec 2}, fe ≠ 0 → (fe == 2) = tk →
      exec ins s = .next (((Run.start s).qualifiedLoad f sp wd fe (effective f wd off).toNat (loaded wd sg s')).1.finish f.c f.b.iid f.idx (shape ins)
        ((Run.start s).qualifiedLoad f sp wd fe (effective f wd off).toNat (loaded wd sg s')).2).st →
      exec ins s = .next (r.finish f.c f.b.iid f.idx (shape ins) (again wd (loaded wd sg s') o)).st := fun hfe htk hx => by
    rw [hx, Run.qualifiedLoad_waits _ _ _ _ hfe, htk, hw]
  obtain ⟨rfl, rfl, rfl, rfl⟩ | ⟨rfl, rfl, rfl, rfl⟩ | ⟨rfl, rfl, rfl, rfl⟩ | ⟨rfl, rfl, rfl, rfl⟩ | ⟨rfl, rfl, rfl, rfl⟩ | ⟨rfl, rfl, rfl, rfl⟩ := hi
  · exact .inr ⟨rfl, rfl, by rw [exec_ldWait, execLdWait, fireWith_acts h, hw]⟩
  · exact .inr ⟨rfl, rfl, by rw [exec_ldTake, execLdTake, fireWith_acts h, hw]⟩
  · exact .inl (qualified (fe := 1) (by decide) rfl (by rw [exec_lds, execLds, fireWith_acts h]))
  · exact .inl (qualified (fe := 2) (by decide) rfl (by rw [exec_lds, execLds, fireWith_acts h]))
  · exact .inl (qualified (fe := 1) (by decide) rfl (by rw [exec_ldRaw, execLdRaw, fireWith_acts h]))
  · exact .inl (qualified (fe := 2) (by decide) rfl (by rw [exec_ldRaw, execLdRaw, fireWith_acts h]))

/-- A waiting load that waits. -/
theorem exec_waitingLoad_later (hw : (Run.start s).waitingLoad f sp wd (effective f wd off).toNat tk = (r, .later)) : exec i s = .next r.st := by
  have hwait : r.finish f.c f.b.iid f.idx (shape i) .later = r := Run.finish_wait _ _ _ _ _ _ rfl
  obtain hx | ⟨-, -, hx⟩ := exec_waitingLoad hi h hw
  · rw [hx, again_later, hwait]
  · rw [hx, hwait]

/-- A waiting load that ends in an error. -/
theorem exec_waitingLoad_error {c q : Nat} (hw : (Run.start s).waitingLoad f sp wd (effective f wd off).toNat tk = (r, loadError wd c q)) :
    exec i s = .next (r.finish f.c f.b.iid f.idx (shape i) (loadError wd c q)).st := by
  obtain hx | ⟨-, -, hx⟩ := exec_waitingLoad hi h hw
  · rw [hx, again_error]
  · exact hx

/-- A waiting load that delivers bytes. -/
theorem exec_waitingLoad_value {bs : List Byte} {l : List Nat} (hb : bs.length = wd.bytes)
    (hw : (Run.start s).waitingLoad f sp wd (effective f wd off).toNat tk = (r, { NodeOut.of (loaded wd false true bs) with took := l })) :
    exec i s = .next (r.finish f.c f.b.iid f.idx (shape i) { NodeOut.of (loaded wd sg s' bs) with took := l }).st := by
  obtain hx | ⟨rfl, rfl, hx⟩ := exec_waitingLoad hi h hw
  · rw [hx, again_value hb]
  · exact hx

end

/-! ### The steps of a waiting load -/

section
variable {r : Run s0} {f : Fire} {sp : Space} {wd : MWidth} {ea : Nat} {tk : Bool}

section
variable {e : Reader} (hr : r.st.readerOf f = some e)
include hr

/-- The reader that no fill has answered waits on. -/
theorem Run.waitingLoad_waits (ha : e.answer = none) (hf : e.failed = false) : r.waitingLoad f sp wd ea tk = (r, .later) := by
  unfold Run.waitingLoad
  simp only [hr, ha, hf, Bool.false_eq_true, if_false]

/-- The reader that was overdue (R117). -/
theorem Run.waitingLoad_overdue (ha : e.answer = none) (hf : e.failed = true) : r.waitingLoad f sp wd ea tk = (r.dropReader f, loadError wd 0x11 0x04) := by
  unfold Run.waitingLoad
  simp only [hr, ha, hf, if_true]

theorem Run.waitingLoad_answered {bs : List Byte} (ha : e.answer = some bs) (hb : e.bad = (0, 0)) : r.waitingLoad f sp wd ea tk
    = (r.dropReader f, { NodeOut.of (loaded wd false true (throughOverlay (r.st.seenBy f.c f.b f.idx) e.key bs)) with took := r.st.toldAt e.key e.n }) := by
  unfold Run.waitingLoad
  simp only [hr, ha, hb, ne_eq, not_true_eq_false, if_false]

/-- The reader whose fill left poison there. -/
theorem Run.waitingLoad_poisoned {bs : List Byte} (ha : e.answer = some bs) (hb : e.bad ≠ (0, 0)) :
    r.waitingLoad f sp wd ea tk = (r.dropReader f, loadError wd e.bad.1 e.bad.2) := by
  unfold Run.waitingLoad
  simp only [hr, ha, if_pos hb]

end

section
variable {r' : Run s0} {k : Nat} (hr : r.st.readerOf f = none) (hc : fireCheck r.st (r.st.agent f.c) sp ea wd.bytes true .waiting = none)
  (ho : r.st.ownBars (r.st.ctx f.c) f.b sp ea wd.bytes true = false) (hl : r.locate (r.st.agent f.c) sp ea .r = (r', .key k))
include hr hc ho hl

/-- All granules are full, or become full by a fill on which the load depends. -/
theorem Run.waitingLoad_full (hfull : ∀ n ∈ granules k wd.bytes, r'.st.isFull n = true ∨ n ∈ r'.st.filledBefore f sp) (hp : r'.st.poisonAt k wd.bytes = none) :
    r.waitingLoad f sp wd ea tk = (if tk then r'.mark (granules k wd.bytes) false else r',
      { NodeOut.of (loaded wd false true (seenBytes r'.st (r.st.seenBy f.c f.b f.idx) k wd.bytes)) with took := r'.st.toldAt k wd.bytes }) := by
  have hnone : r'.st.firstEmpty ((granules k wd.bytes).filter (fun g => !(r'.st.filledBefore f sp).contains g)) = none := by
    rw [State.firstEmpty, List.find?_filter, List.find?_eq_none]
    intro n hn
    obtain hf | hf := hfull n hn
    · simp [hf]
    · simp [hf]
  unfold Run.waitingLoad
  simp only [hr, hc, ho, Bool.false_eq_true, if_false, hl, hnone, hp]

/-- A granule is empty: the load enqueues on the lowest one. -/
theorem Run.waitingLoad_enqueues {n : Nat} (hn : (granules k wd.bytes).find? (fun n => !r'.st.isFull n && !(r'.st.filledBefore f sp).contains n) = some n)
    (hroom : (r'.st.readers.filter (fun e => storeOf e.key == storeOf k && e.answer.isNone && !e.failed)).length < poolSize k) :
    r.waitingLoad f sp wd ea tk
      = (r'.put (.readers (r'.st.readers ++ [⟨n, k, wd.bytes, f.c, f.b.iid, f.idx, tk, r'.st.clk, false, none, false, (0, 0)⟩])), .later) := by
  have hsome : r'.st.firstEmpty ((granules k wd.bytes).filter (fun g => !(r'.st.filledBefore f sp).contains g)) = some n := by
    rw [State.firstEmpty, List.find?_filter, ← hn]
    congr 1
    funext m
    rw [Bool.decide_and, Bool.decide_eq_true, Bool.decide_eq_true, Bool.and_comm]
  unfold Run.waitingLoad
  simp only [hr, hc, ho, Bool.false_eq_true, if_false, hl, hsome, if_neg (Nat.not_le.mpr hroom)]

end

end

theorem seenBytes_length (s : State) (ov : Overlay) (k n : Nat) : (seenBytes s ov k n).length = n := by
  rw [seenBytes, List.length_map, List.length_range]

theorem throughOverlay_length (ov : Overlay) (k : Nat) (bs : List Byte) : (throughOverlay ov k bs).length = bs.length := by
  rw [throughOverlay, List.length_mapIdx]

/-- Settles O31: a waiting load goes by its reader, if it has one, and else by its checks and its granules. -/
theorem waitingLoads : Obligations.WaitingLoads := by
  unfold Obligations.WaitingLoads
  intro sp wd g off t0 s f r k ea ov error i tk sg s' hi h
  have herror : ∀ c q, loadError wd c q = { t0 := some (error c q), t1 := some (error c q) } := fun c q => loadError_eq wd c q
  have hi' : (i, tk, sg, s') ∈ waitingLoadForms sp wd g off t0 := hi
  refine ⟨fun hr hc ho hl => ⟨fun hfull hp => ?_, fun n hn hroom => ?_⟩, fun e hr ha hf => ?_, fun e hr ha hf => ?_, fun e bs hr ha hb => ⟨fun hbad => ?_, fun hbad => ?_⟩⟩
  · have hw := Run.waitingLoad_full (tk := tk) (r := Run.start s) hr hc ho hl hfull hp
    exact exec_waitingLoad_value hi' h (seenBytes_length ..) hw
  · have hw := Run.waitingLoad_enqueues (tk := tk) (r := Run.start s) hr hc ho hl hn hroom
    exact exec_waitingLoad_later hi' h hw
  · have hw := Run.waitingLoad_waits (sp := sp) (wd := wd) (ea := ea) (tk := tk) (r := Run.start s) hr ha hf
    exact exec_waitingLoad_later hi' h hw
  · have hw := Run.waitingLoad_overdue (sp := sp) (wd := wd) (ea := ea) (tk := tk) (r := Run.start s) hr ha hf
    rw [← herror]
    exact exec_waitingLoad_error hi' h hw
  · have hw := Run.waitingLoad_answered (sp := sp) (wd := wd) (ea := ea) (tk := tk) (r := Run.start s) hr ha hbad
    exact exec_waitingLoad_value hi' h ((throughOverlay_length ..).trans hb) hw
  · have hw := Run.waitingLoad_poisoned (sp := sp) (wd := wd) (ea := ea) (tk := tk) (r := Run.start s) hr ha hbad
    rw [← herror]
    exact exec_waitingLoad_error hi' h hw

end Sys2Proof.Machine

/-! `red`, `step`, `barr`, `bwait` and the fences (R126, R129, R132, R133, R135). -/

namespace Sys2Proof.Machine

open Sys2Proof

/-! ### Reductions -/

/-- The nodes that send to a reduction tree, each with whether its packets are exact sums. -/
def redForms (g : Gate) (n : BitVec 6) : List (Instr × Bool) := [(.redF32 g n, false), (.redXs g n, true)]

/-- The firing of a `red`: its checks, then the packet. -/
def redOf (xs : Bool) (n : BitVec 6) (s : State) (f : Fire) : NodeOut :=
  match s.treeOf (s.ctx f.c) n.toNat with
  | none => f.fault 0x08 0x00
  | some t =>
    if (f.a.kind == .handle && !redHandleOk f.a.data) || t.xs != xs || redLength f.a != t.len then f.fault 0x08 0x00
    else { effs := [.red xs n f.a.data f.a.kind f.a.s], outs := 1 }

theorem exec_red {g : Gate} {n : BitVec 6} {i : Instr} {xs : Bool} {s : State} {f : Fire} (hi : (i, xs) ∈ redForms g n) (h : Acts s i f) :
    exec i s = .next (fired s i f (redOf xs n s f)) := by
  have node : ∀ ins, Acts s ins f → redNode ins xs n s = .next (fired s ins f (redOf xs n s f)) := fun ins h => fireNode_acts h
  simp only [redForms, List.mem_cons, List.not_mem_nil, or_false, Prod.mk.injEq] at hi
  obtain ⟨rfl, rfl⟩ | ⟨rfl, rfl⟩ := hi
  · rw [exec_redF32]; exact node _ h
  · rw [exec_redXs]; exact node _ h

section
variable {xs : Bool} {n : BitVec 6} {s : State} {f : Fire} {t : Tree} (ht : s.treeOf (s.ctx f.c) n.toNat = some t)
include ht

theorem redOf_vector (hx : t.xs = xs) (hl : t.len = 64) (hk : f.a.kind = .vector) : redOf xs n s f = { effs := [.red xs n f.a.data .vector f.a.s], outs := 1 } := by
  have hlen : redLength f.a = t.len := by rw [redLength, hk, hl]
  rw [redOf, ht]
  simp [hk, hx, hlen]

theorem redOf_handle (hx : t.xs = xs) (hk : f.a.kind = .handle) (hok : redHandleOk f.a.data = true)
    (hl : t.len = shRows (f.a.data.setWidth 256) * shCols (f.a.data.setWidth 256) * 4) :
    redOf xs n s f = { effs := [.red xs n f.a.data .handle f.a.s], outs := 1 } := by
  have hlen : redLength f.a = t.len := by rw [redLength, hk, hl]
  rw [redOf, ht]
  simp [hk, hx, hlen, hok]

theorem redOf_otherKind (hx : t.xs ≠ xs) : redOf xs n s f = f.fault 0x08 0x00 := by
  rw [redOf, ht]
  simp [hx]

end

theorem redOf_noTree {xs : Bool} {n : BitVec 6} {s : State} {f : Fire} (ht : s.treeOf (s.ctx f.c) n.toNat = none) : redOf xs n s f = f.fault 0x08 0x00 := by
  rw [redOf, ht]

/-! ### Barriers -/

section
variable {g : Gate} {n : BitVec 5} {s : State} {f : Fire} (h : Acts s (.barr g n) f)
include h

theorem exec_barr_arrives (ha : (s.barrier f.c n.toNat).armed = true) (hn : (s.ctx f.c).arrivedAt f.b n.toNat = false) (ho : ∀ e ∈ f.b.effs, e.eff ≠ .barr n) :
    exec (.barr g n) s = .next (fired s (.barr g n) f { effs := [.barr n], outs := 1 }) := by
  rw [exec_barr, execBarr, fireNode_acts h]
  simp only [ha, hn, Bool.not_true, Bool.false_or]
  rw [if_neg]
  rw [List.any_eq_true]
  rintro ⟨e, he, hb⟩
  split at hb
  next m hm => exact ho e he (by rw [hm, eq_of_beq hb])
  next => exact Bool.false_ne_true hb

theorem exec_barr_refused (hr : (s.barrier f.c n.toNat).armed = false ∨ (s.ctx f.c).arrivedAt f.b n.toNat = true ∨ (∃ e ∈ f.b.effs, e.eff = .barr n)) :
    exec (.barr g n) s = .next (fired s (.barr g n) f (f.fault 0x08 0x00)) := by
  rw [exec_barr, execBarr, fireNode_acts h]
  obtain ha | hn | ho := hr
  · simp only [ha, Bool.not_false, Bool.true_or, if_true]
  · simp only [hn, Bool.or_true, Bool.true_or, if_true]
  · obtain ⟨e, he, hb⟩ := ho
    have hown : f.b.effs.any (fun e => match e.eff with | .barr m => m == n | _ => false) = true := List.any_eq_true.mpr ⟨e, he, by rw [hb]; exact beq_self_eq_true n⟩
    rw [if_pos (by simp only [Bool.or_eq_true]; exact .inr hown)]

end

section
variable {g : Gate} {n : BitVec 5} {t0 : Target} {s : State} {f : Fire} (h : Acts s (.bwait g n t0) f)
include h

/-- A `bwait` that no timeout has answered goes by the arrivals of its context. -/
theorem exec_bwait_undenied (hd : ∀ d ∈ f.b.denied, d.1 ≠ f.idx) :
    exec (.bwait g n t0) s = .next (fired s (.bwait g n t0) f (if (s.ctx f.c).arrivedAt f.b n.toNat then .later else outcome true)) := by
  have hnone : f.b.denied.find? (fun d => d.1 == f.idx) = none := List.find?_eq_none.mpr fun d hm => by simpa using hd d hm
  rw [exec_bwait, execBwait, fireNode_acts h]
  simp only [hnone]
  rfl

/-- A `bwait` that a timeout has answered gives the error token (R134). -/
theorem exec_bwait_denied {c q : Nat} (hd : f.b.denied.find? (fun d => d.1 == f.idx) = some (f.idx, c, q)) :
    exec (.bwait g n t0) s = .next (fired s (.bwait g n t0) f (NodeOut.of (errorToken .control (descriptor c q 0)))) := by
  rw [exec_bwait, execBwait, fireNode_acts h]
  simp only [hd]

end

/-! ### Fences -/

/-- The fences, one for each scope. -/
def fences (g : Gate) (t0 : Target) : List Instr := [.fenceCore g t0, .fenceClus g t0, .fenceDie g t0, .fencePkg g t0, .fenceSys g t0]

theorem exec_fence {g : Gate} {t0 : Target} {i : Instr} {s : State} {f : Fire} (hi : i ∈ fences g t0) (h : Acts s i f) :
    exec i s = .next (fired s i f (if (s.ctx f.c).isOldest f.b.iid && !(s.ctx f.c).writesPending then outcome true else .later)) := by
  have node : ∀ ins, Acts s ins f → fenceNode ins s = .next (fired s ins f (if (s.ctx f.c).isOldest f.b.iid && !(s.ctx f.c).writesPending then outcome true else .later)) :=
    fun ins h => fireNode_acts h
  simp only [fences, List.mem_cons, List.not_mem_nil, or_false] at hi
  obtain rfl | rfl | rfl | rfl | rfl := hi
  · rw [exec_fenceCore]; exact node _ h
  · rw [exec_fenceClus]; exact node _ h
  · rw [exec_fenceDie]; exact node _ h
  · rw [exec_fencePkg]; exact node _ h
  · rw [exec_fenceSys]; exact node _ h

theorem Ctx.writesPending_false_iff (x : Ctx) : x.writesPending = false ↔ ∀ p ∈ x.pend, isWrite p.eff = false := by
  simp only [Ctx.writesPending, List.any_eq_false, Bool.not_eq_true]

/-- Settles O35: each of these nodes acts at once, so what it does is its checks and then the arrival, packet or token. -/
theorem redAndSyncNodes : Obligations.RedAndSyncNodes := by
  unfold Obligations.RedAndSyncNodes
  refine ⟨fun g n s f i xs hi h => ?_, fun g n s f h => ?_, fun g n s f h => ⟨exec_barr_arrives h, exec_barr_refused h⟩, fun g n t0 s f h => ?_,
    fun g t0 s f i hi h => ?_, Ctx.writesPending_false_iff⟩
  · have hx := exec_red (g := g) (n := n) hi h
    refine ⟨fun t ht hxs hl hk => ?_, fun t ht hxs hk hok hl => ?_, fun hno => ?_⟩
    · rw [hx, redOf_vector ht hxs hl hk]
    · rw [hx, redOf_handle ht hxs hk hok hl]
    · obtain hnone | ⟨t, ht, hxs⟩ := hno
      · rw [hx, redOf_noTree hnone]; rfl
      · rw [hx, redOf_otherKind ht hxs]; rfl
  · have hx : exec (.step g n) s = .next (fired s (.step g n) f (if isMember s (s.agent f.c) n.toNat then { effs := [.step n], outs := 1 } else f.fault 0x08 0x00)) := by
      rw [exec_step, execStep, fireNode_acts h]
    refine ⟨fun hm => ?_, fun hm => ?_⟩
    · rw [hx, if_pos hm]
    · rw [hx, if_neg (Bool.eq_false_iff.mp hm)]; rfl
  · refine ⟨fun hd hn => ?_, fun hd hn => ?_, fun c q hd => exec_bwait_denied h hd⟩
    · rw [exec_bwait_undenied h hd, if_neg (Bool.eq_false_iff.mp hn)]
    · rw [exec_bwait_undenied h hd, if_pos hn, fired_later]
  · have hx := exec_fence (g := g) (t0 := t0) hi h
    refine ⟨fun ho hw => ?_, fun hno => ?_⟩
    · rw [hx, ho, hw]; rfl
    · have hwait : ((s.ctx f.c).isOldest f.b.iid && !(s.ctx f.c).writesPending) = false := by obtain ho | hw := hno <;> simp [*]
      rw [hx, hwait, if_neg Bool.false_ne_true, fired_later]

end Sys2Proof.Machine

/-! The order of number bit patterns and the selection of an operand (R121, R161). -/

namespace Sys2Proof.Machine

open Sys2Proof

variable {F : FloatFmt} {n m : Nat} {e k : Int} {a b x : Nat}

/-! ### Bit patterns in the order of their magnitudes -/

/-- The bits below the sign of the number `n × 2^e`, which fits: numbers of a greater magnitude have greater ones. -/
def FloatFmt.rank (F : FloatFmt) (n : Nat) (e : Int) : Nat := (e - (F.emin - F.prec + 1)).toNat * 2 ^ (F.prec - 1) + n

theorem encodeFloat_of_fits (h : F.Fits n e) (neg : Bool) : encodeFloat F neg n e = F.sign neg + F.rank n e := by
  have hleast := h.least
  by_cases hsub : n < 2 ^ (F.prec - 1)
  · have hlast : (e - (F.emin - F.prec + 1)).toNat = 0 := by
      have := mt h.normal (Nat.not_le.mpr hsub)
      omega
    rw [encodeFloat_subnormal neg hsub, FloatFmt.rank, hlast, Nat.zero_mul, Nat.zero_add]
  · obtain ⟨j, rfl⟩ := Nat.exists_eq_add_of_le (Nat.not_lt.mp hsub)
    have hj : j < 2 ^ (F.prec - 1) := by
      have := h.lt
      rw [F.two_pow_prec] at this
      omega
    have hex : e = (((e - (F.emin - F.prec + 1)).toNat + 1 : Nat) : Int) - F.bias - (F.prec - 1 : Nat) := by
      have hlast : F.emin - F.prec + 1 = 1 - F.bias - (F.prec - 1 : Nat) := by cases F <;> rfl
      omega
    rw [hex, encodeFloat_normal neg hj, ← hex, FloatFmt.rank, Nat.add_mul, Nat.one_mul]
    omega

theorem FloatFmt.rank_le_maxBits (h : F.Fits n e) : F.rank n e ≤ F.maxBits := by
  obtain ⟨-, hlt, hleast, -, hmost, hlargest⟩ := h
  rw [rank]
  cases F <;> simp only [emin, emax, bias, prec, maxBits, maxSig, Nat.reducePow, Nat.reduceSub] at hlt hleast hmost hlargest ⊢ <;> omega

theorem FloatFmt.maxBits_lt (F : FloatFmt) : F.maxBits < 2 ^ (F.bits - 1) := by cases F <;> decide

theorem FloatFmt.maxBits_lt_infBits (h : F.hasInf = true) : F.maxBits < F.infBits := by cases F <;> revert h <;> decide

theorem FloatFmt.infBits_lt (F : FloatFmt) : F.infBits < 2 ^ (F.bits - 1) := by cases F <;> decide

theorem FloatFmt.rank_lt_two_pow (h : F.Fits n e) : F.rank n e < 2 ^ (F.bits - 1) := Nat.lt_of_le_of_lt (rank_le_maxBits h) F.maxBits_lt

/-- Of two numbers of one format the greater has the greater bits. -/
theorem FloatFmt.rank_lt_rank (hn : F.Fits n e) (hm : F.Fits m k) (h : n * 2 ^ (e - min e k).toNat < m * 2 ^ (k - min e k).toNat) : F.rank n e < F.rank m k := by
  have hnlt := hn.lt
  have hmlt := hm.lt
  rw [F.two_pow_prec] at hnlt hmlt
  have hle := hn.least
  have hlk := hm.least
  rw [rank, rank]
  rcases Int.lt_trichotomy e k with hek | rfl | hek
  · have hnormal := hm.normal (Int.lt_of_le_of_lt hle hek)
    have hstep : (e - (F.emin - F.prec + 1)).toNat * 2 ^ (F.prec - 1) + 2 ^ (F.prec - 1) ≤ (k - (F.emin - F.prec + 1)).toNat * 2 ^ (F.prec - 1) := by
      rw [← Nat.succ_mul]
      exact Nat.mul_le_mul_right _ (by omega)
    omega
  · simp only [Int.min_self, Int.sub_self, Int.toNat_zero, Nat.pow_zero, Nat.mul_one] at h
    omega
  · have hnormal := hn.normal (Int.lt_of_le_of_lt hlk hek)
    rw [Int.min_eq_right (Int.le_of_lt hek), Int.sub_self, Int.toNat_zero, Nat.pow_zero, Nat.mul_one] at h
    have htwice : n * 2 ≤ n * 2 ^ (e - k).toNat := Nat.mul_le_mul_left _ (Nat.le_self_pow (by omega) 2)
    omega

/-! ### The key of a value -/

/-- A sign and a magnitude in the order of numbers, with −0 below +0. -/
def signedKey (neg : Bool) (m : Nat) : Int := if neg then -(m : Int) - 1 else m

theorem numKey_signed (neg : Bool) (h : m < 2 ^ (F.bits - 1)) : numKey F (F.sign neg + m) = signedKey neg m := by
  unfold numKey signedKey FloatFmt.sign
  cases neg
  · simp [Nat.div_eq_of_lt h, Nat.mod_eq_of_lt h]
  · have hdiv : (2 ^ (F.bits - 1) + m) / 2 ^ (F.bits - 1) = 1 := by
      rw [Nat.add_div_left _ (Nat.two_pow_pos _), Nat.div_eq_of_lt h]
    simp [hdiv, Nat.mod_eq_of_lt h]

/-- What an element that is no NaN stands for. -/
inductive FloatFmt.Stands (F : FloatFmt) : Ext → Prop where
  | zero (neg : Bool) : F.Stands (.zero neg)
  | inf (neg : Bool) (h : F.hasInf = true) : F.Stands (.inf neg)
  | fin (neg : Bool) {n : Nat} {e : Int} (h : F.Fits n e) : F.Stands (.fin neg n e false)

/-- The place of a value in the order of numbers, with −0 below +0. -/
def FloatFmt.key (F : FloatFmt) : Ext → Int
  | .nan _ => 0
  | .zero neg => signedKey neg 0
  | .inf neg => signedKey neg F.infBits
  | .fin neg n e _ => signedKey neg (F.rank n e)

/-- The model's order of bit patterns goes by what they stand for. -/
theorem FloatFmt.stands_read (hx : x < 2 ^ F.bits) (hnan : (F.read x).isNan = false) : F.Stands (F.read x) ∧ numKey F x = F.key (F.read x) := by
  obtain ⟨neg, hr, hb⟩ | ⟨neg, hr, hinf, hb⟩ | ⟨neg, n, e, hr, hfit, hb⟩ := F.read_cases hx hnan
  · rw [hr, ← hb]
    exact ⟨.zero neg, numKey_signed neg (m := 0) (Nat.two_pow_pos _)⟩
  · rw [hr, ← hb]
    exact ⟨.inf neg hinf, numKey_signed neg F.infBits_lt⟩
  · rw [hr, ← hb, encodeFloat_of_fits hfit]
    exact ⟨.fin neg hfit, numKey_signed neg (rank_lt_two_pow hfit)⟩

theorem signedKey_true (m : Nat) : signedKey true m = -(m : Int) - 1 := rfl

theorem signedKey_false (m : Nat) : signedKey false m = m := rfl

/-- Two numbers in the order of numbers have keys in that order. -/
theorem FloatFmt.key_lt_fin {p q : Bool} (hn : F.Fits n e) (hm : F.Fits m k) (h : (Ext.fin p n e false).lt (.fin q m k false) = true) :
    signedKey p (F.rank n e) < signedKey q (F.rank m k) := by
  have hlt : (Ext.fin p n e false).scaled (min e k) < (Ext.fin q m k false).scaled (min e k) := of_decide_eq_true h
  rw [scaled_fin, scaled_fin] at hlt
  cases p <;> cases q <;> simp only [Bool.false_eq_true, if_true, if_false] at hlt
  case false.false =>
    have := rank_lt_rank hn hm (by omega)
    rw [signedKey_false, signedKey_false]; omega
  case false.true => omega
  case true.false => rw [signedKey_true, signedKey_false]; omega
  case true.true =>
    have := rank_lt_rank hm hn (by rw [Int.min_comm]; omega)
    rw [signedKey_true, signedKey_true]; omega

/-- Values in the order of numbers have keys in that order. -/
theorem FloatFmt.key_lt {v w : Ext} (hv : F.Stands v) (hw : F.Stands w) (h : v.lt w = true) : F.key v < F.key w := by
  have hbelow : ∀ {n e}, F.Fits n e → F.hasInf = true → F.rank n e < F.infBits := fun hfit hinf => Nat.lt_of_le_of_lt (rank_le_maxBits hfit) (maxBits_lt_infBits hinf)
  have hpos : ∀ {n e}, F.Fits n e → 0 < F.rank n e := fun hfit => Nat.add_pos_right _ hfit.pos
  have hinfPos : 0 < F.infBits := by cases F <;> decide
  cases hv with
  | zero p =>
    cases hw with
    | zero q =>
      have hlt : (0 : Int) < 0 := of_decide_eq_true h
      exact absurd hlt (Int.lt_irrefl 0)
    | inf q hinf =>
      obtain rfl : q = false := by simpa [Ext.lt] using h
      cases p <;> simp only [key, signedKey_true, signedKey_false] <;> omega
    | @fin q m k hm =>
      have hlt : 0 < (Ext.fin q m k false).scaled k := of_decide_eq_true h
      have := hpos hm
      rw [scaled_fin] at hlt
      cases q
      · cases p <;> simp only [key, signedKey_true, signedKey_false] <;> omega
      · simp only [if_true] at hlt; omega
  | inf p hinf =>
    cases hw with
    | zero q =>
      obtain rfl : p = true := h
      cases q <;> simp only [key, signedKey_true, signedKey_false] <;> omega
    | inf q _ =>
      obtain ⟨rfl, rfl⟩ : p = true ∧ q = false := by simpa [Ext.lt] using h
      simp only [key, signedKey_true, signedKey_false]; omega
    | fin q hm =>
      have := hbelow hm hinf
      obtain rfl : p = true := h
      cases q <;> simp only [key, signedKey_true, signedKey_false] <;> omega
  | @fin p n e hn =>
    cases hw with
    | zero q =>
      have hlt : (Ext.fin p n e false).scaled e < 0 := of_decide_eq_true h
      have := hpos hn
      rw [scaled_fin] at hlt
      cases p
      · simp only [Bool.false_eq_true, if_false] at hlt; omega
      · cases q <;> simp only [key, signedKey_true, signedKey_false] <;> omega
    | inf q hinf =>
      have := hbelow hn hinf
      obtain rfl : q = false := by simpa [Ext.lt] using h
      cases p <;> simp only [key, signedKey_true, signedKey_false] <;> omega
    | fin q hm => exact key_lt_fin hn hm h

theorem Ext.not_nan_of_lt {v w : Ext} (h : v.lt w = true) : v.isNan = false ∧ w.isNan = false := by
  unfold Ext.lt at h
  cases v <;> cases w <;> simp_all [Ext.isNan]

theorem numKey_lt (ha : a < 2 ^ F.bits) (hb : b < 2 ^ F.bits) (h : (F.read a).lt (F.read b) = true) : numKey F a < numKey F b := by
  obtain ⟨hna, hnb⟩ := Ext.not_nan_of_lt h
  obtain ⟨hsa, hka⟩ := F.stands_read ha hna
  obtain ⟨hsb, hkb⟩ := F.stands_read hb hnb
  rw [hka, hkb]
  exact F.key_lt hsa hsb h

/-! ### Selection -/

theorem fsel_flags (F : FloatFmt) (mx : Bool) (a b : Nat) : (fsel F mx a b).2 = if (F.read a).isSignalling || (F.read b).isSignalling then flagNV else 0 := by
  simp only [fsel, raiseIf, apply_ite Prod.snd, ite_self]

theorem fsel_numbers (mx : Bool) (ha : (F.read a).isNan = false) (hb : (F.read b).isNan = false) :
    (fsel F mx a b).1 = if mx then (if numKey F a < numKey F b then b else a) else (if numKey F b < numKey F a then b else a) := by
  unfold fsel
  cases mx <;> simp [ha, hb]

/-- The selection of two numbers whose bit patterns the model orders. -/
theorem fsel_ordered (ha : (F.read a).isNan = false) (hb : (F.read b).isNan = false) (h : numKey F a < numKey F b) :
    (fsel F true a b).1 = b ∧ (fsel F false a b).1 = a ∧ (fsel F true b a).1 = b ∧ (fsel F false b a).1 = a := by
  have hnot : ¬ numKey F b < numKey F a := by omega
  simp [fsel_numbers, ha, hb, h, hnot]

theorem fsel_same (mx : Bool) (ha : (F.read a).isNan = false) : (fsel F mx a a).1 = a := by
  simp only [fsel_numbers mx ha ha, ite_self]

/-- Settles O38: selection goes by the order of bit patterns, which is that of the numbers they stand for. -/
theorem selectionRules : Obligations.SelectionRules := by
  unfold Obligations.SelectionRules
  intro F a b ha hb mx
  refine ⟨fun hna hnb => ?_, fun hnb hna => ?_, fun hna hnb => ?_, fsel_flags F mx a b, fun hab hna => hab ▸ fsel_same mx hna, fun h => ?_, fun hza hzb => ?_⟩
  · simp [fsel, hna, hnb]
  · simp [fsel, hna, hnb]
  · simp [fsel, hna, hnb]
  · obtain ⟨hna, hnb⟩ := Ext.not_nan_of_lt h
    exact fsel_ordered hna hnb (numKey_lt ha hb h)
  · have hna : (F.read a).isNan = false := by rw [hza]; rfl
    have hnb : (F.read b).isNan = false := by rw [hzb]; rfl
    refine fsel_ordered hna hnb ?_
    rw [(F.stands_read ha hna).2, (F.stands_read hb hnb).2, hza, hzb]
    exact (by decide : signedKey true 0 < signedKey false 0)

end Sys2Proof.Machine

/-! Combining arrivals (R125), and the bits of a rounded result (R144, R145). -/

namespace Sys2Proof.Machine

open Sys2Proof

variable {F : FloatFmt} {n m : Nat} {e q : Int} {h x : Nat}

/-! ### A rounded result is within its format -/

/-- Rounding at a unit that leaves `p` bits gives no more than `2^p`. -/
theorem intRound_le {p : Nat} {sh : Int} (hsh : (Nat.log2 m : Int) + 1 ≤ sh + p) (rm : Rm) (neg st : Bool) : (intRound rm neg m sh st).1 ≤ 2 ^ p := by
  have hlt : (if 0 ≤ sh then m / 2 ^ sh.toNat else m * 2 ^ (-sh).toNat) < 2 ^ p := by
    split
    case isTrue hpos =>
      refine Nat.div_lt_of_lt_mul (Nat.lt_of_lt_of_le Nat.lt_log2_self ?_)
      rw [← Nat.pow_add]
      exact Nat.pow_le_pow_right Nat.two_pos (by omega)
    case isFalse hneg =>
      calc m * 2 ^ (-sh).toNat < 2 ^ (Nat.log2 m + 1) * 2 ^ (-sh).toNat := Nat.mul_lt_mul_of_pos_right Nat.lt_log2_self (Nat.two_pow_pos _)
        _ = 2 ^ (Nat.log2 m + 1 + (-sh).toNat) := (Nat.pow_add ..).symm
        _ ≤ 2 ^ p := Nat.pow_le_pow_right Nat.two_pos (by omega)
  unfold intRound
  dsimp only
  have step : ∀ {k : Nat} (up : Bool), k < 2 ^ p → (if up then k + 1 else k) ≤ 2 ^ p := fun up hk => by cases up <;> simp <;> omega
  exact step _ hlt

theorem FloatFmt.sign_add_lt (neg : Bool) (h : m < 2 ^ (F.bits - 1)) : F.sign neg + m < 2 ^ F.bits := by
  have htwice : 2 ^ F.bits = 2 * 2 ^ (F.bits - 1) := by cases F <;> rfl
  have hsign : F.sign neg ≤ 2 ^ (F.bits - 1) := by cases neg <;> simp [sign]
  omega

/-- A magnitude of at most `2^p` units, no more than the largest finite number, is encoded within its format. -/
theorem encodeFloat_lt (neg : Bool) (hn : n ≤ 2 ^ F.prec) (hq : q ≤ F.emax - F.prec + 1) (hmax : q = F.emax - F.prec + 1 → n ≤ F.maxSig) : encodeFloat F neg n q < 2 ^ F.bits := by
  have hmag : ∃ k, encodeFloat F neg n q = F.sign neg + k ∧ k < 2 ^ (F.bits - 1) := by
    unfold encodeFloat
    by_cases htop : n = 2 ^ F.prec
    · have hhid : ¬ n / 2 < 2 ^ (F.prec - 1) := by rw [htop, F.two_pow_prec]; omega
      simp only [if_pos htop, if_neg hhid, Nat.add_assoc]
      refine ⟨_, rfl, ?_⟩
      subst htop
      cases F <;> simp only [FloatFmt.emax, FloatFmt.bias, FloatFmt.prec, FloatFmt.bits, FloatFmt.maxSig, Nat.reducePow, Nat.reduceSub] at hq hmax ⊢ <;> omega
    · by_cases hhid : n < 2 ^ (F.prec - 1)
      · simp only [if_neg htop, if_pos hhid]
        exact ⟨n, rfl, Nat.lt_of_lt_of_le hhid (Nat.pow_le_pow_right Nat.two_pos (by cases F <;> decide))⟩
      · simp only [if_neg htop, if_neg hhid, Nat.add_assoc]
        refine ⟨_, rfl, ?_⟩
        cases F <;> simp only [FloatFmt.emax, FloatFmt.bias, FloatFmt.prec, FloatFmt.bits, FloatFmt.maxSig, Nat.reducePow, Nat.reduceSub] at hn htop hq hmax ⊢ <;> omega
  obtain ⟨k, hk, hlt⟩ := hmag
  rw [hk]
  exact FloatFmt.sign_add_lt neg hlt

theorem FloatFmt.nan_lt (F : FloatFmt) : F.nan < 2 ^ F.bits := by cases F <;> decide

theorem overflowed_default_lt (F : FloatFmt) (neg : Bool) (rm : Rm) : (overflowed F neg rm .default).bits < 2 ^ F.bits := by
  have hmax := FloatFmt.sign_add_lt (F := F) neg F.maxBits_lt
  have hinf := FloatFmt.sign_add_lt (F := F) neg F.infBits_lt
  have hnan := F.nan_lt
  unfold overflowed
  dsimp only
  split_ifs <;> assumption

theorem infinite_default_lt (F : FloatFmt) (neg : Bool) : (infinite F neg .default).bits < 2 ^ F.bits := by
  have hinf := FloatFmt.sign_add_lt (F := F) neg F.infBits_lt
  have hnan := F.nan_lt
  unfold infinite
  rw [if_neg (by decide)]
  split <;> assumption

/-- A rounded result has the bits of its format. -/
theorem rnd_default_lt (F : FloatFmt) (rm : Rm) (v : Ext) : (rnd F rm .default v).bits < 2 ^ F.bits := by
  cases v with
  | nan sg => exact F.nan_lt
  | inf neg => exact infinite_default_lt F neg
  | zero neg => exact FloatFmt.sign_add_lt neg (m := 0) (Nat.two_pow_pos _)
  | fin neg m e st =>
    unfold rnd
    dsimp only
    have hn := intRound_le (m := m) (p := F.prec) (sh := max (e + (Nat.log2 m : Nat)) F.emin - (F.prec : Int) + 1 - e) (by omega) rm neg st
    generalize max (e + (Nat.log2 m : Nat)) F.emin - (F.prec : Int) + 1 = q at hn ⊢
    split
    case isTrue => exact overflowed_default_lt F neg rm
    case isFalse hfits =>
      obtain ⟨hq, hmax⟩ := not_or.mp hfits
      refine encodeFloat_lt neg hn (Int.not_lt.mp hq) fun htop => ?_
      subst htop
      simpa using hmax

theorem fsel_lt (mx : Bool) (hh : h < 2 ^ F.bits) (hx : x < 2 ^ F.bits) : (fsel F mx h x).1 < 2 ^ F.bits := by
  have hnan := F.nan_lt
  unfold fsel
  dsimp only
  split_ifs <;> assumption

/-! ### Lanes -/

/-- A lane of a combination has 32 bits. -/
theorem combLane_lt (op : CombOp) (hh : h < 2 ^ 32) (hx : x < 2 ^ 32) : (combLane op 32 h x).1 < 2 ^ 32 := by
  have select : ∀ (p : Prop) [Decidable p], (if p then h else x) < 2 ^ 32 := fun p _ => by split <;> assumption
  cases op with
  | add => exact Nat.mod_lt _ (Nat.two_pow_pos 32)
  | min => exact select _
  | max => exact select _
  | minn => exact select _
  | maxn => exact select _
  | and => exact Nat.and_lt_two_pow h hx
  | or => exact Nat.or_lt_two_pow hh hx
  | xor => exact Nat.xor_lt_two_pow hh hx
  | fadd => exact rnd_default_lt .f32 .rne _
  | fmin => exact fsel_lt (F := .f32) false hh hx
  | fmax => exact fsel_lt (F := .f32) true hh hx

/-- The lanes of two vectors combined. -/
def combLanes (op : CombOp) (h t : Token) : List (Nat × FlagSet) :=
  (List.range 16).map (fun j => combLane op 32 (elemAt 32 h.data j) (elemAt 32 t.data j))

/-- The vector of the lanes combined, and the flags of all. -/
def combVector (op : CombOp) (h t : Token) : Payload × FlagSet :=
  (BitVec.ofNat 512 ((combLanes op h t).foldr (fun l n => l.1 + 2 ^ 32 * n) 0), (combLanes op h t).foldl (fun f l => f ||| l.2) 0)

theorem elemAt_combVector (op : CombOp) (h t : Token) {j : Nat} (hj : j < 16) :
    elemAt 32 (combVector op h t).1 j = (combLane op 32 (elemAt 32 h.data j) (elemAt 32 t.data j)).1 % 2 ^ 32 := by
  have hpack : (combVector op h t).1 = packElems 32 ((List.range 16).map (fun j => (combLane op 32 (elemAt 32 h.data j) (elemAt 32 t.data j)).1)) := by
    rw [combVector, combLanes, List.foldr_map]
    exact ofNat_foldr_eq_packElems (fun j => combLane_lt op (elemAt_lt 32 h.data j) (elemAt_lt 32 t.data j)) (List.range 16)
  rw [hpack, elemAt_packElems_range (by decide) _ hj]

/-! ### Combining two tokens -/

theorem combOf_mismatch (op : CombOp) (v : Bool) {h t : Token} (hs : h.s ≠ t.s) : combOf op v (some h) t = .error (0x06, 0x00) := if_pos hs

theorem combOf_vector (op : CombOp) {h t : Token} (hs : h.s = t.s) :
    combOf op true (some h) t = .ok (⟨.vector, (combVector op h t).1, h.s, false, false⟩, (combVector op h t).2) := if_neg (not_not.mpr hs)

theorem combOf_integer (op : CombOp) {h t : Token} (hs : h.s = t.s) (hf : op.isFloat = false) : combOf op false (some h) t
    = .ok (scalar (BitVec.ofNat 64 (combLane op 64 h.word.toNat t.word.toNat).1) h.s, (combLane op 64 h.word.toNat t.word.toNat).2) := by
  simp only [combOf, if_neg (not_not.mpr hs), hf, Bool.false_eq_true, if_false, Nat.mod_eq_of_lt h.word.isLt, Nat.mod_eq_of_lt t.word.isLt]

theorem combOf_float (op : CombOp) {h t : Token} (hs : h.s = t.s) (hf : op.isFloat = true) : combOf op false (some h) t
    = .ok (scalar (BitVec.ofNat 64 (combLane op 32 (h.word.toNat % 2 ^ 32) (t.word.toNat % 2 ^ 32)).1) h.s, (combLane op 32 (h.word.toNat % 2 ^ 32) (t.word.toNat % 2 ^ 32)).2) := by
  simp only [combOf, if_neg (not_not.mpr hs), hf, Bool.false_eq_true, if_false, if_true]

/-- The operations on integers, each with what it makes of two words. -/
def integerCombs : List (CombOp × (Word64 → Word64 → Word64)) :=
  [(.add, fun a b => a + b), (.min, fun a b => if a.sle b then a else b), (.max, fun a b => if b.sle a then a else b), (.minn, fun a b => if a.ule b then a else b),
    (.maxn, fun a b => if b.ule a then a else b), (.and, fun a b => a &&& b), (.or, fun a b => a ||| b), (.xor, fun a b => a ^^^ b)]

/-- A scalar integer operation is that of the words. -/
theorem combLane_integer {op : CombOp} {f : Word64 → Word64 → Word64} (hop : (op, f) ∈ integerCombs) (a b : Word64) :
    op.isFloat = false ∧ BitVec.ofNat 64 (combLane op 64 a.toNat b.toNat).1 = f a b ∧ (combLane op 64 a.toNat b.toNat).2 = 0 := by
  have select : ∀ (p : Prop) [Decidable p] (c : Bool), (p ↔ c = true) → BitVec.ofNat 64 (if p then a.toNat else b.toNat) = if c then a else b := fun p _ c hp => by
    rw [← apply_ite BitVec.toNat, BitVec.ofNat_toNat, BitVec.setWidth_eq]
    simp only [hp]
  simp only [integerCombs, List.mem_cons, Prod.mk.injEq, List.not_mem_nil, or_false] at hop
  obtain ⟨rfl, rfl⟩ | ⟨rfl, rfl⟩ | ⟨rfl, rfl⟩ | ⟨rfl, rfl⟩ | ⟨rfl, rfl⟩ | ⟨rfl, rfl⟩ | ⟨rfl, rfl⟩ | ⟨rfl, rfl⟩ := hop
  · exact ⟨rfl, BitVec.eq_of_toNat_eq (by simp [combLane]), rfl⟩
  · exact ⟨rfl, select _ _ (by rw [signedOf_le_iff (by decide)]; simp only [BitVec.ofNat_toNat, BitVec.setWidth_eq]), rfl⟩
  · refine ⟨rfl, select _ _ (by rw [signedOf_le_iff (by decide)]; simp only [BitVec.ofNat_toNat, BitVec.setWidth_eq]), rfl⟩
  · exact ⟨rfl, select _ _ (by rw [BitVec.ule_eq_decide, decide_eq_true_iff]), rfl⟩
  · exact ⟨rfl, select _ _ (by rw [BitVec.ule_eq_decide, decide_eq_true_iff]), rfl⟩
  · exact ⟨rfl, BitVec.eq_of_toNat_eq (by simp [combLane]), rfl⟩
  · exact ⟨rfl, BitVec.eq_of_toNat_eq (by simp [combLane]), rfl⟩
  · exact ⟨rfl, BitVec.eq_of_toNat_eq (by simp [combLane]), rfl⟩

/-! ### The nodes -/

/-- `comb` as an instruction of its operation. -/
def CombOp.instr (op : CombOp) (g : Gate) (v : Bool) (n : BitVec 7) (t0 : Target) : Instr :=
  match op with
  | .add => .combAdd g v n t0
  | .min => .combMin g v n t0
  | .max => .combMax g v n t0
  | .minn => .combMinn g v n t0
  | .maxn => .combMaxn g v n t0
  | .and => .combAnd g v n t0
  | .or => .combOr g v n t0
  | .xor => .combXor g v n t0
  | .fadd => .combFadd g v n t0
  | .fmin => .combFmin g v n t0
  | .fmax => .combFmax g v n t0

section
variable (op : CombOp) (g : Gate) (v : Bool) (n : BitVec 7) (t0 : Target)

theorem exec_comb (s : State) : exec (op.instr g v n t0) s = countNode (op.instr g v n t0) (combOf op v) s := by cases op <;> rfl

theorem counts_integer {f : Word64 → Word64 → Word64} (hop : (op, f) ∈ integerCombs) : Counts (op.instr g false n t0) (fun h t => h.s = t.s) (fun h t => (match h with
    | none => t
    | some h => ⟨.scalar, (f h.word t.word).setWidth 512, h.s, false, false⟩, 0)) := by
  refine counts_of_combine (exec_comb op g false n t0) fun h t hs => ?_
  cases h with
  | none => rw [combOf, (combLane_integer hop 0 0).1]; rfl
  | some h =>
    obtain ⟨hf, hv, hfl⟩ := combLane_integer hop h.word t.word
    rw [combOf_integer op (hs h rfl) hf, hv, hfl]
    rfl

theorem counts_float (hf : op.isFloat = true) : Counts (op.instr g false n t0) (fun h t => h.s = t.s) (fun h t => match h with
    | none => (scalar (t.word &&& 0xFFFFFFFF) t.s, 0)
    | some h => (scalar (BitVec.ofNat 64 (combLane op 32 (h.word.toNat % 2 ^ 32) (t.word.toNat % 2 ^ 32)).1) h.s,
        (combLane op 32 (h.word.toNat % 2 ^ 32) (t.word.toNat % 2 ^ 32)).2)) := by
  refine counts_of_combine (exec_comb op g false n t0) fun h t hs => ?_
  cases h with
  | none => rw [combOf, hf]; rfl
  | some h => exact combOf_float op (hs h rfl) hf

theorem counts_vector : Counts (op.instr g true n t0) (fun h t => h.s = t.s) (fun h t => match h with
    | none => (t, 0)
    | some h => (⟨.vector, (combVector op h t).1, h.s, false, false⟩, (combVector op h t).2)) := by
  refine counts_of_combine (exec_comb op g true n t0) fun h t hs => ?_
  cases h with
  | none => rw [combOf, Bool.not_true, Bool.and_false]; rfl
  | some h => exact combOf_vector op (hs h rfl)

end

/-- Settles O21: `comb` is a counting node that combines by lanes, which have the bits of their width. -/
theorem combCombines : Obligations.CombCombines := by
  unfold Obligations.CombCombines
  intro g n t0
  refine ⟨fun e he => ?_, fun e he => ?_, fun e he => ?_, fun h x hh hx => ⟨rfl, rfl, ?_, ?_⟩, fun v s f t h ha hk hs => ?_⟩
  · have integer : ∀ op f, (op, f) ∈ integerCombs → _ := fun op f => counts_integer (f := f) op g n t0
    simp only [List.mem_cons, List.not_mem_nil, or_false] at he
    obtain rfl | rfl | rfl | rfl | rfl | rfl | rfl | rfl := he
    · exact integer .add _ (by simp [integerCombs])
    · exact integer .min _ (by simp [integerCombs])
    · exact integer .max _ (by simp [integerCombs])
    · exact integer .minn _ (by simp [integerCombs])
    · exact integer .maxn _ (by simp [integerCombs])
    · exact integer .and _ (by simp [integerCombs])
    · exact integer .or _ (by simp [integerCombs])
    · exact integer .xor _ (by simp [integerCombs])
  · have float : ∀ op : CombOp, op.isFloat = true → _ := fun op => counts_float op g n t0
    simp only [List.mem_cons, List.not_mem_nil, or_false] at he
    obtain rfl | rfl | rfl := he
    · exact float .fadd rfl
    · exact float .fmin rfl
    · exact float .fmax rfl
  · have hop : e.1 = CombOp.instr e.2 g true n t0 := by
      simp only [List.mem_cons, List.not_mem_nil, or_false] at he
      obtain rfl | rfl | rfl | rfl | rfl | rfl | rfl | rfl | rfl | rfl | rfl := he <;> rfl
    rw [hop]
    exact ⟨combVector e.2, counts_vector e.2 g n t0, fun h t j hj => elemAt_combVector e.2 h t hj⟩
  · rw [combLane, Nat.min_def]
  · rw [combLane, Nat.max_comm, Nat.max_def]
  · obtain ⟨hf, ht, he, hn, hkind, hg, -⟩ := ha
    rw [exec_combAdd, execCombAdd, countNode_passes hf ht he hg, hn, hkind, hk, combOf_mismatch .add v hs]
    have hdone : ((f.b.counting f.idx).seen + 1 == (shape (.combAdd g v n t0)).count) = ((f.b.counting f.idx).seen == n.toNat) := by
      rw [show (shape (.combAdd g v n t0)).count = n.toNat + 1 from rfl, Bool.eq_iff_iff, beq_iff_eq, beq_iff_eq, Nat.add_right_cancel_iff]
    rw [hdone]
    rfl

end Sys2Proof.Machine

/-! The reservation of a log record by an agent of no core (R233). -/

namespace Sys2Proof.Machine

open Sys2Proof

/-- Queue group 0 maps the first GiB of main onto itself, and the log whose descriptor stands at 0x2000 has room for one record of 32 bytes. -/
def emptyLog : State :=
  { State.reset with
    dcb := [(dcbKey 0 0x080000, 1)]
    mem := [(mainKey 0, 0x01), (mainKey 1, 0x10), (mainKey 0x1000, 0x0D), (mainKey 0x1001, 0x0E), (mainKey 0x2018, 1), (mainKey 0x201C, 32)] }

/-- A party whose core number is 2^18, past every core: the keys of its core store are those of main memory. -/
def pastEveryCore : Agent := ⟨640, 2 ^ 18, 0, 0, 0, 0, 0⟩

/-- A HIDDEN image whose vector is one FP32 element at 0x2010 of the core store. -/
def countAsVector : BitVec 1024 := softImage 3 0 0 0 0 (hiddenPayload (BitVec.ofNat 64 (0x2010 + 2 ^ 32)) 0 0 0)

theorem emptyLog_regular : Regular emptyLog = true := by decide +kernel

theorem emptyLog_passes : fireCheck emptyLog pastEveryCore .main 0x2000 64 true .atomic = none := by decide +kernel

/-- The run that has found the descriptor. -/
def emptyLogFound : Run emptyLog := ((Run.start emptyLog).locate pastEveryCore .main 0x2000 .rw).1

theorem emptyLog_located : (Run.start emptyLog).locate pastEveryCore .main 0x2000 .rw = (emptyLogFound, .key (mainKey 0x2000)) :=
  Prod.ext rfl (by decide +kernel)

theorem emptyLog_clean : emptyLogFound.st.poisonAt (mainKey 0x2000) 64 = none := by decide +kernel

/-- COUNT and USED are 0, CAPREC is 1, and CAP is the length of the record. -/
theorem emptyLog_hasRoom : let d := emptyLogFound.st.bytes (mainKey 0x2000) 64
    fieldAt d 16 4 < fieldAt d 24 4 ∧ fieldAt d 20 4 + (recordBytes countAsVector (64 : Word64).toNat false).length ≤ fieldAt d 28 4 := by decide +kernel

/-- The vector that the reservation copies is COUNT itself: 0 where the model takes the copy, before COUNT moves on, and 1 after it has. -/
theorem emptyLog_copiesOldCount : let o := (Run.start emptyLog).reserveRecord pastEveryCore 0x2000 64 countAsVector false false
    let d := emptyLogFound.st.bytes (mainKey 0x2000) 64
    o.2 ≠ appendWrites o.1.st pastEveryCore d (fieldAt d 16 4) (fieldAt d 20 4) 64 countAsVector (recordBytes countAsVector (64 : Word64).toNat false) := by decide +kernel

/-- Refutes O56: its clause of the append takes the bytes of the copied vector from the state after COUNT and USED have moved on, while the model takes them from the state before. The two
agree for every core of the pod, whose store is apart from main memory; but the clause ranges over every party, and for one with core number 2^18 the vector may be COUNT itself, which
the model copies as 0 and the clause as 1. (No context has such a core.) -/
theorem not_synchronisationEvents : ¬ Obligations.SynchronisationEvents := by
  unfold Obligations.SynchronisationEvents
  intro h
  obtain ⟨-, -, -, hreserve, -⟩ := h
  obtain ⟨hcount, hused⟩ := emptyLog_hasRoom
  obtain ⟨r, hr, -⟩ := hreserve emptyLog pastEveryCore 0x2000 (mainKey 0x2000) 64 countAsVector false emptyLogFound emptyLog_regular emptyLog_passes emptyLog_located emptyLog_clean
    hcount hused
  refine emptyLog_copiesOldCount ?_
  rw [hr]

end Sys2Proof.Machine
